-- ==== Sys2Proof/Word.lean ====
section
/-!
DEFINITION. The word types of the machine (R2): a byte, a scalar quad, a vector row of 2048 bits, a lane
mask of 256 bits and a 32-bit instruction word.
-/
namespace Sys2Proof

/-- A byte of 8 bits (R2). -/
abbrev Byte := BitVec 8
/-- A quad: the width of a scalar register, of the PC and of an address (R2, R102). -/
abbrev Word := BitVec 64
/-- One instruction word (R72). -/
abbrev IWord := BitVec 32
/-- The bits of a vector row (R17). -/
abbrev Row := BitVec 2048
/-- A lane mask (R20). -/
abbrev Mask := BitVec 256

end Sys2Proof
end

