-- ==== Sys2Proof/Syntax.lean ====
section
/-!
DEFINITION. The steps of the machine as syntax: `Instr` has one constructor per row of
spec/opcode_table.json. An instruction carries the fields its words hold (R74, R77); an event or a firmware
command carries what it acts on.
-/
namespace Sys2Proof

/-- The length field LEN of an instruction (R72): base form, base form with a 64-bit literal, extended
form, extended form with a 64-bit literal. -/
inductive Form where
  | base
  | baseLit
  | ext
  | extLit
  deriving DecidableEq, Repr

/-- A guard operand: the guard's index and the negate bit (R77, R79). -/
structure GuardSel where
  neg : Bool
  idx : BitVec 3
  deriving DecidableEq, Repr

/-- The fields of an instruction's words (R74, R77). `fn` holds FN where the major does not use FN to
choose the mnemonic (a condition, a function, a scale, or a field that must be zero) and 0 elsewhere.
`a` to `e` are the operand fields, a base field being extended with zeros. `imm` holds the immediate,
displacement or offset field as it stands in the word, and `lit` the literal, 0 when the form has none.
`rsv` is bit 0 of word 2. A base form has every field it does not carry at 0 (R75). -/
structure Fields where
  form  : Form
  fn    : BitVec 4
  a     : BitVec 8
  b     : BitVec 8
  c     : BitVec 8
  d     : BitVec 8
  e     : BitVec 8
  imm   : BitVec 22
  lit   : BitVec 64
  ga    : GuardSel
  gb    : GuardSel
  rm    : BitVec 2
  sat   : Bool
  ty    : BitVec 5
  hint  : BitVec 3
  ord   : BitVec 3
  scope : BitVec 3
  etag  : BitVec 4
  lmask : BitVec 3
  pz    : Bool
  rsv   : Bool
  deriving DecidableEq, Repr

/-- The three core kinds (R14), in the order of their kind codes. -/
inductive CoreKind where
  | x
  | f
  | k
  deriving DecidableEq, Repr

/-- The extensions (R88). -/
inductive Ext where
  | base
  | xfer
  | vec
  | conv
  | mat
  | ssm
  deriving DecidableEq, Repr

/-- The partitions of a core's storage (R17). -/
inductive Part where
  | p16
  | p8
  | p4
  deriving DecidableEq, Repr

/-- The mark a return of weight carries (R214, R293). -/
inductive Mark where
  | none
  | fault
  | cancel
  deriving DecidableEq, Repr

/-- A launch of a job, by handle (R314). -/
structure LaunchId where
  job    : Nat
  handle : Nat
  deriving DecidableEq, Repr

/-- A phase of a job, by the handle of the launch that opened it (R314). -/
structure PhaseId where
  job    : Nat
  handle : Nat
  deriving DecidableEq, Repr

/-- A return of weight on its way to the root of its phase (R214, R294). `unit` is the returning unit's serial number, 0 for
none: the writes it had issued by then, by store buffer entries and by operations numbered below `upto`, are performed first
(R269, R274). -/
structure WeightReturn where
  phase : PhaseId
  exp   : Nat
  mark  : Mark
  unit  : Nat
  launch : Nat
  upto  : Nat
  deriving DecidableEq, Repr

/-- A code line that arrives through the merged fetch port (R66, R391): for which tiles, whether a slot
asked for it, whether an uncorrectable error was found in it, and the ck of the first request for it. -/
structure CodeFill where
  line   : Nat
  tiles  : List Nat
  asked  : Nat
  demand : Bool
  uncorr : Bool
  deriving DecidableEq, Repr

/-- Storage that a soft error can strike (R387). The code of a line of memory covers each 8-byte word of it. A scalar, a row or a
spill image is named by its unit's serial number, a swap image by its partition. -/
inductive Storage where
  | scratchWord (tile word : Nat)
  | l2Line (line word : Nat)
  | dramLine (line word : Nat)
  | l1Line (tile line : Nat)
  | icacheLine (tile line : Nat)
  | plane (core : Nat) (active : Bool)
  | scalar (unit reg : Nat)
  | row (unit reg : Nat)
  | spillImage (unit : Nat)
  | swapImage (pid : Nat)
  | descBlock (word : Nat)
  deriving DecidableEq, Repr

/-- A soft error: where it strikes and how many bits it flips beyond or within the code's reach (R387). -/
structure SoftErr where
  place   : Storage
  bits    : Nat
  uncorr  : Bool
  deriving DecidableEq, Repr

/-- A lazily resealed copy of a line on its way to its home (R393): the line and the seal that was opened. -/
structure ResealCopy where
  line   : Nat
  stamp  : Nat
  tag    : Nat
  deriving DecidableEq, Repr

/-- A request of a PCIe device through BAR2 (R378, R408). `write` holds the bytes of a write; a read asks for
`len` bytes. `ide` is the selective IDE stream it arrived on, if any, and `port` the host port. -/
structure InboundReq where
  requester : Nat
  addr      : Word
  write     : Option (List Byte)
  len       : Nat
  ide       : Option Nat
  relaxed   : Bool
  port      : Nat
  deriving DecidableEq, Repr

/-- What a peer package asks of a line homed here (R275, R412): a read, a write of sealed bytes, or an atomic. -/
inductive PeerOp where
  | read (n : Nat)
  | write (bytes : List Byte)
  | amo (fn : Nat) (ty : Nat) (x new : Word)
  deriving DecidableEq, Repr

/-- A request of a peer package over a carr link (R275). -/
structure PeerReq where
  pkg  : Nat
  tag  : Nat
  addr : Word
  op   : PeerOp
  deriving DecidableEq, Repr

/-- A boot image, or the signed configuration, as the seal core finds it (R398): which checks hold, and its version. -/
structure BootImage where
  id        : Nat
  digestOk  : Bool
  ecdsaOk   : Bool
  lmsOk     : Bool
  version   : Nat
  malformed : Bool
  deriving DecidableEq, Repr

/-- What start-up meets (R397): the outcome of each step of the sequence, the links that train, the width and speed of each host port
as lanes + 256 × PCIe generation (R408), and whether the host forbids peer-to-peer writes (R409). -/
structure StartInput where
  romOk     : Bool
  rootOk    : Bool
  images    : List BootImage
  config    : BootImage
  dramOk    : Bool
  cxlUp     : List Nat
  carrDown  : List Nat
  hostUp    : List Nat
  hostTrain : List Nat
  acs       : Bool
  mgmtOk    : Bool
  ck        : Nat
  deriving DecidableEq, Repr

/-- A doorbell of the host mailbox (R400, R401): the channel, DOOR [63:48] and its sequence number, and the quads from the start of the
request payload that the host has written since the last one (R404). -/
structure Cmd where
  ch    : Nat
  high  : BitVec 16
  seq   : BitVec 32
  quads : List Word
  deriving DecidableEq, Repr

/-- The steps of the machine, one constructor for each row of the opcode table. -/
inductive Instr where
  /-- `add` (R103). -/
  | add (f : Fields)
  /-- `sub` (R103). -/
  | sub (f : Fields)
  /-- `mul` (R103). -/
  | mul (f : Fields)
  /-- `mulh` (R103). -/
  | mulh (f : Fields)
  /-- `mulhn` (R103). -/
  | mulhn (f : Fields)
  /-- `div` (R103). -/
  | div (f : Fields)
  /-- `divn` (R103). -/
  | divn (f : Fields)
  /-- `rem` (R103). -/
  | rem (f : Fields)
  /-- `remn` (R103). -/
  | remn (f : Fields)
  /-- `and` (R103). -/
  | andR (f : Fields)
  /-- `or` (R103). -/
  | orR (f : Fields)
  /-- `xor` (R103). -/
  | xorR (f : Fields)
  /-- `andn` (R103). -/
  | andn (f : Fields)
  /-- `orn` (R103). -/
  | orn (f : Fields)
  /-- `clmul` (R103). -/
  | clmul (f : Fields)
  /-- `clmulh` (R103). -/
  | clmulh (f : Fields)
  /-- `shl` (R103). -/
  | shl (f : Fields)
  /-- `shr` (R103). -/
  | shr (f : Fields)
  /-- `sar` (R103). -/
  | sar (f : Fields)
  /-- `rol` (R103). -/
  | rol (f : Fields)
  /-- `ror` (R103). -/
  | ror (f : Fields)
  /-- `min` (R103). -/
  | minR (f : Fields)
  /-- `max` (R103). -/
  | maxR (f : Fields)
  /-- `minn` (R103). -/
  | minn (f : Fields)
  /-- `maxn` (R103). -/
  | maxn (f : Fields)
  /-- `clz` (R103). -/
  | clz (f : Fields)
  /-- `ctz` (R103). -/
  | ctz (f : Fields)
  /-- `popc` (R103). -/
  | popc (f : Fields)
  /-- `bswap` (R103). -/
  | bswap (f : Fields)
  /-- `mov` (R61). -/
  | mov (f : Fields)
  /-- `bfx` (R105). -/
  | bfx (f : Fields)
  /-- `bfxs` (R105). -/
  | bfxs (f : Fields)
  /-- `bfi` (R105). -/
  | bfi (f : Fields)
  /-- `sel` (R109). -/
  | sel (f : Fields)
  /-- `cmp` (R107). -/
  | cmp (f : Fields)
  /-- `cmp` (R107). -/
  | cmpImm (f : Fields)
  /-- `tst.z` (R107). -/
  | tstZ (f : Fields)
  /-- `tst.nz` (R107). -/
  | tstNz (f : Fields)
  /-- `gop` (R108). -/
  | gop (f : Fields)
  /-- `add` (R103). -/
  | addImm (f : Fields)
  /-- `mul` (R103). -/
  | mulImm (f : Fields)
  /-- `and` (R103). -/
  | andImm (f : Fields)
  /-- `or` (R103). -/
  | orImm (f : Fields)
  /-- `xor` (R103). -/
  | xorImm (f : Fields)
  /-- `shl` (R103). -/
  | shlImm (f : Fields)
  /-- `shr` (R103). -/
  | shrImm (f : Fields)
  /-- `sar` (R103). -/
  | sarImm (f : Fields)
  /-- `rol` (R103). -/
  | rolImm (f : Fields)
  /-- `ror` (R103). -/
  | rorImm (f : Fields)
  /-- `li` (R106). -/
  | li (f : Fields)
  /-- `lea` (R110). -/
  | lea (f : Fields)
  /-- `cvta` (R113). -/
  | cvta (f : Fields)
  /-- `tsta` (R112). -/
  | tsta (f : Fields)
  /-- `georng` (R116). -/
  | georng (f : Fields)
  /-- `br` (R117). -/
  | br (f : Fields)
  /-- `call` (R117). -/
  | call (f : Fields)
  /-- `jmp` (R117). -/
  | jmp (f : Fields)
  /-- `ret` (R117). -/
  | ret (f : Fields)
  /-- `call` (R117). -/
  | callReg (f : Fields)
  /-- `bg` (R117). -/
  | bg (f : Fields)
  /-- `loop` (R117). -/
  | loop (f : Fields)
  /-- `realign` (R67). -/
  | realign (f : Fields)
  /-- `nop` (R119). -/
  | nop (f : Fields)
  /-- `safe` (R119). -/
  | safe (f : Fields)
  /-- `halt` (R119). -/
  | halt (f : Fields)
  /-- `yield` (R119). -/
  | yield (f : Fields)
  /-- `sleep` (R120). -/
  | sleep (f : Fields)
  /-- `rdsr` (R122). -/
  | rdsr (f : Fields)
  /-- `wrsr` (R122). -/
  | wrsr (f : Fields)
  /-- `trap` (R124). -/
  | trap (f : Fields)
  /-- `tret` (R125). -/
  | tret (f : Fields)
  /-- `tret` (R125). -/
  | tretRedirect (f : Fields)
  /-- `brk` (R124). -/
  | brk (f : Fields)
  /-- `chk` (R127). -/
  | chk (f : Fields)
  /-- `bnd.ld` (R128). -/
  | bndLd (f : Fields)
  /-- `ld.i8` (R137). -/
  | ldI8 (f : Fields)
  /-- `ld.n8` (R137). -/
  | ldN8 (f : Fields)
  /-- `ld.i16` (R137). -/
  | ldI16 (f : Fields)
  /-- `ld.n16` (R137). -/
  | ldN16 (f : Fields)
  /-- `ld.i32` (R137). -/
  | ldI32 (f : Fields)
  /-- `ld.n32` (R137). -/
  | ldN32 (f : Fields)
  /-- `ld.i64` (R137). -/
  | ldI64 (f : Fields)
  /-- `st.i8` (R138). -/
  | st8 (f : Fields)
  /-- `st.i16` (R138). -/
  | st16 (f : Fields)
  /-- `st.i32` (R138). -/
  | st32 (f : Fields)
  /-- `st.i64` (R138). -/
  | st64 (f : Fields)
  /-- `ldp` (R139). -/
  | ldp (f : Fields)
  /-- `stp` (R139). -/
  | stp (f : Fields)
  /-- `pf` (R140). -/
  | pf (f : Fields)
  /-- `cln` (R141). -/
  | cln (f : Fields)
  /-- `inv` (R141). -/
  | inv (f : Fields)
  /-- `amo.add` (R143). -/
  | amoAdd (f : Fields)
  /-- `amo.and` (R143). -/
  | amoAnd (f : Fields)
  /-- `amo.or` (R143). -/
  | amoOr (f : Fields)
  /-- `amo.xor` (R143). -/
  | amoXor (f : Fields)
  /-- `amo.min` (R143). -/
  | amoMin (f : Fields)
  /-- `amo.max` (R143). -/
  | amoMax (f : Fields)
  /-- `amo.minn` (R143). -/
  | amoMinn (f : Fields)
  /-- `amo.maxn` (R143). -/
  | amoMaxn (f : Fields)
  /-- `amo.swap` (R143). -/
  | amoSwap (f : Fields)
  /-- `amo.cas` (R143). -/
  | amoCas (f : Fields)
  /-- `amo.fadd` (R144). -/
  | amoFadd (f : Fields)
  /-- `amo.fmin` (R144). -/
  | amoFmin (f : Fields)
  /-- `amo.fmax` (R144). -/
  | amoFmax (f : Fields)
  /-- `amo.xadd` (R145). -/
  | amoXadd (f : Fields)
  /-- `amo.xrd` (R146). -/
  | amoXrd (f : Fields)
  /-- `fence` (R148). -/
  | fence (f : Fields)
  /-- `fence.path` (R149). -/
  | fencePath (f : Fields)
  /-- `bar.arrive` (R151). -/
  | barArrive (f : Fields)
  /-- `bar.wait` (R152). -/
  | barWait (f : Fields)
  /-- `bar.gen` (R152). -/
  | barGen (f : Fields)
  /-- `sem.post` (R155). -/
  | semPost (f : Fields)
  /-- `sem.wait` (R155). -/
  | semWait (f : Fields)
  /-- `sem.try` (R155). -/
  | semTry (f : Fields)
  /-- `cnt.add` (R156). -/
  | cntAdd (f : Fields)
  /-- `cnt.wait` (R157). -/
  | cntWait (f : Fields)
  /-- `cnt.rd` (R157). -/
  | cntRd (f : Fields)
  /-- `spawn` (R232). -/
  | spawn (f : Fields)
  /-- `sync` (R232). -/
  | sync (f : Fields)
  /-- `done` (R232). -/
  | done (f : Fields)
  /-- `post` (R233). -/
  | post (f : Fields)
  /-- `grant` (R235). -/
  | grant (f : Fields)
  /-- `quiet.wait` (R236). -/
  | quietWait (f : Fields)
  /-- `lnch` (R237). -/
  | lnch (f : Fields)
  /-- `cancel` (R238). -/
  | cancel (f : Fields)
  /-- `ctx.start` (R239). -/
  | ctxStart (f : Fields)
  /-- `ctx.reap` (R240). -/
  | ctxReap (f : Fields)
  /-- `ctx.part` (R71). -/
  | ctxPart (f : Fields)
  /-- `msg.bind` (R231). -/
  | msgBind (f : Fields)
  /-- `msg.recv` (R231). -/
  | msgRecv (f : Fields)
  /-- `tok.test` (R222). -/
  | tokTest (f : Fields)
  /-- `tok.cancel` (R222). -/
  | tokCancel (f : Fields)
  /-- `vld` (R163). -/
  | vld (f : Fields)
  /-- `vst` (R163). -/
  | vst (f : Fields)
  /-- `vldg` (R165). -/
  | vldg (f : Fields)
  /-- `vsct` (R165). -/
  | vsct (f : Fields)
  /-- `vlds` (R164). -/
  | vlds (f : Fields)
  /-- `vsst` (R164). -/
  | vsst (f : Fields)
  /-- `vmov` (R167). -/
  | vmov (f : Fields)
  /-- `vbc` (R167). -/
  | vbc (f : Fields)
  /-- `vins` (R167). -/
  | vins (f : Fields)
  /-- `vext` (R167). -/
  | vext (f : Fields)
  /-- `vadd` (R169). -/
  | vadd (f : Fields)
  /-- `vsub` (R169). -/
  | vsub (f : Fields)
  /-- `vmul` (R169). -/
  | vmul (f : Fields)
  /-- `vfma` (R169). -/
  | vfma (f : Fields)
  /-- `vfms` (R169). -/
  | vfms (f : Fields)
  /-- `vneg` (R169). -/
  | vneg (f : Fields)
  /-- `vabs` (R169). -/
  | vabs (f : Fields)
  /-- `vmin` (R169). -/
  | vmin (f : Fields)
  /-- `vmax` (R169). -/
  | vmax (f : Fields)
  /-- `vdiv` (R169). -/
  | vdiv (f : Fields)
  /-- `vsqrt` (R169). -/
  | vsqrt (f : Fields)
  /-- `vrcp` (R169). -/
  | vrcp (f : Fields)
  /-- `vrsq` (R169). -/
  | vrsq (f : Fields)
  /-- `vexp2` (R171). -/
  | vexp2 (f : Fields)
  /-- `vlog2` (R171). -/
  | vlog2 (f : Fields)
  /-- `vtanh` (R171). -/
  | vtanh (f : Fields)
  /-- `vsig` (R171). -/
  | vsig (f : Fields)
  /-- `vcmp` (R172). -/
  | vcmp (f : Fields)
  /-- `vsel` (R173). -/
  | vsel (f : Fields)
  /-- `vand` (R174). -/
  | vand (f : Fields)
  /-- `vor` (R174). -/
  | vor (f : Fields)
  /-- `vxor` (R174). -/
  | vxor (f : Fields)
  /-- `vandn` (R174). -/
  | vandn (f : Fields)
  /-- `vshl` (R174). -/
  | vshl (f : Fields)
  /-- `vshr` (R174). -/
  | vshr (f : Fields)
  /-- `vsar` (R174). -/
  | vsar (f : Fields)
  /-- `vclmul` (R175). -/
  | vclmul (f : Fields)
  /-- `vpopc` (R174). -/
  | vpopc (f : Fields)
  /-- `vclz` (R174). -/
  | vclz (f : Fields)
  /-- `vperm` (R177). -/
  | vperm (f : Fields)
  /-- `vshuf` (R177). -/
  | vshuf (f : Fields)
  /-- `vrot` (R177). -/
  | vrot (f : Fields)
  /-- `vred` (R178). -/
  | vred (f : Fields)
  /-- `vscan` (R179). -/
  | vscan (f : Fields)
  /-- `vxscan` (R179). -/
  | vxscan (f : Fields)
  /-- `vtag` (R180). -/
  | vtag (f : Fields)
  /-- `vretag` (R180). -/
  | vretag (f : Fields)
  /-- `mop` (R181). -/
  | mop (f : Fields)
  /-- `mcnt` (R182). -/
  | mcnt (f : Fields)
  /-- `vcvt` (R183). -/
  | vcvt (f : Fields)
  /-- `vquant` (R184). -/
  | vquant (f : Fields)
  /-- `vdeq` (R185). -/
  | vdeq (f : Fields)
  /-- `vpack` (R186). -/
  | vpack (f : Fields)
  /-- `vunpk` (R186). -/
  | vunpk (f : Fields)
  /-- `mwld` (R193). -/
  | mwld (f : Fields)
  /-- `mwsc` (R194). -/
  | mwsc (f : Fields)
  /-- `mwsw` (R195). -/
  | mwsw (f : Fields)
  /-- `mmac` (R196). -/
  | mmac (f : Fields)
  /-- `mmacz` (R197). -/
  | mmacz (f : Fields)
  /-- `mclr` (R200). -/
  | mclr (f : Fields)
  /-- `mcsum` (R201). -/
  | mcsum (f : Fields)
  /-- `ssm.cfg` (R204). -/
  | ssmCfg (f : Fields)
  /-- `ssm.run` (R208). -/
  | ssmRun (f : Fields)
  /-- `ssm.st` (R210). -/
  | ssmSt (f : Fields)
  /-- `ssm.stat` (R210). -/
  | ssmStat (f : Fields)
  /-- `cp` (R215). -/
  | cp (f : Fields)
  /-- `cp.slab` (R218). -/
  | cpSlab (f : Fields)
  /-- `cp.gth` (R219). -/
  | cpGth (f : Fields)
  /-- `cp.sct` (R219). -/
  | cpSct (f : Fields)
  /-- `cp.fill` (R220). -/
  | cpFill (f : Fields)
  /-- `smerge` (R221). -/
  | smerge (f : Fields)
  /-- `win.bind` (R224). -/
  | winBind (f : Fields)
  /-- `win.mark` (R226). -/
  | winMark (f : Fields)
  /-- `win.drop` (R226). -/
  | winDrop (f : Fields)
  /-- `win.q` (R227). -/
  | winQ (f : Fields)
  /-- `coll.red` (R229). -/
  | collRed (f : Fields)
  /-- `coll.bc` (R229). -/
  | collBc (f : Fields)
  /-- `coll.ag` (R229). -/
  | collAg (f : Fields)
  /-- `msg.send` (R230). -/
  | msgSend (f : Fields)
  /-- BARREL_ISSUE (R56). -/
  | barrelIssue (core : Nat)
  /-- MIGRATION_TRANSFER_END (R63). -/
  | migrationTransferEnd (unit : Nat)
  /-- MIGRATION_QUEUE_GRANT (R64). -/
  | migrationQueueGrant (tile : Nat)
  /-- MEMORY_REPLY (R59). -/
  | memoryReply (unit : Nat)
  /-- STORE_BUFFER_ENTRY_PERFORMED (R135). -/
  | storeBufferEntryPerformed (core : Nat)
  /-- SEM_POST_PERFORMED (R155). -/
  | semPostPerformed (core : Nat)
  /-- COPY_BURST (R216). -/
  | copyBurst (op : Nat)
  /-- WINDOW_FILL_END (R225). -/
  | windowFillEnd (op : Nat)
  /-- COLLECTIVE_COMPLETE (R229). -/
  | collectiveComplete (op : Nat)
  /-- MESSAGE_QUEUED (R230). -/
  | messageQueued (op : Nat)
  /-- ICACHE_FILL (R66). -/
  | icacheFill (fill : CodeFill)
  /-- MMAC_WRITE (R199). -/
  | mmacWrite (core : Nat)
  /-- PLANE_LOAD_COMPLETE (R193). -/
  | planeLoadComplete (core : Nat)
  /-- MWSW_TAKES_EFFECT (R195). -/
  | mwswTakesEffect (core : Nat)
  /-- SSM_CHUNK_COMMIT (R209). -/
  | ssmChunkCommit (core : Nat)
  /-- GRANT_ANSWER (R235). -/
  | grantAnswer (op : Nat)
  /-- ROOT_RETURN (R294). -/
  | rootReturn (ret : WeightReturn)
  /-- ROOT_BORROW (R294). -/
  | rootBorrow (unit : Nat)
  /-- IDLE_WORKER_ROUND (R299). -/
  | idleWorkerRound (unit : Nat)
  /-- QUEUE_SEGMENT_ACCEPT (R300). -/
  | queueSegmentAccept (seg : Nat)
  /-- LAUNCH_PLACEMENT (R324). -/
  | launchPlacement (pid : Nat)
  /-- SPILL_COMPLETE (R340). -/
  | spillComplete (unit : Nat)
  /-- UNIT_RESUME (R341). -/
  | unitResume (unit : Nat)
  /-- PARTITION_SWAP (R342). -/
  | partitionSwap (pid : Nat)
  /-- EXTENT_EVICTION (R405). -/
  | extentEviction (die : Nat)
  /-- EXTENT_MOVE_END (R251). -/
  | extentMoveEnd (extent : Nat)
  /-- RESEAL_COPY_ARRIVAL (R393). -/
  | resealCopyArrival (copy : ResealCopy)
  /-- REKEY_SWEEP (R394). -/
  | rekeySweep (tag : Nat)
  /-- PERIOD_SUBMIT (R352). -/
  | periodSubmit (run : Nat)
  /-- COMMAND_COMPLETE (R401). -/
  | commandComplete (ch : Nat)
  /-- REKEY_PREPARE (R414). -/
  | rekeyPrepare (tag : Nat)
  /-- REKEY_SWITCH (R414). -/
  | rekeySwitch (tag : Nat)
  /-- SLEEP_TIMEOUT (R70). -/
  | sleepTimeout
  /-- REALIGN_TIMEOUT (R67). -/
  | realignTimeout
  /-- REVOKE_DEADLINE (R365). -/
  | revokeDeadline
  /-- SWAP_DEADLINE (R342). -/
  | swapDeadline
  /-- CXL_RETRAIN_TIMEOUT (R411). -/
  | cxlRetrainTimeout
  /-- DEVREG_READ_TIMEOUT (R409). -/
  | devregReadTimeout
  /-- TIME_SLICE_EXPIRY (R325). -/
  | timeSliceExpiry
  /-- RETENTION_EXIT_COMPLETE (R388). -/
  | retentionExitComplete
  /-- CARR_ROUTE_MOVE_END (R412). -/
  | carrRouteMoveEnd
  /-- PEER_UNREACHABLE_TIMEOUT (R412). -/
  | peerUnreachableTimeout
  /-- START_UP_WATCHDOG (R397). -/
  | startUpWatchdog
  /-- HANG_DECLARED (R302). -/
  | hangDeclared
  /-- PREEMPTION_GRANT (R326). -/
  | preemptionGrant
  /-- PLACEMENT_REQUEST_SERVED (R250). -/
  | placementRequestServed
  /-- L1_WRITE_BACK (R255). -/
  | l1WriteBack (tile line : Nat)
  /-- RETENTION_ENTRY (R246): of the scratchpad bank 16 × tile + bank, or of the L2 way 81,920 + 16 × slice + way. -/
  | retentionEntry (bank : Nat)
  /-- SOFT_ERROR (R387). -/
  | softError (err : SoftErr)
  /-- INBOUND_REQUEST (R378). -/
  | inboundRequest (req : InboundReq)
  /-- DEVREG_READ_COMPLETION (R409). -/
  | devregReadCompletion (unit : Nat) (data : Option (List Byte))
  /-- CXL_PORT_DOWN (R411). -/
  | cxlPortDown (port : Nat)
  /-- CARR_LINK_FAILURE (R412). -/
  | carrLinkFailure (link : Nat)
  /-- HOST_LINK_DOWN (R415). -/
  | hostLinkDown (port : Nat)
  /-- THERMAL_SAMPLE (R423). -/
  | thermalSample (readings : List Nat)
  /-- POWER_ON (R397). -/
  | powerOn (start : StartInput)
  /-- HOST_RESET (R397). -/
  | hostReset (start : StartInput)
  /-- POWER_OFF (R399). -/
  | powerOff
  /-- IDENT (R403). -/
  | ident (cmd : Cmd)
  /-- RESYNC (R406). -/
  | resync (cmd : Cmd)
  /-- TENANT_OPEN (R369). -/
  | tenantOpen (cmd : Cmd)
  /-- TENANT_CLOSE (R403). -/
  | tenantClose (cmd : Cmd)
  /-- GRANT_RANGE (R376). -/
  | grantRange (cmd : Cmd)
  /-- REVOKE (R365). -/
  | revoke (cmd : Cmd)
  /-- MODULE_SUBMIT (R362). -/
  | moduleSubmit (cmd : Cmd)
  /-- JOB_OPEN (R403). -/
  | jobOpen (cmd : Cmd)
  /-- JOB_CLOSE (R315). -/
  | jobClose (cmd : Cmd)
  /-- LAUNCH (R317). -/
  | launch (cmd : Cmd)
  /-- CANCEL_CMD (R403). -/
  | cancelCmd (cmd : Cmd)
  /-- QUIESCE (R403). -/
  | quiesce (cmd : Cmd)
  /-- ATTEST (R403). -/
  | attest (cmd : Cmd)
  /-- REKEY (R392). -/
  | rekey (cmd : Cmd)
  /-- COMPACT (R368). -/
  | compact (cmd : Cmd)
  /-- INBOUND_OPEN (R378). -/
  | inboundOpen (cmd : Cmd)
  /-- LOG_READ (R395). -/
  | logRead (cmd : Cmd)
  /-- PART_RESET (R403). -/
  | partReset (cmd : Cmd)
  /-- MAINT_MODE (R403). -/
  | maintMode (cmd : Cmd)
  /-- UNKNOWN_CMD (R402). -/
  | unknownCmd (code : Nat) (cmd : Cmd)
  /-- CXL_PORT_RETRAINED (R411). -/
  | cxlPortRetrained (port : Nat)
  /-- CARR_LINK_REQUEST (R275). -/
  | carrLinkRequest (req : PeerReq)
  /-- PEER_KEY_REQUEST (R413). -/
  | peerKeyRequest (tag peer : Nat)
  /-- IDE_KM (R378). -/
  | ideKm (tag stream : Nat)
  deriving DecidableEq, Repr

end Sys2Proof
end

