-- ==== Sys2Proof/Decode.lean ====
section
/-!
DEFINITION. Decoding and encoding (R72 to R77, R89). `decode` makes steps 1 and 2 of R93 and looks the minor
function up; the field checks of step 4 come after the extension of step 3 and are in Machine/FieldSpec.lean.
After the decoder stands the encoder, written from the same tables.
-/
namespace Sys2Proof

/-- The base format of a major (R74). -/
inductive BaseFmt where
  | r
  | i
  | m
  | b
  | g
  | l
  | none
  deriving DecidableEq, Repr

/-- A row of the opcode map (R89): extension, base format, extended form allowed, literal allowed, and whether FN
chooses among several mnemonics. -/
structure Major where
  ext   : Ext
  fmt   : BaseFmt
  x     : Bool
  lit   : Bool
  multi : Bool
  deriving DecidableEq, Repr

/-- The opcode map of R89: what each assigned major is. -/
def majorOf (op : Nat) : Option Major :=
  match op with
  | 0x01 => some ⟨.base, .r, true, false, true⟩
  | 0x02 => some ⟨.base, .r, true, false, true⟩
  | 0x03 => some ⟨.base, .r, true, false, true⟩
  | 0x04 => some ⟨.base, .none, true, false, true⟩
  | 0x05 => some ⟨.base, .none, true, false, false⟩
  | 0x06 => some ⟨.base, .r, true, false, false⟩
  | 0x07 => some ⟨.base, .none, true, true, false⟩
  | 0x08 => some ⟨.base, .r, true, false, true⟩
  | 0x09 => some ⟨.base, .r, true, false, false⟩
  | 0x10 => some ⟨.base, .i, true, true, false⟩
  | 0x11 => some ⟨.base, .i, true, true, false⟩
  | 0x12 => some ⟨.base, .i, true, true, false⟩
  | 0x13 => some ⟨.base, .i, true, true, false⟩
  | 0x14 => some ⟨.base, .i, true, true, false⟩
  | 0x15 => some ⟨.base, .i, true, false, false⟩
  | 0x16 => some ⟨.base, .i, true, false, false⟩
  | 0x17 => some ⟨.base, .i, true, false, false⟩
  | 0x18 => some ⟨.base, .i, true, false, false⟩
  | 0x19 => some ⟨.base, .i, true, false, false⟩
  | 0x1A => some ⟨.base, .i, true, true, false⟩
  | 0x1B => some ⟨.base, .m, true, true, false⟩
  | 0x1C => some ⟨.base, .r, true, false, false⟩
  | 0x1D => some ⟨.base, .r, true, false, false⟩
  | 0x1E => some ⟨.base, .r, true, false, false⟩
  | 0x20 => some ⟨.base, .b, false, false, false⟩
  | 0x21 => some ⟨.base, .b, false, false, false⟩
  | 0x22 => some ⟨.base, .r, true, false, true⟩
  | 0x23 => some ⟨.base, .g, false, false, false⟩
  | 0x24 => some ⟨.base, .l, false, false, false⟩
  | 0x25 => some ⟨.base, .i, true, true, false⟩
  | 0x26 => some ⟨.base, .r, true, false, true⟩
  | 0x27 => some ⟨.base, .i, true, true, false⟩
  | 0x30 => some ⟨.base, .r, true, false, false⟩
  | 0x31 => some ⟨.base, .r, true, false, false⟩
  | 0x32 => some ⟨.base, .i, true, false, false⟩
  | 0x33 => some ⟨.base, .r, true, false, true⟩
  | 0x34 => some ⟨.base, .i, true, false, false⟩
  | 0x35 => some ⟨.base, .i, true, false, false⟩
  | 0x36 => some ⟨.base, .r, true, false, false⟩
  | 0x40 => some ⟨.base, .m, true, true, false⟩
  | 0x41 => some ⟨.base, .m, true, true, false⟩
  | 0x42 => some ⟨.base, .m, true, true, false⟩
  | 0x43 => some ⟨.base, .m, true, true, false⟩
  | 0x44 => some ⟨.base, .m, true, true, false⟩
  | 0x45 => some ⟨.base, .m, true, true, false⟩
  | 0x46 => some ⟨.base, .m, true, true, false⟩
  | 0x48 => some ⟨.base, .m, true, true, false⟩
  | 0x49 => some ⟨.base, .m, true, true, false⟩
  | 0x4A => some ⟨.base, .m, true, true, false⟩
  | 0x4B => some ⟨.base, .m, true, true, false⟩
  | 0x4C => some ⟨.base, .none, true, true, false⟩
  | 0x4D => some ⟨.base, .none, true, true, false⟩
  | 0x4E => some ⟨.base, .m, true, true, false⟩
  | 0x4F => some ⟨.base, .m, true, true, false⟩
  | 0x50 => some ⟨.base, .m, true, true, false⟩
  | 0x51 => some ⟨.base, .none, true, true, true⟩
  | 0x52 => some ⟨.base, .none, true, false, true⟩
  | 0x53 => some ⟨.base, .r, true, false, true⟩
  | 0x54 => some ⟨.base, .r, true, false, true⟩
  | 0x55 => some ⟨.base, .r, true, false, true⟩
  | 0x58 => some ⟨.base, .b, false, false, false⟩
  | 0x59 => some ⟨.base, .r, true, false, true⟩
  | 0x5A => some ⟨.base, .r, true, false, false⟩
  | 0x5B => some ⟨.base, .r, true, false, false⟩
  | 0x5C => some ⟨.base, .r, true, false, true⟩
  | 0x5D => some ⟨.base, .r, true, false, true⟩
  | 0x5E => some ⟨.base, .r, true, false, true⟩
  | 0x80 => some ⟨.vec, .none, true, true, false⟩
  | 0x81 => some ⟨.vec, .none, true, true, false⟩
  | 0x82 => some ⟨.vec, .none, true, false, false⟩
  | 0x83 => some ⟨.vec, .none, true, false, false⟩
  | 0x84 => some ⟨.vec, .none, true, true, false⟩
  | 0x85 => some ⟨.vec, .none, true, true, false⟩
  | 0x86 => some ⟨.vec, .none, true, false, true⟩
  | 0x87 => some ⟨.vec, .none, true, false, true⟩
  | 0x88 => some ⟨.vec, .none, true, false, true⟩
  | 0x89 => some ⟨.vec, .none, true, false, false⟩
  | 0x8A => some ⟨.vec, .none, true, false, false⟩
  | 0x8B => some ⟨.vec, .none, true, false, true⟩
  | 0x8C => some ⟨.vec, .none, true, false, true⟩
  | 0x8D => some ⟨.vec, .none, true, false, true⟩
  | 0x8E => some ⟨.vec, .none, true, false, true⟩
  | 0x90 => some ⟨.conv, .none, true, false, true⟩
  | 0xC0 => some ⟨.mat, .none, true, false, true⟩
  | 0xC8 => some ⟨.ssm, .none, true, false, true⟩
  | 0xE0 => some ⟨.xfer, .none, true, false, true⟩
  | 0xE1 => some ⟨.xfer, .none, true, false, true⟩
  | 0xE2 => some ⟨.xfer, .none, true, false, true⟩
  | 0xE3 => some ⟨.xfer, .none, true, false, true⟩
  | _ => none

/-- The mnemonic that a major and a minor function select (R89); `none` for an unlisted function. -/
def instrOf (op fn : Nat) (f : Fields) : Option Instr :=
  match op with
  | 0x01 => match fn with
    | 0 => some (.add f)
    | 1 => some (.sub f)
    | 2 => some (.mul f)
    | 3 => some (.mulh f)
    | 4 => some (.mulhn f)
    | 5 => some (.div f)
    | 6 => some (.divn f)
    | 7 => some (.rem f)
    | 8 => some (.remn f)
    | 9 => some (.andR f)
    | 10 => some (.orR f)
    | 11 => some (.xorR f)
    | 12 => some (.andn f)
    | 13 => some (.orn f)
    | 14 => some (.clmul f)
    | 15 => some (.clmulh f)
    | _ => none
  | 0x02 => match fn with
    | 0 => some (.shl f)
    | 1 => some (.shr f)
    | 2 => some (.sar f)
    | 3 => some (.rol f)
    | 4 => some (.ror f)
    | 5 => some (.minR f)
    | 6 => some (.maxR f)
    | 7 => some (.minn f)
    | 8 => some (.maxn f)
    | _ => none
  | 0x03 => match fn with
    | 0 => some (.clz f)
    | 1 => some (.ctz f)
    | 2 => some (.popc f)
    | 3 => some (.bswap f)
    | 4 => some (.mov f)
    | _ => none
  | 0x04 => match fn with
    | 0 => some (.bfx f)
    | 1 => some (.bfxs f)
    | 2 => some (.bfi f)
    | _ => none
  | 0x05 => some (.sel f)
  | 0x06 => some (.cmp f)
  | 0x07 => some (.cmpImm f)
  | 0x08 => match fn with
    | 0 => some (.tstZ f)
    | 1 => some (.tstNz f)
    | _ => none
  | 0x09 => some (.gop f)
  | 0x10 => some (.addImm f)
  | 0x11 => some (.mulImm f)
  | 0x12 => some (.andImm f)
  | 0x13 => some (.orImm f)
  | 0x14 => some (.xorImm f)
  | 0x15 => some (.shlImm f)
  | 0x16 => some (.shrImm f)
  | 0x17 => some (.sarImm f)
  | 0x18 => some (.rolImm f)
  | 0x19 => some (.rorImm f)
  | 0x1A => some (.li f)
  | 0x1B => some (.lea f)
  | 0x1C => some (.cvta f)
  | 0x1D => some (.tsta f)
  | 0x1E => some (.georng f)
  | 0x20 => some (.br f)
  | 0x21 => some (.call f)
  | 0x22 => match fn with
    | 0 => some (.jmp f)
    | 1 => some (.ret f)
    | 2 => some (.callReg f)
    | _ => none
  | 0x23 => some (.bg f)
  | 0x24 => some (.loop f)
  | 0x25 => some (.realign f)
  | 0x26 => match fn with
    | 0 => some (.nop f)
    | 1 => some (.safe f)
    | 2 => some (.halt f)
    | 3 => some (.yield f)
    | _ => none
  | 0x27 => some (.sleep f)
  | 0x30 => some (.rdsr f)
  | 0x31 => some (.wrsr f)
  | 0x32 => some (.trap f)
  | 0x33 => match fn with
    | 0 => some (.tret f)
    | 1 => some (.tretRedirect f)
    | _ => none
  | 0x34 => some (.brk f)
  | 0x35 => some (.chk f)
  | 0x36 => some (.bndLd f)
  | 0x40 => some (.ldI8 f)
  | 0x41 => some (.ldN8 f)
  | 0x42 => some (.ldI16 f)
  | 0x43 => some (.ldN16 f)
  | 0x44 => some (.ldI32 f)
  | 0x45 => some (.ldN32 f)
  | 0x46 => some (.ldI64 f)
  | 0x48 => some (.st8 f)
  | 0x49 => some (.st16 f)
  | 0x4A => some (.st32 f)
  | 0x4B => some (.st64 f)
  | 0x4C => some (.ldp f)
  | 0x4D => some (.stp f)
  | 0x4E => some (.pf f)
  | 0x4F => some (.cln f)
  | 0x50 => some (.inv f)
  | 0x51 => match fn with
    | 0 => some (.amoAdd f)
    | 1 => some (.amoAnd f)
    | 2 => some (.amoOr f)
    | 3 => some (.amoXor f)
    | 4 => some (.amoMin f)
    | 5 => some (.amoMax f)
    | 6 => some (.amoMinn f)
    | 7 => some (.amoMaxn f)
    | 8 => some (.amoSwap f)
    | 9 => some (.amoCas f)
    | 10 => some (.amoFadd f)
    | 11 => some (.amoFmin f)
    | 12 => some (.amoFmax f)
    | 13 => some (.amoXadd f)
    | 14 => some (.amoXrd f)
    | _ => none
  | 0x52 => match fn with
    | 0 => some (.fence f)
    | 1 => some (.fencePath f)
    | _ => none
  | 0x53 => match fn with
    | 0 => some (.barArrive f)
    | 1 => some (.barWait f)
    | 2 => some (.barGen f)
    | _ => none
  | 0x54 => match fn with
    | 0 => some (.semPost f)
    | 1 => some (.semWait f)
    | 2 => some (.semTry f)
    | _ => none
  | 0x55 => match fn with
    | 0 => some (.cntAdd f)
    | 1 => some (.cntWait f)
    | 2 => some (.cntRd f)
    | _ => none
  | 0x58 => some (.spawn f)
  | 0x59 => match fn with
    | 0 => some (.sync f)
    | 1 => some (.done f)
    | 2 => some (.post f)
    | 3 => some (.grant f)
    | 4 => some (.quietWait f)
    | _ => none
  | 0x5A => some (.lnch f)
  | 0x5B => some (.cancel f)
  | 0x5C => match fn with
    | 0 => some (.ctxStart f)
    | 1 => some (.ctxReap f)
    | 2 => some (.ctxPart f)
    | _ => none
  | 0x5D => match fn with
    | 0 => some (.msgBind f)
    | 1 => some (.msgRecv f)
    | _ => none
  | 0x5E => match fn with
    | 0 => some (.tokTest f)
    | 1 => some (.tokCancel f)
    | _ => none
  | 0x80 => some (.vld f)
  | 0x81 => some (.vst f)
  | 0x82 => some (.vldg f)
  | 0x83 => some (.vsct f)
  | 0x84 => some (.vlds f)
  | 0x85 => some (.vsst f)
  | 0x86 => match fn with
    | 0 => some (.vmov f)
    | 1 => some (.vbc f)
    | 2 => some (.vins f)
    | 3 => some (.vext f)
    | _ => none
  | 0x87 => match fn with
    | 0 => some (.vadd f)
    | 1 => some (.vsub f)
    | 2 => some (.vmul f)
    | 3 => some (.vfma f)
    | 4 => some (.vfms f)
    | 5 => some (.vneg f)
    | 6 => some (.vabs f)
    | 7 => some (.vmin f)
    | 8 => some (.vmax f)
    | 9 => some (.vdiv f)
    | 10 => some (.vsqrt f)
    | 11 => some (.vrcp f)
    | 12 => some (.vrsq f)
    | _ => none
  | 0x88 => match fn with
    | 0 => some (.vexp2 f)
    | 1 => some (.vlog2 f)
    | 2 => some (.vtanh f)
    | 3 => some (.vsig f)
    | _ => none
  | 0x89 => some (.vcmp f)
  | 0x8A => some (.vsel f)
  | 0x8B => match fn with
    | 0 => some (.vand f)
    | 1 => some (.vor f)
    | 2 => some (.vxor f)
    | 3 => some (.vandn f)
    | 4 => some (.vshl f)
    | 5 => some (.vshr f)
    | 6 => some (.vsar f)
    | 7 => some (.vclmul f)
    | 8 => some (.vpopc f)
    | 9 => some (.vclz f)
    | _ => none
  | 0x8C => match fn with
    | 0 => some (.vperm f)
    | 1 => some (.vshuf f)
    | 2 => some (.vrot f)
    | 3 => some (.vred f)
    | 4 => some (.vscan f)
    | 5 => some (.vxscan f)
    | _ => none
  | 0x8D => match fn with
    | 0 => some (.vtag f)
    | 1 => some (.vretag f)
    | _ => none
  | 0x8E => match fn with
    | 0 => some (.mop f)
    | 1 => some (.mcnt f)
    | _ => none
  | 0x90 => match fn with
    | 0 => some (.vcvt f)
    | 1 => some (.vquant f)
    | 2 => some (.vdeq f)
    | 3 => some (.vpack f)
    | 4 => some (.vunpk f)
    | _ => none
  | 0xC0 => match fn with
    | 0 => some (.mwld f)
    | 1 => some (.mwsc f)
    | 2 => some (.mwsw f)
    | 3 => some (.mmac f)
    | 4 => some (.mmacz f)
    | 5 => some (.mclr f)
    | 6 => some (.mcsum f)
    | _ => none
  | 0xC8 => match fn with
    | 0 => some (.ssmCfg f)
    | 1 => some (.ssmRun f)
    | 2 => some (.ssmSt f)
    | 3 => some (.ssmStat f)
    | _ => none
  | 0xE0 => match fn with
    | 0 => some (.cp f)
    | 1 => some (.cpSlab f)
    | 2 => some (.cpGth f)
    | 3 => some (.cpSct f)
    | 4 => some (.cpFill f)
    | _ => none
  | 0xE1 => match fn with
    | 0 => some (.winBind f)
    | 1 => some (.winMark f)
    | 2 => some (.winDrop f)
    | 3 => some (.winQ f)
    | _ => none
  | 0xE2 => match fn with
    | 0 => some (.collRed f)
    | 1 => some (.collBc f)
    | 2 => some (.collAg f)
    | _ => none
  | 0xE3 => match fn with
    | 0 => some (.msgSend f)
    | 1 => some (.smerge f)
    | _ => none
  | _ => none

/-- Major, minor function (0 where FN does not choose the mnemonic) and fields of an instruction; `none` for an
event, which has no encoding. -/
def Instr.codeOf : Instr → Option (Nat × Nat × Fields)
  | .add f => some (0x01, 0, f)
  | .sub f => some (0x01, 1, f)
  | .mul f => some (0x01, 2, f)
  | .mulh f => some (0x01, 3, f)
  | .mulhn f => some (0x01, 4, f)
  | .div f => some (0x01, 5, f)
  | .divn f => some (0x01, 6, f)
  | .rem f => some (0x01, 7, f)
  | .remn f => some (0x01, 8, f)
  | .andR f => some (0x01, 9, f)
  | .orR f => some (0x01, 10, f)
  | .xorR f => some (0x01, 11, f)
  | .andn f => some (0x01, 12, f)
  | .orn f => some (0x01, 13, f)
  | .clmul f => some (0x01, 14, f)
  | .clmulh f => some (0x01, 15, f)
  | .shl f => some (0x02, 0, f)
  | .shr f => some (0x02, 1, f)
  | .sar f => some (0x02, 2, f)
  | .rol f => some (0x02, 3, f)
  | .ror f => some (0x02, 4, f)
  | .minR f => some (0x02, 5, f)
  | .maxR f => some (0x02, 6, f)
  | .minn f => some (0x02, 7, f)
  | .maxn f => some (0x02, 8, f)
  | .clz f => some (0x03, 0, f)
  | .ctz f => some (0x03, 1, f)
  | .popc f => some (0x03, 2, f)
  | .bswap f => some (0x03, 3, f)
  | .mov f => some (0x03, 4, f)
  | .bfx f => some (0x04, 0, f)
  | .bfxs f => some (0x04, 1, f)
  | .bfi f => some (0x04, 2, f)
  | .sel f => some (0x05, 0, f)
  | .cmp f => some (0x06, 0, f)
  | .cmpImm f => some (0x07, 0, f)
  | .tstZ f => some (0x08, 0, f)
  | .tstNz f => some (0x08, 1, f)
  | .gop f => some (0x09, 0, f)
  | .addImm f => some (0x10, 0, f)
  | .mulImm f => some (0x11, 0, f)
  | .andImm f => some (0x12, 0, f)
  | .orImm f => some (0x13, 0, f)
  | .xorImm f => some (0x14, 0, f)
  | .shlImm f => some (0x15, 0, f)
  | .shrImm f => some (0x16, 0, f)
  | .sarImm f => some (0x17, 0, f)
  | .rolImm f => some (0x18, 0, f)
  | .rorImm f => some (0x19, 0, f)
  | .li f => some (0x1A, 0, f)
  | .lea f => some (0x1B, 0, f)
  | .cvta f => some (0x1C, 0, f)
  | .tsta f => some (0x1D, 0, f)
  | .georng f => some (0x1E, 0, f)
  | .br f => some (0x20, 0, f)
  | .call f => some (0x21, 0, f)
  | .jmp f => some (0x22, 0, f)
  | .ret f => some (0x22, 1, f)
  | .callReg f => some (0x22, 2, f)
  | .bg f => some (0x23, 0, f)
  | .loop f => some (0x24, 0, f)
  | .realign f => some (0x25, 0, f)
  | .nop f => some (0x26, 0, f)
  | .safe f => some (0x26, 1, f)
  | .halt f => some (0x26, 2, f)
  | .yield f => some (0x26, 3, f)
  | .sleep f => some (0x27, 0, f)
  | .rdsr f => some (0x30, 0, f)
  | .wrsr f => some (0x31, 0, f)
  | .trap f => some (0x32, 0, f)
  | .tret f => some (0x33, 0, f)
  | .tretRedirect f => some (0x33, 1, f)
  | .brk f => some (0x34, 0, f)
  | .chk f => some (0x35, 0, f)
  | .bndLd f => some (0x36, 0, f)
  | .ldI8 f => some (0x40, 0, f)
  | .ldN8 f => some (0x41, 0, f)
  | .ldI16 f => some (0x42, 0, f)
  | .ldN16 f => some (0x43, 0, f)
  | .ldI32 f => some (0x44, 0, f)
  | .ldN32 f => some (0x45, 0, f)
  | .ldI64 f => some (0x46, 0, f)
  | .st8 f => some (0x48, 0, f)
  | .st16 f => some (0x49, 0, f)
  | .st32 f => some (0x4A, 0, f)
  | .st64 f => some (0x4B, 0, f)
  | .ldp f => some (0x4C, 0, f)
  | .stp f => some (0x4D, 0, f)
  | .pf f => some (0x4E, 0, f)
  | .cln f => some (0x4F, 0, f)
  | .inv f => some (0x50, 0, f)
  | .amoAdd f => some (0x51, 0, f)
  | .amoAnd f => some (0x51, 1, f)
  | .amoOr f => some (0x51, 2, f)
  | .amoXor f => some (0x51, 3, f)
  | .amoMin f => some (0x51, 4, f)
  | .amoMax f => some (0x51, 5, f)
  | .amoMinn f => some (0x51, 6, f)
  | .amoMaxn f => some (0x51, 7, f)
  | .amoSwap f => some (0x51, 8, f)
  | .amoCas f => some (0x51, 9, f)
  | .amoFadd f => some (0x51, 10, f)
  | .amoFmin f => some (0x51, 11, f)
  | .amoFmax f => some (0x51, 12, f)
  | .amoXadd f => some (0x51, 13, f)
  | .amoXrd f => some (0x51, 14, f)
  | .fence f => some (0x52, 0, f)
  | .fencePath f => some (0x52, 1, f)
  | .barArrive f => some (0x53, 0, f)
  | .barWait f => some (0x53, 1, f)
  | .barGen f => some (0x53, 2, f)
  | .semPost f => some (0x54, 0, f)
  | .semWait f => some (0x54, 1, f)
  | .semTry f => some (0x54, 2, f)
  | .cntAdd f => some (0x55, 0, f)
  | .cntWait f => some (0x55, 1, f)
  | .cntRd f => some (0x55, 2, f)
  | .spawn f => some (0x58, 0, f)
  | .sync f => some (0x59, 0, f)
  | .done f => some (0x59, 1, f)
  | .post f => some (0x59, 2, f)
  | .grant f => some (0x59, 3, f)
  | .quietWait f => some (0x59, 4, f)
  | .lnch f => some (0x5A, 0, f)
  | .cancel f => some (0x5B, 0, f)
  | .ctxStart f => some (0x5C, 0, f)
  | .ctxReap f => some (0x5C, 1, f)
  | .ctxPart f => some (0x5C, 2, f)
  | .msgBind f => some (0x5D, 0, f)
  | .msgRecv f => some (0x5D, 1, f)
  | .tokTest f => some (0x5E, 0, f)
  | .tokCancel f => some (0x5E, 1, f)
  | .vld f => some (0x80, 0, f)
  | .vst f => some (0x81, 0, f)
  | .vldg f => some (0x82, 0, f)
  | .vsct f => some (0x83, 0, f)
  | .vlds f => some (0x84, 0, f)
  | .vsst f => some (0x85, 0, f)
  | .vmov f => some (0x86, 0, f)
  | .vbc f => some (0x86, 1, f)
  | .vins f => some (0x86, 2, f)
  | .vext f => some (0x86, 3, f)
  | .vadd f => some (0x87, 0, f)
  | .vsub f => some (0x87, 1, f)
  | .vmul f => some (0x87, 2, f)
  | .vfma f => some (0x87, 3, f)
  | .vfms f => some (0x87, 4, f)
  | .vneg f => some (0x87, 5, f)
  | .vabs f => some (0x87, 6, f)
  | .vmin f => some (0x87, 7, f)
  | .vmax f => some (0x87, 8, f)
  | .vdiv f => some (0x87, 9, f)
  | .vsqrt f => some (0x87, 10, f)
  | .vrcp f => some (0x87, 11, f)
  | .vrsq f => some (0x87, 12, f)
  | .vexp2 f => some (0x88, 0, f)
  | .vlog2 f => some (0x88, 1, f)
  | .vtanh f => some (0x88, 2, f)
  | .vsig f => some (0x88, 3, f)
  | .vcmp f => some (0x89, 0, f)
  | .vsel f => some (0x8A, 0, f)
  | .vand f => some (0x8B, 0, f)
  | .vor f => some (0x8B, 1, f)
  | .vxor f => some (0x8B, 2, f)
  | .vandn f => some (0x8B, 3, f)
  | .vshl f => some (0x8B, 4, f)
  | .vshr f => some (0x8B, 5, f)
  | .vsar f => some (0x8B, 6, f)
  | .vclmul f => some (0x8B, 7, f)
  | .vpopc f => some (0x8B, 8, f)
  | .vclz f => some (0x8B, 9, f)
  | .vperm f => some (0x8C, 0, f)
  | .vshuf f => some (0x8C, 1, f)
  | .vrot f => some (0x8C, 2, f)
  | .vred f => some (0x8C, 3, f)
  | .vscan f => some (0x8C, 4, f)
  | .vxscan f => some (0x8C, 5, f)
  | .vtag f => some (0x8D, 0, f)
  | .vretag f => some (0x8D, 1, f)
  | .mop f => some (0x8E, 0, f)
  | .mcnt f => some (0x8E, 1, f)
  | .vcvt f => some (0x90, 0, f)
  | .vquant f => some (0x90, 1, f)
  | .vdeq f => some (0x90, 2, f)
  | .vpack f => some (0x90, 3, f)
  | .vunpk f => some (0x90, 4, f)
  | .mwld f => some (0xC0, 0, f)
  | .mwsc f => some (0xC0, 1, f)
  | .mwsw f => some (0xC0, 2, f)
  | .mmac f => some (0xC0, 3, f)
  | .mmacz f => some (0xC0, 4, f)
  | .mclr f => some (0xC0, 5, f)
  | .mcsum f => some (0xC0, 6, f)
  | .ssmCfg f => some (0xC8, 0, f)
  | .ssmRun f => some (0xC8, 1, f)
  | .ssmSt f => some (0xC8, 2, f)
  | .ssmStat f => some (0xC8, 3, f)
  | .cp f => some (0xE0, 0, f)
  | .cpSlab f => some (0xE0, 1, f)
  | .cpGth f => some (0xE0, 2, f)
  | .cpSct f => some (0xE0, 3, f)
  | .cpFill f => some (0xE0, 4, f)
  | .winBind f => some (0xE1, 0, f)
  | .winMark f => some (0xE1, 1, f)
  | .winDrop f => some (0xE1, 2, f)
  | .winQ f => some (0xE1, 3, f)
  | .collRed f => some (0xE2, 0, f)
  | .collBc f => some (0xE2, 1, f)
  | .collAg f => some (0xE2, 2, f)
  | .msgSend f => some (0xE3, 0, f)
  | .smerge f => some (0xE3, 1, f)
  | .barrelIssue _ => none
  | .migrationTransferEnd _ => none
  | .migrationQueueGrant _ => none
  | .memoryReply _ => none
  | .storeBufferEntryPerformed _ => none
  | .semPostPerformed _ => none
  | .copyBurst _ => none
  | .windowFillEnd _ => none
  | .collectiveComplete _ => none
  | .messageQueued _ => none
  | .sleepTimeout => none
  | .realignTimeout => none
  | .icacheFill _ => none
  | .mmacWrite _ => none
  | .planeLoadComplete _ => none
  | .mwswTakesEffect _ => none
  | .ssmChunkCommit _ => none
  | .grantAnswer _ => none
  | .rootReturn _ => none
  | .rootBorrow _ => none
  | .idleWorkerRound _ => none
  | .queueSegmentAccept _ => none
  | .hangDeclared => none
  | .launchPlacement _ => none
  | .timeSliceExpiry => none
  | .preemptionGrant => none
  | .spillComplete _ => none
  | .unitResume _ => none
  | .partitionSwap _ => none
  | .swapDeadline => none
  | .revokeDeadline => none
  | .placementRequestServed => none
  | .extentEviction _ => none
  | .extentMoveEnd _ => none
  | .l1WriteBack _ _ => none
  | .retentionEntry _ => none
  | .retentionExitComplete => none
  | .softError _ => none
  | .resealCopyArrival _ => none
  | .rekeySweep _ => none
  | .inboundRequest _ => none
  | .devregReadCompletion _ _ => none
  | .devregReadTimeout => none
  | .cxlPortDown _ => none
  | .cxlRetrainTimeout => none
  | .carrLinkFailure _ => none
  | .hostLinkDown _ => none
  | .thermalSample _ => none
  | .powerOn _ => none
  | .hostReset _ => none
  | .powerOff => none
  | .startUpWatchdog => none
  | .ident _ => none
  | .resync _ => none
  | .tenantOpen _ => none
  | .tenantClose _ => none
  | .grantRange _ => none
  | .revoke _ => none
  | .moduleSubmit _ => none
  | .jobOpen _ => none
  | .jobClose _ => none
  | .launch _ => none
  | .periodSubmit _ => none
  | .cancelCmd _ => none
  | .quiesce _ => none
  | .attest _ => none
  | .rekey _ => none
  | .compact _ => none
  | .inboundOpen _ => none
  | .logRead _ => none
  | .partReset _ => none
  | .maintMode _ => none
  | .unknownCmd _ _ => none
  | .commandComplete _ => none
  | .cxlPortRetrained _ => none
  | .carrRouteMoveEnd => none
  | .peerUnreachableTimeout => none
  | .carrLinkRequest _ => none
  | .rekeyPrepare _ => none
  | .rekeySwitch _ => none
  | .peerKeyRequest _ _ => none
  | .ideKm _ _ => none

/-- What steps 1 and 2 of R93 make of the words at the PC, and the lookup of FN: an instruction whose fields are not
yet checked; an illegal instruction of step 1 or 2; or an unlisted function of an extension, which fails at step 4. -/
inductive Decoded where
  | instr (i : Instr)
  | illegal
  | badFn (e : Ext)
  deriving DecidableEq, Repr

/-- LEN (R72). -/
def formOf (len : BitVec 2) : Form :=
  if len = 0 then .base else if len = 1 then .baseLit else if len = 2 then .ext else .extLit

/-- The code of a length (R72). -/
def Form.code : Form → BitVec 2
  | .base => 0
  | .baseLit => 1
  | .ext => 2
  | .extLit => 3

/-- Number of words of a form (R72). -/
def Form.words : Form → Nat
  | .base => 1
  | .baseLit => 3
  | .ext => 3
  | .extLit => 5

def Form.isExt : Form → Bool
  | .base | .baseLit => false
  | .ext | .extLit => true

def Form.hasLit : Form → Bool
  | .base | .ext => false
  | .baseLit | .extLit => true

/-- Whether the major's Forms and Lit columns allow a form (R93 step 2). -/
def Major.allows (m : Major) : Form → Bool
  | .base => m.fmt != .none
  | .baseLit => m.fmt != .none && m.lit
  | .ext => m.x
  | .extLit => m.x && m.lit

/-- Fields that a form does not carry (R75). -/
def Fields.zero : Fields where
  form := .base
  fn := 0
  a := 0
  b := 0
  c := 0
  d := 0
  e := 0
  imm := 0
  lit := 0
  ga := ⟨false, 0⟩
  gb := ⟨false, 0⟩
  rm := 0
  sat := false
  ty := 0
  hint := 0
  ord := 0
  scope := 0
  etag := 0
  lmask := 0
  pz := false
  rsv := false

/-- The minor function field of word 0 (R74, R77). -/
def fnField (w : IWord) : BitVec 4 := w.extractLsb' 28 4

/-- Fields of a base word under a base format (R74); FN is filled in by `parse`. -/
def baseFields (fmt : BaseFmt) (w : IWord) : Fields :=
  let a6 := (w.extractLsb' 10 6).setWidth 8
  let b6 := (w.extractLsb' 16 6).setWidth 8
  let c6 := (w.extractLsb' 22 6).setWidth 8
  match fmt with
  | .r => { Fields.zero with a := a6, b := b6, c := c6 }
  | .i | .m => { Fields.zero with a := a6, b := b6, imm := (w.extractLsb' 22 10).setWidth 22 }
  | .b => { Fields.zero with imm := w.extractLsb' 10 22 }
  | .g => { Fields.zero with imm := (w.extractLsb' 14 18).setWidth 22,
                             ga := ⟨w.getLsbD 13, w.extractLsb' 10 3⟩ }
  | .l => { Fields.zero with a := a6, imm := (w.extractLsb' 16 16).setWidth 22 }
  | .none => Fields.zero

/-- Fields of the three words of an extended form (R77). -/
def extFields (w0 w1 w2 : IWord) : Fields :=
  { Fields.zero with
    a := w0.extractLsb' 20 8
    b := w0.extractLsb' 12 8
    rm := w0.extractLsb' 10 2
    c := w1.extractLsb' 24 8
    d := w1.extractLsb' 16 8
    e := w1.extractLsb' 8 8
    ga := ⟨w1.getLsbD 7, w1.extractLsb' 4 3⟩
    gb := ⟨w1.getLsbD 3, w1.extractLsb' 0 3⟩
    imm := (w2.extractLsb' 24 8).setWidth 22
    sat := w2.getLsbD 23
    ty := w2.extractLsb' 18 5
    hint := w2.extractLsb' 15 3
    ord := w2.extractLsb' 12 3
    scope := w2.extractLsb' 9 3
    etag := w2.extractLsb' 5 4
    lmask := w2.extractLsb' 2 3
    pz := w2.getLsbD 1
    rsv := w2.getLsbD 0 }

/-- A literal is stored low word first (R72). -/
def literal (lo hi : IWord) : BitVec 64 := hi ++ lo

/-- The fields of the words of an instruction, or `none` when a word is missing (R73). -/
def parse (m : Major) : Form → List IWord → Option Fields
  | .base, w0 :: _ => some (baseFields m.fmt w0)
  | .baseLit, w0 :: l0 :: l1 :: _ => some { baseFields m.fmt w0 with form := .baseLit, lit := literal l0 l1 }
  | .ext, w0 :: w1 :: w2 :: _ => some { extFields w0 w1 w2 with form := .ext }
  | .extLit, w0 :: w1 :: w2 :: l0 :: l1 :: _ =>
      some { extFields w0 w1 w2 with form := .extLit, lit := literal l0 l1 }
  | _, _ => none

/-- Whether word 0 of this form carries FN: format R and every extended form (R74, R77). -/
def Major.hasFn (m : Major) (form : Form) : Bool := form.isExt || m.fmt == .r

/-- Decoding of the words at the PC that lie in the extent (R93 steps 1 and 2, R73). -/
def decode (ws : List IWord) : Decoded :=
  match ws with
  | [] => .illegal
  | w0 :: _ =>
    let op := (w0.extractLsb' 2 8).toNat
    match majorOf op with
    | none => .illegal
    | some m =>
      let form := formOf (w0.extractLsb' 0 2)
      if m.allows form then
        match parse m form ws with
        | none => .illegal
        | some f =>
          let fn := if m.hasFn form then fnField w0 else 0
          let f := { f with fn := if m.multi then 0 else fn }
          match instrOf op (if m.multi then fn.toNat else 0) f with
          | some i => .instr i
          | none => .badFn m.ext
      else .illegal

/-- Bytes to little-endian words (R2, R72); bytes that do not fill a word are dropped. -/
def wordsOfBytes : List Byte → List IWord
  | b0 :: b1 :: b2 :: b3 :: rest => (b3 ++ b2 ++ b1 ++ b0) :: wordsOfBytes rest
  | _ => []

/-- Decoding of bytes (R2, R72). -/
def decodeBytes (bs : List Byte) : Decoded := decode (wordsOfBytes bs)

/-- A word to its bytes, the least significant first (R2). -/
def bytesOfWord (w : IWord) : List Byte :=
  [w.extractLsb' 0 8, w.extractLsb' 8 8, w.extractLsb' 16 8, w.extractLsb' 24 8]

/-- The five words of a number whose bit 0 is the least significant bit of the first word. -/
def wordsOfNat (w : Nat) : List IWord :=
  [BitVec.ofNat 32 w, BitVec.ofNat 32 (w >>> 32), BitVec.ofNat 32 (w >>> 64), BitVec.ofNat 32 (w >>> 96),
   BitVec.ofNat 32 (w >>> 128)]

/-- The instruction the decoder reads from an instruction of the opcode table whose bits are `w` (the host's
interface): the words are laid out as bytes and decoded from them; the bits above `nbits` are 0. -/
def decodeTableWord (nbits w : Nat) : Option Instr :=
  match decodeBytes ((wordsOfNat (w % 2 ^ nbits)).flatMap bytesOfWord) with
  | .instr i => some i
  | _ => none

/-- Word 0 of a base form (R74). -/
def encodeBase (m : Major) (op : Nat) (fn : BitVec 4) (f : Fields) : IWord :=
  let tail : BitVec 10 := BitVec.ofNat 8 op ++ f.form.code
  let a6 : BitVec 6 := f.a.setWidth 6
  let b6 : BitVec 6 := f.b.setWidth 6
  let c6 : BitVec 6 := f.c.setWidth 6
  match m.fmt with
  | .r => (fn ++ c6 ++ b6 ++ a6 ++ tail : BitVec 32)
  | .i | .m => ((f.imm.setWidth 10 : BitVec 10) ++ b6 ++ a6 ++ tail : BitVec 32)
  | .b => (f.imm ++ tail : BitVec 32)
  | .g => ((f.imm.setWidth 18 : BitVec 18) ++ BitVec.ofBool f.ga.neg ++ f.ga.idx ++ tail : BitVec 32)
  | .l => ((f.imm.setWidth 16 : BitVec 16) ++ a6 ++ tail : BitVec 32)
  | .none => 0

/-- Words 0 to 2 of an extended form (R77). -/
def encodeExt (op : Nat) (fn : BitVec 4) (f : Fields) : List IWord :=
  [ (fn ++ f.a ++ f.b ++ f.rm ++ BitVec.ofNat 8 op ++ f.form.code : BitVec 32),
    (f.c ++ f.d ++ f.e ++ BitVec.ofBool f.ga.neg ++ f.ga.idx ++ BitVec.ofBool f.gb.neg ++ f.gb.idx : BitVec 32),
    ((f.imm.setWidth 8 : BitVec 8) ++ BitVec.ofBool f.sat ++ f.ty ++ f.hint ++ f.ord ++ f.scope ++ f.etag ++
      f.lmask ++ BitVec.ofBool f.pz ++ BitVec.ofBool f.rsv : BitVec 32) ]

/-- The words of an instruction; none for an event, which has no encoding. -/
def encode (i : Instr) : List IWord :=
  match i.codeOf with
  | none => []
  | some (op, fn, f) =>
    match majorOf op with
    | none => []
    | some m =>
      let fn := if m.multi then BitVec.ofNat 4 fn else f.fn
      let lits := if f.form.hasLit then [f.lit.extractLsb' 0 32, f.lit.extractLsb' 32 32] else []
      (if f.form.isExt then encodeExt op fn f else [encodeBase m op fn f]) ++ lits

/-- Whether a base form under a format carries exactly these fields (R74, R75): every other field is 0. -/
def Fields.fitsBase (fmt : BaseFmt) (f : Fields) : Bool :=
  let g := match fmt with
    | .r => { Fields.zero with form := f.form, fn := f.fn, lit := f.lit, a := f.a, b := f.b, c := f.c }
    | .i | .m => { Fields.zero with form := f.form, lit := f.lit, a := f.a, b := f.b, imm := f.imm }
    | .b => { Fields.zero with form := f.form, lit := f.lit, imm := f.imm }
    | .g => { Fields.zero with form := f.form, lit := f.lit, imm := f.imm, ga := f.ga }
    | .l => { Fields.zero with form := f.form, lit := f.lit, a := f.a, imm := f.imm }
    | .none => { Fields.zero with form := f.form }
  let width := match fmt with
    | .i | .m => 10
    | .g => 18
    | .l => 16
    | _ => 22
  g == f && f.a.toNat < 64 && f.b.toNat < 64 && f.c.toNat < 64 && f.imm.toNat < 2 ^ width

/-- An instruction some words spell: its form is one of its major, its fields are those the form carries, and the
literal is 0 where the form has none. Events have no words. -/
def Instr.encodable (i : Instr) : Bool :=
  match i.codeOf with
  | none => false
  | some (op, _, f) =>
    match majorOf op with
    | none => false
    | some m =>
      m.allows f.form && (f.form.hasLit || f.lit == 0) && (!m.multi || f.fn == 0) &&
      (if f.form.isExt then f.imm.toNat < 256 else f.fitsBase m.fmt)

end Sys2Proof
end

