-- ==== Sys2Proof/Machine/FieldSpec.lean ====
section
/-!
DEFINITION. The checks of steps 4 and 5 of R93: the operand kinds of R78, the field codes of R80 to R85, the
immediates of the opcode map (R89) and the orderings of R83, as a table with one row per instruction.
-/
namespace Sys2Proof

/-- What an operand field names (R78). `src`, `dst` and `upd` are a scalar that is read, written, or both. `fut` is
the source of `mov` and `tokS` the source of `tok.test` and `tok.cancel`, which do not wait (R61). The `Opt`
roles allow 0xFF, an absent operand. `slot` is 1 to the highest slot of the partition (R125). -/
inductive Role where
  | zero
  | src
  | dst
  | upd
  | fut
  | tokS
  | srcOpt
  | dstOpt
  | rowR
  | rowW
  | rowOpt
  | qtile
  | guardD
  | guardS
  | maskD
  | maskS
  | bound
  | slot
  | const (lo hi : Nat)
  deriving DecidableEq, Repr

/-- The rows of R83. -/
inductive OrdClass where
  | none
  | load
  | store
  | rmw
  | fence
  deriving DecidableEq, Repr

/-- What the immediate field may hold: zero, any value, or an unsigned range (R89). -/
inductive ImmRule where
  | zero
  | any
  | range (lo hi : Nat)
  deriving DecidableEq, Repr

/-- What ETAG may hold: zero, or any tag (R80). -/
inductive EtagRule where
  | zero
  | data
  deriving DecidableEq, Repr

/-- The field rules of one instruction. A field left at its default must be zero. `mem` marks the memory operand of
R86. `tys` lists the type codes; `rmTys` and `satTys` those under which RM and SAT may be non-zero (R81).
`extraDst` and `extraSrc` are scalars the instruction names implicitly; `allTokens` marks an instruction that
reads every pending token. `ok` holds the conditions no other column says. -/
structure OpSpec where
  ext       : Ext
  a         : Role := .zero
  b         : Role := .zero
  c         : Role := .zero
  d         : Role := .zero
  e         : Role := .zero
  mem       : Bool := false
  tys       : List Nat := [0]
  rmTys     : List Nat := []
  satTys    : List Nat := []
  hint      : Bool := false
  scope     : Bool := false
  lmask     : Bool := false
  pz        : Bool := false
  etag      : EtagRule := .zero
  ord       : OrdClass := .none
  imm       : ImmRule := .zero
  fnMax     : Nat := 0
  extraDst  : List Nat := []
  extraSrc  : List Nat := []
  allTokens : Bool := false
  ok        : Bool := true
  deriving DecidableEq, Repr

/-- The integer type codes (R80). -/
def intTys : List Nat := [1, 2, 3, 4, 17, 18, 19, 20]
/-- The floating type codes: binary16, 32, 64, TF8, TF16, TF32 (R80). -/
def floTys : List Nat := [6, 7, 8, 9, 10]
/-- The type codes of lanes (R163, R167): 1 to 13 and 17 to 20. -/
def laneTys : List Nat := [1, 2, 3, 4, 5, 6, 7, 8, 9, 10, 11, 12, 13, 17, 18, 19, 20]
/-- The type codes of the permutes (R177): 1 to 13. -/
def tagTys : List Nat := [1, 2, 3, 4, 5, 6, 7, 8, 9, 10, 11, 12, 13]
/-- The weight formats (R188). -/
def weightTys : List Nat := [1, 8, 9, 10, 11, 12]
/-- The formats a reduction accepts (R178): integers alone for the bitwise operations. -/
def reduceTys (op : Nat) : List Nat := if op ≤ 2 then intTys ++ floTys ++ [13] else intTys

/-- The operands of `mop` by its operation (R181). -/
def mopA (op : Nat) : Role := if op = 8 then .rowW else .maskD
def mopB (op : Nat) : Role :=
  if op ≤ 4 then .maskS else if op ≤ 6 then .zero else if op = 7 then .src else if op = 8 then .maskS else .rowR
def mopC (op : Nat) : Role := if op ≤ 3 then .maskS else .zero

/-- A path set of `fence.path` names at least two of the five paths (R92). -/
def pathSetOk (p : Nat) : Bool :=
  decide (2 ≤ p % 2 + p / 2 % 2 + p / 4 % 2 + p / 8 % 2 + p / 16 % 2)

/-- Lane width of a format tag (R51); the grouped tags count their codes by bytes. -/
def laneWidth (tag : Nat) : Nat :=
  match tag with
  | 1 | 8 | 11 | 12 => 8
  | 2 | 5 | 9 => 16
  | 3 | 6 | 10 => 32
  | 4 | 7 | 13 => 64
  | _ => 0

/-- Number of lanes of a format tag (R51); 0 for RAW and MSK, which have none. -/
def lanesOf (tag : Nat) : Nat := if laneWidth tag = 0 then 0 else 2048 / laneWidth tag

/-- The field rules of `vcvt` (R183). -/
def cvtOk (f : Fields) : Bool :=
  let st := f.etag.toNat
  let dt := f.ty.toNat % 16
  let imm := f.imm.toNat
  let ls := lanesOf st
  let ld := lanesOf dt
  [1, 2, 3, 4, 5, 6, 7, 8, 9, 10, 13].contains st && (imm / 128 % 2 == 0 || st ≤ 4) && imm / 8 % 16 == 0 &&
    decide (imm % 8 < max ls ld / min ls ld)

/-- The codes of a grouped row (R42): 512 for I4G, 256 for I8G. -/
def groupCodes (tag : Nat) : Nat := if tag = 11 then 512 else 256

/-- The group and part fields of `vquant` and `vdeq` (R184, R185): the plain format, the grouped format and IMM8. -/
def quantOk (plain grouped imm : Nat) : Bool :=
  decide (imm / 64 = 0) && imm / 16 % 4 != 3 && lanesOf plain != 0 &&
    decide (imm % 16 < groupCodes grouped / lanesOf plain)

/-- The pairs of `vpack` (R186): destination type and source tag. -/
def packOk (dt st : Nat) : Bool := if dt = 11 then st == 12 else st == dt % 16 + 1
/-- The pairs of `vunpk` (R186). -/
def unpackOk (dt st : Nat) : Bool := if dt = 12 then st == 11 else st + 1 == dt % 16

/-- IMM8 of `mwsc` (R194): the group code is not 3, and the half is 0 unless G = 128. -/
def mwscOk (imm : Nat) : Bool := imm % 4 != 3 && (imm / 4 == 0 || imm % 4 == 2)

/-- IMM8 of a copy form (R217): the flag bits W and CB, and the low bits the form uses; CB needs a counter. -/
def copyFlagsOk (f : Fields) (low : Nat) : Bool :=
  decide (f.imm.toNat % 64 ≤ low) && (f.imm.toNat / 64 % 2 == 0 || f.e != 0xFF)

/-- The field table: for each instruction its operands, its accepted field codes and its further conditions, from the
opcode map (R89) and the instruction chapters. An event takes no fields. The source rows of `vretag` and `vmov` count as data source rows
(R80), so these accept an ETAG: DESIGN CHOICE, log entry 63. -/
def opSpec : Instr → OpSpec
  | .add _ => { ext := .base, a := .dst, b := .src, c := .src, tys := 0 :: intTys, satTys := intTys }
  | .sub _ => { ext := .base, a := .dst, b := .src, c := .src, tys := 0 :: intTys, satTys := intTys }
  | .mul _ => { ext := .base, a := .dst, b := .src, c := .src, tys := 0 :: intTys, satTys := intTys }
  | .mulh _ => { ext := .base, a := .dst, b := .src, c := .src }
  | .mulhn _ => { ext := .base, a := .dst, b := .src, c := .src }
  | .div _ => { ext := .base, a := .dst, b := .src, c := .src }
  | .divn _ => { ext := .base, a := .dst, b := .src, c := .src }
  | .rem _ => { ext := .base, a := .dst, b := .src, c := .src }
  | .remn _ => { ext := .base, a := .dst, b := .src, c := .src }
  | .andR _ => { ext := .base, a := .dst, b := .src, c := .src }
  | .orR _ => { ext := .base, a := .dst, b := .src, c := .src }
  | .xorR _ => { ext := .base, a := .dst, b := .src, c := .src }
  | .andn _ => { ext := .base, a := .dst, b := .src, c := .src }
  | .orn _ => { ext := .base, a := .dst, b := .src, c := .src }
  | .clmul _ => { ext := .base, a := .dst, b := .src, c := .src }
  | .clmulh _ => { ext := .base, a := .dst, b := .src, c := .src }
  | .shl _ => { ext := .base, a := .dst, b := .src, c := .src }
  | .shr _ => { ext := .base, a := .dst, b := .src, c := .src }
  | .sar _ => { ext := .base, a := .dst, b := .src, c := .src }
  | .rol _ => { ext := .base, a := .dst, b := .src, c := .src }
  | .ror _ => { ext := .base, a := .dst, b := .src, c := .src }
  | .minR _ => { ext := .base, a := .dst, b := .src, c := .src }
  | .maxR _ => { ext := .base, a := .dst, b := .src, c := .src }
  | .minn _ => { ext := .base, a := .dst, b := .src, c := .src }
  | .maxn _ => { ext := .base, a := .dst, b := .src, c := .src }
  | .clz _ => { ext := .base, a := .dst, b := .src }
  | .ctz _ => { ext := .base, a := .dst, b := .src }
  | .popc _ => { ext := .base, a := .dst, b := .src }
  | .bswap _ => { ext := .base, a := .dst, b := .src }
  | .mov _ => { ext := .base, a := .dst, b := .fut }
  | .bfx f =>
      { ext := .base, a := .dst, b := .src, c := .const 0 63, d := .const 1 64,
        ok := decide (f.c.toNat + f.d.toNat ≤ 64) }
  | .bfxs f =>
      { ext := .base, a := .dst, b := .src, c := .const 0 63, d := .const 1 64,
        ok := decide (f.c.toNat + f.d.toNat ≤ 64) }
  | .bfi f =>
      { ext := .base, a := .upd, b := .src, c := .const 0 63, d := .const 1 64,
        ok := decide (f.c.toNat + f.d.toNat ≤ 64) }
  | .sel _ => { ext := .base, a := .dst, b := .guardS, c := .src, d := .src }
  | .cmp _ => { ext := .base, a := .guardD, b := .src, c := .src, fnMax := 9 }
  | .cmpImm _ => { ext := .base, a := .guardD, b := .src, fnMax := 9, imm := .any }
  | .tstZ _ => { ext := .base, a := .guardD, b := .src, c := .src }
  | .tstNz _ => { ext := .base, a := .guardD, b := .src, c := .src }
  | .gop f =>
      { ext := .base, a := .guardD, b := (if f.fn.toNat ≤ 5 then .guardS else .zero),
        c := (if f.fn.toNat ≤ 4 then .guardS else .zero), fnMax := 7 }
  | .addImm _ => { ext := .base, a := .dst, b := .src, imm := .any, tys := 0 :: intTys, satTys := intTys }
  | .mulImm _ => { ext := .base, a := .dst, b := .src, imm := .any, tys := 0 :: intTys, satTys := intTys }
  | .andImm _ => { ext := .base, a := .dst, b := .src, imm := .any }
  | .orImm _ => { ext := .base, a := .dst, b := .src, imm := .any }
  | .xorImm _ => { ext := .base, a := .dst, b := .src, imm := .any }
  | .shlImm _ => { ext := .base, a := .dst, b := .src, imm := .range 0 63 }
  | .shrImm _ => { ext := .base, a := .dst, b := .src, imm := .range 0 63 }
  | .sarImm _ => { ext := .base, a := .dst, b := .src, imm := .range 0 63 }
  | .rolImm _ => { ext := .base, a := .dst, b := .src, imm := .range 0 63 }
  | .rorImm _ => { ext := .base, a := .dst, b := .src, imm := .range 0 63 }
  | .li _ => { ext := .base, a := .dst, imm := .any }
  | .lea _ => { ext := .base, a := .dst, mem := true, imm := .any }
  | .cvta _ => { ext := .base, a := .dst, b := .src, fnMax := 2 }
  | .tsta _ => { ext := .base, a := .dst, b := .src }
  | .georng _ => { ext := .base, a := .dst, b := .src, c := .src }
  | .br _ => { ext := .base, imm := .any }
  | .call _ => { ext := .base, imm := .any, extraDst := [31] }
  | .jmp _ => { ext := .base, b := .src }
  | .ret _ => { ext := .base, b := .src }
  | .callReg _ => { ext := .base, b := .src, extraDst := [31] }
  | .bg _ => { ext := .base, imm := .any }
  | .loop _ => { ext := .base, a := .upd, imm := .any }
  | .realign _ => { ext := .base, imm := .any }
  | .nop _ => { ext := .base }
  | .safe _ => { ext := .base }
  | .halt _ => { ext := .base, allTokens := true }
  | .yield _ => { ext := .base }
  | .sleep _ => { ext := .base, imm := .any }
  | .rdsr _ => { ext := .base, a := .dst, b := .const 0 13 }
  | .wrsr _ => { ext := .base, a := .const 0 13, b := .src }
  | .trap _ => { ext := .base, imm := .any }
  | .tret _ => { ext := .base, b := .slot }
  | .tretRedirect _ => { ext := .base, b := .slot, c := .src }
  | .brk _ => { ext := .base, imm := .any }
  | .chk _ => { ext := .base, a := .bound, b := .src, imm := .range 1 1023 }
  | .bndLd _ => { ext := .base, a := .bound, b := .src }
  | .ldI8 _ => { ext := .base, a := .dst, mem := true, imm := .any, hint := true, ord := .load, scope := true }
  | .ldN8 _ => { ext := .base, a := .dst, mem := true, imm := .any, hint := true, ord := .load, scope := true }
  | .ldI16 _ => { ext := .base, a := .dst, mem := true, imm := .any, hint := true, ord := .load, scope := true }
  | .ldN16 _ => { ext := .base, a := .dst, mem := true, imm := .any, hint := true, ord := .load, scope := true }
  | .ldI32 _ => { ext := .base, a := .dst, mem := true, imm := .any, hint := true, ord := .load, scope := true }
  | .ldN32 _ => { ext := .base, a := .dst, mem := true, imm := .any, hint := true, ord := .load, scope := true }
  | .ldI64 _ => { ext := .base, a := .dst, mem := true, imm := .any, hint := true, ord := .load, scope := true }
  | .st8 _ => { ext := .base, a := .src, mem := true, imm := .any, hint := true, ord := .store, scope := true }
  | .st16 _ => { ext := .base, a := .src, mem := true, imm := .any, hint := true, ord := .store, scope := true }
  | .st32 _ => { ext := .base, a := .src, mem := true, imm := .any, hint := true, ord := .store, scope := true }
  | .st64 _ => { ext := .base, a := .src, mem := true, imm := .any, hint := true, ord := .store, scope := true }
  | .ldp f =>
      { ext := .base, a := .dst, d := .dst, mem := true, imm := .any, hint := true, ord := .load, scope := true,
        ok := f.a != f.d }
  | .stp _ =>
      { ext := .base, a := .src, d := .src, mem := true, imm := .any, hint := true, ord := .store, scope := true }
  | .pf _ => { ext := .base, mem := true, imm := .any, hint := true }
  | .cln _ => { ext := .base, b := .src, imm := .any, scope := true }
  | .inv _ => { ext := .base, b := .src, imm := .any, scope := true }
  | .amoAdd _ =>
      { ext := .base, a := .dstOpt, c := .src, b := .src, imm := .any, ord := .rmw, scope := true, tys := [0, 3, 4,
        19, 20] }
  | .amoAnd _ =>
      { ext := .base, a := .dstOpt, c := .src, b := .src, imm := .any, ord := .rmw, scope := true, tys := [0, 3, 4,
        19, 20] }
  | .amoOr _ =>
      { ext := .base, a := .dstOpt, c := .src, b := .src, imm := .any, ord := .rmw, scope := true, tys := [0, 3, 4,
        19, 20] }
  | .amoXor _ =>
      { ext := .base, a := .dstOpt, c := .src, b := .src, imm := .any, ord := .rmw, scope := true, tys := [0, 3, 4,
        19, 20] }
  | .amoMin _ =>
      { ext := .base, a := .dstOpt, c := .src, b := .src, imm := .any, ord := .rmw, scope := true, tys := [0, 3, 4,
        19, 20] }
  | .amoMax _ =>
      { ext := .base, a := .dstOpt, c := .src, b := .src, imm := .any, ord := .rmw, scope := true, tys := [0, 3, 4,
        19, 20] }
  | .amoMinn _ =>
      { ext := .base, a := .dstOpt, c := .src, b := .src, imm := .any, ord := .rmw, scope := true, tys := [0, 3, 4,
        19, 20] }
  | .amoMaxn _ =>
      { ext := .base, a := .dstOpt, c := .src, b := .src, imm := .any, ord := .rmw, scope := true, tys := [0, 3, 4,
        19, 20] }
  | .amoSwap _ =>
      { ext := .base, a := .dstOpt, c := .src, b := .src, imm := .any, ord := .rmw, scope := true, tys := [0, 3, 4,
        19, 20] }
  | .amoCas _ =>
      { ext := .base, a := .dstOpt, c := .src, d := .src, b := .src, imm := .any, ord := .rmw, scope := true,
        tys := [0, 3, 4, 19, 20] }
  | .amoFadd _ =>
      { ext := .base, a := .dstOpt, c := .src, b := .src, imm := .any, ord := .rmw, scope := true, tys := [6, 7] }
  | .amoFmin _ =>
      { ext := .base, a := .dstOpt, c := .src, b := .src, imm := .any, ord := .rmw, scope := true, tys := [6, 7] }
  | .amoFmax _ =>
      { ext := .base, a := .dstOpt, c := .src, b := .src, imm := .any, ord := .rmw, scope := true, tys := [6, 7] }
  | .amoXadd _ =>
      { ext := .base, a := .dstOpt, c := .src, b := .src, imm := .any, ord := .rmw, scope := true, tys := [3, 4, 6,
        7, 13] }
  | .amoXrd _ =>
      { ext := .base, a := .dst, b := .src, imm := .any, ord := .rmw, scope := true, tys := [4, 6, 7, 13],
        rmTys := [4, 6, 7, 13] }
  | .fence _ => { ext := .base, ord := .fence, scope := true }
  | .fencePath f => { ext := .base, ord := .fence, scope := true, imm := .range 0 31, ok := pathSetOk f.imm.toNat }
  | .barArrive _ => { ext := .base, a := .dst, b := .src, imm := .any, ord := .store, scope := true }
  | .barWait _ => { ext := .base, a := .dst, b := .src, c := .src, imm := .any, ord := .load, scope := true }
  | .barGen _ => { ext := .base, a := .dst, b := .src, imm := .any, ord := .load, scope := true }
  | .semPost _ => { ext := .base, c := .const 0 15 }
  | .semWait _ => { ext := .base, c := .const 0 15 }
  | .semTry _ => { ext := .base, a := .guardD, c := .const 0 15 }
  | .cntAdd _ => { ext := .base, a := .src, b := .src, imm := .any, ord := .rmw, scope := true }
  | .cntWait _ => { ext := .base, a := .src, b := .src, imm := .any, ord := .load, scope := true }
  | .cntRd _ => { ext := .base, a := .dst, b := .src, imm := .any, ord := .load, scope := true }
  | .spawn _ => { ext := .base, imm := .any, extraSrc := [30] }
  | .sync _ => { ext := .base, extraSrc := [30] }
  | .done _ => { ext := .base, extraSrc := [30], allTokens := true }
  | .post _ => { ext := .base, b := .src }
  | .grant _ => { ext := .base, a := .dst, b := .src }
  | .quietWait _ => { ext := .base, a := .dst }
  | .lnch _ => { ext := .base, a := .dst, b := .src }
  | .cancel _ => { ext := .base, a := .dst, b := .src, fnMax := 3 }
  | .ctxStart _ => { ext := .base, a := .dst, b := .src, c := .src }
  | .ctxReap _ => { ext := .base, a := .dst, b := .slot }
  | .ctxPart _ => { ext := .base, a := .dst, b := .const 0 63 }
  | .msgBind _ => { ext := .base, a := .const 0 6 }
  | .msgRecv _ => { ext := .base, a := .dst, b := .src, c := .const 0 7 }
  | .tokTest _ => { ext := .base, a := .guardD, b := .tokS }
  | .tokCancel _ => { ext := .base, b := .tokS }
  | .vld f =>
      { ext := .vec, a := .rowW, mem := true, imm := .any, hint := true, scope := true, lmask := true,
        ord := .load, tys := 0 :: laneTys, ok := f.ty != 0 || f.lmask == 0 }
  | .vst f =>
      { ext := .vec, a := .rowR, mem := true, imm := .any, hint := true, scope := true, lmask := true,
        ord := .store, tys := 0 :: laneTys, etag := .data, ok := f.ty != 0 || f.lmask == 0 }
  | .vldg _ =>
      { ext := .vec, a := .rowW, b := .src, c := .rowR, hint := true, scope := true, lmask := true, ord := .load,
        tys := laneTys }
  | .vsct _ =>
      { ext := .vec, a := .rowR, b := .src, c := .rowR, hint := true, scope := true, lmask := true, ord := .store,
        tys := laneTys, etag := .data }
  | .vlds _ =>
      { ext := .vec, a := .rowW, d := .src, mem := true, imm := .any, hint := true, scope := true, lmask := true,
        ord := .load, tys := laneTys }
  | .vsst _ =>
      { ext := .vec, a := .rowR, d := .src, mem := true, imm := .any, hint := true, scope := true, lmask := true,
        ord := .store, tys := laneTys, etag := .data }
  | .vmov _ => { ext := .vec, a := .rowW, b := .rowR, lmask := true, etag := .data }
  | .vbc _ => { ext := .vec, a := .rowW, b := .src, lmask := true, tys := laneTys }
  | .vins _ => { ext := .vec, a := .rowW, b := .src, c := .src, lmask := true, tys := laneTys }
  | .vext _ =>
      { ext := .vec, a := .dst, b := .rowR, c := .src, lmask := true, pz := true, tys := laneTys, etag := .data }
  | .vadd _ =>
      { ext := .vec, a := .rowW, b := .rowR, c := .rowR, lmask := true, etag := .data,
        tys := intTys ++ floTys ++ [13], rmTys := floTys, satTys := intTys }
  | .vsub _ =>
      { ext := .vec, a := .rowW, b := .rowR, c := .rowR, lmask := true, etag := .data,
        tys := intTys ++ floTys ++ [13], rmTys := floTys, satTys := intTys }
  | .vmul _ =>
      { ext := .vec, a := .rowW, b := .rowR, c := .rowR, lmask := true, etag := .data, tys := intTys ++ floTys,
        rmTys := floTys, satTys := intTys }
  | .vfma _ =>
      { ext := .vec, a := .rowW, b := .rowR, c := .rowR, d := .rowR, lmask := true, etag := .data,
        tys := intTys ++ floTys, rmTys := floTys, satTys := intTys }
  | .vfms _ =>
      { ext := .vec, a := .rowW, b := .rowR, c := .rowR, d := .rowR, lmask := true, etag := .data,
        tys := intTys ++ floTys, rmTys := floTys, satTys := intTys }
  | .vneg _ =>
      { ext := .vec, a := .rowW, b := .rowR, lmask := true, etag := .data, tys := intTys ++ floTys ++ [13],
        satTys := intTys }
  | .vabs _ =>
      { ext := .vec, a := .rowW, b := .rowR, lmask := true, etag := .data, tys := intTys ++ floTys ++ [13],
        satTys := intTys }
  | .vmin _ =>
      { ext := .vec, a := .rowW, b := .rowR, c := .rowR, lmask := true, etag := .data,
        tys := intTys ++ floTys ++ [13] }
  | .vmax _ =>
      { ext := .vec, a := .rowW, b := .rowR, c := .rowR, lmask := true, etag := .data,
        tys := intTys ++ floTys ++ [13] }
  | .vdiv _ =>
      { ext := .vec, a := .rowW, b := .rowR, c := .rowR, lmask := true, etag := .data, tys := floTys,
        rmTys := floTys }
  | .vsqrt _ => { ext := .vec, a := .rowW, b := .rowR, lmask := true, etag := .data, tys := floTys, rmTys := floTys }
  | .vrcp _ => { ext := .vec, a := .rowW, b := .rowR, lmask := true, etag := .data, tys := floTys, rmTys := floTys }
  | .vrsq _ => { ext := .vec, a := .rowW, b := .rowR, lmask := true, etag := .data, tys := floTys, rmTys := floTys }
  | .vexp2 _ => { ext := .vec, a := .rowW, b := .rowR, lmask := true, etag := .data, tys := [6, 8, 9, 10] }
  | .vlog2 _ =>
      { ext := .vec, a := .rowW, b := .rowR, lmask := true, etag := .data, tys := [6, 8, 9, 10], rmTys := [6, 8, 9,
        10] }
  | .vtanh _ =>
      { ext := .vec, a := .rowW, b := .rowR, lmask := true, etag := .data, tys := [6, 8, 9, 10], rmTys := [6, 8, 9,
        10] }
  | .vsig _ =>
      { ext := .vec, a := .rowW, b := .rowR, lmask := true, etag := .data, tys := [6, 8, 9, 10], rmTys := [6, 8, 9,
        10] }
  | .vcmp _ =>
      { ext := .vec, a := .maskD, b := .rowR, c := .rowR, lmask := true, etag := .data, fnMax := 6,
        tys := intTys ++ floTys ++ [13] }
  | .vsel _ =>
      { ext := .vec, a := .rowW, b := .maskS, c := .rowR, d := .rowR, lmask := true, etag := .data, tys := laneTys }
  | .vand f =>
      { ext := .vec, a := .rowW, b := .rowR, c := .rowR, lmask := true, etag := .data, tys := 0 :: laneTys,
        ok := f.ty != 0 || f.lmask == 0 }
  | .vor f =>
      { ext := .vec, a := .rowW, b := .rowR, c := .rowR, lmask := true, etag := .data, tys := 0 :: laneTys,
        ok := f.ty != 0 || f.lmask == 0 }
  | .vxor f =>
      { ext := .vec, a := .rowW, b := .rowR, c := .rowR, lmask := true, etag := .data, tys := 0 :: laneTys,
        ok := f.ty != 0 || f.lmask == 0 }
  | .vandn f =>
      { ext := .vec, a := .rowW, b := .rowR, c := .rowR, lmask := true, etag := .data, tys := 0 :: laneTys,
        ok := f.ty != 0 || f.lmask == 0 }
  | .vshl f =>
      { ext := .vec, a := .rowW, b := .rowR, c := .rowOpt, lmask := true, etag := .data, tys := intTys,
        imm := (if f.c == 0xFF then .any else .zero) }
  | .vshr f =>
      { ext := .vec, a := .rowW, b := .rowR, c := .rowOpt, lmask := true, etag := .data, tys := intTys,
        imm := (if f.c == 0xFF then .any else .zero) }
  | .vsar f =>
      { ext := .vec, a := .rowW, b := .rowR, c := .rowOpt, lmask := true, etag := .data, tys := intTys,
        imm := (if f.c == 0xFF then .any else .zero) }
  | .vclmul _ => { ext := .vec, a := .rowW, b := .rowR, c := .rowR, lmask := true, etag := .data, tys := intTys }
  | .vpopc _ => { ext := .vec, a := .rowW, b := .rowR, lmask := true, etag := .data, tys := intTys }
  | .vclz _ => { ext := .vec, a := .rowW, b := .rowR, lmask := true, etag := .data, tys := intTys }
  | .vperm _ =>
      { ext := .vec, a := .rowW, b := .rowR, c := .rowR, lmask := true, etag := .data, pz := true, tys := tagTys }
  | .vshuf f =>
      { ext := .vec, a := .rowW, b := .rowR, c := (if f.imm.toNat ≤ 3 then .rowR else .zero), lmask := true,
        etag := .data, pz := true, tys := tagTys, imm := .range 0 5 }
  | .vrot f =>
      { ext := .vec, a := .rowW, b := .rowR, c := .srcOpt, lmask := true, etag := .data, pz := true, tys := tagTys,
        imm := (if f.c == 0xFF then .any else .zero) }
  | .vred f =>
      { ext := .vec, a := .dst, b := .rowR, lmask := true, etag := .data, tys := reduceTys f.imm.toNat,
        imm := .range 0 5, rmTys := (if f.imm == 0 then floTys else []),
        satTys := (if f.imm == 0 then intTys else []) }
  | .vscan f =>
      { ext := .vec, a := .rowW, b := .rowR, lmask := true, etag := .data, tys := reduceTys f.imm.toNat,
        imm := .range 0 5, rmTys := (if f.imm == 0 then floTys else []),
        satTys := (if f.imm == 0 then intTys else []) }
  | .vxscan f =>
      { ext := .vec, a := .rowW, b := .rowR, lmask := true, etag := .data, tys := reduceTys f.imm.toNat,
        imm := .range 0 5, rmTys := (if f.imm == 0 then floTys else []),
        satTys := (if f.imm == 0 then intTys else []) }
  | .vtag _ => { ext := .vec, a := .dst, b := .rowR }
  | .vretag _ => { ext := .vec, a := .rowW, b := .rowR, etag := .data, tys := 0 :: 14 :: laneTys }
  | .mop f => { ext := .vec, a := mopA f.imm.toNat, b := mopB f.imm.toNat, c := mopC f.imm.toNat, imm := .range 0 9 }
  | .mcnt _ => { ext := .vec, a := .dst, b := .maskS }
  | .vcvt f =>
      { ext := .conv, a := .rowW, b := .rowR, lmask := true, etag := .data, tys := intTys ++ [5, 6, 7, 8, 9, 10,
        13], rmTys := intTys ++ [5, 6, 7, 8, 9, 10, 13], imm := .any, ok := cvtOk f }
  | .vquant f =>
      { ext := .conv, a := .rowW, b := .rowR, c := .rowR, d := .rowR, lmask := true, etag := .data, tys := [11,
        12], rmTys := [11, 12], imm := .any,
        ok := quantOk f.etag.toNat f.ty.toNat f.imm.toNat && floTys.contains f.etag.toNat }
  | .vdeq f =>
      { ext := .conv, a := .rowW, b := .rowR, c := .rowR, d := .rowR, lmask := true, etag := .data, tys := floTys,
        rmTys := floTys, imm := .any,
        ok := quantOk f.ty.toNat f.etag.toNat f.imm.toNat && (f.etag == 11 || f.etag == 12) }
  | .vpack f =>
      { ext := .conv, a := .rowW, b := .rowR, c := .rowR, lmask := true, etag := .data, tys := [1, 2, 3, 11, 17,
        18, 19], ok := packOk f.ty.toNat f.etag.toNat }
  | .vunpk f =>
      { ext := .conv, a := .rowW, b := .rowR, lmask := true, etag := .data, tys := [2, 3, 4, 12, 18, 19, 20],
        imm := .range 0 1, ok := unpackOk f.ty.toNat f.etag.toNat }
  | .mwld _ => { ext := .mat, b := .src, c := .srcOpt, tys := weightTys }
  | .mwsc f =>
      { ext := .mat, b := .src, c := .srcOpt, d := .src, tys := [11, 12], imm := .range 0 7,
        ok := mwscOk f.imm.toNat }
  | .mwsw _ => { ext := .mat }
  | .mmac _ => { ext := .mat, a := .qtile, b := .src, c := .srcOpt, tys := weightTys }
  | .mmacz _ => { ext := .mat, a := .qtile, b := .src, c := .srcOpt, tys := weightTys }
  | .mclr _ => { ext := .mat, a := .dstOpt, b := .qtile, tys := [3, 6, 7, 13] }
  | .mcsum _ => { ext := .mat, a := .rowW, tys := [2], imm := .range 0 3 }
  | .ssmCfg _ => { ext := .ssm, a := .dst, b := .src }
  | .ssmRun _ => { ext := .ssm, a := .dst, b := .src }
  | .ssmSt _ => { ext := .ssm, b := .src, tys := [6, 9] }
  | .ssmStat _ => { ext := .ssm, a := .dst }
  | .cp f =>
      { ext := .xfer, a := .dst, b := .src, c := .src, d := .src, e := .srcOpt, imm := .any, ok := copyFlagsOk f 0 }
  | .cpSlab f =>
      { ext := .xfer, a := .dst, b := .src, c := .src, d := .src, e := .srcOpt, imm := .any, ok := copyFlagsOk f 1 }
  | .cpGth f =>
      { ext := .xfer, a := .dst, b := .src, c := .src, d := .src, e := .srcOpt, imm := .any, ok := copyFlagsOk f 15 }
  | .cpSct f =>
      { ext := .xfer, a := .dst, b := .src, c := .src, d := .src, e := .srcOpt, imm := .any, ok := copyFlagsOk f 15 }
  | .cpFill f =>
      { ext := .xfer, a := .dst, b := .src, c := .src, d := .src, e := .srcOpt, imm := .any, ok := copyFlagsOk f 0 }
  | .winBind _ => { ext := .xfer, a := .const 0 15, b := .src, c := .src, d := .src }
  | .winMark _ => { ext := .xfer, a := .const 0 15 }
  | .winDrop _ => { ext := .xfer, a := .const 0 15 }
  | .winQ _ => { ext := .xfer, a := .dst, b := .const 0 15 }
  | .collRed f =>
      { ext := .xfer, a := .dst, b := .src, c := .src, d := .src, scope := true, tys := [3, 4, 6, 7, 13, 19, 20],
        imm := .range 0 5, ok := (reduceTys f.imm.toNat).contains f.ty.toNat }
  | .collBc _ => { ext := .xfer, a := .dst, b := .src, c := .src, d := .src, scope := true }
  | .collAg _ => { ext := .xfer, a := .dst, b := .src, c := .src, d := .src, scope := true }
  | .msgSend _ => { ext := .xfer, a := .dst, b := .src, c := .src, d := .src }
  | .smerge f =>
      { ext := .xfer, a := .dst, b := .src, c := .src, d := .src, e := .src, tys := [4, 7, 20], imm := .any,
        ok := f.imm.toNat % 128 == 0 }
  | .barrelIssue _ => { ext := .base, ok := false }
  | .migrationTransferEnd _ => { ext := .base, ok := false }
  | .migrationQueueGrant _ => { ext := .base, ok := false }
  | .memoryReply _ => { ext := .base, ok := false }
  | .storeBufferEntryPerformed _ => { ext := .base, ok := false }
  | .semPostPerformed _ => { ext := .base, ok := false }
  | .copyBurst _ => { ext := .base, ok := false }
  | .windowFillEnd _ => { ext := .base, ok := false }
  | .collectiveComplete _ => { ext := .base, ok := false }
  | .messageQueued _ => { ext := .base, ok := false }
  | .sleepTimeout => { ext := .base, ok := false }
  | .realignTimeout => { ext := .base, ok := false }
  | .icacheFill _ => { ext := .base, ok := false }
  | .mmacWrite _ => { ext := .base, ok := false }
  | .planeLoadComplete _ => { ext := .base, ok := false }
  | .mwswTakesEffect _ => { ext := .base, ok := false }
  | .ssmChunkCommit _ => { ext := .base, ok := false }
  | .grantAnswer _ => { ext := .base, ok := false }
  | .rootReturn _ => { ext := .base, ok := false }
  | .rootBorrow _ => { ext := .base, ok := false }
  | .idleWorkerRound _ => { ext := .base, ok := false }
  | .queueSegmentAccept _ => { ext := .base, ok := false }
  | .hangDeclared => { ext := .base, ok := false }
  | .launchPlacement _ => { ext := .base, ok := false }
  | .timeSliceExpiry => { ext := .base, ok := false }
  | .preemptionGrant => { ext := .base, ok := false }
  | .spillComplete _ => { ext := .base, ok := false }
  | .unitResume _ => { ext := .base, ok := false }
  | .partitionSwap _ => { ext := .base, ok := false }
  | .swapDeadline => { ext := .base, ok := false }
  | .revokeDeadline => { ext := .base, ok := false }
  | .placementRequestServed => { ext := .base, ok := false }
  | .extentEviction _ => { ext := .base, ok := false }
  | .extentMoveEnd _ => { ext := .base, ok := false }
  | .l1WriteBack _ _ => { ext := .base, ok := false }
  | .retentionEntry _ => { ext := .base, ok := false }
  | .retentionExitComplete => { ext := .base, ok := false }
  | .softError _ => { ext := .base, ok := false }
  | .resealCopyArrival _ => { ext := .base, ok := false }
  | .rekeySweep _ => { ext := .base, ok := false }
  | .inboundRequest _ => { ext := .base, ok := false }
  | .devregReadCompletion _ _ => { ext := .base, ok := false }
  | .devregReadTimeout => { ext := .base, ok := false }
  | .cxlPortDown _ => { ext := .base, ok := false }
  | .cxlRetrainTimeout => { ext := .base, ok := false }
  | .carrLinkFailure _ => { ext := .base, ok := false }
  | .hostLinkDown _ => { ext := .base, ok := false }
  | .thermalSample _ => { ext := .base, ok := false }
  | .powerOn _ => { ext := .base, ok := false }
  | .hostReset _ => { ext := .base, ok := false }
  | .powerOff => { ext := .base, ok := false }
  | .startUpWatchdog => { ext := .base, ok := false }
  | .ident _ => { ext := .base, ok := false }
  | .resync _ => { ext := .base, ok := false }
  | .tenantOpen _ => { ext := .base, ok := false }
  | .tenantClose _ => { ext := .base, ok := false }
  | .grantRange _ => { ext := .base, ok := false }
  | .revoke _ => { ext := .base, ok := false }
  | .moduleSubmit _ => { ext := .base, ok := false }
  | .jobOpen _ => { ext := .base, ok := false }
  | .jobClose _ => { ext := .base, ok := false }
  | .launch _ => { ext := .base, ok := false }
  | .periodSubmit _ => { ext := .base, ok := false }
  | .cancelCmd _ => { ext := .base, ok := false }
  | .quiesce _ => { ext := .base, ok := false }
  | .attest _ => { ext := .base, ok := false }
  | .rekey _ => { ext := .base, ok := false }
  | .compact _ => { ext := .base, ok := false }
  | .inboundOpen _ => { ext := .base, ok := false }
  | .logRead _ => { ext := .base, ok := false }
  | .partReset _ => { ext := .base, ok := false }
  | .maintMode _ => { ext := .base, ok := false }
  | .unknownCmd _ _ => { ext := .base, ok := false }
  | .commandComplete _ => { ext := .base, ok := false }
  | .cxlPortRetrained _ => { ext := .base, ok := false }
  | .carrRouteMoveEnd => { ext := .base, ok := false }
  | .peerUnreachableTimeout => { ext := .base, ok := false }
  | .carrLinkRequest _ => { ext := .base, ok := false }
  | .rekeyPrepare _ => { ext := .base, ok := false }
  | .rekeySwitch _ => { ext := .base, ok := false }
  | .peerKeyRequest _ _ => { ext := .base, ok := false }
  | .ideKm _ _ => { ext := .base, ok := false }

/-- The fields of an instruction. -/
def Instr.fields : Instr → Fields
  | .add f => f
  | .sub f => f
  | .mul f => f
  | .mulh f => f
  | .mulhn f => f
  | .div f => f
  | .divn f => f
  | .rem f => f
  | .remn f => f
  | .andR f => f
  | .orR f => f
  | .xorR f => f
  | .andn f => f
  | .orn f => f
  | .clmul f => f
  | .clmulh f => f
  | .shl f => f
  | .shr f => f
  | .sar f => f
  | .rol f => f
  | .ror f => f
  | .minR f => f
  | .maxR f => f
  | .minn f => f
  | .maxn f => f
  | .clz f => f
  | .ctz f => f
  | .popc f => f
  | .bswap f => f
  | .mov f => f
  | .bfx f => f
  | .bfxs f => f
  | .bfi f => f
  | .sel f => f
  | .cmp f => f
  | .cmpImm f => f
  | .tstZ f => f
  | .tstNz f => f
  | .gop f => f
  | .addImm f => f
  | .mulImm f => f
  | .andImm f => f
  | .orImm f => f
  | .xorImm f => f
  | .shlImm f => f
  | .shrImm f => f
  | .sarImm f => f
  | .rolImm f => f
  | .rorImm f => f
  | .li f => f
  | .lea f => f
  | .cvta f => f
  | .tsta f => f
  | .georng f => f
  | .br f => f
  | .call f => f
  | .jmp f => f
  | .ret f => f
  | .callReg f => f
  | .bg f => f
  | .loop f => f
  | .realign f => f
  | .nop f => f
  | .safe f => f
  | .halt f => f
  | .yield f => f
  | .sleep f => f
  | .rdsr f => f
  | .wrsr f => f
  | .trap f => f
  | .tret f => f
  | .tretRedirect f => f
  | .brk f => f
  | .chk f => f
  | .bndLd f => f
  | .ldI8 f => f
  | .ldN8 f => f
  | .ldI16 f => f
  | .ldN16 f => f
  | .ldI32 f => f
  | .ldN32 f => f
  | .ldI64 f => f
  | .st8 f => f
  | .st16 f => f
  | .st32 f => f
  | .st64 f => f
  | .ldp f => f
  | .stp f => f
  | .pf f => f
  | .cln f => f
  | .inv f => f
  | .amoAdd f => f
  | .amoAnd f => f
  | .amoOr f => f
  | .amoXor f => f
  | .amoMin f => f
  | .amoMax f => f
  | .amoMinn f => f
  | .amoMaxn f => f
  | .amoSwap f => f
  | .amoCas f => f
  | .amoFadd f => f
  | .amoFmin f => f
  | .amoFmax f => f
  | .amoXadd f => f
  | .amoXrd f => f
  | .fence f => f
  | .fencePath f => f
  | .barArrive f => f
  | .barWait f => f
  | .barGen f => f
  | .semPost f => f
  | .semWait f => f
  | .semTry f => f
  | .cntAdd f => f
  | .cntWait f => f
  | .cntRd f => f
  | .spawn f => f
  | .sync f => f
  | .done f => f
  | .post f => f
  | .grant f => f
  | .quietWait f => f
  | .lnch f => f
  | .cancel f => f
  | .ctxStart f => f
  | .ctxReap f => f
  | .ctxPart f => f
  | .msgBind f => f
  | .msgRecv f => f
  | .tokTest f => f
  | .tokCancel f => f
  | .vld f => f
  | .vst f => f
  | .vldg f => f
  | .vsct f => f
  | .vlds f => f
  | .vsst f => f
  | .vmov f => f
  | .vbc f => f
  | .vins f => f
  | .vext f => f
  | .vadd f => f
  | .vsub f => f
  | .vmul f => f
  | .vfma f => f
  | .vfms f => f
  | .vneg f => f
  | .vabs f => f
  | .vmin f => f
  | .vmax f => f
  | .vdiv f => f
  | .vsqrt f => f
  | .vrcp f => f
  | .vrsq f => f
  | .vexp2 f => f
  | .vlog2 f => f
  | .vtanh f => f
  | .vsig f => f
  | .vcmp f => f
  | .vsel f => f
  | .vand f => f
  | .vor f => f
  | .vxor f => f
  | .vandn f => f
  | .vshl f => f
  | .vshr f => f
  | .vsar f => f
  | .vclmul f => f
  | .vpopc f => f
  | .vclz f => f
  | .vperm f => f
  | .vshuf f => f
  | .vrot f => f
  | .vred f => f
  | .vscan f => f
  | .vxscan f => f
  | .vtag f => f
  | .vretag f => f
  | .mop f => f
  | .mcnt f => f
  | .vcvt f => f
  | .vquant f => f
  | .vdeq f => f
  | .vpack f => f
  | .vunpk f => f
  | .mwld f => f
  | .mwsc f => f
  | .mwsw f => f
  | .mmac f => f
  | .mmacz f => f
  | .mclr f => f
  | .mcsum f => f
  | .ssmCfg f => f
  | .ssmRun f => f
  | .ssmSt f => f
  | .ssmStat f => f
  | .cp f => f
  | .cpSlab f => f
  | .cpGth f => f
  | .cpSct f => f
  | .cpFill f => f
  | .winBind f => f
  | .winMark f => f
  | .winDrop f => f
  | .winQ f => f
  | .collRed f => f
  | .collBc f => f
  | .collAg f => f
  | .msgSend f => f
  | .smerge f => f
  | .barrelIssue _ => Fields.zero
  | .migrationTransferEnd _ => Fields.zero
  | .migrationQueueGrant _ => Fields.zero
  | .memoryReply _ => Fields.zero
  | .storeBufferEntryPerformed _ => Fields.zero
  | .semPostPerformed _ => Fields.zero
  | .copyBurst _ => Fields.zero
  | .windowFillEnd _ => Fields.zero
  | .collectiveComplete _ => Fields.zero
  | .messageQueued _ => Fields.zero
  | .sleepTimeout => Fields.zero
  | .realignTimeout => Fields.zero
  | .icacheFill _ => Fields.zero
  | .mmacWrite _ => Fields.zero
  | .planeLoadComplete _ => Fields.zero
  | .mwswTakesEffect _ => Fields.zero
  | .ssmChunkCommit _ => Fields.zero
  | .grantAnswer _ => Fields.zero
  | .rootReturn _ => Fields.zero
  | .rootBorrow _ => Fields.zero
  | .idleWorkerRound _ => Fields.zero
  | .queueSegmentAccept _ => Fields.zero
  | .hangDeclared => Fields.zero
  | .launchPlacement _ => Fields.zero
  | .timeSliceExpiry => Fields.zero
  | .preemptionGrant => Fields.zero
  | .spillComplete _ => Fields.zero
  | .unitResume _ => Fields.zero
  | .partitionSwap _ => Fields.zero
  | .swapDeadline => Fields.zero
  | .revokeDeadline => Fields.zero
  | .placementRequestServed => Fields.zero
  | .extentEviction _ => Fields.zero
  | .extentMoveEnd _ => Fields.zero
  | .l1WriteBack _ _ => Fields.zero
  | .retentionEntry _ => Fields.zero
  | .retentionExitComplete => Fields.zero
  | .softError _ => Fields.zero
  | .resealCopyArrival _ => Fields.zero
  | .rekeySweep _ => Fields.zero
  | .inboundRequest _ => Fields.zero
  | .devregReadCompletion _ _ => Fields.zero
  | .devregReadTimeout => Fields.zero
  | .cxlPortDown _ => Fields.zero
  | .cxlRetrainTimeout => Fields.zero
  | .carrLinkFailure _ => Fields.zero
  | .hostLinkDown _ => Fields.zero
  | .thermalSample _ => Fields.zero
  | .powerOn _ => Fields.zero
  | .hostReset _ => Fields.zero
  | .powerOff => Fields.zero
  | .startUpWatchdog => Fields.zero
  | .ident _ => Fields.zero
  | .resync _ => Fields.zero
  | .tenantOpen _ => Fields.zero
  | .tenantClose _ => Fields.zero
  | .grantRange _ => Fields.zero
  | .revoke _ => Fields.zero
  | .moduleSubmit _ => Fields.zero
  | .jobOpen _ => Fields.zero
  | .jobClose _ => Fields.zero
  | .launch _ => Fields.zero
  | .periodSubmit _ => Fields.zero
  | .cancelCmd _ => Fields.zero
  | .quiesce _ => Fields.zero
  | .attest _ => Fields.zero
  | .rekey _ => Fields.zero
  | .compact _ => Fields.zero
  | .inboundOpen _ => Fields.zero
  | .logRead _ => Fields.zero
  | .partReset _ => Fields.zero
  | .maintMode _ => Fields.zero
  | .unknownCmd _ _ => Fields.zero
  | .commandComplete _ => Fields.zero
  | .cxlPortRetrained _ => Fields.zero
  | .carrRouteMoveEnd => Fields.zero
  | .peerUnreachableTimeout => Fields.zero
  | .carrLinkRequest _ => Fields.zero
  | .rekeyPrepare _ => Fields.zero
  | .rekeySwitch _ => Fields.zero
  | .peerKeyRequest _ _ => Fields.zero
  | .ideKm _ _ => Fields.zero

/-- Scalars in a slot's share (R17). -/
def Part.scalars : Part → Nat
  | .p16 => 32
  | .p8 => 64
  | .p4 => 128
/-- Vector rows in a slot's share (R17). -/
def Part.rows : Part → Nat
  | .p16 => 16
  | .p8 => 32
  | .p4 => 64
/-- Accumulator tiles in a slot's share (R17). -/
def Part.tiles : Part → Nat
  | .p16 => 1
  | .p8 => 2
  | .p4 => 4
/-- Contexts of a core (R17). -/
def Part.contexts : Part → Nat
  | .p16 => 16
  | .p8 => 8
  | .p4 => 4

/-- Whether an operand field holds a value its role allows (R78, R19). -/
def Role.allows (p : Part) (r : Role) (v : BitVec 8) : Bool :=
  let n := v.toNat
  match r with
  | .zero => n == 0
  | .src | .dst | .upd | .fut | .tokS => decide (n < p.scalars)
  | .srcOpt | .dstOpt => n == 0xFF || decide (n < p.scalars)
  | .rowR | .rowW => decide (n < p.rows)
  | .rowOpt => n == 0xFF || decide (n < p.rows)
  | .qtile => decide (n < p.tiles)
  | .guardD | .maskD => decide (1 ≤ n) && decide (n ≤ 7)
  | .guardS | .maskS | .bound => decide (n ≤ 7)
  | .slot => decide (1 ≤ n) && decide (n < p.contexts)
  | .const lo hi => decide (lo ≤ n) && decide (n ≤ hi)

/-- The fields of a memory operand (R86): base, index and scale. -/
def memFieldsOk (p : Part) (f : Fields) : Bool :=
  decide (f.b.toNat < p.scalars) &&
    (if f.form.isExt then
      (if f.c == 0xFF then f.fn == 0 else decide (f.c.toNat < p.scalars) && decide (f.fn.toNat ≤ 3))
    else f.c == 0)

/-- The immediate: where a literal is present, it stands for the immediate field, which must be 0 (R76). -/
def immOk (f : Fields) (r : ImmRule) : Bool :=
  let v := if f.form.hasLit then f.lit.toNat else f.imm.toNat
  (!f.form.hasLit || f.imm == 0) &&
    (match r with
    | .zero => v == 0
    | .any => true
    | .range lo hi => decide (lo ≤ v) && decide (v ≤ hi))

/-- The type, rounding, saturation, hint, scope, tag, mask and permissive codes (R80 to R85). -/
def codesOk (spec : OpSpec) (p : Part) (f : Fields) : Bool :=
  spec.tys.contains f.ty.toNat &&
  (f.rm == 0 || spec.rmTys.contains f.ty.toNat) &&
  (!f.sat || spec.satTys.contains f.ty.toNat) &&
  decide (f.hint.toNat ≤ 2) && (f.hint == 0 || spec.hint) &&
  decide (f.scope.toNat ≤ 6) && (f.scope == 0 || spec.scope) &&
  (if f.scope == 6 then (Role.src).allows p f.e else spec.e.allows p f.e) &&
  (match spec.etag with
    | .zero => f.etag == 0
    | .data => decide (f.etag.toNat ≤ 14)) &&
  (f.lmask == 0 || spec.lmask) && (!f.pz || spec.pz) && !f.rsv

/-- Step 4 of R93: every field is one the instruction accepts. -/
def fieldsOk (spec : OpSpec) (p : Part) (f : Fields) : Bool :=
  (if spec.mem then memFieldsOk p f
    else decide (f.fn.toNat ≤ spec.fnMax) && spec.b.allows p f.b && spec.c.allows p f.c) &&
  spec.a.allows p f.a && spec.d.allows p f.d && immOk f spec.imm && codesOk spec p f && spec.ok

/-- Whether a class of accesses accepts an ordering code of 0 to 4 (R83). -/
def OrdClass.accepts (c : OrdClass) (ord : Nat) : Bool :=
  match c with
  | .none => ord == 0
  | .load => ord == 0 || ord == 1 || ord == 4
  | .store => ord == 0 || ord == 2 || ord == 4
  | .rmw => true
  | .fence => ord != 0

/-- The outcome of steps 4 and 5 of R93. -/
inductive FieldCheck where
  | ok
  | illegal
  | ordering
  deriving DecidableEq, Repr

/-- Steps 4 and 5 of R93, in that order. -/
def checkFields (p : Part) (i : Instr) : FieldCheck :=
  let f := i.fields
  let spec := opSpec i
  if !fieldsOk spec p f then .illegal
  else if 5 ≤ f.ord.toNat then .illegal
  else if spec.ord.accepts f.ord.toNat then .ok
  else if spec.ord = .none then .illegal
  else .ordering

/-- The scalars a role reads. -/
def Role.reads (r : Role) (v : BitVec 8) : List Nat :=
  match r with
  | .src | .upd | .fut => [v.toNat]
  | .srcOpt => if v == 0xFF then [] else [v.toNat]
  | _ => []

/-- The scalars a role waits on when they are pending (R61): `mov`, `tok.test` and `tok.cancel` do not wait. -/
def Role.waits (r : Role) (v : BitVec 8) : List Nat :=
  match r with
  | .src | .upd => [v.toNat]
  | .srcOpt => if v == 0xFF then [] else [v.toNat]
  | _ => []

/-- The scalars a role writes. -/
def Role.writes (r : Role) (v : BitVec 8) : List Nat :=
  match r with
  | .dst | .upd => [v.toNat]
  | .dstOpt => if v == 0xFF then [] else [v.toNat]
  | _ => []

/-- The scalars of a memory operand (R86). -/
def memRegs (f : Fields) : List Nat :=
  f.b.toNat :: (if f.form.isExt && f.c != 0xFF then [f.c.toNat] else [])

/-- The scalars an instruction reads, by a choice of what a role gives. -/
def sourcesBy (g : Role → BitVec 8 → List Nat) (i : Instr) : List Nat :=
  let f := i.fields
  let spec := opSpec i
  g spec.a f.a ++ (if spec.mem then memRegs f else g spec.b f.b ++ g spec.c f.c) ++ g spec.d f.d ++
    (if f.scope == 6 then [f.e.toNat] else g spec.e f.e) ++ spec.extraSrc

/-- The scalars an instruction reads. -/
def Instr.sources (i : Instr) : List Nat := sourcesBy Role.reads i
/-- The scalars an instruction waits on when they are pending (R61). -/
def Instr.waitSources (i : Instr) : List Nat := sourcesBy Role.waits i
/-- The scalars an instruction writes, its token included (R61). -/
def Instr.dests (i : Instr) : List Nat :=
  let f := i.fields
  let spec := opSpec i
  Role.writes spec.a f.a ++ Role.writes spec.b f.b ++ Role.writes spec.d f.d ++ spec.extraDst

end Sys2Proof
end

