-- ==== Sys2Proof/Machine/Flags.lean ====
section
/-!
DEFINITION. Exact values, the number formats and the numeric flags (02 R26 to R50): decoding a pattern to an exact value,
exact arithmetic, and `Round` into every format with the flags it sets. A quotient, a root or a value of a
transcendental function is held as a dyadic bound with a mark that the exact value lies above it; the bound has
enough bits that every rounding is decided.
-/
namespace Sys2Proof.Machine

open Sys2Proof

/-! ## Flags (R27) -/

/-- A set of numeric flags: SAT, NV, DZ, OF, UF, NX from bit 5 down. -/
abbrev Flags := BitVec 6
def flNX : Flags := 1
def flUF : Flags := 2
def flOF : Flags := 4
def flDZ : Flags := 8
def flNV : Flags := 16
def flSAT : Flags := 32

/-! ## Exact values -/

/-- An exact value: NAR, a NaN (signalling or quiet), an infinity, a signed zero, or ± m × 2^e; with `up`, the magnitude lies
strictly between m × 2^e and (m + 1) × 2^e. -/
inductive Val where
  | nar
  | nan (signalling : Bool)
  | inf (neg : Bool)
  | zero (neg : Bool)
  | fin (neg : Bool) (m : Nat) (e : Int) (up : Bool)
  deriving DecidableEq, Repr

/-- Number of bits of a number, within a bound on it. -/
def bitLen (n : Nat) : Nat := if n = 0 then 0 else n.log2 + 1

/-- ± m × 2^e, a zero of that sign when m is 0. -/
def mkVal (neg : Bool) (m : Nat) (e : Int) : Val := if m = 0 then .zero neg else .fin neg m e false
/-- The value of an integer, scaled. -/
def valOfInt (n : Int) (e : Int) : Val := mkVal (decide (n < 0)) n.natAbs e

/-- An integer's low `w` bits as a number. -/
def lowBits (n : Int) (w : Nat) : Nat := (n % (2 ^ w : Int)).toNat
/-- SignExtend of a `w`-bit number. -/
def signed (n w : Nat) : Int := if 2 * n < 2 ^ w then (n : Int) else (n : Int) - 2 ^ w

/-! ## Rounding to a multiple of a power of two (R31, R40) -/

/-- m × 2^e (with `up`) as a multiple of 2^q, rounded in a mode for a sign; and whether that is inexact. -/
def roundAt (neg : Bool) (m : Nat) (e : Int) (up : Bool) (q : Int) (mode : Nat) : Nat × Bool :=
  if q ≤ e then (m * 2 ^ (e - q).toNat, up)
  else
    let d := (q - e).toNat
    if bitLen m + 1 < d then
      (if (mode = 2 ∧ ¬ neg) ∨ (mode = 3 ∧ neg) then 1 else 0, true)
    else
      let base := m / 2 ^ d
      let r := m % 2 ^ d
      let half := 2 ^ (d - 1)
      let inexact := decide (r ≠ 0) || up
      let above := decide (half < r) || (decide (r = half) && up)
      let tie := decide (r = half) && !up
      let grow := match mode with
        | 0 => above || (tie && base % 2 == 1)
        | 1 => false
        | 2 => inexact && !neg
        | _ => inexact && neg
      (base + grow.toNat, inexact)

/-- `RoundToInteger(x × 2^k, mode)` of a finite value, and whether it is inexact. -/
def roundInt (x : Val) (k : Int) (mode : Nat) : Int × Bool :=
  match x with
  | .fin neg m e up =>
    let r := roundAt neg m (e + k) up 0 mode
    (if neg then - (r.1 : Int) else r.1, r.2)
  | _ => (0, false)

/-! ## IEEE formats (R30 to R32) -/

/-- Precision of an IEEE format tag: 5 binary16, 6 binary32, 7 binary64. -/
def ieeePrec (tag : Nat) : Nat := if tag = 5 then 11 else if tag = 6 then 24 else 53
def ieeeEmax (tag : Nat) : Nat := if tag = 5 then 15 else if tag = 6 then 127 else 1023
/-- The pattern of +infinity. -/
def ieeeInf (tag : Nat) : Nat := (2 * ieeeEmax tag + 1) * 2 ^ (ieeePrec tag - 1)
/-- The canonical quiet NaN. -/
def ieeeNan (tag : Nat) : Nat := ieeeInf tag + 2 ^ (ieeePrec tag - 2)
def ieeeSign (tag : Nat) : Nat := 2 ^ (laneWidth tag - 1)

/-- The value of an IEEE pattern (R30). -/
def decodeIeee (tag p : Nat) : Val :=
  let t := ieeePrec tag - 1
  let neg := decide (ieeeSign tag ≤ p)
  let mag := p % ieeeSign tag
  let ex := mag / 2 ^ t
  let fr := mag % 2 ^ t
  if ex = 2 * ieeeEmax tag + 1 then
    (if fr = 0 then .inf neg else .nan (decide (fr < 2 ^ (t - 1))))
  else if ex = 0 then mkVal neg fr (1 - (ieeeEmax tag : Int) - t)
  else .fin neg (2 ^ t + fr) ((ex : Int) - ieeeEmax tag - t) false

/-- The pattern IEEE 754-2019 gives a finite non-zero value, with OF, UF and NX; tininess is detected after rounding. -/
def encodeIeeeFin (tag : Nat) (neg : Bool) (m : Nat) (e : Int) (up : Bool) (mode : Nat) : Nat × Flags :=
  let p := ieeePrec tag
  let emin : Int := 1 - (ieeeEmax tag : Int)
  let sgn := if neg then ieeeSign tag else 0
  let lead : Int := e + bitLen m - 1
  let beyond : Nat × Flags :=
    (sgn + (if mode = 0 ∨ (mode = 2 ∧ ¬ neg) ∨ (mode = 3 ∧ neg) then ieeeInf tag else ieeeInf tag - 1), flOF ||| flNX)
  if (ieeeEmax tag : Int) < lead then beyond
  else
    let q := max lead emin - (p - 1 : Int)
    let r := roundAt neg m e up q mode
    let ex := (q + (p - 1 : Int) + ieeeEmax tag).toNat
    let pat := ex * 2 ^ (p - 1) + r.1 - 2 ^ (p - 1)
    let whole := (roundAt neg m e up (lead - (p - 1 : Int)) mode).1
    let tiny := decide (lead < emin) && !(decide (lead = emin - 1) && decide (whole = 2 ^ p))
    if ieeeInf tag ≤ pat then beyond
    else (sgn + pat, if r.2 then (if tiny then flUF ||| flNX else flNX) else 0)

/-! ## Tapered formats (R34 to R38) -/

def tfEs (tag : Nat) : Nat := if tag = 8 then 1 else 2

/-- Length of the run of bits equal to `b` from bit `i - 1` of `a` down. -/
def runLen (a : Nat) (b : Bool) : Nat → Nat
  | 0 => 0
  | i + 1 => if a.testBit i = b then runLen a b i + 1 else 0

/-- The magnitude of a positive tapered pattern: m and e with value m × 2^e (R35). -/
def tfMag (tag a : Nat) : Nat × Int :=
  let n := laneWidth tag
  let es := tfEs tag
  let b := a.testBit (n - 2)
  let m := runLen a b (n - 1)
  let k : Int := if b then (m : Int) - 1 else - (m : Int)
  let left := n - 1 - m - 1
  let eb := min es left
  let ex := a / 2 ^ (left - eb) % 2 ^ eb * 2 ^ (es - eb)
  let fb := left - eb
  (2 ^ fb + a % 2 ^ fb, k * 2 ^ es + ex - fb)

/-- `DecodeTF` (R35). -/
def decodeTF (tag p : Nat) : Val :=
  let n := laneWidth tag
  if p = 0 then .zero false
  else if p = 2 ^ (n - 1) then .nar
  else
    let neg := decide (2 ^ (n - 1) < p)
    let r := tfMag tag (if neg then 2 ^ n - p else p)
    .fin neg r.1 r.2 false

/-- Compare m × 2^e (with `up`) with n × 2^f. -/
def cmpMag (m : Nat) (e : Int) (up : Bool) (n : Nat) (f : Int) : Ordering :=
  let q := min e f
  let x := m * 2 ^ (e - q).toNat
  let y := n * 2 ^ (f - q).toNat
  if x < y then .lt else if y < x then .gt else if up then .gt else .eq

/-- The largest positive tapered pattern whose value is at most 2^lead × 1.f (R37), the value being within the range: its
regime, exponent and fraction bits cut off at the pattern's end. -/
def tfFloor (tag m : Nat) (e : Int) : Nat :=
  let n := laneWidth tag
  let es := tfEs tag
  let len := bitLen m
  let lead : Int := e + len - 1
  let k := lead / (2 ^ es : Int)
  let ex := (lead % (2 ^ es : Int)).toNat
  let run := if 0 ≤ k then k.toNat + 1 else (-k).toNat
  let regime := if 0 ≤ k then 2 ^ (run + 1) - 2 else 1
  let body := (regime * 2 ^ es + ex) * 2 ^ (len - 1) + (m - 2 ^ (len - 1))
  let total := run + 1 + es + (len - 1)
  if n - 1 ≤ total then body / 2 ^ (total - (n - 1)) else body * 2 ^ (n - 1 - total)

/-- `EncodeTF` of a finite non-zero value (R37). -/
def encodeTFFin (tag : Nat) (neg : Bool) (m : Nat) (e : Int) (up : Bool) (mode : Nat) : Nat × Flags :=
  let n := laneWidth tag
  let top := 2 ^ (n - 1) - 1
  let mx := tfMag tag top
  let mn := tfMag tag 1
  let r : Nat × Flags :=
    if cmpMag m e up mx.1 mx.2 = .gt then (top, flSAT ||| flNX)
    else if cmpMag m e up mn.1 mn.2 = .lt then (1, flSAT ||| flNX)
    else
      let q := tfFloor tag m e
      let lo := tfMag tag q
      if cmpMag m e up lo.1 lo.2 = .eq then (q, 0)
      else
        let hi := tfMag tag (q + 1)
        let f := min lo.2 hi.2
        let sum := lo.1 * 2 ^ (lo.2 - f).toNat + hi.1 * 2 ^ (hi.2 - f).toNat
        let c := cmpMag m (e + 1) up sum f
        let grow := match mode with
          | 0 => c == Ordering.gt || (c == Ordering.eq && q % 2 == 1)
          | 1 => false
          | 2 => !neg
          | _ => neg
        (q + grow.toNat, flNX)
  (if neg then 2 ^ n - r.1 else r.1, r.2)

/-! ## `Round` (R40) -/

/-- The range of an integer type code (R28). -/
def intLo (ty : Nat) : Int := if ty ≤ 4 then - (2 ^ (laneWidth (ty % 16) - 1) : Int) else 0
def intHi (ty : Nat) : Int :=
  if ty ≤ 4 then 2 ^ (laneWidth (ty % 16) - 1) - 1 else 2 ^ laneWidth (ty % 16) - 1

def isIntTy (ty : Nat) : Bool := (decide (1 ≤ ty) && decide (ty ≤ 4)) || (decide (17 ≤ ty) && decide (ty ≤ 20))
def isIeeeTag (tag : Nat) : Bool := decide (5 ≤ tag) && decide (tag ≤ 7)
def isTfTag (tag : Nat) : Bool := decide (8 ≤ tag) && decide (tag ≤ 10)

/-- Clamp an exact integer to a range; SAT when it changes. -/
def clampInt (y lo hi : Int) : Int × Flags :=
  if hi < y then (hi, flSAT) else if y < lo then (lo, flSAT) else (y, 0)

/-- `Round(x, fmt, mode)`, the format given by a type code: the pattern and the flags (R40). DESIGN CHOICE (log entry 59): an integral
value beyond an integer format's range sets SAT alone, as the pseudocode of R40 has it; the table of R41 lists NX beside it. -/
def roundVal (ty : Nat) (x : Val) (mode : Nat) : Nat × Flags :=
  let nx (b : Bool) : Flags := if b then flNX else 0
  if isIntTy ty then
    let w := laneWidth (ty % 16)
    match x with
    | .nar | .nan _ => (0, flNV)
    | .inf neg => (lowBits (if neg then intLo ty else intHi ty) w, flNV)
    | .zero _ => (0, 0)
    | .fin .. =>
      let r := roundInt x 0 mode
      let c := clampInt r.1 (intLo ty) (intHi ty)
      (lowBits c.1 w, nx r.2 ||| c.2)
  else if isIeeeTag ty then
    match x with
    | .nar | .nan _ => (ieeeNan ty, 0)
    | .inf neg => ((if neg then ieeeSign ty else 0) + ieeeInf ty, 0)
    | .zero neg => (if neg then ieeeSign ty else 0, 0)
    | .fin neg m e up => encodeIeeeFin ty neg m e up mode
  else if isTfTag ty then
    match x with
    | .nar | .nan _ | .inf _ => (2 ^ (laneWidth ty - 1), 0)
    | .zero _ => (0, 0)
    | .fin neg m e up => encodeTFFin ty neg m e up mode
  else
    match x with
    | .nar | .nan _ | .inf _ => (2 ^ 63, 0)
    | .zero _ => (0, 0)
    | .fin .. =>
      let r := roundInt x 24 mode
      let c := clampInt r.1 (-(2 ^ 63 - 1)) (2 ^ 63 - 1)
      (lowBits c.1 64, nx r.2 ||| c.2)

/-- The exact value of a lane pattern under a type code (R160): integers signed or unsigned, IEEE, tapered, E64. -/
def decodeVal (ty p : Nat) : Val :=
  if isIntTy ty then
    let w := laneWidth (ty % 16)
    valOfInt (if ty ≤ 4 then signed p w else (p : Int)) 0
  else if isIeeeTag ty then decodeIeee ty p
  else if isTfTag ty then decodeTF ty p
  else if p = 2 ^ 63 then .nar
  else valOfInt (signed p 64) (-24)

/-! ## Exact arithmetic -/

/-- NV for a signalling NaN (R32). -/
def sigFlags (x : Val) : Flags :=
  match x with
  | .nan true => flNV
  | _ => 0

/-- A lane as an operand of a reduction or scan that passes it on by itself (R32): a NaN of an IEEE format becomes the canonical quiet
one, and a signalling one sets NV. -/
def canonLane (ty p : Nat) : Nat × Flags :=
  if isIeeeTag ty then
    match decodeIeee ty p with
    | .nan sig => (ieeeNan ty, sigFlags (.nan sig))
    | _ => (p, 0)
  else (p, 0)

def Val.isNan (x : Val) : Bool :=
  match x with
  | .nan _ => true
  | _ => false

def Val.isNar (x : Val) : Bool :=
  match x with
  | .nar => true
  | _ => false

/-- −x; a NaN becomes quiet. -/
def Val.neg (x : Val) : Val :=
  match x with
  | .nar => .nar
  | .nan _ => .nan false
  | .inf n => .inf (!n)
  | .zero n => .zero (!n)
  | .fin n m e up => .fin (!n) m e up

def Val.abs (x : Val) : Val :=
  match x with
  | .nar => .nar
  | .nan _ => .nan false
  | .inf _ => .inf false
  | .zero _ => .zero false
  | .fin _ m e up => .fin false m e up

/-- The exact integer multiple of 2^q that a finite value is, for q at most its exponent. -/
def Val.scaled (x : Val) (q : Int) : Int :=
  match x with
  | .fin neg m e _ => if neg then - ((m * 2 ^ (e - q).toNat : Nat) : Int) else ((m * 2 ^ (e - q).toNat : Nat) : Int)
  | _ => 0

def Val.exp (x : Val) : Int :=
  match x with
  | .fin _ _ e _ => e
  | _ => 0

/-- x + y, exactly; an exact zero sum of unlike signs is +0, or −0 when rounding toward −infinity (R32). -/
def addVal (mode : Nat) (x y : Val) : Val × Flags :=
  match x, y with
  | .nar, _ | _, .nar => (.nar, 0)
  | .nan a, y => (.nan false, (if a then flNV else 0) ||| sigFlags y)
  | x, .nan b => (.nan false, (if b then flNV else 0) ||| sigFlags x)
  | .inf a, .inf b => if a = b then (.inf a, 0) else (.nan false, flNV)
  | .inf a, _ => (.inf a, 0)
  | _, .inf b => (.inf b, 0)
  | .zero a, .zero b => (.zero (if a = b then a else mode == 3), 0)
  | .zero _, y => (y, 0)
  | x, .zero _ => (x, 0)
  | x, y =>
    let q := min x.exp y.exp
    let t := x.scaled q + y.scaled q
    (if t = 0 then .zero (mode == 3) else valOfInt t q, 0)

def Val.sign (x : Val) : Bool :=
  match x with
  | .inf n | .zero n | .fin n _ _ _ => n
  | _ => false

/-- x × y, exactly. -/
def mulVal (x y : Val) : Val × Flags :=
  match x, y with
  | .nar, _ | _, .nar => (.nar, 0)
  | .nan a, y => (.nan false, (if a then flNV else 0) ||| sigFlags y)
  | x, .nan b => (.nan false, (if b then flNV else 0) ||| sigFlags x)
  | .inf _, .zero _ | .zero _, .inf _ => (.nan false, flNV)
  | .inf a, y => (.inf (a ^^ y.sign), 0)
  | x, .inf b => (.inf (x.sign ^^ b), 0)
  | .zero a, y => (.zero (a ^^ y.sign), 0)
  | x, .zero b => (.zero (x.sign ^^ b), 0)
  | .fin a m e _, .fin b n f _ => (.fin (a ^^ b) (m * n) (e + f) false, 0)

/-- x × y + z with one rounding to come (R169, R170). -/
def fmaVal (mode : Nat) (x y z : Val) : Val × Flags :=
  let p := mulVal x y
  let s := addVal mode p.1 z
  (s.1, p.2 ||| s.2)

/-- Bits of a quotient or a root beyond its leading one. -/
def longBits : Nat := 160

/-- x / y. `tap` gives the tapered cases (R38), which have no infinities; otherwise IEEE 754-2019. -/
def divVal (tap : Bool) (x y : Val) : Val × Flags :=
  match x, y with
  | .nar, _ | _, .nar => (.nar, 0)
  | .nan a, y => (.nan false, (if a then flNV else 0) ||| sigFlags y)
  | x, .nan b => (.nan false, (if b then flNV else 0) ||| sigFlags x)
  | .inf _, .inf _ => (.nan false, flNV)
  | .inf a, y => (.inf (a ^^ y.sign), 0)
  | x, .inf b => (.zero (x.sign ^^ b), 0)
  | .zero a, .zero _ => if tap then (.nar, 0) else (let _ := a; (.nan false, flNV))
  | .zero a, y => (.zero (a ^^ y.sign), 0)
  | x, .zero b => if tap then (.nar, 0) else (.inf (x.sign ^^ b), flDZ)
  | .fin a m e _, .fin b n f _ =>
    let k := longBits + bitLen n
    let num := m * 2 ^ k
    (.fin (a ^^ b) (num / n) (e - f - k) (decide (num % n ≠ 0)), 0)

/-- The integer square root, by bits from `2^i` down. -/
def isqrtFrom (n : Nat) : Nat → Nat → Nat
  | 0, r => r
  | i + 1, r =>
    let c := r + 2 ^ i
    isqrtFrom n i (if c * c ≤ n then c else r)
def isqrt (n : Nat) : Nat := isqrtFrom n (bitLen n / 2 + 1) 0

/-- sqrt(x). -/
def sqrtVal (tap : Bool) (x : Val) : Val × Flags :=
  match x with
  | .nar => (.nar, 0)
  | .nan a => (.nan false, if a then flNV else 0)
  | .inf false => (.inf false, 0)
  | .inf true => (.nan false, flNV)
  | .zero a => (.zero a, 0)
  | .fin true .. => if tap then (.nar, 0) else (.nan false, flNV)
  | .fin false m e _ =>
    let k := 2 * longBits + (if (e - 2 * longBits) % 2 = 0 then 0 else 1)
    let n := m * 2 ^ k
    let r := isqrt n
    (.fin false r ((e - k) / 2) (decide (r * r ≠ n)), 0)

/-- 1 / sqrt(x). -/
def rsqrtVal (tap : Bool) (x : Val) : Val × Flags :=
  match x with
  | .nar => (.nar, 0)
  | .nan a => (.nan false, if a then flNV else 0)
  | .inf false => (.zero false, 0)
  | .inf true => (.nan false, flNV)
  | .zero a => if tap then (.nar, 0) else (.inf a, flDZ)
  | .fin true .. => if tap then (.nar, 0) else (.nan false, flNV)
  | .fin false m e _ =>
    let k := 2 * longBits + 2 * bitLen m + (if e % 2 = 0 then 0 else 1)
    let n := 2 ^ k / m
    let r := isqrt n
    (.fin false r ((-e - k) / 2) (decide (r * r ≠ n) || decide (2 ^ k % m ≠ 0)), 0)

/-! ## Order -/

/-- The order of two values that are no NaN; −0 and +0 are equal, NAR is least (R36). -/
def cmpVal (x y : Val) : Ordering :=
  match x, y with
  | .nar, .nar => .eq
  | .nar, _ => .lt
  | _, .nar => .gt
  | .inf a, .inf b => if a = b then .eq else if a then .lt else .gt
  | .inf a, _ => if a then .lt else .gt
  | _, .inf b => if b then .gt else .lt
  | x, y =>
    let q := min x.exp y.exp
    compare (x.scaled q) (y.scaled q)

/-- Minimum (or maximum) of two values (R170, R36): a NaN gives a NaN, −0 counts as below +0. -/
def minVal (big : Bool) (x y : Val) : Val × Flags :=
  if x.isNar || y.isNar then (.nar, 0)
  else if x.isNan || y.isNan then (.nan false, sigFlags x ||| sigFlags y)
  else
    let less := match cmpVal x y with
      | .lt => true
      | .gt => false
      | .eq => x.sign
    (if less == big then y else x, 0)

/-- T[j] of R50: 2^(j/64) as a multiple of 2^-126. -/
def expTable : List Nat :=
  [0x40000000000000000000000000000000,
   0x40b268f9de0183b9bdf2b293de8a6f7a,
   0x4166c34c5615d0eb9f1523ada3290600,
   0x421d1461d66f20230d7c976509fe8ac1,
   0x42d561b3e6243d8a62e4adc610aa60d9,
   0x438fb0cb4f4688081d0b93e2bda954ab,
   0x444c0740496d4293aefc6bb64c633ab1,
   0x450a6abaa4b77ecd040650ec961b4061] ++
  [0x45cae0f1f545eb737df23143ac529e48,
   0x468d6fadbf2dd4f2da63da4b4720d69b,
   0x47521cc5a2e6a9e016e00a2643c1ea63,
   0x4818ee218a3358ee3bac0a5424a743f1,
   0x48e1e9b9d588e19b07eb6c70572d64ec,
   0x49ad159789f37495e99cca074ec92774,
   0x4a7a77d47f7b84b097457d6892a8ef2a,
   0x4b4a169b900c2d0024754db41d4e1162] ++
  [0x4c1bf828c6dc54b7a356918c17217b7b,
   0x4cf022c9905bfd32721843659a5afe57,
   0x4dc69cdceaa72a9c51540bd151e61f90,
   0x4e9f6cd3967fdba86f24a6782874cd86,
   0x4f7a993048d088d6d0488f84f5dcfee9,
   0x50582887dcb8a7e10c96e3cf6d87ecd5,
   0x513821818624b40c4dbd0277c067ef54,
   0x521a8ad704f3404f068eda418bc0f0f7] ++
  [0x52ff6b54d8a89c750e5ebfb10b88380e,
   0x53e6c9da74b29ab4cf62da6a81cfb958,
   0x54d0ad5a753e077c2a0f12761a98fd3a,
   0x55bd1cdad49f699bb2c011d93acf003d,
   0x56ac1f752150a56324c054647acd1762,
   0x579dbc56b48521ba6f93080e65d9a819,
   0x5891fac0e95612c7c3e81bf4b690aec7,
   0x5988e209548892449f678a6e3cc528ce] ++
  [0x5a827999fcef32422cbec4d9baa55f50,
   0x5b7ec8f19468bbc8838b2f86eeaa0d2d,
   0x5c7dd7a3b17dcf748dc3cbbc2b35b2d1,
   0x5d7fad59099f22fdba6a8ce922c9c1c6,
   0x5e8451cfac061b5f54408fdb3687d7bd,
   0x5f8bccdb3d398841740ae855e5f85c28,
   0x6096266533384a2b3e22beacd28043db,
   0x61a3666d124bb203907642b0945c1d21] ++
  [0x62b39508aa836d6e9f156864b26ecf9c,
   0x63c6ba6455dcd8ae609d171cbb6013bf,
   0x64dcdec3371793d14070fc950288b4bf,
   0x65f60a7f79393e2e7a483e47a2f5fb6e,
   0x6712460a8fc24071f11ac1c7caf96377,
   0x683199ed779592ca6b6a2e32acd26a81,
   0x69540ec8f895722d0912472be1ef2014,
   0x6a79ad55e7f6fd0fac90ef7fd313162d] ++
  [0x6ba27e656b4eb57a1cd345dcc8169fef,
   0x6cce8ae13c57ebdaff439ef651f095d6,
   0x6dfddbcbed791baa9ec206ad4f14d532,
   0x6f307a412f074891ee83d16cf423342d,
   0x70666f76154a7088832c4a8246e999e5,
   0x719fc4b95f452d2884dff483cacc0776,
   0x72dc8373be41a4540f2f47a5276dd876,
   0x741cb5281e25ee343c8bc868563863ef] ++
  [0x75606373ee921c976816bad9b8372a7d,
   0x76a7980f6cca15c2300696db5325fd89,
   0x77f25ccdee6d7ae5a32b0e7b4a46dc89,
   0x7940bb9e2cffd89cf44c054e647a3d26,
   0x7a92be8a924366163dce863d76cc07e2,
   0x7be86fb985689ddc7f486a4b6b07db75,
   0x7d41d96db915019d3e12dd8a18aebfe6,
   0x7e9f06067a4360ba429f9d2c98f07702]

/-- L of R50: ln 2 as a multiple of 2^-128. -/
def expLn2 : Nat := 0xb17217f7d1cf79abc9e3b39803f2f6af

/-- ln 2 to 440 fraction bits, rounded down. -/
def ln2Long : Nat := 0xb17217f7d1cf79abc9e3b39803f2f6af40f343267298b62d8a0d175b8baafa2be7b876206debac98559552fb4afa1b10ed2eae35c13821

/-! ## The defined exp2 (R49, R50) -/

/-- Terms of the series P of R50 from the i-th on: `t` is the i-th term and `x` is w × L, multiples of 2^-128. -/
def expSeries (x : Nat) : Nat → Nat → Nat → Nat
  | 0, _, _ => 0
  | fuel + 1, i, t => t + expSeries x fuel (i + 1) (t * x / 2 ^ 128 / (i + 1))

/-- E(A) as a binary32 pattern (R50). -/
def expE (a : Int) : Nat :=
  let n := a / 2 ^ 32
  let low := (a % 2 ^ 32).toNat
  let j := low / 2 ^ 26
  let w := low % 2 ^ 26
  let x := w * expLn2 / 2 ^ 32
  let p := expSeries x 16 0 (2 ^ 128)
  (encodeIeeeFin 6 false (expTable.getD j 0 * p) (n - 254) false 0).1

/-- E(A) as an exact value. -/
def expEVal (a : Int) : Val := decodeIeee 6 (expE a)

def clamp64 (a : Int) : Int := max (-(2 ^ 63)) (min a (2 ^ 63 - 1))

/-! ## log2, tanh and the logistic function (R171) -/

/-- Fraction bits of the long fixed-point computations. -/
def fxBits : Nat := 400

/-- The next `fuel` binary digits of log2 of y / 2^fxBits, for y in [2^fxBits, 2^(fxBits + 1)). -/
def log2Digits : Nat → Nat → Nat → Nat
  | 0, _, acc => acc
  | fuel + 1, y, acc =>
    let z := y * y / 2 ^ fxBits
    if 2 ^ (fxBits + 1) ≤ z then log2Digits fuel (z / 2) (2 * acc + 1) else log2Digits fuel z (2 * acc)

/-- log2 of a positive m × 2^e. -/
def log2Fin (m : Nat) (e : Int) : Val :=
  let len := bitLen m
  let lead : Int := e + len - 1
  if m = 2 ^ (len - 1) then valOfInt lead 0
  else
    let y := if len - 1 ≤ fxBits then m * 2 ^ (fxBits - (len - 1)) else m / 2 ^ (len - 1 - fxBits)
    let t : Int := lead * 2 ^ 180 + log2Digits 180 y 0
    if 0 ≤ t then .fin false t.toNat (-180) true else .fin true (-t - 1).toNat (-180) true

/-- log2 x (R171). -/
def log2Val (tap : Bool) (x : Val) : Val × Flags :=
  match x with
  | .nar => (.nar, 0)
  | .nan a => (.nan false, if a then flNV else 0)
  | .inf false => (.inf false, 0)
  | .inf true => (.nan false, flNV)
  | .zero _ => if tap then (.nar, 0) else (.inf true, flDZ)
  | .fin true .. => if tap then (.nar, 0) else (.nan false, flNV)
  | .fin false m e _ => (log2Fin m e, 0)

/-- Terms of e^(−r) from the i-th on, alternating, in fixed point: `t` is the i-th term's magnitude. -/
def expNegSeries (r : Nat) : Nat → Nat → Nat → Bool → Int
  | 0, _, _, _ => 0
  | fuel + 1, i, t, minus =>
    (if minus then - (t : Int) else t) + expNegSeries r fuel (i + 1) (t * r / 2 ^ fxBits / (i + 1)) (!minus)

/-- e^(−y) for y = m × 2^e below 2^16: a fixed-point fraction f and n with value f × 2^(−fxBits − n). -/
def expNeg (m : Nat) (e : Int) : Nat × Nat :=
  let y := (roundAt false m e false (-(fxBits : Int)) 1).1
  let ln2 := ln2Long / 2 ^ (440 - fxBits)
  let n := y / ln2
  let r := (y * 2 ^ 40 - n * ln2Long) / 2 ^ 40
  ((expNegSeries r 110 0 (2 ^ fxBits) false).toNat, n)

/-- tanh x (R171): odd; just below |x| for a tiny x and just below 1 for a large one. -/
def tanhVal (x : Val) : Val × Flags :=
  match x with
  | .nar => (.nar, 0)
  | .nan a => (.nan false, if a then flNV else 0)
  | .inf a => (.fin a 1 0 false, 0)
  | .zero a => (.zero a, 0)
  | .fin neg m e _ =>
    let lead : Int := e + bitLen m - 1
    if lead < -60 then (.fin neg (m * 2 ^ 200 - 1) (e - 200) true, 0)
    else if 7 ≤ lead then (.fin neg (2 ^ 200 - 1) (-200) true, 0)
    else
      let t := expNeg m (e + 1)
      let f := t.1 / 2 ^ t.2
      let one := 2 ^ fxBits
      (.fin neg ((one - f) * 2 ^ 220 / (one + f)) (-220) true, 0)

/-- 1 / (1 + e^(−x)) (R171). -/
def sigmoidVal (x : Val) : Val × Flags :=
  match x with
  | .nar => (.nar, 0)
  | .nan a => (.nan false, if a then flNV else 0)
  | .inf true => (.zero false, 0)
  | .inf false => (.fin false 1 0 false, 0)
  | .zero _ => (.fin false 1 (-1) false, 0)
  | .fin neg m e _ =>
    let lead : Int := e + bitLen m - 1
    if 16 ≤ lead then
      (if neg then .fin false 1 (-65536) true else .fin false (2 ^ 200 - 1) (-200) true, 0)
    else
      let t := expNeg m e
      let one := 2 ^ fxBits
      if neg then
        (.fin false (t.1 * 2 ^ (fxBits + 40 + t.2) / (one * 2 ^ t.2 + t.1)) (-(fxBits + 40 + t.2 : Nat) : Int) true, 0)
      else
        (.fin false (one * 2 ^ (300 + t.2) / (one * 2 ^ t.2 + t.1)) (-300) true, 0)

/-! ## The exact cell (R47, R48) -/

/-- What `ToCell` gives: nothing, beyond range, or the addend modulo 2^256 and whether it was rounded. -/
inductive CellAddend where
  | none
  | beyond
  | some (y : Nat) (rounded : Bool)
  deriving DecidableEq, Repr

/-- `ToCell` with its flags (R47); NAR counts as a NaN (R145). -/
def toCell (x : Val) : CellAddend × Flags :=
  match x with
  | .nar | .nan _ | .inf _ => (.none, flNV)
  | .zero _ => (.some 0 false, 0)
  | .fin _ m e up =>
    if cmpMag m e up 1 127 = .lt then
      let r := roundInt x 128 0
      (.some (lowBits r.1 256) r.2, if r.2 then flNX else 0)
    else (.beyond, flOF)

/-- The value of a cell (R48). -/
def cellVal (c : Nat) : Val := valOfInt (signed c 256) (-128)

end Sys2Proof.Machine
end

