-- ==== Sys2Proof/Config.lean ====
section
/-!
DEFINITION. What an implementation or an installation fixes, and the free values: constants with no body, of which nothing
can be proved.
-/
namespace Sys2Proof.Config

/-- The time, in ck beyond the least, of an act whose time the manual does not promise (R136, R227, R299); the
argument is a counter the step advances. -/
opaque latency : Nat → Nat

/-- The byte a device register gives to a read of the matrix path, by its address and a counter the step advances (R409). -/
opaque deviceByte : Nat → Nat → BitVec 8

/-- The requester ID that the host has given the function of a host port (R409). -/
opaque portRequester : Nat → Nat

/-- The carr link that firmware chooses as the route to a peer package, by the links that are down (R412). -/
opaque carrRoute : Nat → List Nat → Option Nat

/-- Whether and how many ck after its failure a carr link is trained again (R411, R412), by the link and a counter the step advances. -/
opaque carrRetrain : Nat → Nat → Option Nat

/-- The peer on which a tag is open, with the tenant's INST and PERIOD there, as its firmware answers over the SPDM session of the link
(R413), by the tag and a counter the step advances. -/
opaque peerTenant : Nat → Nat → Option (Nat × Nat × Nat)

/-- The package that is home to an extent, as the placement maps of the space say (R412), by the extent and a counter the step
advances. -/
opaque peerHome : Nat → Nat → Option Nat

/-- Where firmware begins its search for a free tag (R369), by a counter the step advances. -/
opaque firstTag : Nat → Nat

/-- Which of the entries that may go a full instruction cache or placement cache gives up (R13, R252), by a counter the step
advances. -/
opaque victim : Nat → Nat

/-- The set of a line in an L1 of 64 sets (R253). Which bits of the address choose the set is the model's choice (log entry 58). -/
def l1Set (line : Nat) : Nat := line % 64
/-- The set of a line in an L2 slice: 2 MiB of 16 ways and 128-byte lines make 1,024 sets (R11). Which bits choose the set is the
model's choice (log entry 58). -/
def l2Set (line : Nat) : Nat := line % 1024

/-- The signature of `ATTEST` under the attestation key of an instance (R372, R403). -/
opaque attestSign : Nat → Nat → List (BitVec 8) → List (BitVec 8)

/-- Where Phollaiz begins its search for free extents to hold an image (R364), by a counter the step advances. -/
opaque firstCodeExtent : Nat → Nat

/-- The package's number in its address space (R243). -/
opaque packageNumber : BitVec 6
/-- The number of packages in the address space, less 1 (R243). -/
opaque packagesM1 : BitVec 6
/-- Qualified second-tier capacity in bytes (R11, R243). -/
def tierBytes : Nat := 8 * 2 ^ 40
/-- Extents of bonded DRAM per die (R11): 512 GiB in four stacks, 2 MiB each. The spec does not say whether the shadow banks, which lie
in the bonded DRAM, take room from the extents; that they take none is the model's choice (log entry 59). -/
def dramExtents : Nat := 128 * 2 ^ 30 / 2 ^ 21
/-- Error log ring (R395). -/
def logEntries : Nat := 8192
/-- Tiles of the package (R11). -/
def tiles : Nat := 5120
/-- Cores of the package (R11). -/
def cores : Nat := 15360

end Sys2Proof.Config
end

