-- ==== Sys2Proof/Machine/Map.lean ====
section
/-!
DEFINITION. Finite maps and sets as plain data. A map is a list of (key, value) pairs with keys strictly rising and no
entry equal to what an unlisted key reads as, so that equal maps are equal lists. The machine's memory, registers,
slots and tables are such maps.
-/
namespace Sys2Proof

/-- A map from numbers, as a list of its entries. -/
abbrev FMap (α : Type) := List (Nat × α)

/-- The value at a key; `d` is what an unlisted key reads as. -/
def FMap.get {α : Type} (d : α) : FMap α → Nat → α
  | [], _ => d
  | (k, v) :: rest, n => if n = k then v else FMap.get d rest n

/-- Put the entry `v` at a key, or remove it when `v` is what an unlisted key reads as. -/
def FMap.set {α : Type} [DecidableEq α] (d : α) : FMap α → Nat → α → FMap α
  | [], n, v => if v = d then [] else [(n, v)]
  | (k, w) :: rest, n, v =>
    if n < k then (if v = d then (k, w) :: rest else (n, v) :: (k, w) :: rest)
    else if n = k then (if v = d then rest else (n, v) :: rest)
    else (k, w) :: FMap.set d rest n v

/-- The canonical form: keys strictly rising from `lo`, no entry equal to `d`. -/
def FMap.wfFrom {α : Type} [DecidableEq α] (d : α) : Nat → FMap α → Bool
  | _, [] => true
  | lo, (k, v) :: rest => decide (lo ≤ k) && decide (v ≠ d) && FMap.wfFrom d (k + 1) rest

/-- The canonical form. -/
def FMap.wf {α : Type} [DecidableEq α] (d : α) (m : FMap α) : Bool := FMap.wfFrom d 0 m

/-- Put `v` at each of the keys `n`, `n + 1`, … for the values of a list. -/
def FMap.setMany {α : Type} [DecidableEq α] (d : α) (m : FMap α) (n : Nat) : List α → FMap α
  | [] => m
  | v :: vs => FMap.setMany d (m.set d n v) (n + 1) vs

/-- The values at the keys `n`, …, `n + len - 1`. -/
def FMap.getMany {α : Type} (d : α) (m : FMap α) (n : Nat) : Nat → List α
  | 0 => []
  | len + 1 => m.get d n :: FMap.getMany d m (n + 1) len

/-- Remove every entry whose key lies in `[lo, hi)`. -/
def FMap.clear {α : Type} (m : FMap α) (lo hi : Nat) : FMap α :=
  m.filter fun e => e.1 < lo || hi ≤ e.1

/-- Change every list of a map of lists; a list that becomes empty is no longer listed. -/
def FMap.mapNonempty {α : Type} (f : List α → List α) : FMap (List α) → FMap (List α)
  | [] => []
  | (k, v) :: rest =>
    match f v with
    | [] => FMap.mapNonempty f rest
    | w => (k, w) :: FMap.mapNonempty f rest

/-- A set of numbers, as a strictly rising list. -/
abbrev NSet := List Nat

/-- Add a number. -/
def NSet.insert : NSet → Nat → NSet
  | [], n => [n]
  | k :: rest, n => if n < k then n :: k :: rest else if n = k then k :: rest else k :: NSet.insert rest n

/-- Remove a number. -/
def NSet.erase (s : NSet) (n : Nat) : NSet := s.filter (· != n)

/-- The canonical form of a set: strictly rising from `lo`. -/
def NSet.wfFrom : Nat → NSet → Bool
  | _, [] => true
  | lo, k :: rest => decide (lo ≤ k) && NSet.wfFrom (k + 1) rest

/-- The canonical form of a set. -/
def NSet.wf (s : NSet) : Bool := NSet.wfFrom 0 s

/-- Apply a function to the first entry of a list that satisfies a test. -/
def modifyFirst {α : Type} (p : α → Bool) (f : α → α) : List α → List α
  | [] => []
  | x :: xs => if p x then f x :: xs else x :: modifyFirst p f xs

/-- Remove the first entry that satisfies a test. -/
def removeFirst {α : Type} (p : α → Bool) : List α → List α
  | [] => []
  | x :: xs => if p x then xs else x :: removeFirst p xs

end Sys2Proof
end

