-- ==== Sys2Proof/Machine/State.lean ====
section
/-!
DEFINITION. The state of the package as plain data (00, 01 R11 to R25, and the chapters each field names), the reasons a
step can stop, and the state after reset: the end of a successful start-up (R397). Large tables are canonical
maps (Machine/Map.lean) keyed by number. A core is numbered 3 × tile + kind, a tile y × 128 + x (R12), a slot
16 × core + slot number.
-/
namespace Sys2Proof.Machine

open Sys2Proof

/-! ## Units -/

/-- A bound register (R126). -/
structure Bound where
  base  : Word
  limit : Word
  deriving DecidableEq, Repr

/-- The purposes of a request to a unit (R339). -/
inductive Purpose where
  | preempt
  | spill
  | swap
  | reload
  deriving DecidableEq, Repr

/-- A trap on its way to a record (R330, R332): cause, ADDR, AUX, CODE, MASK, and the deferred and non-parking marks. -/
structure Trap where
  cause   : Nat
  addr    : Word := 0
  aux     : Word := 0
  code    : Nat := 0
  mask    : Mask := 0
  defer   : Bool := false
  nonpark : Bool := false
  deriving DecidableEq, Repr

/-- A trap with the PC and the resume PC its record will name. -/
structure TrapAt where
  trap : Trap
  pc   : Word
  rpc  : Word
  deriving DecidableEq, Repr

/-- A trap held in a unit's image until it is resumed (R343), with the ck it was raised in. -/
structure HeldTrap where
  trap : TrapAt
  cyc  : Nat
  deriving DecidableEq, Repr

/-- On whose behalf an access is made: the tile, the core, the unit's serial number and UNIT, the tenant whose keys are
used, and the sealed image of its job. -/
structure Who where
  tile  : Nat
  core  : Nat
  unit  : Nat
  uid   : BitVec 24
  tag   : Nat
  image : Word
  deriving DecidableEq, Repr

/-- A piece of a store: the lane it starts at, its address, and its bytes with their memory keys. -/
structure Piece where
  lane  : Nat
  addr  : Word
  cells : List (Nat × Byte)
  deriving DecidableEq, Repr

/-- What a store buffer entry performs (R135): byte pieces in ascending lane or line order, an atomic, a counter
addition, or a semaphore post. `keys` are the memory keys of the object. -/
inductive StoreKind where
  | bytes (pieces : List Piece)
  | amo (fn ty : Nat) (addr : Word) (keys : List Nat) (x new : Word)
  | cntAdd (addr : Word) (keys : List Nat) (x : Word)
  | sem (n : Nat)
  deriving DecidableEq, Repr

/-- A store buffer entry (R135, R136): its number, in one order with the operations of the engines; its unit and core, its unit's launch,
the storing instruction's PC, the access size its deferred record names, the lanes that share the pieces of a `vst` (R166: their bytes, and
their address modulo that), and its cache hint (R257). -/
structure StoreEntry where
  num  : Nat
  who  : Who
  launch : LaunchId
  pc   : Word
  size : Nat
  lanes : Option (Nat × Nat)
  hint : Nat
  kind : StoreKind
  deriving DecidableEq, Repr

/-- A slot's context (R20, R187) with the identity of its unit. `key` is the model's own serial number of the unit.
Scalars, rows and tags not listed read 0; masks m1 to m7 and bounds not listed are empty. `carries` lists the HELD
carries. `purposes` are the pending requests (R339), `held` the store entries held in a parked image (R136),
`failed` a deferred store trap the buffer has reported, `popping` marks a `done` whose frame and weight are
settled and whose pop is still to be made (R232), `doomed` the mark
of an end that waits for the matrix array (R199), `deferred` a record held while sealed (R343), `pass` the windows
(16 × tile + w) whose fill this unit's access waited for and that ended: its access does not touch them again (R225), and the extents
(2^20 + n) that its access waited for: it has passed its reach check (R250, R377), `running` the
instruction that a waiting unit goes on with when its wait ends (R59), `posting` the header of a `post` whose JN increase has been made and
whose Split is still to be made (R233). -/
structure Ctx where
  key      : Nat
  regs     : FMap Word
  pend     : NSet
  pois     : NSet
  rows     : FMap Row
  tags     : FMap (BitVec 4)
  guards   : BitVec 8
  masks    : FMap Mask
  bounds   : FMap Bound
  carries  : FMap (List Int)
  tileSat  : NSet
  ssmPtr   : Option Word
  pc       : Word
  stat     : BitVec 64
  geo      : Word
  uid      : BitVec 24
  tag      : Nat
  pid      : Nat
  trec     : Word
  seq      : BitVec 32
  arrival  : Bool
  job      : Nat
  launch   : Nat
  phase    : Nat
  started  : Bool
  idle     : Bool
  popping  : Bool
  backoff  : Nat
  colls    : FMap Nat
  purposes : List Purpose
  held     : List StoreEntry
  failed   : Option TrapAt
  doomed   : Option Mark
  deferred : Option HeldTrap
  pass     : NSet
  running  : Option Instr
  posting  : Option Nat
  deriving DecidableEq, Repr

/-- One register write a reply delivers (R59). -/
inductive RegWrite where
  | scalar (n : Nat) (v : Word)
  | row (n : Nat) (bits : Row) (tag : BitVec 4)
  | bound (n : Nat) (b : Bound)
  | guardBit (n : Nat) (v : Bool)
  | carry (n : Nat) (c : List Int)
  | tileSat (n : Nat)
  | flags (mask : BitVec 6)
  deriving DecidableEq, Repr

/-- What a memory reply delivers: the register writes, the next PC, and a watch trap to take after them (R329). -/
structure Reply where
  writes : List RegWrite
  npc    : Word
  watch  : Option Trap
  deriving DecidableEq, Repr

/-- A posted task (R233, R300). -/
structure Task where
  phase : PhaseId
  k     : Nat
  frame : Word
  pc    : Word
  deriving DecidableEq, Repr

/-- Why a slot is out of the rotation (R59). A wait with a next PC `npc` completes its instruction when it ends; after any other
wait the unit's instruction goes on where it stopped, without an issue. `token` lists the registers awaited; `loc` is where the awaited object lies (a memory key); `realign` keeps the units it still
waits for (R67); `safe` is a unit at a safe point with a request, until the ck has ended (R326, R339); `deque` is a unit whose core's
deque has performed its operation of the ck (R298). -/
inductive Wait where
  | token (regs : List Nat)
  | reply (r : Reply)
  | bufferFull
  | drain
  | mmac (r : Reply)
  | sem (n : Nat) (npc : Word)
  | bar (addr : Word) (loc : Nat) (gen : BitVec 32) (dst : Nat) (npc : Word)
  | cnt (addr : Word) (loc : Nat) (limit : Word) (npc : Word)
  | sync (addr : Word) (loc : Nat) (npc : Word)
  | quiet (dst : Nat) (npc : Word)
  | sleep (until_ : Option Nat) (npc : Word)
  | realign (until_ : Nat) (units : List Nat) (npc : Word)
  | safe (npc : Word)
  | icache (line : Nat)
  | extent (n : Nat)
  | window (tile w : Nat)
  | bank (b : Nat)
  | devreg (addr : Word) (parts : List (Word × Nat)) (got : List Byte) (load : Nat) (dsts : List Nat) (npc : Word)
      (watch : Option Trap)
  | borrow
  | borrowRefused
  | migration
  | queue (ext : Ext)
  | swapPlanes (npc : Word)
  | planeLoad
  | ssmEngine
  | ssmRun (limit dst : Nat) (npc : Word)
  | idleRound (until_ : Nat)
  | dequeFull
  | deque
  | segmentFull (seg : Nat) (task : Task) (npc : Word)
  deriving DecidableEq, Repr

/-- Why a slot is parked (R55): a trap whose record has been delivered, with its resume PC, the store entries staying
in the context; held by an escalation; or taken for a spill or a swap, with the resume PC of a parked unit. -/
inductive Parked where
  | trap (rpc : Word)
  | taken (rpc : Option Word)
  deriving DecidableEq, Repr

/-- The state of an occupied slot (R55). `ready at` and `since` hold the ck it rejoined or left the rotation. A slot is `resuming`
within the ck in which its wait ends, until its instruction goes on (R59). -/
inductive SlotMode where
  | ready (at_ : Nat)
  | waiting (w : Wait) (since : Nat)
  | resuming (since : Nat)
  | migrating (target : Nat) (since : Nat)
  | incoming (source : Nat)
  | restoring (unit : Nat)
  | parked (p : Parked)
  deriving DecidableEq, Repr

/-- A slot: empty, or a unit with its context; the `incoming` slot of a migration and the `restoring` slot of a resume hold
no context yet. -/
structure Slot where
  mode   : SlotMode
  issued : Option Nat
  unit   : Option Ctx
  deriving DecidableEq, Repr

/-- A slot by core and number. -/
structure SlotRef where
  core : Nat
  slot : Nat
  deriving DecidableEq, Repr

/-! ## Memory -/

/-- The seal of a line (R372, R373): whose keys, under which rekey period, and whether the code-seal key. -/
structure Seal where
  tag    : Nat
  inst   : Nat
  period : Nat
  code   : Bool
  deriving DecidableEq, Repr

/-- The states of an extent (R249); an unlisted extent is unallocated. -/
inductive ExtState where
  | unallocated
  | present
  | absent
  | moving
  | fenced
  deriving DecidableEq, Repr

/-- Where an extent lies or is backed (R249, R250, R405): bonded DRAM of a die, the CXL tier, a peer, or nowhere. -/
inductive Place where
  | none
  | dram (die : Nat)
  | cxl (port : Nat)
  | peer (pkg : Nat)
  deriving DecidableEq, Repr

/-- An entry of the placement map (R249): state, owner, sealed-code mark, place, the seal of its lines that nothing has
written, whether it was ever present, and its last access. -/
structure Extent where
  state   : ExtState
  owner   : Nat
  inst    : Nat
  code    : Bool
  place   : Place
  fill    : Seal
  ever    : Bool
  touched : Nat
  target  : Place
  deriving DecidableEq, Repr

/-- A line in an L1 (R253): the tile whose L1, or whose slice of a fused L1 (R256), holds it; its valid bytes; its dirty bytes
by offset; and the last writer's tenant, UNIT and sealed image (R255). A valid byte that is not dirty has the home's value: the
home changes no byte of a line before every L1 copy of it is gone. -/
structure L1Line where
  owner : Nat
  line  : Nat
  valid : BitVec 128
  dirty : FMap (Option Byte)
  tag   : Nat
  uid   : BitVec 24
  image : Word
  deriving DecidableEq, Repr

/-- A line in an L2 slice (R252, R258): its slice (80 × die + slice), its way, the class it was filled for, and whether its bytes
differ from those of the extent's backing memory. Its bytes are the home's; the older ones that a dirty line leaves behind in
backing memory are not held, because no access can reach them. -/
structure L2Line where
  slice : Nat
  way   : Nat
  line  : Nat
  cls   : Nat
  dirty : Bool
  deriving DecidableEq, Repr

/-- The power state of a scratchpad bank or an L2 way (R246, R388) with the ck of its last access or of the transition's end;
`wanted` says that an access waits for the exit that follows the entry. -/
inductive BankState where
  | awake (last : Nat)
  | entering (until_ : Nat) (wanted : Bool)
  | retained
  | exiting (until_ : Nat)
  deriving DecidableEq, Repr

/-- A window of a tile's region table (R223). STATE is 0 unbound, 1 ABSENT, 2 FILLING, 3 PRESENT; `code` is the fill's
failure code, 0 when FAILED is clear; `tag` the owner of the binding. -/
structure Window where
  lbase : Nat
  len   : Nat
  gbase : Word
  state : Nat
  code  : Nat
  mark  : Bool
  deriving DecidableEq, Repr

/-! ## Engines -/

/-- The operand of an operation in flight (R212 to R230, R235). A gather or scatter keeps the count it read and the index of
the element it is at, a merge the bytes of a pair still to be written, a message its payload once read. -/
inductive OpKind where
  | copy (dst src : Word) (len : Nat)
  | slab (off : Nat) (glob : Word) (dir : Bool) (nb blk x0 y0 x1 y1 : Nat)
  | gather (scatter : Bool) (dst src list : Word) (z : Nat) (count : Option Nat) (idx : Nat)
  | fill (dst : Word) (len : Nat) (quad : Word)
  | merge (dst a b : Word) (na nb ty i j : Nat) (rest : List Byte)
  | window (w : Nat)
  | grant (dst : Word) (coord : Word)
  | message (recv src : Word) (len : Nat) (payload : Option (List Byte))
  | coll (fn op ty scope : Nat) (dst src : Word) (len index : Nat)
  deriving DecidableEq, Repr

/-- An operation in flight: its number, the issuing tile and core, the unit and the logical frame its addresses were
bound in, the issuing PC, the token register, bytes done, the counter of R217, the weight it carries, a stop that is
under way with the mark of its weight, and the failure code of a window fill. `waits` is the extent that it waits on (R250), `passed`
the accesses of its next burst (address, bytes, write) that have passed their reach check (R377), and `moved` the core that a message
of a team that has moved is redirected to (R346). -/
structure Op where
  id      : Nat
  tile    : Nat
  core    : Nat
  unit    : Nat
  uid     : BitVec 24
  geo     : Word
  job     : Nat
  launch  : Nat
  phase   : Nat
  tag     : Nat
  pc      : Word
  token   : Nat
  kind    : OpKind
  done    : Nat
  counter : Option Word
  cb      : Bool
  weight  : Option Nat
  stop    : Option Mark
  code    : Nat
  dead    : Bool
  waits   : Option Nat
  passed  : List (Word × Nat × Bool)
  moved   : Option Nat
  deriving DecidableEq, Repr

/-- A message (R230, R334): class, sender's UNIT, payload, weight and its phase; class 7 messages note their kind. -/
structure Msg where
  cls     : Nat
  uid     : BitVec 24
  payload : List Byte
  weight  : Option (Nat × PhaseId)
  kind    : Nat
  deriving DecidableEq, Repr

/-- A weight plane and its plane record (R187, R189). `codes` is the code at K k of column c at key 256c + k; `scales` and
`sums` are keyed 64j + c. G is 0 for none; WFMT 15 is empty. A failure mark holds the trap it raises. -/
structure Plane where
  codes  : FMap (BitVec 32)
  scales : FMap (BitVec 32)
  sums   : FMap (BitVec 16)
  wfmt   : Nat
  g      : Nat
  h      : Nat
  sfmt   : Nat
  cf     : Bool
  sf     : Bool
  failc  : Option Trap
  fails  : Option Trap
  deriving DecidableEq, Repr

/-- A posted plane load (R193, R194): whose it is, codes or scales, the format, the group size and half of a scale load, and
the memory keys of each column, scale word and code sum in order. -/
structure PlaneLoad where
  who    : Who
  scales : Bool
  ty     : Nat
  g      : Nat
  h      : Nat
  parts  : List (List Nat)
  deriving DecidableEq, Repr

/-- What stands in the port of a K-core: a posted load, or the `mwsw` of a unit (R195), with the ck of its issue. -/
inductive PortEntry where
  | load (l : PlaneLoad) (at_ : Nat)
  | swap (unit at_ : Nat)
  deriving DecidableEq, Repr

/-- The matrix side of a K-core (R187, R195, R199, R207): the last stream ck of its array, the loads and swaps not yet completed,
oldest first, and the state-space engine's holder, its waiters, the chunks it has run, and the control block and the state as they were
read for the chunk that runs. `portWait` and `chunkWait` are what the load at the head of the port, and the chunk, wait for (R250). -/
structure Array where
  lastE   : Nat
  port    : List PortEntry
  holder  : Option Nat
  waiters : List Nat
  ran     : Nat
  block   : List Byte
  h0      : List Byte
  portWait  : Option Wait
  chunkWait : Option Wait
  deriving DecidableEq, Repr

/-! ## Tasks and launches -/

/-- A deque entry (R297). A spilled entry lies in its launch's spill area at the address `spilled`. `age` numbers the pushes of the
package, so that entries that move keep their age order (R346). -/
structure DequeEntry where
  job     : Nat
  launch  : Nat
  phase   : Nat
  k       : Nat
  uid     : BitVec 24
  frame   : Word
  pc      : Word
  age     : Nat
  spilled : Option Word
  deriving DecidableEq, Repr

/-- The root weight cell of a phase (R293) and whether the phase is complete (R314). -/
structure Phase where
  id      : PhaseId
  depth   : Nat
  exp     : Nat
  ret     : Nat
  fault   : Bool
  cancel  : Bool
  borrows : Nat
  deriving DecidableEq, Repr

/-- The states of a launch (R321). A Gathering gang names the origin it gathers at. -/
inductive LaunchState where
  | waiting
  | ready
  | gathering (origin : Nat)
  | placed
  | retired
  | cancelled
  deriving DecidableEq, Repr

/-- A unit of a launch that has no slot (R324, R341): its tile's rank in the team and its LSLOT. A unit that was taken has an
image; `rpc` is the resume PC of a parked image, `core` the core it was taken from, `slot` the slot its image is being
restored into, `under` the seal of its image (R394), and `bad` marks an image whose seal will fail its check. -/
structure Pending where
  rank  : Nat
  lslot : Nat
  image : Option Ctx
  rpc   : Option Word
  core  : Nat
  slot  : Option Nat
  under : Seal
  bad   : Bool
  deriving DecidableEq, Repr

/-- The fields of a launch descriptor that act after acceptance (R316). -/
structure Desc where
  pc     : Word
  nx     : Nat
  ny     : Nat
  dnx    : Nat
  dny    : Nat
  tw     : Nat
  th     : Nat
  units  : Nat
  kind   : Nat
  part   : Part
  gang   : Bool
  fuse   : Bool
  den    : Bool
  prio   : Nat
  depth  : Nat
  graph  : Nat
  phase  : Nat
  preds  : List Nat
  arga   : Word
  cnta   : Word
  spillb : Word
  spillsz : Nat
  argn   : Nat
  deriving DecidableEq, Repr

/-- A launch record (R314 to R326). `queue` lists the units without a slot, oldest first; `origin` the placement's
lower corner; `prio` is its effective priority (R322); `holds` its weight exponent in its phase, `parent` the quantum of the issuer's phase (R318); `taking` says that its units are
being taken for a pre-emption (R325, R326), and `sliceEnd` is 0 when its slice has expired for one. `reserved` lists the slots that a Gathering gang holds (R323), and a launch that
re-entered Ready at the head of its priority has a `head` above 0, the last one the greatest. `adding` is a launch that has retired
and whose addition at CNTA is still to be made (R320). -/
structure Launch where
  id       : LaunchId
  phase    : Nat
  graph    : Nat
  desc     : Desc
  prio     : Nat
  args     : List Word
  bounds   : FMap Bound
  state    : LaunchState
  entered  : Nat
  order    : Nat
  ticket   : Option Nat
  origin   : Option Nat
  reserved : List Nat
  head     : Nat
  queue    : List Pending
  count    : Nat
  total    : Nat
  next     : Nat
  holds    : Option Nat
  parent   : Option (Nat × PhaseId)
  sliceEnd : Nat
  taking   : Bool
  adding   : Bool
  reached  : Bool
  deriving DecidableEq, Repr

/-- A job (R314, R403): its partition, image, record region, tiles in rank order, and counters. `hung` holds the entries of the setter
tables, as (unit, ck of its wait), that the job's last hang was declared with (R302). -/
structure Job where
  handle   : Nat
  pid      : Nat
  tag      : Nat
  image    : Word
  rbase    : Word
  tiles    : List Nat
  nextH    : Nat
  tickets  : Nat
  idleFrom : Nat
  hung     : Option (List (Nat × Nat))
  phases   : Nat
  deriving DecidableEq, Repr

/-! ## Tenants and firmware -/

/-- A range of a reach set (R376). -/
structure Range where
  base  : Nat
  limit : Nat
  rd    : Bool
  wr    : Bool
  inb   : Bool
  deriving DecidableEq, Repr

/-- A tile rectangle (R404). -/
structure Rect where
  x0 : Nat
  y0 : Nat
  x1 : Nat
  y1 : Nat
  deriving DecidableEq, Repr

/-- A tenant (R369 to R377): its partition, limits, way class, period, sweep state (the next extent number to visit, or
none when no sweep runs), bound generation and reach set, the packages on which it is open too, and the ck by which each of them has
reported the end of its sweep (R413, R414). -/
structure Tenant where
  tag      : Nat
  inst     : Nat
  pid      : Nat
  rects    : List Rect
  slice    : Nat
  deadline : Nat
  cls      : Nat
  period   : Nat
  prepared : Bool
  sweep    : Option Nat
  bgen     : BitVec 32
  reach    : List Range
  halted   : Bool
  peers    : List Nat
  swept    : Nat
  deriving DecidableEq, Repr

/-- An inbound window (R378). -/
structure InWindow where
  num  : Nat
  tag  : Nat
  base : Nat
  limit : Nat
  req  : Nat
  rd   : Bool
  wr   : Bool
  ide  : Bool
  deriving DecidableEq, Repr

/-- A revocation in progress (R365): the tenant, the range, the steps done, the units that must still pass a safe point,
and its deadline. -/
structure Revocation where
  tag      : Nat
  lo       : Nat
  hi       : Nat
  stage    : Nat
  units    : List Nat
  deadline : Nat
  ch       : Option Nat
  deriving DecidableEq, Repr

/-- The record of a kernel in a sealed image (R364): its entry, its class (0 actor, 1 launch kernel, 2 supervisor), its shape,
the repetitions and the producers of an actor (R351, R352), and its argument buffers, each with its argument register,
its space (0 global, 1 local), its bytes and its bound register. -/
structure Kernel where
  entry : Word
  cls   : Nat
  nx    : Nat
  ny    : Nat
  dnx   : Nat
  dny   : Nat
  den   : Bool
  tw    : Nat
  th    : Nat
  units : Nat
  kind  : Nat
  part  : Part
  q     : Nat
  prods : List Nat
  bufs  : List (Nat × Nat × Nat × Nat)
  deriving DecidableEq, Repr

/-- A sealed image (R364): its base, owner, first extent and extent count, kernels, the buffers (BASE and bytes) its descriptors
bound with the descriptor's address, the buffers its certificates name, the bytes of its attestation record, and the buffers whose
placement a revocation of their grants has ended. -/
structure Image where
  base    : Word
  tag     : Nat
  first   : Nat
  count   : Nat
  kernels : List Kernel
  bufs    : List (Word × Nat × Word)
  certs   : List Nat
  record  : List Byte
  ended   : List Nat
  deriving DecidableEq, Repr

/-- A run of an image's periods (R352). -/
structure PeriodRun where
  id     : Nat
  job    : Nat
  image  : Word
  left   : Option Nat
  period : Nat
  phase  : Nat
  last   : List Nat
  deriving DecidableEq, Repr

/-- An error log entry (R395). -/
structure LogEntry where
  cyc   : Nat
  addr  : Nat
  aux   : Nat
  uid   : Nat
  tag   : Option Nat
  count : Nat
  src   : Nat
  type  : Nat
  deriving DecidableEq, Repr

/-- A command that a channel has accepted (R401, R402): its code, payload and sequence number, its place in mailbox order, the tenant
that it names itself or through a partition, a job or a window, whether that tenant has been closed since (R407), and whether firmware has
begun it. -/
structure Accepted where
  code   : Nat
  quads  : List Word
  seq    : BitVec 32
  order  : Nat
  names  : Option Nat
  closed : Bool
  begun  : Bool
  deriving DecidableEq, Repr

/-- A mailbox channel (R400): DOOR and the request payload as the host has written them (224 quads, unlisted ones 0), STATE, the reply,
and the command it works on with the status it will complete with, once that is known. -/
structure Channel where
  door    : Word
  payload : FMap Word
  doneSeq : BitVec 32
  busy    : Bool
  seen    : Bool
  status  : Nat
  drop    : Nat
  reply   : List Word
  work    : Option Accepted
  result  : Option Nat
  deriving DecidableEq, Repr

/-- What the power and boot state of the device is (R397, R399). -/
inductive Power where
  | off
  | starting
  | running
  | minimal
  deriving DecidableEq, Repr

/-- Flash and boot state (R397 to R399, R369): failed starts in a row, reasons oldest first, BOOT, version floors by
image, the start's ck while one is in progress, and the instance counter. -/
structure Boot where
  counter : Nat
  reasons : List Nat
  kind    : Nat
  floors  : FMap Nat
  started : Option Nat
  inst    : Nat
  deriving DecidableEq, Repr

/-- The links (R397, R408 to R412): the ones that are down; the width and speed that a host port has trained at, as lanes + 256 × PCIe
generation, ×16 at 7.0 where none is listed (R408); whether the host forbids peer-to-peer writes (R409); and CXL ports and carr links
that retrain, peers whose route moves and peers that cannot be reached, each with the ck its wait ends. -/
structure Links where
  hostDown   : NSet
  hostTrain  : FMap Nat
  acs        : Bool
  cxlDown    : NSet
  cxlTrain   : FMap Nat
  carrDown   : NSet
  carrTrain  : FMap Nat
  carrMoving : FMap Nat
  unreach    : FMap Nat
  deriving DecidableEq, Repr

/-- Thermal state (R422, R423): the sensors whose last reading was above 110, whether the last reading had one above 95, and the ck in
which the next reading is due. -/
structure Thermal where
  hot      : NSet
  warn     : Bool
  due      : Nat
  deriving DecidableEq, Repr

/-- A placement request (R250, R140): extent, die it came from, and priority. -/
structure PlaceReq where
  extent : Nat
  die    : Nat
  low    : Bool
  deriving DecidableEq, Repr

/-- A saved partition image in the shadow banks (R342): the partition, its slots by key, the scratchpads' bytes, poison
marks, region tables, semaphores, planes, arrays, deques, message stores, lost counts, bindings and record areas of its tiles,
the seal it lies under, and whether its seal will fail its check. -/
structure SwapImage where
  pid     : Nat
  under   : Seal
  slots   : FMap Slot
  mem     : FMap Byte
  poison  : NSet
  windows : FMap Window
  sems    : FMap (BitVec 32)
  planes  : FMap Plane
  arrays  : FMap Array
  deques  : FMap (List DequeEntry)
  msgs    : FMap (List Msg)
  lost    : FMap Nat
  binds   : FMap (Option Nat)
  tvec    : FMap Word
  parts   : FMap Part
  bad     : Bool
  deriving DecidableEq, Repr

/-- A partition swap that firmware has requested (R342): the partition, its deadline, and whether the exchange has begun
(it ends at `until_`). -/
structure SwapReq where
  pid      : Nat
  deadline : Nat
  until_   : Option Nat
  deriving DecidableEq, Repr

/-- What an access of device registers is on the bus (R409): a non-posted Memory Read of a number of bytes, or a posted Memory Write. -/
inductive BusOp where
  | read (bytes : Nat)
  | write (bytes : List Byte)
  deriving DecidableEq, Repr

/-- An access of device registers on its way to the host's hierarchy (R409): the port it leaves through, the requester ID of that port's
function, Relaxed Ordering and No Snoop, the bus address, and what it does. -/
structure BusAccess where
  port      : Nat
  requester : Nat
  relaxed   : Bool
  noSnoop   : Bool
  addr      : Word
  op        : BusOp
  deriving DecidableEq, Repr

/-- An answer to a request from outside (R378, R275): whom it goes to, 0 for success, 1 for Unsupported Request, 2 for
Completer Abort, and the bytes of a read. -/
structure Answer where
  who    : Nat
  status : Nat
  data   : List Byte
  deriving DecidableEq, Repr

/-! ## The state -/

/-- State of the tiles and cores. `dequeAt` holds one more than the ck of a deque's last operation (R298). -/
structure Fabric where
  parts   : FMap Part
  owners  : FMap (Option Nat)
  hold    : FMap Nat
  fenced  : NSet
  tvec    : FMap Word
  last    : FMap Nat
  vbusy   : FMap (Option Nat)
  binds   : FMap (Option Nat)
  slots   : FMap Slot
  lost    : FMap Nat
  sbuf    : List StoreEntry
  msgs    : FMap (List Msg)
  deques  : FMap (List DequeEntry)
  dequeAt : FMap Nat
  planes  : FMap Plane
  arrays  : FMap Array
  sems    : FMap (BitVec 32)
  windows : FMap Window
  fused   : FMap (Option LaunchId)
  icache  : NSet
  deriving DecidableEq, Repr

/-- State of the memory system. A bank is numbered 16 × tile + bank, an L2 way 16 × slice + way, a slice 80 × die + slice. `mem`,
`seals` and `poison` are what a home holds: its L2 copy of a line, or else its backing memory. `errors` holds the flipped bits of
each 8-byte word of a scratchpad or of backing memory that no code has found yet, `l2errors` those of the words of L2 copies
(R387). `l1` and `l2` list their lines with the least recently used first (R257, R258). `pcache` holds the placement entries of a
slice's placement cache as (slice, extent) (R252). `inbound` holds the requests that passed their checks and wait, with their
tenants. -/
structure Store where
  mem      : FMap Byte
  seals    : FMap (Option Seal)
  poison   : NSet
  errors   : FMap Nat
  l2errors : FMap Nat
  l1       : List L1Line
  l2       : List L2Line
  pcache   : List (Nat × Nat)
  banks    : FMap BankState
  ways     : FMap BankState
  extents  : FMap Extent
  requests : List PlaceReq
  images   : List Image
  hostMem  : FMap Byte
  bus      : List BusAccess
  inbound  : List (Nat × InboundReq)
  peerReqs : List PeerReq
  answers  : List Answer
  deriving DecidableEq, Repr

/-- A post whose poster was ended while it waited for its segment (R233, R300): it is accepted as the waiting post of a slot would be. -/
structure Posted where
  seg   : Nat
  since : Nat
  slot  : Nat
  task  : Task
  deriving DecidableEq, Repr

/-- What takes effect at the end of the ck it is asked for in, after the halts, retirements and placements of that ck: the ends of a
`cancel` (R238, R321), with the serial number of the issuing unit, 0 for the host, and then the restarts of `tret` (R347). -/
inductive Late where
  | cancel (job : Nat) (level : Nat) (handle : Nat) (unit : Nat)
  | tret (core slot : Nat) (redirect : Option Word)
  deriving DecidableEq, Repr

/-- State of launches, phases, jobs, tasks and engines. -/
structure Work where
  ops      : List Op
  posts    : List Posted
  late     : List Late
  launches : List Launch
  phases   : List Phase
  jobs     : List Job
  segs     : FMap (List Task)
  runs     : List PeriodRun
  swapped  : List SwapImage
  swaps    : List SwapReq
  nextJob  : Nat
  deriving DecidableEq, Repr

/-- State of firmware and the seal core. -/
structure Firm where
  power    : Power
  boot     : Boot
  maint    : Bool
  tenants  : List Tenant
  wayMasks : FMap Nat
  inWins   : List InWindow
  ide      : List (Nat × Nat)
  revs     : List Revocation
  log      : List LogEntry
  logLost  : Nat
  logHead  : Nat
  chans    : FMap Channel
  msix     : List Nat
  links    : Links
  thermal  : Thermal
  nextPid  : Nat
  accepts  : Nat
  deriving DecidableEq, Repr

/-- The state of the machine. `ck` is `cyc`. The last five fields are the model's own: the acts that are due with the ck
they are due at, the slot whose instruction the next step runs, the next core to be looked at in this ck, and the
counters of free values and of names. -/
structure State where
  ck      : Nat
  fab     : Fabric
  store   : Store
  work    : Work
  firm    : Firm
  agenda  : List (Nat × Instr)
  issuing : Option SlotRef
  cursor  : Nat
  freeCtr : Nat
  serial  : Nat
  deriving DecidableEq, Repr

/-! ## Why a step stops -/

/-- Why the machine stops. -/
inductive Fault where
  /-- `exec` is asked to run an instruction while no occupied slot is issuing. Raised by the shared issue operation. Safe:
  no step of the machine asks it, because a step runs an instruction only for the slot that `issuing` names. -/
  | noIssue
  deriving DecidableEq, Repr

/-- Why a step is refused. -/
inductive Refusal where
  /-- No meaning yet for the instruction. Safe. -/
  | notModelled (mnemonic : String)
  deriving DecidableEq, Repr

/-! ## Reset -/

/-- A window that is not bound (R223). -/
def Window.unbound : Window := ⟨0, 0, 0, 0, 0, false⟩
/-- An empty slot (R55). -/
def Slot.empty : Slot := ⟨.ready 0, none, none⟩
/-- An empty plane (R189). -/
def Plane.empty : Plane := ⟨[], [], [], 15, 0, 0, 0, false, false, none, none⟩
/-- An idle array (R199). -/
def Array.idle : Array := ⟨0, [], none, [], 0, [], [], none, none⟩
/-- A channel that has completed no command (R400). -/
def Channel.fresh : Channel := ⟨0, [], 0, false, false, 0, 0, [], none, none⟩
/-- A seal of no tenant: no key opens a line under it. -/
def Seal.none : Seal := ⟨0, 0, 0, false⟩
/-- An extent that is not allocated (R249). -/
def Extent.none : Extent := ⟨.unallocated, 0, 0, false, .none, Seal.none, false, 0, .none⟩

/-- ×16 at PCIe 7.0 (R408). -/
def fullTrain : Nat := 16 + 7 * 256
/-- Every link up, the host ports at their full rate (R397). -/
def Links.up : Links := ⟨[], [], false, [], [], [], [], [], []⟩

/-- The tiles and cores after start-up (R397, R17, R56, R370). -/
def Fabric.reset : Fabric where
  parts := []
  owners := []
  hold := []
  fenced := []
  tvec := []
  last := []
  vbusy := []
  binds := []
  slots := []
  lost := []
  sbuf := []
  msgs := []
  deques := []
  dequeAt := []
  planes := []
  arrays := []
  sems := []
  windows := []
  fused := []
  icache := []

/-- The memory system after start-up: no extent is allocated, and nothing is listed. -/
def Store.reset : Store where
  mem := []
  seals := []
  poison := []
  errors := []
  l2errors := []
  l1 := []
  l2 := []
  pcache := []
  banks := []
  ways := []
  extents := []
  requests := []
  images := []
  hostMem := []
  bus := []
  inbound := []
  peerReqs := []
  answers := []

/-- No work exists after start-up. -/
def Work.reset : Work where
  ops := []
  posts := []
  late := []
  launches := []
  phases := []
  jobs := []
  segs := []
  runs := []
  swapped := []
  swaps := []
  nextJob := 1

/-- Firmware after start-up: service mode, the error log clear, every link up (R397). -/
def Firm.reset : Firm where
  power := .running
  boot := ⟨0, [], 0, [], none, 0⟩
  maint := false
  tenants := []
  wayMasks := []
  inWins := []
  ide := []
  revs := []
  log := []
  logLost := 0
  logHead := 0
  chans := []
  msix := []
  links := Links.up
  thermal := ⟨[], false, 0⟩
  nextPid := 1
  accepts := 0

/-- The machine right after reset: the end of a successful start-up, with `cyc` 0 (R397). -/
def State.reset : State where
  ck := 0
  fab := Fabric.reset
  store := Store.reset
  work := Work.reset
  firm := Firm.reset
  agenda := []
  issuing := none
  cursor := 0
  freeCtr := 0
  serial := 1

end Sys2Proof.Machine
end

