-- ==== Sys2Proof/Machine/Base.lean ====
section
/-!
DEFINITION. Units and their registers, slots, geometry, bytes, waking and the error log.
-/
namespace Sys2Proof.Machine

open Sys2Proof

/-! ## Updates of the parts of the state -/

def State.modFab (s : State) (g : Fabric → Fabric) : State := { s with fab := g s.fab }
def State.modStore (s : State) (g : Store → Store) : State := { s with store := g s.store }
def State.modWork (s : State) (g : Work → Work) : State := { s with work := g s.work }
def State.modFirm (s : State) (g : Firm → Firm) : State := { s with firm := g s.firm }

/-- Add an act to the agenda (due ck, act). -/
def State.schedule (s : State) (due : Nat) (i : Instr) : State :=
  { s with agenda := s.agenda ++ [(due, i)] }

/-- Add an act whose time the manual does not promise: at least `least` ck from now. -/
def State.scheduleFree (s : State) (least : Nat) (i : Instr) : State :=
  { s with agenda := s.agenda ++ [(s.ck + least + Config.latency s.freeCtr, i)], freeCtr := s.freeCtr + 1 }

/-! ## Geometry (R12) -/

def tileOf (core : Nat) : Nat := core / 3
def kindOf (core : Nat) : Nat := core % 3
def tileX (tile : Nat) : Nat := tile % 128
def tileY (tile : Nat) : Nat := tile / 128
def dieOf (tile : Nat) : Nat := tileY tile / 20 * 2 + tileX tile / 64
def cluOf (tile : Nat) : Nat := tileY tile % 20 / 4 * 8 + tileX tile % 64 / 8
def tixOf (tile : Nat) : Nat := tileY tile % 4 * 8 + tileX tile % 8
/-- Package cluster. -/
def pcluOf (tile : Nat) : Nat := dieOf tile * 40 + cluOf tile

/-- The core of a kind on a tile. -/
def coreOf (tile kind : Nat) : Nat := 3 * tile + kind

/-- Whether a core kind lists an extension (R14). -/
def kindLists (kind : Nat) (e : Ext) : Bool :=
  match e with
  | .base => true
  | .xfer => kind == 0
  | .vec => kind == 1 || kind == 2
  | .conv => kind == 1
  | .mat | .ssm => kind == 2

/-- The number of an extension (R88). -/
def Ext.num : Ext → Nat
  | .base => 0
  | .xfer => 1
  | .vec => 2
  | .conv => 3
  | .mat => 4
  | .ssm => 5

/-! ## Slots and units -/

def SlotRef.key (r : SlotRef) : Nat := 16 * r.core + r.slot
def refOfKey (k : Nat) : SlotRef := ⟨k / 16, k % 16⟩

def State.slotAt (s : State) (k : Nat) : Slot := FMap.get Slot.empty s.fab.slots k
def State.setSlot (s : State) (k : Nat) (v : Slot) : State :=
  s.modFab fun f => { f with slots := FMap.set Slot.empty f.slots k v }
def State.unitAt (s : State) (r : SlotRef) : Option Ctx := (s.slotAt r.key).unit

/-- The partition of a tile (R17); 16 unless another was set. -/
def State.partOf (s : State) (tile : Nat) : Part := FMap.get .p16 s.fab.parts tile
/-- The owner register of a tile's cores (R370): the tag when VALID. -/
def State.ownerOf (s : State) (tile : Nat) : Option Nat := FMap.get none s.fab.owners tile

/-- Put a unit's context back into its slot, the mode unchanged. -/
def State.putUnit (s : State) (r : SlotRef) (u : Ctx) : State :=
  s.setSlot r.key { s.slotAt r.key with unit := some u }
/-- Put a unit's context back with a new mode. -/
def State.putMode (s : State) (r : SlotRef) (u : Ctx) (m : SlotMode) : State :=
  s.setSlot r.key { s.slotAt r.key with unit := some u, mode := m }

/-- The slot that holds the unit with a serial number. -/
def findUnit (key : Nat) : FMap Slot → Option (Nat × Slot × Ctx)
  | [] => none
  | (k, sl) :: rest =>
    match sl.unit with
    | some u => if u.key = key then some (k, sl, u) else findUnit key rest
    | none => findUnit key rest

def State.findUnit (s : State) (key : Nat) : Option (Nat × Slot × Ctx) := Machine.findUnit key s.fab.slots

/-- Change the context of a unit wherever it runs. -/
def State.modUnit (s : State) (key : Nat) (g : Ctx → Ctx) : State :=
  match s.findUnit key with
  | some (k, sl, u) => s.setSlot k { sl with unit := some (g u) }
  | none => s

/-! ## Registers of a unit (R20) -/

def Ctx.reg (u : Ctx) (n : Nat) : Word := FMap.get 0 u.regs n
/-- Write a scalar; the write clears its poison mark (R390). -/
def Ctx.setReg (u : Ctx) (n : Nat) (v : Word) : Ctx :=
  { u with regs := FMap.set 0 u.regs n v, pois := NSet.erase u.pois n }
def Ctx.row (u : Ctx) (n : Nat) : Row := FMap.get 0 u.rows n
def Ctx.tagOf (u : Ctx) (n : Nat) : BitVec 4 := FMap.get 0 u.tags n
def Ctx.setRow (u : Ctx) (n : Nat) (bits : Row) (tag : BitVec 4) : Ctx :=
  { u with rows := FMap.set 0 u.rows n bits, tags := FMap.set 0 u.tags n tag }
/-- A guard; g0 is true (R20). -/
def Ctx.guardOf (u : Ctx) (n : Nat) : Bool := n == 0 || u.guards.getLsbD n
def Ctx.setGuard (u : Ctx) (n : Nat) (v : Bool) : Ctx :=
  { u with guards := (u.guards &&& ~~~(1#8 <<< n)) ||| ((BitVec.ofBool v).setWidth 8 <<< n) }
/-- A lane mask; m0 is all lanes (R20). -/
def Ctx.maskOf (u : Ctx) (n : Nat) : Mask := if n = 0 then BitVec.allOnes 256 else FMap.get 0 u.masks n
def Ctx.setMask (u : Ctx) (n : Nat) (m : Mask) : Ctx := { u with masks := FMap.set 0 u.masks n m }
def Bound.empty : Bound := ⟨0, 0⟩
def Ctx.boundOf (u : Ctx) (n : Nat) : Bound := FMap.get Bound.empty u.bounds n
def Ctx.setBound (u : Ctx) (n : Nat) (b : Bound) : Ctx := { u with bounds := FMap.set Bound.empty u.bounds n b }
/-- The hidden carry of an accumulator tile; the empty list is EMPTY (R187). -/
def Ctx.carryOf (u : Ctx) (n : Nat) : List Int := FMap.get [] u.carries n
def Ctx.setCarry (u : Ctx) (n : Nat) (c : List Int) : Ctx := { u with carries := FMap.set [] u.carries n c }

/-! ### The status word (R328) -/

/-- Set sticky flags (R27); bits [5:0] are SAT, NV, DZ, OF, UF, NX. -/
def Ctx.setFlags (u : Ctx) (m : BitVec 6) : Ctx := { u with stat := u.stat ||| m.setWidth 64 }
/-- Replace a field of `stat`. -/
def statField (w : BitVec 64) (lo len : Nat) (v : Nat) : BitVec 64 :=
  (w &&& ~~~((BitVec.ofNat 64 (2 ^ len - 1)) <<< lo)) ||| (BitVec.ofNat 64 (v % 2 ^ len) <<< lo)
/-- The unit's weight: its exponent when HOLD is 1 (R292). -/
def Ctx.weight (u : Ctx) : Option Nat :=
  if u.stat.getLsbD 16 then some (u.stat.extractLsb' 17 6).toNat else none
/-- Set HOLD and K; a unit that holds no weight has K = 0. -/
def Ctx.setWeight (u : Ctx) (w : Option Nat) : Ctx :=
  { u with stat := match w with
    | some k => statField (statField u.stat 16 1 1) 17 6 k
    | none => statField u.stat 16 7 0 }
def statDbrk : Nat := 25
def statMoved : Nat := 24
def statPreq : Nat := 23
def Ctx.setStatBit (u : Ctx) (n : Nat) (b : Bool) : Ctx := { u with stat := statField u.stat n 1 b.toNat }
/-- The bits of `stat` that `wrsr` writes (R328): MOVED, WB, WEN and the six flags. -/
def statWritable : BitVec 64 := 0x1000F3F
/-- Replace the pending requests; PREQ follows them (R339). -/
def Ctx.setPurposes (u : Ctx) (ps : List Purpose) : Ctx :=
  { u.setStatBit statPreq (!ps.isEmpty) with purposes := ps }

/-! ### Logical geometry of a unit (R114) -/

def Ctx.lx (u : Ctx) : Nat := (u.geo.extractLsb' 0 7).toNat
def Ctx.ly (u : Ctx) : Nat := (u.geo.extractLsb' 8 6).toNat
def Ctx.tw (u : Ctx) : Nat := (u.geo.extractLsb' 16 7).toNat + 1
def Ctx.th (u : Ctx) : Nat := (u.geo.extractLsb' 24 6).toNat + 1
def Ctx.lslot (u : Ctx) : Nat := (u.geo.extractLsb' 32 4).toNat
def Ctx.units (u : Ctx) : Nat := (u.geo.extractLsb' 36 4).toNat + 1

/-- `geo` from its fields (R114). -/
def mkGeo (lx ly tw th units lslot : Nat) : Word :=
  BitVec.ofNat 64 (lx % 128 + 256 * (ly % 64) + 65536 * ((tw - 1) % 128) + 2 ^ 24 * ((th - 1) % 64) +
    2 ^ 32 * (lslot % 16) + 2 ^ 36 * ((units - 1) % 16))

/-- A context at placement (R20). -/
def Ctx.fresh (key : Nat) (pc : Word) (geo : Word) (uid : BitVec 24) (tag pid job launch phase : Nat)
    (started : Bool) : Ctx where
  key := key
  regs := []
  pend := []
  pois := []
  rows := []
  tags := []
  guards := 1
  masks := []
  bounds := []
  carries := []
  tileSat := []
  ssmPtr := none
  pc := pc
  stat := 0
  geo := geo
  uid := uid
  tag := tag
  pid := pid
  trec := 0
  seq := 0
  arrival := false
  job := job
  launch := launch
  phase := phase
  started := started
  idle := false
  popping := false
  backoff := 256
  colls := []
  purposes := []
  held := []
  failed := none
  doomed := none
  deferred := none
  pass := []
  running := none
  posting := none

/-! ## Jobs, tenants, launches -/

def State.tenant (s : State) (tag : Nat) : Option Tenant := s.firm.tenants.find? (·.tag = tag)
/-- Whether a tenant's partition is halted (R337): its slots are all held. -/
def State.haltedTag (s : State) (tag : Nat) : Bool :=
  match s.tenant tag with
  | some t => t.halted
  | none => false
def State.modTenant (s : State) (tag : Nat) (g : Tenant → Tenant) : State :=
  s.modFirm fun f => { f with tenants := modifyFirst (fun t => decide (t.tag = tag)) g f.tenants }
def State.tenantOfPid (s : State) (pid : Nat) : Option Tenant := s.firm.tenants.find? (·.pid = pid)
def State.job (s : State) (h : Nat) : Option Job := s.work.jobs.find? (·.handle = h)
def State.modJob (s : State) (h : Nat) (g : Job → Job) : State :=
  s.modWork fun w => { w with jobs := modifyFirst (fun j => decide (j.handle = h)) g w.jobs }
def State.launch (s : State) (l : LaunchId) : Option Launch := s.work.launches.find? (·.id = l)
def State.modLaunch (s : State) (l : LaunchId) (g : Launch → Launch) : State :=
  s.modWork fun w => { w with launches := modifyFirst (fun x => decide (x.id = l)) g w.launches }
def State.phase (s : State) (p : PhaseId) : Option Phase := s.work.phases.find? (·.id = p)
def State.modPhase (s : State) (p : PhaseId) (g : Phase → Phase) : State :=
  s.modWork fun w => { w with phases := modifyFirst (fun x => decide (x.id = p)) g w.phases }
def Ctx.launchId (u : Ctx) : LaunchId := ⟨u.job, u.launch⟩
def Ctx.phaseId (u : Ctx) : PhaseId := ⟨u.job, u.phase⟩

/-- The tiles of a rectangle, row-major. -/
def Rect.tiles (r : Rect) : List Nat :=
  (List.range (r.y1 + 1 - r.y0)).flatMap fun y => (List.range (r.x1 + 1 - r.x0)).map fun x =>
    (r.y0 + y) * 128 + (r.x0 + x)
/-- The tiles of a partition in rank order (R404). -/
def Tenant.tiles (t : Tenant) : List Nat := t.rects.flatMap Rect.tiles
def Rect.has (r : Rect) (tile : Nat) : Bool :=
  decide (r.x0 ≤ tileX tile) && decide (tileX tile ≤ r.x1) && decide (r.y0 ≤ tileY tile) && decide (tileY tile ≤ r.y1)

/-- The physical tile of a logical tile of a unit's team (R22, R315): a standing team's tiles follow the ranks of the
partition; any other team is a rectangle laid at its origin. `here` is the unit's own tile. -/
def State.teamTile (s : State) (u : Ctx) (here lx ly : Nat) : Option Nat :=
  if lx < u.tw ∧ ly < u.th then
    if u.launch = 1 then
      match s.job u.job with
      | some j => j.tiles[ly * 128 + lx]?
      | none => if lx = u.lx ∧ ly = u.ly then some here else none
    else
      let x := tileX here + lx - u.lx
      let y := tileY here + ly - u.ly
      some (y * 128 + x)
  else none

/-- The physical tile a shared index names (R23), in the logical cluster of a unit. -/
def State.sharedTile (s : State) (u : Ctx) (here idx : Nat) : Option Nat :=
  s.teamTile u here (u.lx / 8 * 8 + idx % 8) (u.ly / 4 * 4 + idx / 8)

/-- The index of a unit's own tile in its logical cluster (R22). -/
def Ctx.ownIndex (u : Ctx) : Nat := u.ly % 4 * 8 + u.lx % 8

/-! ## Bytes -/

/-- The `n` bytes of a number, least significant first (R2). -/
def bytesOfNat (v : Nat) : Nat → List Byte
  | 0 => []
  | n + 1 => BitVec.ofNat 8 v :: bytesOfNat (v / 256) n
/-- The number that bytes hold, least significant first (R2). -/
def natOfBytes : List Byte → Nat
  | [] => 0
  | b :: bs => b.toNat + 256 * natOfBytes bs

/-! ## Waking -/

/-- Whether the unit in a slot is of a halted partition: the slot is held as it stands (R337). -/
def State.heldSlot (s : State) (sl : Slot) : Bool :=
  match sl.unit with
  | some u => s.haltedTag u.tag
  | none => false

/-- A wait ends (R59): the slot's instruction goes on in this ck. A slot that waited before its instruction issued (for its code, or
in the migration queue) is ready in the next ck. A slot of a halted partition is held (R337). -/
def State.rejoin (s : State) (k : Nat) : State :=
  let sl := s.slotAt k
  if s.heldSlot sl then s else s.setSlot k { sl with mode := match sl.mode, sl.unit.bind (·.running) with
    | .waiting _ since, some _ => .resuming since
    | _, _ => .ready (s.ck + 1) }

/-- A waiting slot's instruction completes with the next PC, and the slot rejoins in the next ck (R59). A slot of a halted partition is
held (R337). -/
def State.complete (s : State) (k : Nat) (npc : Word) (g : Ctx → Ctx) : State :=
  match (s.slotAt k).unit with
  | some u => if s.haltedTag u.tag then s else s.setSlot k { s.slotAt k with unit := some { g u with pc := npc }, mode := .ready (s.ck + 1) }
  | none => s

/-- Rejoin every waiting slot that satisfies a test of its key and wait. -/
def State.rejoinWhere (s : State) (p : Nat → Wait → Bool) : State :=
  s.fab.slots.foldl (fun s (k, sl) =>
    match sl.mode with
    | .waiting w _ => if sl.unit.isSome && p k w then s.rejoin k else s
    | _ => s) s

/-- An arrival on a class of a core: the bound unit's arrival bit is set, and its `sleep` ends (R70). Class 7 is bound
to context zero (R68). -/
def State.arrive (s : State) (core cls : Nat) : State :=
  let key := if cls = 7 then (s.slotAt (16 * core)).unit.map (·.key) else FMap.get none s.fab.binds (8 * core + cls)
  match key with
  | none => s
  | some key =>
    match s.findUnit key with
    | none => s
    | some (k, sl, u) =>
      let s := s.setSlot k { sl with unit := some { u with arrival := true } }
      match sl.mode with
      | .waiting (.sleep _ npc) _ => s.complete k npc id
      | _ => s

def State.msgsOf (s : State) (core : Nat) : List Msg := FMap.get [] s.fab.msgs core
def State.setMsgs (s : State) (core : Nat) (ms : List Msg) : State :=
  s.modFab fun f => { f with msgs := FMap.set [] f.msgs core ms }

/-! ## The error log (R395) -/

/-- Add an entry: the newest entry of the same type, source and address counts up instead, and a full ring loses its
oldest entry. -/
def State.logEvent (s : State) (type src addr aux : Nat) (uid : Nat := 0) (tag : Option Nat := none) : State :=
  let e : LogEntry := ⟨s.ck, addr, aux, uid, tag, 1, src, type⟩
  s.modFirm fun f =>
    match f.log.getLast? with
    | some l =>
      if l.type = type ∧ l.src = src ∧ l.addr = addr then
        { f with log := f.log.dropLast ++ [{ l with count := min 255 (l.count + 1) }] }
      else if f.log.length < Config.logEntries then { f with log := f.log ++ [e] }
      else { f with log := f.log.tail ++ [e], logLost := f.logLost + 1, logHead := f.logHead + 1 }
    | none => { f with log := [e] }

end Sys2Proof.Machine
end

