-- ==== Sys2Proof/Machine/Lines.lean ====
section
/-!
DEFINITION. Bytes and lines: the keys of bytes, apertures and addresses (R111, R242), seals (R372 to R375), poison and the error
codes (R387, R389, R390), the L2 slices with their way masks and placement caches (R252, R257, R258) and the L1s (R253 to R256).
A byte of memory has a key: a global byte its address, a scratchpad byte 0xF0 × 2^56 + 2^20 × tile + offset, a byte of the
description block 0xF2 × 2^56 + offset. A byte that nothing has written reads 0 (R245, R250).
-/
namespace Sys2Proof.Machine

open Sys2Proof

/-- The key of a scratchpad byte. -/
def scratchKey (tile off : Nat) : Nat := 0xF0 * 2 ^ 56 + tile * 2 ^ 20 + off
/-- The key of a description block byte. -/
def descKey (off : Nat) : Nat := 0xF2 * 2 ^ 56 + off
def isGlobalKey (k : Nat) : Bool := decide (k < 2 ^ 56)
def isDescKey (k : Nat) : Bool := decide (0xF2 * 2 ^ 56 ≤ k)
def isScratchKey (k : Nat) : Bool := !isGlobalKey k && !isDescKey k
/-- The tile of a scratchpad byte. -/
def keyTile (k : Nat) : Nat := (k - 0xF0 * 2 ^ 56) / 2 ^ 20
/-- The offset of a scratchpad byte. -/
def keyOff (k : Nat) : Nat := k % 2 ^ 20
/-- The extent number of a global byte (R247). -/
def extentOf (k : Nat) : Nat := k / 2 ^ 21
/-- The extent kind of a global byte (R247): 0 release-consistent, 1 strongly ordered, 2 unordered, 3 device-register. -/
def kindOfKey (k : Nat) : Nat := k / 2 ^ 54 % 4
def isDevKey (k : Nat) : Bool := isGlobalKey k && kindOfKey k == 3

/-- The aperture code of an address for a unit on a tile (R111). -/
def State.apertureOf (s : State) (u : Ctx) (here : Nat) (a : Word) : Nat :=
  let top := (a.extractLsb' 56 8).toNat
  if top = 0 then 0
  else if top = 0xF0 ∧ a.extractLsb' 20 36 = 0 then 1
  else if top = 0xF1 ∧ a.extractLsb' 25 31 = 0 ∧ (s.sharedTile u here (a.extractLsb' 20 5).toNat).isSome then 2
  else if top = 0xF2 ∧ a.extractLsb' 16 40 = 0 then 3
  else 4

/-- The key of the byte an address names, `none` for an address of code 4. -/
def State.keyOf (s : State) (u : Ctx) (here : Nat) (a : Word) : Option Nat :=
  match s.apertureOf u here a with
  | 0 => some a.toNat
  | 1 => some (scratchKey here (a.extractLsb' 0 20).toNat)
  | 2 => (s.sharedTile u here (a.extractLsb' 20 5).toNat).map fun t => scratchKey t (a.extractLsb' 0 20).toNat
  | 3 => some (descKey (a.extractLsb' 0 16).toNat)
  | _ => none

/-- The keys of the bytes `a` to `a + n - 1`, `none` unless every byte is well formed in the aperture of `a` (R130
step 2). -/
def State.keysOf (s : State) (u : Ctx) (here : Nat) (a : Word) (n : Nat) : Option (List Nat) :=
  let code := s.apertureOf u here a
  (List.range n).mapM fun i =>
    let b := a + BitVec.ofNat 64 i
    if s.apertureOf u here b = code then s.keyOf u here b else none

/-! ## Seals (R372 to R375) -/

def State.extentAt (s : State) (n : Nat) : Extent := FMap.get Extent.none s.store.extents n
def State.setExtent (s : State) (n : Nat) (e : Extent) : State :=
  s.modStore fun m => { m with extents := FMap.set Extent.none m.extents n e }

/-- The seal a tenant's writes carry: its data key of the current period. -/
def State.dataSeal (s : State) (tag : Nat) : Seal :=
  match s.tenant tag with
  | some t => ⟨tag, t.inst, t.period, false⟩
  | none => Seal.none

/-- The seal of a line: the last one it was sealed under, or the one its extent was filled under. -/
def State.sealOf (s : State) (line : Nat) : Seal :=
  match FMap.get none s.store.seals line with
  | some x => x
  | none => (s.extentAt (extentOf (line * 128))).fill

/-- Whether a tenant's keys open a seal: its own keys, the class its extent asks for, the current period or the one
before it, and the next one between the phases of a rekey (R375, R414). -/
def State.opens (s : State) (tag : Nat) (x : Seal) (code : Bool) : Bool :=
  match s.tenant tag with
  | some t => decide (x.tag = tag) && decide (x.inst = t.inst) && x.code == code &&
      (decide (x.period = t.period) || decide ((x.period + 1) % 2 ^ 32 = t.period) ||
        (t.prepared && decide (x.period = (t.period + 1) % 2 ^ 32)))
  | none => false

def State.setSeal (s : State) (line : Nat) (x : Seal) : State :=
  s.modStore fun m => { m with seals := FMap.set none m.seals line (some x) }

/-! ## Poison and errors (R387, R389, R390) -/

/-- The key's poison unit (R387): a line of global memory, a word of a scratchpad. -/
def poisonUnit (k : Nat) : Nat := if isGlobalKey k then k / 128 else k / 8
def State.poisoned (s : State) (unit : Nat) : Bool := s.store.poison.contains unit
def State.setPoison (s : State) (unit : Nat) : State :=
  s.modStore fun m => { m with poison := NSet.insert m.poison unit }
/-- A whole write clears a poison mark (R390). -/
def State.clearPoison (s : State) (unit : Nat) : State :=
  s.modStore fun m => { m with poison := NSet.erase m.poison unit }

/-- Whom an error log entry names: a UNIT, 0 for none, and a tenant. -/
structure Blame where
  uid : Nat
  tag : Option Nat
  deriving DecidableEq, Repr

def Blame.none : Blame := ⟨0, Option.none⟩
def Who.blame (w : Who) : Blame := ⟨w.uid.toNat, some w.tag⟩

/-- The address an error log entry names for a scratchpad word. -/
def wordAddr (word : Nat) : Nat := 8 * word

def State.setErrors (s : State) (word bits : Nat) : State :=
  s.modStore fun m => { m with errors := FMap.set 0 m.errors word bits }

/-- The errors of a scratchpad word are found by a code that corrects `reach` bits (R387, R389): corrected and logged, or the
word is marked and logged. A word that is marked already logs nothing. -/
def State.findWord (s : State) (word reach : Nat) (b : Blame) : State :=
  let bits := FMap.get 0 s.store.errors word
  if bits = 0 ∨ s.poisoned word = true then s
  else if bits ≤ reach then (s.setErrors word 0).logEvent 1 5 (wordAddr word) bits b.uid b.tag
  else ((s.setErrors word 0).setPoison word).logEvent 2 5 (wordAddr word) 0 b.uid b.tag

def State.byteAt (s : State) (k : Nat) : Byte := FMap.get 0 s.store.mem k
def State.setByte (s : State) (k : Nat) (b : Byte) : State :=
  s.modStore fun m => { m with mem := FMap.set 0 m.mem k b }

/-! ## L2 slices (R246, R251, R252, R257, R258) -/

/-- The sum of n 7-bit groups of a number, from the lowest. -/
def groupSum (x : Nat) : Nat → Nat
  | 0 => 0
  | n + 1 => x % 128 + groupSum (x / 128) n

/-- The die whose slices are home to an extent (R252): that of its bonded DRAM, or the one a CXL port is counted to, two ports to a
die; none for lines that a peer is home to. Which die a port belongs to is the model's choice (log entry 58). -/
def Place.die (p : Place) : Option Nat :=
  match p with
  | .dram d => some d
  | .cxl port => some (port / 2 % 4)
  | .peer _ | .none => Option.none

/-- The home slice of a line among the 80 of its die (R252). -/
def homeSlice (line : Nat) : Nat := groupSum line 7 % 80
/-- The slice of an access's own die that looks up an extent (R252). -/
def lookupSlice (extent : Nat) : Nat := groupSum extent 5 % 80

/-- The L2 slice that is home to a line: 80 × die + slice. -/
def State.sliceOf (s : State) (line : Nat) : Option Nat :=
  (s.extentAt (extentOf (line * 128))).place.die.map fun d => 80 * d + homeSlice line

def State.l2Line (s : State) (line : Nat) : Option L2Line := s.store.l2.find? (·.line = line)

/-- The ways a tenant's class may fill (R258). A class that no tenant has named has every way. -/
def State.wayMask (s : State) (tag : Nat) : Nat :=
  match s.tenant tag with
  | some t => FMap.get 0xFFFF s.firm.wayMasks t.cls
  | none => 0xFFFF

/-- The hint an access acts by (R257, R258): a class with an empty mask bypasses. -/
def State.hintFor (s : State) (tag hint : Nat) : Nat := if s.wayMask tag = 0 then 2 else hint

/-- The lines of a slice's set, least recently used first. -/
def State.l2Set (s : State) (slice line : Nat) : List L2Line :=
  s.store.l2.filter fun x => decide (x.slice = slice) && decide (Config.l2Set x.line = Config.l2Set line)

/-- The way a fill takes (R258): the lowest-numbered invalid way of the mask in the set, or that of the least recently used line in
the mask's ways, which it evicts. -/
def State.fillWay (s : State) (slice line mask : Nat) : Option (Nat × Option L2Line) :=
  let held := s.l2Set slice line
  match (List.range 16).find? fun w => mask.testBit w && !held.any fun x => decide (x.way = w) with
  | some w => some (w, none)
  | none => (held.find? fun x => mask.testBit x.way).map fun x => (x.way, some x)

/-- The way an access at the home of a line reaches (R246): the one that holds it, or the one it fills. -/
def State.reachedWay (s : State) (tag line hint : Nat) : Option Nat :=
  match s.l2Line line with
  | some x => some (16 * x.slice + x.way)
  | none =>
    if s.hintFor tag hint = 2 then none
    else (s.sliceOf line).bind fun c => (s.fillWay c line (s.wayMask tag)).map fun w => 16 * c + w.1

def inLine (line : Nat) (e : Nat × Nat) : Bool := decide (e.1 / 16 = line)

/-- The L2 copy of a line goes (R251, R257, R258): dirty bytes are written to backing memory, over what stood there, and the words'
errors go with them. -/
def State.l2Evict (s : State) (line : Nat) : State :=
  match s.l2Line line with
  | none => s
  | some x => s.modStore fun m => { m with
      l2 := removeFirst (fun y => decide (y.line = line)) m.l2
      l2errors := m.l2errors.filter fun e => !inLine line e
      errors := if x.dirty then (m.l2errors.filter (inLine line)).foldl (fun acc e => FMap.set 0 acc e.1 e.2)
          (m.errors.filter fun e => !inLine line e) else m.errors }

/-- The dirty bytes of a line's L2 copy are written to backing memory; the copy stays, clean (R141). -/
def State.l2Clean (s : State) (line : Nat) : State :=
  match s.l2Line line with
  | some x =>
    if x.dirty then s.modStore fun m => { m with
      l2 := modifyFirst (fun y => decide (y.line = line)) (fun y => { y with dirty := false }) m.l2
      errors := (m.l2errors.filter (inLine line)).foldl (fun acc e => FMap.set 0 acc e.1 e.2)
        (m.errors.filter fun e => !inLine line e) }
    else s
  | none => s

/-- A line of an L2 slice becomes the most recently used. -/
def State.l2Use (s : State) (line : Nat) : State :=
  match s.l2Line line with
  | some x => s.modStore fun m => { m with l2 := removeFirst (fun y => decide (y.line = line)) m.l2 ++ [x] }
  | none => s

/-- Fill a line into its home slice for a tenant, unless its class may fill no way (R258). -/
def State.l2Fill (s : State) (tag line : Nat) : State :=
  match s.sliceOf line with
  | none => s
  | some c =>
    match s.fillWay c line (s.wayMask tag) with
    | none => s
    | some (w, victim) =>
      let s := match victim with
        | some x => s.l2Evict x.line
        | none => s
      let cls := match s.tenant tag with
        | some t => t.cls
        | none => 0
      s.modStore fun m => { m with l2 := m.l2 ++ [⟨c, w, line, cls, false⟩] }

/-- An access at the home of a line (R257): one without a hint uses the L2 line, and a miss fills it unless the access bypasses. -/
def State.l2Access (s : State) (tag line hint : Nat) : State :=
  match s.l2Line line with
  | some _ => if s.hintFor tag hint = 0 then s.l2Use line else s
  | none => if s.hintFor tag hint = 2 then s else s.l2Fill tag line

/-- The SRC of an error in the memory behind a line, by the place of its extent (R395). -/
def State.backingSrc (s : State) (line : Nat) : Nat :=
  match (s.extentAt (extentOf (line * 128))).place with
  | .cxl _ => 3
  | .peer _ => 4
  | _ => 2

/-- The errors of a line's home copy, and the SRC its log entries name. -/
def State.lineErrors (s : State) (line : Nat) : List (Nat × Nat) × Nat :=
  match s.l2Line line with
  | some _ => (s.store.l2errors.filter (inLine line), 1)
  | none => (s.store.errors.filter (inLine line), s.backingSrc line)

/-- The home copy of a line is written whole, with fresh check bits: its errors are gone, and an L2 copy is dirty. -/
def State.homeWritten (s : State) (line : Nat) : State :=
  match s.l2Line line with
  | some _ => s.modStore fun m => { m with
      l2 := modifyFirst (fun y => decide (y.line = line)) (fun y => { y with dirty := true }) m.l2
      l2errors := m.l2errors.filter fun e => !inLine line e }
  | none => s.modStore fun m => { m with errors := m.errors.filter fun e => !inLine line e }

/-- ECC of a line at its home (R389): errors that a code correcting `reach` bits of each word corrects are corrected, written back
and logged; others mark the line, with a log entry of type 2, or 3 for a code line that is read ahead (R391). A marked line logs
nothing. The answer says whether a correction was made. -/
def State.findLine (s : State) (line reach : Nat) (b : Blame) (type : Nat := 2) : State × Bool :=
  let (es, src) := s.lineErrors line
  if s.poisoned line || es.isEmpty then (s, false)
  else
    let t := s.modStore fun m => { m with
      errors := if src = 1 then m.errors else m.errors.filter fun e => !inLine line e
      l2errors := if src = 1 then m.l2errors.filter fun e => !inLine line e else m.l2errors }
    if es.all fun e => decide (e.2 ≤ reach) then (t.logEvent 1 src (line * 128) (es.map (·.2)).sum b.uid b.tag, true)
    else ((t.setPoison line).logEvent type src (line * 128) 0 b.uid b.tag, false)

/-! ### Retained banks and ways (R246, R388) -/

def State.bankAt (s : State) (b : Nat) : BankState := FMap.get (.awake 0) s.store.banks b
def State.setBank (s : State) (b : Nat) (x : BankState) : State :=
  s.modStore fun m => { m with banks := FMap.set (.awake 0) m.banks b x }
/-- The bank of a scratchpad byte. -/
def bankOf (k : Nat) : Nat := 16 * keyTile k + keyOff k / 65536

/-- L2 ways are numbered after the scratchpad banks where both are meant. -/
def firstWay : Nat := 81920
def State.wayAt (s : State) (w : Nat) : BankState := FMap.get (.awake 0) s.store.ways w
def State.setWay (s : State) (w : Nat) (x : BankState) : State :=
  s.modStore fun m => { m with ways := FMap.set (.awake 0) m.ways w x }

/-- The bits that the code of a bank or way corrects: BCH while it is retained and until its exit has ended (R388). -/
def BankState.bits (b : BankState) : Nat :=
  match b with
  | .retained | .exiting _ => 2
  | .awake _ | .entering .. => 1

/-- A bank's errors are found as it is encoded again (R388). -/
def State.findBankErrors (s : State) (b reach : Nat) : State :=
  let lo := (scratchKey (b / 16) (b % 16 * 65536)) / 8
  (s.store.errors.filter fun e => decide (lo ≤ e.1) && decide (e.1 < lo + 8192)).foldl
    (fun s e => s.findWord e.1 reach Blame.none) s

/-- An L2 way's errors are found as it is encoded again (R388). -/
def State.findWayErrors (s : State) (w reach : Nat) : State :=
  (s.store.l2.filter fun x => decide (16 * x.slice + x.way = w)).foldl (fun s x => (s.findLine x.line reach Blame.none).1) s

/-- A write-back or a copy that nothing waits for reaches a way: one that is not awake is encoded again first, within the step, by the
code it is held in (log entry 58). -/
def State.wakeWay (s : State) (w : Nat) : State :=
  match s.wayAt w with
  | .awake _ => s.setWay w (.awake s.ck)
  | b => (s.findWayErrors w b.bits).setWay w (.awake s.ck)

/-- The same for a scratchpad bank. -/
def State.wakeScratch (s : State) (b : Nat) : State :=
  match s.bankAt b with
  | .awake _ => (s.findBankErrors b 1).setBank b (.awake s.ck)
  | x => (s.findBankErrors b x.bits).setBank b (.awake s.ck)

/-! ### Placement caches (R252) -/

/-- An access on a die looks up an extent: its entry is in the die's placement cache from then on. A full cache of 4,096 entries
gives up one that is not fixed. -/
def State.lookUp (s : State) (die extent : Nat) : State :=
  let c := 80 * die + lookupSlice extent
  if s.store.pcache.contains (c, extent) then s
  else
    let held := s.store.pcache.filter fun e => decide (e.1 = c)
    if held.length < 4096 then s.modStore fun m => { m with pcache := m.pcache ++ [(c, extent)] }
    else
      let old := held.getD (Config.victim s.freeCtr % 4096) (c, extent)
      ({ s with freeCtr := s.freeCtr + 1 }).modStore fun m => { m with
        pcache := removeFirst (fun e => decide (e = old)) m.pcache ++ [(c, extent)] }

/-! ## The L1s (R253 to R256) -/

/-- The tile at an index of a package cluster (R12). -/
def clusterTile (pclu idx : Nat) : Nat :=
  (pclu / 40 / 2 * 20 + pclu % 40 / 8 * 4 + idx / 8) * 128 + (pclu / 40 % 2 * 64 + pclu % 40 % 8 * 8 + idx % 8)

/-- The slice of a fused L1 that holds a line (R256): address [11:7] XOR address [16:12]. -/
def fusedSlice (line : Nat) : Nat := (line % 32) ^^^ (line / 32 % 32)

/-- The tile whose L1 a tile's cores use for a line: its own, or the slice of its cluster's fused L1. -/
def State.l1Of (s : State) (tile line : Nat) : Nat :=
  match FMap.get none s.fab.fused (pcluOf tile) with
  | some _ => clusterTile (pcluOf tile) (fusedSlice line)
  | none => tile

/-- An L1's copy of a line. -/
def State.l1Copy (s : State) (l1 line : Nat) : Option L1Line :=
  s.store.l1.find? fun x => decide (x.owner = l1) && decide (x.line = line)
/-- The copy of a line that holds dirty bytes. -/
def State.dirtyCopy (s : State) (line : Nat) : Option L1Line :=
  s.store.l1.find? fun x => decide (x.line = line) && !x.dirty.isEmpty

def L1Line.whole (l : L1Line) : Bool := l.valid == BitVec.allOnes 128

/-- A write-back reaches the way of its line (R246). -/
def State.wakeReached (s : State) (tag line hint : Nat) : State :=
  match s.reachedWay tag line hint with
  | some w => s.wakeWay w
  | none => s

/-- Write a line's dirty bytes at its home through a line cipher unit (R255): a line whose bytes are all valid is sealed whole and
clears the poison mark; any other merges. A merge into a marked line is discarded and logged; a merge whose tag does not match
zeroes every other byte and logs a corruption report. With `hint` 2 a line that the L2 does not hold takes no way there (R257). -/
def State.mergeLine (s : State) (l : L1Line) (hint : Nat := 0) : State :=
  let base := l.line * 128
  let s := s.wakeReached l.tag l.line hint
  let b : Blame := ⟨l.uid.toNat, some l.tag⟩
  let found := if l.whole then (s, false) else s.findLine l.line 1 b
  let put (s : State) : State :=
    ((l.dirty.foldl (fun s e => match e.2 with
      | some b => s.setByte (base + e.1) b
      | none => s) (s.l2Access l.tag l.line hint)).setSeal l.line (s.dataSeal l.tag)).homeWritten l.line
  if l.whole then (put s).clearPoison l.line
  else
    let s := found.1
    if s.poisoned l.line then s.logEvent 2 0 base 1 b.uid b.tag
    else if s.opens l.tag (s.sealOf l.line) (s.extentAt (extentOf base)).code then put s
    else
      let s := s.logEvent 4 0 base found.2.toNat b.uid b.tag
      put ((s.modStore fun m => { m with mem := FMap.clear m.mem base (base + 128) }).logEvent 5 0 base l.image.toNat b.uid b.tag)

/-- Write back a copy's dirty bytes, if it has any, and discard the copy. -/
def State.evictCopy (s : State) (l : L1Line) (hint : Nat := 0) : State :=
  let s := s.modStore fun m => { m with l1 := removeFirst (fun x => decide (x = l)) m.l1 }
  if l.dirty.isEmpty then s else s.mergeLine l hint

/-- Write back and discard every copy that satisfies a test. -/
def State.writeBackWhere (s : State) (p : L1Line → Bool) (hint : Nat := 0) : State :=
  (s.store.l1.filter p).foldl (fun s l => s.evictCopy l hint) s

/-- Every L1 copy of a line is invalidated, dirty bytes written back first. -/
def State.writeBack (s : State) (line : Nat) (hint : Nat := 0) : State :=
  s.writeBackWhere (fun x => decide (x.line = line)) hint

/-- The home obtains a line's dirty bytes from the L1 that holds them (R253); the copy stays, clean, while its merge succeeds. -/
def State.cleanCopy (s : State) (line : Nat) : State :=
  match s.dirtyCopy line with
  | none => s
  | some l =>
    let t := s.evictCopy l
    if t.poisoned line || !(l.whole || s.opens l.tag (s.sealOf line) (s.extentAt (extentOf (line * 128))).code) then t
    else t.modStore fun m => { m with l1 := m.l1 ++ [{ l with dirty := [] }] }

/-- Before an L1 reads a line, another L1's dirty bytes of it are written back (R253). -/
def State.claimRead (s : State) (l1 line : Nat) : State :=
  match s.dirtyCopy line with
  | some l => if l.owner = l1 then s else s.cleanCopy line
  | none => s

/-- Before an L1 writes a line, every other copy is invalidated (R253). -/
def State.claimWrite (s : State) (l1 line : Nat) : State :=
  s.writeBackWhere fun x => decide (x.line = line) && decide (x.owner ≠ l1)

/-- The copy that a line not held takes the way of in a full set of 8 ways: the least recently used one. -/
def State.l1Victim (s : State) (l1 line : Nat) : Option L1Line :=
  let held := s.store.l1.filter fun x => decide (x.owner = l1) && decide (Config.l1Set x.line = Config.l1Set line)
  if 8 ≤ held.length then held.head? else none

/-- An L1 has a copy of a line from now on, the most recently used of its set; a full set of 8 ways gives up the least recently
used line (R253), but for a line that stays only while a hinted store merges (`takes` false, R257). That the L1 replaces so is read
from R257 (log entry 58). -/
def State.l1Alloc (s : State) (l1 line : Nat) (who : Who) (takes : Bool := true) : State :=
  match s.l1Copy l1 line with
  | some l => s.modStore fun m => { m with l1 := removeFirst (fun x => decide (x = l)) m.l1 ++ [l] }
  | none =>
    let s := match s.l1Victim l1 line with
      | some old => if takes then s.evictCopy old else s
      | none => s
    s.modStore fun m => { m with l1 := m.l1 ++ [⟨l1, line, 0, [], who.tag, who.uid, who.image⟩] }

def State.modCopy (s : State) (l1 line : Nat) (g : L1Line → L1Line) : State :=
  s.modStore fun m => { m with l1 := modifyFirst (fun x => decide (x.owner = l1) && decide (x.line = line)) g m.l1 }

/-- A load's fill makes every byte of the line valid, under the bytes already there (R253). -/
def State.l1Fill (s : State) (l1 line : Nat) (who : Who) : State :=
  (s.l1Alloc l1 line who).modCopy l1 line fun l => { l with valid := BitVec.allOnes 128 }

/-- The value of a byte of a line that an L1's copy gives where it is valid: its dirty byte, or the home's. -/
def State.copyByte (s : State) (l1 k : Nat) : Byte :=
  match (s.l1Copy l1 (k / 128)).bind fun l => FMap.get none l.dirty (k % 128) with
  | some b => b
  | none => s.byteAt k

/-- A store's byte becomes valid and dirty in an L1's copy (R253). -/
def State.dirtyByte (s : State) (who : Who) (k : Nat) (b : Byte) : State :=
  s.modCopy (s.l1Of who.tile (k / 128)) (k / 128) fun l => { l with
    valid := l.valid ||| (1#128 <<< (k % 128))
    dirty := FMap.set none l.dirty (k % 128) (some b)
    tag := who.tag
    uid := who.uid
    image := who.image }

end Sys2Proof.Machine
end

