-- ==== Sys2Proof/Machine/Memory.lean ====
section
/-!
DEFINITION. Accesses: placement (R249), windows touched by an access (R225), banks and L2 ways in retention (R246), opening a line
(R389), and reading and writing bytes through the L1s and the L2 (R130, R253, R257).
-/
namespace Sys2Proof.Machine

open Sys2Proof

/-! ## Accessors -/

/-- The accessor a unit on a core is: its keys are those of the core's owner (R373). -/
def State.who (s : State) (core : Nat) (u : Ctx) : Who :=
  { tile := tileOf core
    core := core
    unit := u.key
    uid := u.uid
    tag := (s.ownerOf (tileOf core)).getD u.tag
    image := match s.job u.job with
      | some j => j.image
      | none => 0 }

/-- The outcome of a check or an access: bytes; a failing check with its trap cause, the index of the failing byte, and
an AUX of its own; or a wait. -/
inductive Acc where
  | ok (s : State) (v : List Byte)
  | fail (s : State) (cause idx : Nat) (aux : Option Word)
  | wait (s : State) (w : Wait)
  deriving DecidableEq, Repr

/-! ## Placement (R130 step 4, R249, R250) -/

/-- Raise a placement request for an extent, one for all its waiters; an ordinary request takes the place of a low-priority one, for
the die of the first request (R405). -/
def State.requestExtent (s : State) (n die : Nat) (low : Bool) : State :=
  match s.store.requests.find? (fun r => decide (r.extent = n)) with
  | some r =>
    if !r.low || low then s
    else s.modStore fun m => { m with
      requests := (m.requests.filter fun r => decide (r.extent ≠ n)) ++ [⟨n, r.die, false⟩] }
  | none => (s.modStore fun m => { m with requests := m.requests ++ [⟨n, die, low⟩] }).scheduleFree 1 .placementRequestServed

/-- The distinct extents of global keys, in order. -/
def extentsOf : List Nat → List (Nat × Nat)
  | ks => (ks.zipIdx.foldl (fun acc (k, i) =>
      if isGlobalKey k ∧ ¬ acc.any (fun e => decide (e.1 = extentOf k)) then acc ++ [(extentOf k, i)] else acc) [])

/-- Step 4 of R130 for one extent. -/
def State.placeOne (s : State) (die n idx : Nat) (write : Bool) : Acc :=
  let e := s.extentAt n
  match e.state with
  | .unallocated | .fenced => .fail s 8 idx none
  | .absent => .wait (s.requestExtent n die false) (.extent n)
  | .moving => .wait s (.extent n)
  | .present =>
    if write && e.code then .fail s 7 idx none
    else .ok ((s.setExtent n { e with touched := s.ck }).lookUp die n) []

/-- Step 4 of R130 for every extent of an access, before it has any effect. -/
def State.placeAll (s : State) (die : Nat) (write : Bool) : List (Nat × Nat) → Acc
  | [] => .ok s []
  | (n, idx) :: rest =>
    match s.placeOne die n idx write with
    | .ok s _ => State.placeAll s die write rest
    | r => r

/-! ## Windows (R225) -/

def State.windowAt (s : State) (tile w : Nat) : Window := FMap.get Window.unbound s.fab.windows (16 * tile + w)
def State.setWindow (s : State) (tile w : Nat) (x : Window) : State :=
  s.modFab fun f => { f with windows := FMap.set Window.unbound f.windows (16 * tile + w) x }

/-- The window of a tile that holds a scratchpad offset. -/
def State.windowHit (s : State) (tile off : Nat) : Option Nat :=
  (List.range 16).find? fun w =>
    let x := s.windowAt tile w
    x.state != 0 && decide (x.lbase ≤ off) && decide (off < x.lbase + x.len)

/-- The trap cause of a window fill's failure code (R225). -/
def causeOfCode (code : Nat) : Nat :=
  if code = 2 then 12 else if code = 3 then 7 else if code = 4 then 8 else if code = 5 then 10 else 11
/-- The token code of a failing check's cause (R212). -/
def codeOfCause (cause : Nat) : Nat :=
  if cause = 12 then 2 else if cause = 7 then 3 else if cause = 8 then 4 else if cause = 10 then 5 else 6

/-- The job of a tile's owner whose partition the tile belongs to, 0 for none. -/
def State.jobOfTile (s : State) (tile : Nat) : Nat :=
  match s.work.jobs.find? fun j => j.tiles.contains tile && decide (s.ownerOf tile = some j.tag) with
  | some j => j.handle
  | none => 0

/-- Start the fill of an ABSENT window (R225): a copy of LEN bytes from GBASE on the copy path. -/
def State.startFill (s : State) (who : Who) (tile w : Nat) : State :=
  let x := s.windowAt tile w
  let op : Op := { id := s.serial, tile := tile, core := coreOf tile 0, unit := who.unit, uid := who.uid, geo := 0,
                   job := s.jobOfTile tile, launch := 0, phase := 0, tag := who.tag, pc := 0, token := 0, kind := .window w,
                   done := 0, counter := none, cb := false, weight := none, stop := none, code := 0, dead := false,
                   waits := none, passed := [], moved := none }
  let s := (s.setWindow tile w { x with state := 2 }).modWork fun k => { k with ops := k.ops ++ [op] }
  ({ s with serial := s.serial + 1 }).scheduleFree 1 (.copyBurst op.id)

/-- Whether a unit's access waited for the fill of a window that has ended (R225). -/
def State.passes (s : State) (unit n : Nat) : Bool :=
  match s.findUnit unit with
  | some (_, _, u) => u.pass.contains n
  | none => false

/-- The touch of a window by one scratchpad byte (R225). -/
def State.touchOne (s : State) (who : Who) (k idx : Nat) : Acc :=
  match s.windowHit (keyTile k) (keyOff k) with
  | none => .ok s []
  | some w =>
    if s.passes who.unit (16 * keyTile k + w) then .ok s [] else
    let x := s.windowAt (keyTile k) w
    if x.code ≠ 0 then
      .fail s (causeOfCode x.code) idx
        (if x.code = 2 then some (BitVec.ofNat 64 (w + 2 * 2 ^ 16 + 2 ^ 23)) else none)
    else if x.state = 3 then .ok s []
    else if x.state = 1 then .wait (s.startFill who (keyTile k) w) (.window (keyTile k) w)
    else .wait s (.window (keyTile k) w)

/-- The touches of an access, byte by byte. -/
def State.touchAll (s : State) (who : Who) : List (Nat × Nat) → Acc
  | [] => .ok s []
  | (k, idx) :: rest =>
    if isScratchKey k then
      match s.touchOne who k idx with
      | .ok s _ => State.touchAll s who rest
      | r => r
    else State.touchAll s who rest

/-! ## Retained banks (R246, R388) -/

/-- An access reaches storage in a power state: it is served; or it waits for the exit, which takes 576 ck from the end of an entry
in progress (R246, R388). The answer is the new state of the storage, the ck at which the exit it starts ends, and whether the
access waits. -/
def BankState.reach (b : BankState) (ck : Nat) : BankState × Option Nat × Bool :=
  match b with
  | .awake _ => (.awake ck, none, false)
  | .entering e _ => (.entering e true, none, true)
  | .retained => (.exiting (ck + 576), some (ck + 576), true)
  | .exiting e => (.exiting e, none, true)

/-- An access reaches a scratchpad bank. -/
def State.bankOne (s : State) (b : Nat) : Acc :=
  let r := (s.bankAt b).reach s.ck
  let t := s.setBank b r.1
  let t := match r.2.1 with
    | some due => t.schedule due .retentionExitComplete
    | none => t
  if r.2.2 then .wait t (.bank b) else .ok t []

/-- An access reaches an L2 way. -/
def State.wayOne (s : State) (w : Nat) : Acc :=
  let r := (s.wayAt w).reach s.ck
  let t := s.setWay w r.1
  let t := match r.2.1 with
    | some due => t.schedule due .retentionExitComplete
    | none => t
  if r.2.2 then .wait t (.bank (firstWay + w)) else .ok t []

/-! ## What an access of lines reaches (R253, R257) -/

/-- How an access uses the lines it names: a load or a store of a core with its hint, or an access at their homes (an atomic, an
engine, a peer or a device). -/
inductive Via where
  | load (hint : Nat)
  | store (hint : Nat)
  | home
  deriving DecidableEq, Repr

/-- Whether a key is of a byte that the L1s and the L2 cache (R131). -/
def isCachedKey (k : Nat) : Bool := isGlobalKey k && !isDevKey k

/-- The cached lines of keys, each once, in order. -/
def cachedLines (keys : List Nat) : List Nat := ((keys.filter isCachedKey).map (· / 128)).eraseDups

/-- The bytes of a line that keys name. -/
def lineMask (keys : List Nat) (line : Nat) : BitVec 128 :=
  keys.foldl (fun m k => if k / 128 = line then m ||| (1#128 <<< (k % 128)) else m) 0

/-- Whether an L1 holds every byte of a line that keys name. -/
def State.l1Holds (s : State) (l1 line : Nat) (keys : List Nat) : Bool :=
  match s.l1Copy l1 line with
  | some l => l.valid &&& lineMask keys line == lineMask keys line
  | none => false

/-- The L2 way that an access reaches in a line itself (R246): none when the unit's L1 serves it, and none for a store that only its
L1 takes. -/
def State.wayFor (s : State) (who : Who) (via : Via) (line : Nat) (keys : List Nat) : Option Nat :=
  let l1 := s.l1Of who.tile line
  match via with
  | .home => s.reachedWay who.tag line 0
  | .load hint => if s.l1Holds l1 line keys then none else s.reachedWay who.tag line hint
  | .store hint =>
    let h := s.hintFor who.tag hint
    if h = 0 ∨ (h = 1 ∧ (s.l1Copy l1 line).isSome) then none else s.reachedWay who.tag line h

/-- The dirty copies that an access of a line has written back: the line's in other L1s, or in every L1 for an access at the home
(R253), and the one whose way the line takes in a full set of the unit's L1. -/
def State.copiesMoved (s : State) (who : Who) (via : Via) (line : Nat) : List L1Line :=
  let l1 := s.l1Of who.tile line
  let others := s.store.l1.filter fun x => decide (x.line = line) && (via == .home || decide (x.owner ≠ l1))
  let takes := match via with
    | .home => false
    | .load h | .store h => decide (s.hintFor who.tag h = 0)
  let victim := if takes && (s.l1Copy l1 line).isNone then (s.l1Victim l1 line).toList else []
  (others ++ victim).filter fun x => !x.dirty.isEmpty

/-- The L2 ways that an access of a line reaches: its own, and those of the write-backs it makes. -/
def State.waysFor (s : State) (who : Who) (via : Via) (line : Nat) (keys : List Nat) : List Nat :=
  (s.wayFor who via line keys).toList ++ (s.copiesMoved who via line).filterMap fun x => s.reachedWay x.tag x.line 0

/-- The banks of an access. -/
def State.banksAll (s : State) : List Nat → Acc
  | [] => .ok s []
  | b :: rest =>
    match s.bankOne b with
    | .ok s _ => State.banksAll s rest
    | r => r

/-- The L2 ways of an access. -/
def State.waysAll (s : State) : List Nat → Acc
  | [] => .ok s []
  | w :: rest =>
    match s.wayOne w with
    | .ok s _ => State.waysAll s rest
    | r => r

/-- The banks and L2 ways of an access. -/
def State.bankAll (s : State) (who : Who) (via : Via) (keys : List Nat) : Acc :=
  match s.banksAll ((keys.filter isScratchKey).map bankOf).eraseDups with
  | .ok s _ => s.waysAll ((cachedLines keys).flatMap fun l => s.waysFor who via l keys)
  | r => r

/-- Steps 4 and 5 of R130 as far as they make an access wait or fail before it meets its bytes: placement, windows (for the
paths that touch them), banks and ways. -/
def State.mayAccess (s : State) (who : Who) (keys : List Nat) (write touch : Bool) (via : Via) : Acc :=
  match s.placeAll (dieOf who.tile) write (extentsOf keys) with
  | .ok s _ =>
    match (if touch then s.touchAll who keys.zipIdx else .ok s []) with
    | .ok s _ => s.bankAll who via keys
    | r => r
  | r => r

/-! ## Reading and writing admitted bytes -/

/-- A numeric behaviour record (R53) from its fields WFMT, AFMT, ACC, ACCW, RPTS, SUBN, SATB, NARP, GSZ and EXACTN;
RMODE is 0. -/
def numericRecord (wfmt afmt acc accw rpts subn satb narp gsz exactn : Nat) : Nat :=
  wfmt + afmt * 2 ^ 4 + acc * 2 ^ 8 + accw * 2 ^ 12 + rpts * 2 ^ 20 + subn * 2 ^ 26 + satb * 2 ^ 28 +
    narp * 2 ^ 30 + gsz * 2 ^ 32 + exactn * 2 ^ 40

/-- The six numeric behaviour records in their order (R53, R54). -/
def numericRecords : List Nat :=
  [numericRecord 1 1 3 32 8 2 1 0 0 131071,
   numericRecord 11 12 6 32 2 0 0 0 7 0,
   numericRecord 12 12 6 32 2 0 0 0 7 0,
   numericRecord 8 8 13 64 8 2 1 1 0 32767,
   numericRecord 9 9 6 32 4 0 0 2 0 0,
   numericRecord 10 10 7 64 4 0 0 2 0 0]

/-- `feat` (R123): feature version 1, every extension. -/
def featValue : Nat := 0x13F

/-- A byte of the description block (R243). -/
def descByte (off : Nat) : Byte :=
  let pick (v base : Nat) : Byte := BitVec.ofNat 8 (v / 256 ^ (off - base))
  if off < 0x08 then pick featValue 0
  else if off < 0x10 then pick Config.packageNumber.toNat 0x08
  else if off < 0x18 then pick (Config.packagesM1.toNat + 1) 0x10
  else if off < 0x20 then pick Config.tierBytes 0x18
  else if 0x400 ≤ off ∧ off < 0x460 then
    pick (numericRecords.getD ((off - 0x400) / 16) 0) (0x400 + (off - 0x400) / 16 * 16)
  else 0

/-- Open a line at its home for a tenant (R389): its errors, its poison mark, then its tag. A line opened under another period than
the current one is sealed again lazily (R393). `src` is the SRC of a type 4 entry. -/
def State.openLine (s : State) (tag line idx : Nat) (uid : Nat := 0) (src : Nat := 0) : Acc :=
  let x := s.sealOf line
  let found := s.findLine line 1 ⟨uid, some tag⟩
  let s := found.1
  if s.poisoned line then .fail s 11 idx none
  else if s.opens tag x (s.extentAt (extentOf (line * 128))).code then
    let cur := match s.tenant tag with
      | some t => t.period
      | none => x.period
    .ok (if x.period = cur then s else s.scheduleFree 1 (.resealCopyArrival ⟨line, x.period, tag⟩)) []
  else .fail (s.logEvent 4 src (line * 128) found.2.toNat uid (some tag)) 10 idx none

/-- Go on from the state of an outcome. -/
def Acc.mapState (g : State → State) : Acc → Acc
  | .ok s v => .ok (g s) v
  | .fail s cause idx aux => .fail (g s) cause idx aux
  | .wait s w => .wait (g s) w

/-- A read at the home of a line (R257): the line is opened, and the access uses or fills the L2. -/
def State.openHome (s : State) (who : Who) (line idx hint : Nat) : Acc :=
  (s.openLine who.tag line idx who.uid.toNat).mapState fun s => s.l2Access who.tag line hint

/-- A load reaches a line (R253, R257): its L1 serves the bytes it holds; missing ones are opened at the home, after another L1's
dirty bytes are written back, and a load without a hint fills the L1. -/
def State.loadLine (s : State) (who : Who) (hint line idx : Nat) (keys : List Nat) : Acc :=
  let l1 := s.l1Of who.tile line
  let plain := s.hintFor who.tag hint = 0
  let s := s.claimRead l1 line
  if s.l1Holds l1 line keys then .ok (if plain then s.l1Alloc l1 line who else s) []
  else
    match s.openHome who line idx hint with
    | .ok s _ => .ok (if plain then s.l1Fill l1 line who else s) []
    | r => r

/-- The number that stands for the description block among the banks: a read that finds an error it must repair waits for it. -/
def descBank : Nat := 87040

/-- Read a byte of the description block (R387): one error bit of a word is corrected, and more are repaired from the seal core's
copy, for which the read waits; firmware logs either with SRC 10. -/
def State.readDesc (s : State) (who : Who) (k : Nat) : Acc :=
  let bits := FMap.get 0 s.store.errors (k / 8)
  if bits = 0 then
    match s.bankAt descBank with
    | .awake _ => .ok s [descByte (k - descKey 0)]
    | _ => .wait s (.bank descBank)
  else
    let t := (s.setErrors (k / 8) 0).logEvent 1 10 (k - descKey 0) bits who.uid.toNat (some who.tag)
    if bits ≤ 1 then .ok t [descByte (k - descKey 0)]
    else
      .wait ((t.setBank descBank (.exiting (t.ck + 1 + Config.latency t.freeCtr))).scheduleFree 1 .retentionExitComplete) (.bank descBank)

/-- Read one admitted byte that no line holds (R130 step 5): of the description block, of a device register on the matrix and engine
paths, whose value is free, or of a scratchpad. -/
def State.readFlat (s : State) (who : Who) (k idx : Nat) : Acc :=
  if isDescKey k then s.readDesc who k
  else if isDevKey k then .ok { s with freeCtr := s.freeCtr + 1 } [Config.deviceByte k s.freeCtr]
  else
    let s := s.findWord (k / 8) 1 who.blame;
    if s.poisoned (k / 8) then .fail s 11 idx none else .ok s [s.byteAt k]

/-- Read one admitted byte: a line is reached once for the bytes of it that stand together. `opened` is the line that the byte before
was of, `reach` reaches a line, and `keys` are the bytes from this one on. -/
def State.readOne (s : State) (who : Who) (l1 : Nat → Nat) (reach : State → Nat → Nat → List Nat → Acc) (opened : Option Nat)
    (k idx : Nat) (keys : List Nat) : Acc :=
  if !isCachedKey k then s.readFlat who k idx
  else if opened = some (k / 128) then .ok s [s.copyByte (l1 (k / 128)) k]
  else
    match reach s (k / 128) idx (keys.filter isCachedKey) with
    | .ok s _ => .ok s [s.copyByte (l1 (k / 128)) k]
    | r => r

/-- Read admitted bytes in ascending order. -/
def State.readKeys (s : State) (who : Who) (l1 : Nat → Nat) (reach : State → Nat → Nat → List Nat → Acc) (opened : Option Nat) :
    List (Nat × Nat) → Acc
  | [] => .ok s []
  | (k, idx) :: rest =>
    match s.readOne who l1 reach opened k idx (k :: rest.map (·.1)) with
    | .ok s b =>
      match State.readKeys s who l1 reach (if isCachedKey k then some (k / 128) else none) rest with
      | .ok s bs => .ok s (b ++ bs)
      | r => r
    | r => r

/-- Read admitted bytes for a core or its matrix array. -/
def State.readCore (s : State) (who : Who) (hint : Nat) (keys : List (Nat × Nat)) : Acc :=
  s.readKeys who (s.l1Of who.tile) (fun s line idx ks => s.loadLine who hint line idx ks) none keys

/-- Read admitted bytes at their homes: no L1 holds dirty bytes of the lines any more. -/
def State.readHome (s : State) (who : Who) (keys : List (Nat × Nat)) : Acc :=
  s.readKeys who (s.l1Of who.tile) (fun s line idx _ => (s.cleanCopy line).openHome who line idx 0) none keys

/-- Whether a write of these keys covers the whole 8-byte word of a scratchpad key (R390). -/
def coversWord (keys : List Nat) (k : Nat) : Bool :=
  (List.range 8).all fun i => keys.contains (k / 8 * 8 + i)

/-- The keys of a write that the lane of one of them holds, for lanes of n bytes that start at p modulo n; a write without lanes is
one access (R166). -/
def laneOf (lanes : Option (Nat × Nat)) (k : Nat) (keys : List Nat) : List Nat :=
  match lanes with
  | some (n, p) => keys.filter fun j => decide ((j + n - p) / n = (k + n - p) / n)
  | none => keys

/-- The words that a write, or a lane of it, covers in part are looked at before anything is written: the first that is poisoned fails
the write (R390, R166, R7). -/
def State.checkWords (s : State) (who : Who) (lanes : Option (Nat × Nat)) (keys : List Nat) : List (Nat × Nat) → Acc
  | [] => .ok s []
  | (k, idx) :: rest =>
    if isScratchKey k && !coversWord (laneOf lanes k keys) k then
      let s := s.findWord (k / 8) 1 who.blame;
      if s.poisoned (k / 8) then .fail s 11 idx none else State.checkWords s who lanes keys rest
    else State.checkWords s who lanes keys rest

/-- A scratchpad byte is written; a word that is written whole loses its mark and its errors (R390). -/
def State.writeWord (s : State) (keys : List Nat) (k : Nat) (b : Byte) : State :=
  let marked := s.poisoned (k / 8) || decide (FMap.get 0 s.store.errors (k / 8) ≠ 0)
  (if marked && coversWord keys k then (s.clearPoison (k / 8)).setErrors (k / 8) 0 else s).setByte k b

/-- A store reaches a line: every other L1's copy is invalidated, and the unit's L1 has a copy (R253). -/
def State.storeLine (s : State) (who : Who) (hint line : Nat) : State :=
  let l1 := s.l1Of who.tile line
  (s.claimWrite l1 line).l1Alloc l1 line who (s.hintFor who.tag hint = 0)

/-- A bypassing store's line goes on to backing memory: it leaves the L2, and takes no way there (R257). -/
def State.bypassLine (s : State) (line : Nat) : State := (s.writeBack line 2).l2Evict line

/-- What a hinted store does with its lines once its bytes are merged (R257): a bypassing one writes every line back to backing memory,
a no-allocate one leaves those that its L1 did not hold (`missed`) in the L2. -/
def State.settleHint (s : State) (who : Who) (hint : Nat) (lines missed : List Nat) : State :=
  let h := s.hintFor who.tag hint
  if h = 2 then lines.foldl State.bypassLine s else if h = 1 then missed.foldl (fun s l => s.writeBack l) s else s

/-- Put admitted bytes: scratchpad bytes in their words, cached ones in the unit's L1 copies. -/
def State.putBytes (s : State) (who : Who) (keys : List Nat) : List (Nat × Byte) → State
  | [] => s
  | (k, b) :: rest =>
    State.putBytes (if isScratchKey k then s.writeWord keys k b else s.dirtyByte who k b) who keys rest

/-- Write admitted bytes on the core path, as one access or in lanes: a write that fails writes nothing. -/
def State.writeKeys (s : State) (who : Who) (hint : Nat) (keys : List Nat) (bs : List Byte)
    (lanes : Option (Nat × Nat) := none) : Acc :=
  match s.checkWords who lanes keys keys.zipIdx with
  | .ok s _ =>
    let lines := cachedLines keys
    let missed := lines.filter fun l => (s.l1Copy (s.l1Of who.tile l) l).isNone
    let s := lines.foldl (fun s l => s.storeLine who hint l) s
    .ok ((s.putBytes who keys (keys.zip bs)).settleHint who hint lines missed) []
  | r => r

/-- The fewest naturally aligned pieces of an access to device registers (R131). -/
def alignedPieces : Nat → Word → List Byte → List (Word × List Byte)
  | 0, _, _ => []
  | fuel + 1, a, bs =>
    if bs.isEmpty then []
    else
      let fits (n : Nat) : Bool := decide (a.toNat % n = 0) && decide (n ≤ bs.length)
      let n := if fits 16 then 16 else if fits 8 then 8 else if fits 4 then 4 else if fits 2 then 2 else 1
      (a, bs.take n) :: alignedPieces fuel (a + BitVec.ofNat 64 n) (bs.drop n)

/-- The bus address that a device-register address names (R409). -/
def busAddress (a : Word) : Word := a &&& ~~~(3#64 <<< 54)
/-- The host port that accesses to device registers leave through (R409). -/
def State.hostPort (s : State) : Nat := if s.firm.links.hostDown.contains 0 then 1 else 0

/-- An access of device registers as it leaves through a host port (R409): with the requester ID of the port's function, and Relaxed
Ordering and No Snoop clear. -/
def State.busAccess (s : State) (a : Word) (op : BusOp) : BusAccess :=
  ⟨s.hostPort, Config.portRequester s.hostPort, false, false, busAddress a, op⟩

/-- Writes to device registers leave, each piece to its bus address (R131, R409). -/
def State.deviceWrite (s : State) (a : Word) (bs : List Byte) : State :=
  s.modStore fun m => { m with bus := m.bus ++ (alignedPieces bs.length a bs).map fun p => s.busAccess p.1 (.write p.2) }

/-- The time limit of a device-register read (R409): 50 ms. -/
def devregLimit : Nat := 45000000

/-- The Memory Read of the oldest part of a device read leaves; its completion must come within 50 ms (R409). -/
def State.deviceRead (s : State) (parts : List (Word × Nat)) : State :=
  match parts with
  | [] => s
  | p :: _ =>
    (s.modStore fun m => { m with bus := m.bus ++ [s.busAccess p.1 (.read p.2)] }).schedule (s.ck + devregLimit) .devregReadTimeout

/-- Perform a core-path write of bytes at keys, as one access or in lanes, with steps 4 and 5 of R130. -/
def State.performWrite (s : State) (who : Who) (hint : Nat) (keys : List Nat) (bs : List Byte)
    (lanes : Option (Nat × Nat) := none) : Acc :=
  match s.mayAccess who keys true true (.store hint) with
  | .ok s _ =>
    match keys with
    | k :: _ => if isDevKey k then .ok (s.deviceWrite (BitVec.ofNat 64 k) bs) [] else s.writeKeys who hint keys bs lanes
    | [] => .ok s []
  | r => r

/-- Perform a core-path or matrix-path read of bytes at keys, with steps 4 and 5 of R130. -/
def State.performRead (s : State) (who : Who) (keys : List Nat) (hint : Nat := 0) : Acc :=
  match s.mayAccess who keys false true (.load hint) with
  | .ok s _ => s.readCore who hint keys.zipIdx
  | r => r

/-- The bytes of lines are replaced at their homes, sealed for a tenant; scratchpad bytes are replaced in their words. -/
def State.putHome (s : State) (who : Who) (keys : List Nat) (bs : List Byte) : State :=
  let s := (keys.zip bs).foldl (fun s e => if isScratchKey e.1 then s.writeWord keys e.1 e.2 else s.setByte e.1 e.2) s
  (cachedLines keys).foldl (fun s l => (s.setSeal l (s.dataSeal who.tag)).homeWritten l) s

/-- Read and replace bytes at their home (R142): every L1 copy is invalidated first and its dirty bytes written back, the
line is opened, and the result is sealed. `g` gives the new bytes, or none when nothing is written. The copy path touches no
window (R225). -/
def State.performAtHome (s : State) (who : Who) (keys : List Nat) (write : Bool)
    (g : List Byte → Option (List Byte)) (touch : Bool := true) : Acc :=
  match s.mayAccess who keys write touch .home with
  | .ok s _ =>
    let s := (cachedLines keys).foldl (fun s l => s.writeBack l) s
    match s.readHome who keys.zipIdx with
    | .ok s old =>
      match g old with
      | some new => .ok (s.putHome who keys new) old
      | none => .ok s old
    | r => r
  | r => r

end Sys2Proof.Machine
end

