-- ==== Sys2Proof/Machine/Ops.lean ====
section
/-!
DEFINITION. Taking a trap and returning from one (R330 to R337, R343, R125): the record, the message to context zero, parking,
escalation, and `tret`.
-/
namespace Sys2Proof.Machine

open Sys2Proof

/-! ## Trap records (R331, R332) -/

/-- The 128 bytes of a trap record. -/
def recordBytes (core slot : Nat) (u : Ctx) (t : TrapAt) (seq : BitVec 32) (lost cyc : Nat) (isSealed esc : Bool) :
    List Byte :=
  let bit (b : Bool) (n : Nat) : Nat := if b then 2 ^ n else 0
  bytesOfNat (t.trap.mask.toNat * 2 ^ 768 + t.trap.aux.toNat * 2 ^ 704 + t.trap.addr.toNat * 2 ^ 640 +
    t.rpc.toNat * 2 ^ 576 + t.pc.toNat * 2 ^ 512 + cyc % 2 ^ 64 * 2 ^ 448 + min lost 65535 * 2 ^ 176 +
    seq.toNat * 2 ^ 128 + u.uid.toNat * 2 ^ 104 + kindOf core * 2 ^ 102 + slot * 2 ^ 96 +
    t.trap.code % 65536 * 2 ^ 16 + bit t.trap.defer 15 + bit t.trap.nonpark 14 + bit isSealed 13 + bit esc 12 +
    t.trap.cause) 128

/-- The flags of a class 7 message (R334): DEFER, NONPARK, SEALED and ESC of the record. -/
def recordFlags (t : Trap) (isSealed esc : Bool) : Nat :=
  8 * t.defer.toNat + 4 * t.nonpark.toNat + 2 * isSealed.toNat + esc.toNat

/-- `tvec` of a core (R123). -/
def State.tvecOf (s : State) (core : Nat) : Word := FMap.get 0 s.fab.tvec core

/-- An absent extent is asked for on behalf of the device: what is written to it stands once it is in, over its copied bytes
or its zeros (R250). -/
def State.openExtent (s : State) (tile n : Nat) : State :=
  let e := s.extentAt n
  if e.state = .absent then
    let fill := if e.ever then e.fill else { s.dataSeal e.owner with code := e.code }
    (s.setExtent n { e with ever := true, fill := fill }).requestExtent n (dieOf tile) false
  else s

/-- Write bytes on the core path for the device itself, at a global address, performed at the home (R331). An access to an
absent or moving extent waits, so nothing sees the bytes before they could stand there, and its lines stay in no cache (R251). Bytes
outside every allocated extent, and in sealed code (R255), go nowhere. -/
def State.deviceStore (s : State) (who : Who) (a : Word) (bs : List Byte) : State :=
  let keys := (List.range bs.length).map fun i => (a + BitVec.ofNat 64 i).toNat
  let good (k : Nat) : Bool := isGlobalKey k && !isDevKey k && !(s.extentAt (extentOf k)).code &&
    (match (s.extentAt (extentOf k)).state with
      | .unallocated | .fenced => false
      | _ => true)
  let lines := ((keys.filter good).map (· / 128)).eraseDups
  let s := lines.foldl (fun s l => s.openExtent who.tile (extentOf (128 * l))) s
  let s := match s.writeKeys who 0 (keys.filter good) (((keys.zip bs).filter fun e => good e.1).map (·.2)) with
    | .ok s _ => s
    | .fail s _ _ _ => s
    | .wait s _ => s
  lines.foldl (fun s l =>
    let s := s.writeBack l
    if (s.extentAt (extentOf (128 * l))).state = .present then s else s.l2Evict l) s

/-- The non-parking records of a slot that have not been delivered since the last one that was (R332). -/
def State.lostOf (s : State) (r : SlotRef) : Nat := FMap.get 0 s.fab.lost r.key
def State.setLost (s : State) (r : SlotRef) (n : Nat) : State :=
  s.modFab fun f => { f with lost := FMap.set 0 f.lost r.key n }

/-- Write a unit's record at an address: `trec` takes the address and SEQ counts it. CYC is the ck of the trap, given for a trap that
was held in an image (R343). Gives the new context. -/
def State.writeRecord (s : State) (r : SlotRef) (u : Ctx) (t : TrapAt) (addr : Word) (held : Option Nat) (esc : Bool) :
    State × Ctx :=
  let seq := u.seq + 1
  let s := s.deviceStore (s.who r.core u) addr
    (recordBytes r.core r.slot u t seq (s.lostOf r) (held.getD s.ck) held.isSome esc)
  (s, { u with trec := addr, seq := seq })

/-- The kinds of a class 7 message: the parking record of a slot, a hang, a non-parking record (R335). -/
def msgParking : Nat := 1
def msgHang : Nat := 2
def msgNonparking : Nat := 3

/-- A class 7 message for a record (R334). -/
def recordMsg (r : SlotRef) (u : Ctx) (t : Trap) (addr : Word) (isSealed : Bool) : Msg where
  cls := 7
  uid := u.uid
  payload := bytesOfNat addr.toNat 8 ++
    bytesOfNat (t.cause + recordFlags t isSealed false * 256 + r.slot * 65536) 8
  weight := none
  kind := if t.nonpark then msgNonparking else msgParking

/-- Queue a class 7 message and wake context zero (R333, R70). -/
def State.queueTrapMsg (s : State) (core : Nat) (m : Msg) : State :=
  (s.setMsgs core (s.msgsOf core ++ [m])).arrive core 7

/-! ## Escalation (R337) -/

/-- Halt a tenant's partition: no core of it issues, and its engines stop without writing their tokens. -/
def State.haltPartition (s : State) (tag : Nat) : State :=
  (s.modTenant tag fun t => { t with halted := true }).modWork fun w => { w with
    ops := w.ops.map fun o => if o.tag = tag then { o with dead := true } else o }

/-- A parking trap in context zero: its record is written at BASE with ESC = 1, the partition halts, and firmware logs it. `held` is the
ck of a trap that was held in the unit's image. -/
def State.escalate (s : State) (r : SlotRef) (u : Ctx) (t : TrapAt) (held : Option Nat := none) : State :=
  let addr := s.tvecOf r.core
  let (s, u) := s.writeRecord r u t addr held true
  let s := s.putMode r { u with pc := t.rpc } (.parked (.trap t.rpc))
  (s.haltPartition u.tag).logEvent 8 10 addr.toNat 0 u.uid.toNat (some u.tag)

/-! ## Taking a trap -/

/-- A unit whose deferred store trap is taken (R136): an instruction that was waiting to go on has had no effect, and is the first one
not yet issued (log entry 62). -/
def Ctx.stopped (u : Ctx) : Ctx := { u with failed := none, running := none }

/-- Whether a core's context zero has been taken for a swap (R343). -/
def State.zeroTaken (s : State) (core : Nat) : Bool :=
  match (s.slotAt (16 * core)).mode with
  | .parked (.taken _) => true
  | _ => false

/-- Park a unit with its record delivered (R333): the record at BASE + 256 × slot, then the class 7 message. `held` is the ck of a
trap that was held in the unit's image. -/
def State.parkWith (s : State) (r : SlotRef) (u : Ctx) (t : TrapAt) (held : Option Nat) : State :=
  let addr := s.tvecOf r.core + BitVec.ofNat 64 (256 * r.slot)
  let (s, u) := s.writeRecord r u t addr held false
  let s := s.putMode r { u with pc := t.rpc } (.parked (.trap t.rpc))
  s.queueTrapMsg r.core (recordMsg r u t.trap addr held.isSome)

/-- Hold a trap in the image of a unit whose core's context zero is gone (R343): DBRK is set and the unit is taken as at a
safe point, once its tokens are written. -/
def State.sealTrap (s : State) (r : SlotRef) (u : Ctx) (t : TrapAt) : State :=
  let u := { u.setStatBit statDbrk true with deferred := some ⟨t, s.ck⟩, pc := t.rpc }
  if u.pend.isEmpty then s.putMode r u (.parked (.taken none)) else s.putMode r u (.waiting (.token u.pend) s.ck)

/-- Taking a parking trap, for every cause (R333, R337, R343): the slot leaves the rotation parked, its PC the resume PC, its
record written and a message queued for context zero; a trap of context zero escalates; a trap that cannot be
delivered is held in the image. -/
def State.takeTrap (s : State) (r : SlotRef) (u : Ctx) (t : TrapAt) : State :=
  if r.slot = 0 then s.escalate r u t
  else if s.zeroTaken r.core then s.sealTrap r u t
  else s.parkWith r u t none

/-- A trap that was held in a unit's image is taken (R343): the unit parks at the first instruction it has not issued, and DBRK is
cleared. -/
def State.takeHeld (s : State) (r : SlotRef) (u : Ctx) (h : HeldTrap) : State :=
  let u := { u.setStatBit statDbrk false with deferred := none }
  let t := { h.trap with rpc := u.pc }
  if r.slot = 0 then s.escalate r u t (some h.cyc) else s.parkWith r u t (some h.cyc)

/-- The slot of a unit whose buffer has reported a failed store parks (R136). -/
def State.parkFailed (s : State) (r : SlotRef) (u : Ctx) (t : TrapAt) : State := s.takeTrap r u.stopped { t with rpc := u.pc }

/-- Whether the places of a core's message store that are not reserved hold another message (R335). -/
def State.freePlace (s : State) (core : Nat) : Bool :=
  decide (((s.msgsOf core).filter fun m => m.kind != msgParking && m.kind != msgHang).length < 48)

/-- A non-parking record (R331, R335): written at BASE + 256 × slot + 128, queued in a free place or counted lost. The unit
goes on. -/
def State.nonparkingRecord (s : State) (r : SlotRef) (u : Ctx) (t : TrapAt) : State :=
  let addr := s.tvecOf r.core + BitVec.ofNat 64 (256 * r.slot + 128)
  let (s, u) := s.writeRecord r u t addr none false
  let s := s.putUnit r u
  if s.freePlace r.core then (s.setLost r 0).queueTrapMsg r.core (recordMsg r u t.trap addr false)
  else s.setLost r (min 65535 (s.lostOf r + 1))

/-! ## Returning from a trap (R125, R136) -/

/-- The event that performs an entry of the store buffer. -/
def StoreEntry.event (e : StoreEntry) : Instr :=
  match e.kind with
  | .sem _ => .semPostPerformed e.who.core
  | _ => .storeBufferEntryPerformed e.who.core

/-- An entry enters the store buffer (R135); it will be performed at a time the manual does not promise. -/
def State.enterBuffer (s : State) (e : StoreEntry) : State :=
  (s.modFab fun f => { f with sbuf := f.sbuf ++ [e] }).scheduleFree 1 e.event

/-- A held store entry of a unit that now stands on a core (R136, R346): what it names in the scratchpads of its team moves by as many
tiles as its unit did. -/
def StoreEntry.moveTo (e : StoreEntry) (core : Nat) : StoreEntry :=
  let key (k : Nat) : Nat := if isScratchKey k then scratchKey (keyTile k + tileOf core - e.who.tile) (keyOff k) else k
  { e with
    who := { e.who with core := core, tile := tileOf core }
    kind := match e.kind with
      | .bytes ps => .bytes (ps.map fun p => { p with cells := p.cells.map fun c => (key c.1, c.2) })
      | .amo fn ty a keys x new => .amo fn ty a (keys.map key) x new
      | .cntAdd a keys x => .cntAdd a (keys.map key) x
      | .sem n => .sem n }

/-- A trap that a unit has yet to take before it issues again: a deferred store trap, or one that was held while its parked image was
drained (R136, R343). -/
def Ctx.trapsNext (u : Ctx) : Bool := u.failed.isSome || u.deferred.isSome

/-- `tret` of a slot of a core: a slot parked by a delivered trap becomes ready in the next ck, at its resume PC with its
held store entries performed in order, or at a new PC with them discarded. Entries that are held behind a trap the unit has yet to take
stay held (log entry 62). Any other slot stays as it is. -/
def State.tret (s : State) (core slot : Nat) (redirect : Option Word) : State :=
  let k := 16 * core + slot
  match (s.slotAt k).mode, (s.slotAt k).unit with
  | .parked (.trap rpc), some u =>
    let kept := redirect.isNone && u.trapsNext
    let s := s.setSlot k { s.slotAt k with
      unit := some { u with pc := redirect.getD rpc, held := if kept then u.held else [] }, mode := .ready (s.ck + 1) }
    if redirect.isNone && !kept then u.held.foldl (fun s e => s.enterBuffer (e.moveTo core)) s else s
  | _, _ => s

end Sys2Proof.Machine
end

