-- ==== Sys2Proof/Machine/Operands.lean ====
section
/-!
DEFINITION. Every operand form: immediates (R75, R76, R102), memory operands and effective addresses (R86, R129), scope
registers (R263), the reach check (R377) and the watch (R329).
-/
namespace Sys2Proof.Machine

open Sys2Proof

/-- The width of the immediate or displacement field of a form (R74, R77). -/
def immBits (f : Fields) : Nat := if f.form.isExt then 8 else 10

/-- A signed immediate (R102): the literal, or the field sign-extended. -/
def immSigned (f : Fields) : Word :=
  if f.form.hasLit then f.lit
  else if f.form.isExt then (f.imm.setWidth 8 : BitVec 8).signExtend 64
  else (f.imm.setWidth 10 : BitVec 10).signExtend 64

/-- An unsigned immediate (R102): the literal, or the field zero-extended. -/
def immUnsigned (f : Fields) : Word := if f.form.hasLit then f.lit else f.imm.setWidth 64

/-- A displacement (R86): a literal in bytes, or the field scaled by the unit. -/
def dispBytes (f : Fields) (unit : Nat) : Word :=
  if f.form.hasLit then f.lit else immSigned f * BitVec.ofNat 64 unit

/-- The effective address of a memory operand (R86, R129): base + index × scale + displacement, modulo 2^64. -/
def effAddr (u : Ctx) (f : Fields) (unit : Nat) : Word :=
  let index := if f.form.isExt && f.c != 0xFF then u.reg f.c.toNat <<< f.fn.toNat else 0
  u.reg f.b.toNat + index + dispBytes f unit

/-- The address of a register with a byte displacement (R129): `amo`, `bar`, `cnt`, `cln` and `inv`. The base forms of
format R carry none. -/
def regAddr (u : Ctx) (reg : BitVec 8) (f : Fields) : Word := u.reg reg.toNat + dispBytes f 1

/-- A branch target (R75): PC + 4 × SignExtend(OFF). -/
def branchTarget (pc : Word) (f : Fields) (bits : Nat) : Word :=
  pc + 4 * BitVec.ofInt 64 (BitVec.ofNat bits f.imm.toNat).toInt

/-- Clear the two low bits of a target (R73). -/
def alignPc (w : Word) : Word := w &&& ~~~3

/-- The address of the next instruction (R72). -/
def nextPc (pc : Word) (f : Fields) : Word := pc + BitVec.ofNat 64 (4 * f.form.words)

/-! ## Scopes -/

/-- Whether a rectangle scope register is accepted (R263). -/
def rectOk (u : Ctx) (v : Word) : Bool :=
  let x0 := (v.extractLsb' 0 7).toNat
  let y0 := (v.extractLsb' 8 6).toNat
  let x1 := (v.extractLsb' 16 7).toNat
  let y1 := (v.extractLsb' 24 6).toNat
  v.extractLsb' 34 30 == 0 && v.extractLsb' 30 2 == 0 && !v.getLsbD 23 && v.extractLsb' 14 2 == 0 && !v.getLsbD 7 &&
    decide (x0 ≤ x1) && decide (y0 ≤ y1) && decide (x1 < u.tw) && decide (y1 < u.th) &&
    decide (x0 ≤ u.lx) && decide (u.lx ≤ x1) && decide (y0 ≤ u.ly) && decide (u.ly ≤ y1)

/-- The illegal-scope trap of an instruction whose SCOPE is 6, when its rectangle is rejected (R130 step 1). -/
def scopeTrap (u : Ctx) (f : Fields) : Option Trap :=
  if f.scope = 6 then
    let v := u.reg f.e.toNat
    if rectOk u v then none else some { cause := 9, aux := v }
  else none

/-- Whether a scope reaches the host or peers (R141): `.sys`, none written, or a rectangle with the host or peer bit. -/
def scopeWide (u : Ctx) (f : Fields) : Bool :=
  f.scope == 0 || f.scope == 5 || (f.scope == 6 && ((u.reg f.e.toNat).getLsbD 32 || (u.reg f.e.toNat).getLsbD 33))

/-! ## Reach (R376, R377) -/

/-- Whether one range covers [a, a + n) with the right that is asked. -/
def reachOk (ranges : List Range) (a n : Nat) (write inb : Bool) : Bool :=
  ranges.any fun r => decide (r.base ≤ a) && decide (a + n ≤ r.limit) && (if write then r.wr else r.rd) && (!inb || r.inb)

/-- The reach check of an access of a tenant: a local or shared access passes without a range. -/
def State.inReach (s : State) (tag : Nat) (keys : List Nat) (write : Bool) : Bool :=
  match keys with
  | [] => true
  | k :: _ =>
    if isGlobalKey k then
      match s.tenant tag with
      | some t => reachOk t.reach k keys.length write false
      | none => false
    else true

/-- The reach check of an access of a unit (R377): one that has waited for its extent has passed it (R250). -/
def State.reaches (s : State) (who : Who) (keys : List Nat) (write : Bool) : Bool :=
  s.inReach who.tag keys write || keys.all fun k => isGlobalKey k && s.passes who.unit (2 ^ 20 + extentOf k)

/-! ## The watch (R329, R126) -/

/-- An access of `n` bytes at `a` overlaps the range of a bound register. -/
def Bound.overlaps (b : Bound) (a : Word) (n : Nat) : Bool :=
  decide (b.base.toNat < a.toNat + n) && decide (a.toNat < b.limit.toNat) && decide (b.base.toNat < b.limit.toNat)

/-- Whether an access lies within a bound register (R126). -/
def Bound.within (b : Bound) (a : Word) (n : Nat) : Bool :=
  decide (b.base.toNat ≤ a.toNat) && decide (a.toNat + n ≤ b.limit.toNat)

/-- The watch trap of a core-path access: the first of its pieces (lane, address) that overlaps the watched range. -/
def watchTrap (u : Ctx) (n : Nat) (pieces : List (Nat × Word)) : Option Trap :=
  if u.stat.getLsbD 8 then
    let b := u.boundOf (u.stat.extractLsb' 9 3).toNat
    (pieces.find? fun p => b.overlaps p.2 n).map fun p =>
      { cause := 17, addr := p.2, aux := BitVec.ofNat 64 (n + p.1 * 2 ^ 32) }
  else none

/-- The trap of a failing access: cause, failing byte's address, access size and lane; a window's reach trap carries an AUX
of its own (R332). -/
def accTrap (cause : Nat) (addr : Word) (size lane : Nat) (aux : Option Word) : Trap :=
  { cause := cause, addr := addr, aux := aux.getD (BitVec.ofNat 64 (size + lane * 2 ^ 32)) }

end Sys2Proof.Machine
end

