-- ==== Sys2Proof/Machine/Issue.lean ====
section
/-!
DEFINITION. What every instruction shares: the atomics' arithmetic (R143 to R147), the store buffer (R135, R136), waking of
waiters, migration (R63, R64), and `issueInstr`, steps 3 to 7 of R93 around an instruction's own effect.
-/
namespace Sys2Proof.Machine

open Sys2Proof

/-! ## Atomics (R143 to R146) -/

/-- Bytes of an atomic's object, by function and type code. -/
def amoSize (fn ty : Nat) : Nat :=
  if 13 ≤ fn then 32 else if ty = 3 ∨ ty = 19 ∨ ty = 6 then 4 else 8

/-- The new value of an integer atomic of width w (R143); none when a compare-and-swap fails. -/
def amoInt (fn w old x new : Nat) : Option Nat :=
  let so := signed old w
  let sx := signed x w
  match fn with
  | 0 => some ((old + x) % 2 ^ w)
  | 1 => some (old &&& x)
  | 2 => some (old ||| x)
  | 3 => some (old ^^^ x)
  | 4 => some (if sx < so then x else old)
  | 5 => some (if so < sx then x else old)
  | 6 => some (min old x)
  | 7 => some (max old x)
  | 8 => some x
  | _ => if old = x then some new else none

/-- The new value of `amo.fadd`, `amo.fmin` and `amo.fmax` with its flags (R144). -/
def amoFloat (fn ty old x : Nat) : Nat × Flags :=
  let o := decodeIeee ty old
  let v := decodeIeee ty x
  if fn = 10 then
    let r := addVal 0 o v
    let p := roundVal ty r.1 0
    (p.1, r.2 ||| p.2)
  else
    let r := minVal (fn == 12) o v
    let p := roundVal ty r.1 0
    (p.1, r.2 ||| p.2)

/-- The addend of `amo.xadd` by its type (R145). -/
def amoAddend (ty : Nat) (x : Word) : Val :=
  if ty = 3 then valOfInt (signed (x.toNat % 2 ^ 32) 32) 0
  else if ty = 4 then valOfInt x.toInt 0
  else decodeVal ty (x.toNat % 2 ^ laneWidth ty)

/-- An atomic on the value `old` of its object: the new value if one is written, the result register, and the flags. `rm` is
the rounding mode of `amo.xrd`. -/
def amoEffect (fn ty rm : Nat) (old : Nat) (x new : Word) : Option Nat × Word × Flags :=
  if fn = 14 then
    let r := roundVal ty (cellVal old) rm
    (none, BitVec.ofNat 64 r.1, r.2)
  else if fn = 13 then
    let c := toCell (amoAddend ty x)
    match c.1 with
    | .none => (none, 2, c.2)
    | .beyond => (none, 3, c.2)
    | .some y rounded => (some ((old + y) % 2 ^ 256), if rounded then 1 else 0, c.2)
  else
    let w := 8 * amoSize fn ty
    let res : Word := if ty = 3 then BitVec.ofInt 64 (signed old 32) else BitVec.ofNat 64 old
    if fn ≤ 9 then (amoInt fn w old (x.toNat % 2 ^ w) (new.toNat % 2 ^ w), res, 0)
    else
      let r := amoFloat fn ty old (x.toNat % 2 ^ w)
      (some r.1, res, r.2)

/-- The value of a counter after an addition (R156). -/
def cntSum (old : Nat) (x : Word) : Nat := min (old + x.toNat) (2 ^ 64 - 1)

/-! ## Waking waiters -/

/-- A plane load of the unit has not completed (R202), on the K-core that it was posted on, wherever the unit stands. -/
def State.planeBusy (s : State) (key : Nat) : Bool :=
  s.fab.arrays.any fun e => e.2.port.any fun p => match p with
    | .load l _ => decide (l.who.unit = key)
    | .swap .. => false

/-- The unit may be taken here: no pending token and no plane load (R338). -/
def State.safeNow (s : State) (u : Ctx) : Bool := u.pend.isEmpty && !s.planeBusy u.key

/-- A unit counts as having passed a safe point for every revocation that waits for it (R119, R365). -/
def State.passRevocations (s : State) (key : Nat) : State :=
  s.modFirm fun f => { f with revs := f.revs.map fun r => { r with units := r.units.filter (· ≠ key) } }

/-- A unit at a safe point: revocations count it, and its bound-reload request is met (R339). -/
def State.passSafe (s : State) (u : Ctx) : State × Ctx :=
  (s.passRevocations u.key, u.setPurposes (u.purposes.filter (· ≠ .reload)))

/-- A wait that is a safe point completes (R338, R365): a unit with nothing pending has passed one. -/
def State.completeSafe (s : State) (k : Nat) (npc : Word) (g : Ctx → Ctx) : State :=
  match (s.slotAt k).unit with
  | some u =>
    if s.haltedTag u.tag then s
    else if s.safeNow u then
      let r := s.passSafe u
      (r.1.setSlot k { r.1.slotAt k with unit := some r.2 }).complete k npc g
    else s.complete k npc g
  | none => s

/-- Complete every waiter of a counter at a place whose comparison the new value satisfies (R157, R232). -/
def State.wakeCounter (s : State) (loc v : Nat) : State :=
  s.fab.slots.foldl (fun s (k, sl) =>
    match sl.mode with
    | .waiting (.cnt _ l limit npc) _ => if l = loc ∧ limit.toNat ≤ v then s.completeSafe k npc id else s
    | .waiting (.sync _ l npc) _ => if l = loc ∧ v = 0 then s.completeSafe k npc id else s
    | _ => s) s

/-- Complete every waiter of a barrier at a place whose generation has changed (R152). -/
def State.wakeBarrier (s : State) (loc : Nat) (gen : BitVec 32) : State :=
  s.fab.slots.foldl (fun s (k, sl) =>
    match sl.mode with
    | .waiting (.bar _ l g dst npc) _ =>
      if l = loc ∧ g ≠ gen then s.completeSafe k npc (fun u => u.setReg dst (gen.setWidth 64)) else s
    | _ => s) s

/-- Whether an entry (ck, slot key) comes before another: by the ck of entry, then X, F, K, then slot (R155, R64). -/
def earlier (a b : Nat × Nat) : Bool := decide (a.1 < b.1) || (decide (a.1 = b.1) && decide (a.2 < b.2))

/-- The earliest of the occupied slots whose wait satisfies a test, with its entry. -/
def State.oldestWaiter (s : State) (p : Nat → Wait → Bool) : Option (Nat × Slot) :=
  (s.fab.slots.foldl (fun (acc : Option ((Nat × Nat) × Slot)) (k, sl) =>
    match sl.mode with
    | .waiting w since =>
      if sl.unit.isSome && p k w then
        match acc with
        | some (e, _) => if earlier (since, k) e then some ((since, k), sl) else acc
        | none => some ((since, k), sl)
      else acc
    | _ => acc) none).map fun x => (x.1.2, x.2)

def State.semAt (s : State) (tile n : Nat) : BitVec 32 := FMap.get 0 s.fab.sems (16 * tile + n)
def State.setSem (s : State) (tile n : Nat) (v : BitVec 32) : State :=
  s.modFab fun f => { f with sems := FMap.set 0 f.sems (16 * tile + n) v }

/-- A post is performed (R155): the oldest waiter takes it, or the count rises, held at 2^32 − 1. -/
def State.postSem (s : State) (tile n : Nat) : State :=
  match s.oldestWaiter (fun k w => decide (tileOf (k / 16) = tile) && (match w with
      | .sem m _ => decide (m = n)
      | _ => false)) with
  | some (k, sl) =>
    match sl.mode with
    | .waiting (.sem _ npc) _ => s.complete k npc id
    | _ => s
  | none =>
    let c := s.semAt tile n
    s.setSem tile n (if c = BitVec.allOnes 32 then c else c + 1)

/-! ## The store buffer (R135, R136) -/

/-- The outcome of performing an entry; what waits is the entry, less what has been performed of it. -/
inductive Performed where
  | ok (s : State)
  | blocked (s : State) (e : StoreEntry)
  | failed (s : State) (t : Trap)
  deriving DecidableEq, Repr

/-- Perform byte pieces in order, each once; a failing piece leaves it and the ones above it unwritten (R166). -/
def State.performPieces (s : State) (e : StoreEntry) : List Piece → Performed
  | [] => .ok s
  | p :: rest =>
    match s.performWrite e.who e.hint (p.cells.map (·.1)) (p.cells.map (·.2)) e.lanes with
    | .ok s _ => State.performPieces s e rest
    | .wait s _ => .blocked s { e with kind := .bytes (p :: rest) }
    | .fail s cause _ aux => .failed s { accTrap cause p.addr e.size p.lane aux with defer := true }

/-- Whether a scratchpad byte lies in a window whose fill has failed: a buffered store that touches it waits (R225). -/
def State.inFailedWindow (s : State) (k : Nat) : Bool :=
  isScratchKey k && (match s.windowHit (keyTile k) (keyOff k) with
    | some w => decide ((s.windowAt (keyTile k) w).code ≠ 0)
    | none => false)

def StoreEntry.keys (e : StoreEntry) : List Nat :=
  match e.kind with
  | .bytes ps => ps.flatMap fun p => p.cells.map (·.1)
  | .sem _ => []
  | .amo _ _ _ keys _ _ => keys
  | .cntAdd _ keys _ => keys

/-- Perform an entry at its home (steps 4 and 5 of R130). -/
def State.performEntry (s : State) (e : StoreEntry) : Performed :=
  if e.keys.any s.inFailedWindow then .blocked s e else
  match e.kind with
  | .bytes ps => s.performPieces e ps
  | .sem n => .ok (s.postSem e.who.tile n)
  | .amo fn ty addr keys x new =>
    let n := keys.length
    match s.performAtHome e.who keys true fun old =>
        (amoEffect fn ty 0 (natOfBytes old) x new).1.map fun v => bytesOfNat v n with
    | .ok s _ => .ok s
    | .wait s _ => .blocked s e
    | .fail s cause _ aux => .failed s { accTrap cause addr e.size 0 aux with defer := true }
  | .cntAdd addr keys x =>
    match s.performAtHome e.who keys true fun old => some (bytesOfNat (cntSum (natOfBytes old) x) 8) with
    | .ok s old => .ok (s.wakeCounter (keys.headD 0) (cntSum (natOfBytes old) x))
    | .wait s _ => .blocked s e
    | .fail s cause _ aux => .failed s { accTrap cause addr e.size 0 aux with defer := true }

def State.setBuffer (s : State) (b : List StoreEntry) : State := s.modFab fun f => { f with sbuf := b }

/-- Slots of a core that wait for room in its buffer, or for their own entries, go on. -/
def State.bufferChanged (s : State) (core : Nat) : State :=
  s.rejoinWhere fun k w => decide (k / 16 = core) && (match w with
    | .bufferFull | .drain => true
    | _ => false)

/-- What is left of an entry that waits takes its place. -/
def State.keepEntry (s : State) (e rest : StoreEntry) : State :=
  s.setBuffer (modifyFirst (fun x => decide (x = e)) (fun _ => rest) s.fab.sbuf)

/-- An entry leaves the buffer. -/
def State.dropEntry (s : State) (e : StoreEntry) : State :=
  (s.setBuffer (removeFirst (fun x => decide (x = e)) s.fab.sbuf)).bufferChanged e.who.core

/-- An entry fails (R136): its unit's later entries are held in its image, and the trap waits for the slot's next issue. -/
def State.failEntry (s : State) (e : StoreEntry) (t : Trap) : State :=
  let later := (removeFirst (fun x => decide (x = e)) s.fab.sbuf).filter fun x => decide (x.who.unit = e.who.unit)
  let s := s.setBuffer (s.fab.sbuf.filter fun x => decide (x.who.unit ≠ e.who.unit))
  (s.modUnit e.who.unit fun u => { u with held := later, failed := some ⟨t, e.pc, 0⟩ }).bufferChanged e.who.core

/-- Perform the first entry of a core that is not behind another entry of its unit and does not wait; `only` picks the entries
that may be performed now. -/
def State.performNext (s : State) (core : Nat) (only : StoreEntry → Bool) : List StoreEntry → List Nat → State
  | [], _ => s
  | e :: rest, blocked =>
    if e.who.core = core ∧ ¬ blocked.contains e.who.unit ∧ only e = true then
      match s.performEntry e with
      | .ok s => s.dropEntry e
      | .failed s t => s.failEntry e t
      | .blocked s r => State.performNext (s.keepEntry e r) core only rest (e.who.unit :: blocked)
    else State.performNext s core only rest (e.who.unit :: blocked)

/-- The outcome of performing a unit's entries before one of its instructions. -/
inductive Drained where
  | ok (s : State)
  | blocked (s : State)
  | failed (s : State)
  deriving DecidableEq, Repr

/-- Perform the entries of a unit that satisfy a test and every earlier one of the unit, oldest first. -/
def State.drainList (s : State) : List StoreEntry → Drained
  | [] => .ok s
  | e :: rest =>
    match s.performEntry e with
    | .ok s => State.drainList (s.dropEntry e) rest
    | .blocked s r => .blocked (s.keepEntry e r)
    | .failed s t => .failed (s.failEntry e t)

/-- Perform every entry of a unit (R148, R141, R191). -/
def State.drain (s : State) (unit : Nat) : Drained :=
  s.drainList (s.fab.sbuf.filter fun e => decide (e.who.unit = unit))

/-- Perform the entries of a unit that are numbered below a number (R230, R214). -/
def State.drainUpto (s : State) (unit n : Nat) : Drained :=
  s.drainList (s.fab.sbuf.filter fun e => decide (e.who.unit = unit) && decide (e.num < n))

/-- Entries of a core in the buffer. -/
def State.buffered (s : State) (core : Nat) : Nat := (s.fab.sbuf.filter fun e => decide (e.who.core = core)).length

/-- The byte of a unit's youngest buffered store to a key (R135). -/
def forwardByte (unit key : Nat) (b : List StoreEntry) : Option Byte :=
  b.foldl (fun acc e =>
    if e.who.unit = unit then
      match e.kind with
      | .bytes ps => ps.foldl (fun acc p => p.cells.foldl (fun acc c => if c.1 = key then some c.2 else acc) acc) acc
      | _ => acc
    else acc) none

/-- Whether a unit has an atomic or a counter addition buffered, whose result a later read must see. -/
def State.rmwBuffered (s : State) (unit : Nat) : Bool :=
  s.fab.sbuf.any fun e => decide (e.who.unit = unit) && (match e.kind with
    | .amo .. | .cntAdd .. => true
    | _ => false)

/-! ## The result of an instruction's own effect -/

/-- What an instruction's own effect gives. `ok`: it completes. `jump`: it completes at another PC. `trap`: it traps with
no effect. `wait`: it leaves the rotation, to go on later or to be completed. `reply`: it leaves the rotation until
its reply delivers the register writes. `after`: it completes and then traps. `gone`: the unit has left its slot. `late`: an earlier store has failed
meanwhile. -/
inductive Res where
  | ok (s : State) (u : Ctx)
  | jump (s : State) (u : Ctx) (pc : Word)
  | trap (s : State) (t : Trap)
  | wait (s : State) (u : Ctx) (w : Wait)
  | reply (s : State) (u : Ctx) (writes : List RegWrite) (watch : Option Trap)
  | after (s : State) (u : Ctx) (t : Trap)
  | gone (s : State)
  | late (s : State)
  deriving DecidableEq, Repr

/-- Where an instruction executes: its slot, its own fields, and the address of the next instruction. -/
structure Env where
  ref  : SlotRef
  f    : Fields
  npc  : Word
  deriving DecidableEq, Repr

def Env.core (e : Env) : Nat := e.ref.core
def Env.tile (e : Env) : Nat := tileOf e.ref.core

/-! ## Migration (R15, R63, R64) -/

/-- Whether a slot number of a core is empty: no unit, and none on its way in. -/
def Slot.isEmpty (sl : Slot) : Bool :=
  sl.unit.isNone && (match sl.mode with
    | .incoming _ | .restoring _ => false
    | _ => true)

/-- Whether a Gathering gang holds a slot (R323). -/
def State.slotReserved (s : State) (k : Nat) : Bool := s.work.launches.any fun l => l.reserved.contains k

/-- The lowest empty slot of a core among its slots for launched units (R17). That a slot which a Gathering gang holds is not empty
for a migration or `ctx.start` either is the model's choice (log entry 14). -/
def State.emptySlot (s : State) (core : Nat) : Option Nat :=
  ((List.range ((s.partOf (tileOf core)).contexts - 1)).map (· + 1)).find? fun n =>
    (s.slotAt (16 * core + n)).isEmpty && !s.slotReserved (16 * core + n)

/-- The kinds in the order a migration searches them: F, K, X (R15). -/
def migrationOrder : List Nat := [1, 2, 0]

/-- The usable cores of a tile, other than one, that list an extension, in search order. -/
def State.usableCores (s : State) (core : Nat) (e : Ext) : List Nat :=
  (migrationOrder.map fun k => coreOf (tileOf core) k).filter fun c =>
    decide (c ≠ core) && kindLists (kindOf c) e && !s.fab.fenced.contains c

/-- Begin the transfer of a unit to a slot: ck t + 1 to t + 40, in which its source slot stays occupied (R63). -/
def State.startMigration (s : State) (r : SlotRef) (u : Ctx) (core slot : Nat) : State :=
  let s := s.putMode r u (.migrating (16 * core + slot) s.ck)
  (s.setSlot (16 * core + slot) { s.slotAt (16 * core + slot) with mode := .incoming r.key, unit := none }).schedule
    (s.ck + 41) (.migrationTransferEnd u.key)

/-- A unit issues an opcode its core does not list (R63): it migrates, waits in the migration queue, or takes an
extension-absent trap. -/
def State.migrate (s : State) (r : SlotRef) (u : Ctx) (e : Ext) : State :=
  let absent : Trap := { cause := 3, aux := BitVec.ofNat 64 (Ext.num e) }
  let cores := s.usableCores r.core e
  if r.slot = 0 ∨ cores = [] then s.takeTrap r u ⟨absent, u.pc, u.pc⟩
  else
    match cores.findSome? fun c => (s.emptySlot c).map fun n => (c, n) with
    | some (c, n) => s.startMigration r u c n
    | none => (s.putMode r u (.waiting (.queue e) s.ck)).schedule s.ck (.migrationQueueGrant (tileOf r.core))

/-! ## Issue: steps 3 to 7 of R93 -/

/-- The first word of an instruction, for the AUX of causes 1 and 2 (R332). -/
def firstWord (i : Instr) : Word :=
  match encode i with
  | w :: _ => w.setWidth 64
  | [] => 0

/-- A wait after which the instruction goes on (R59); the others complete it, or come before its issue. -/
def Wait.again (w : Wait) : Bool :=
  match w with
  | .token _ | .bufferFull | .drain | .extent _ | .window .. | .bank _ | .borrow | .borrowRefused | .planeLoad | .ssmEngine
  | .dequeFull | .deque => true
  | .reply _ | .mmac _ | .sem .. | .bar .. | .cnt .. | .sync .. | .quiet .. | .sleep .. | .realign .. | .icache _ | .devreg ..
  | .migration | .queue _ | .swapPlanes _ | .ssmRun .. | .idleRound _ | .segmentFull .. | .safe _ => false

/-- The mark, among the windows that a unit's access passes, that it has passed the reach check of an extent. -/
def extentMark (n : Nat) : Nat := 2 ^ 20 + n

/-- What a unit's access passes without a check when it goes on after a wait: the reach check of the extent it waits for (R250, R377). -/
def Wait.passed (w : Wait) (pass : NSet) : NSet :=
  match w with
  | .extent n => NSet.insert pass (extentMark n)
  | _ => pass

/-- What a result makes of the state. After an instruction whose unit's earlier store fails in its own drain, the slot parks at that
instruction (R136; log entry 62). -/
def finish (i : Instr) (e : Env) (u0 : Ctx) (r : Res) : State :=
  match r with
  | .ok s u => s.putUnit e.ref { u with pc := e.npc }
  | .jump s u pc => s.putUnit e.ref { u with pc := pc }
  | .trap s t => s.takeTrap e.ref u0 ⟨t, u0.pc, u0.pc⟩
  | .wait s u w => s.putMode e.ref { u with
      running := if w.again then some i else none
      pass := w.passed (match s.unitAt e.ref with
      | some v => v.pass
      | none => []) } (.waiting w s.ck)
  | .reply s u ws watch =>
    (s.putMode e.ref u (.waiting (.reply ⟨ws, e.npc, watch⟩) s.ck)).scheduleFree 1 (.memoryReply u.key)
  | .after s u t => s.takeTrap e.ref u ⟨t, u0.pc, e.npc⟩
  | .gone s => s
  | .late s =>
    match (s.slotAt e.ref.key).unit with
    | some u =>
      match u.failed with
      | some t => s.parkFailed e.ref u t
      | none => s
    | none => s

/-- A guard operand holds (R79). -/
def guardHolds (u : Ctx) (g : GuardSel) : Bool := u.guardOf g.idx.toNat != g.neg

/-- Steps 4 to 7 of R93, with the rules of pending and poisoned scalars (R61, R390). -/
def runChecked (i : Instr) (e : Env) (u : Ctx) (s : State) (body : Env → Ctx → State → Res) : Res :=
  let illegal : Trap := { cause := 1, aux := firstWord i }
  match checkFields (s.partOf e.tile) i with
  | .illegal => .trap s illegal
  | .ordering => .trap s { cause := 2, aux := firstWord i }
  | .ok =>
    if !(guardHolds u e.f.ga && guardHolds u e.f.gb) then .ok s u
    else
      match i.dests.find? (u.pend.contains ·) with
      | some n => .trap s { cause := 13, aux := BitVec.ofNat 64 n }
      | none =>
        if i.waitSources.any (u.pend.contains ·) || ((opSpec i).allTokens && !u.pend.isEmpty) then
          .wait s u (.token (if (opSpec i).allTokens then u.pend else i.waitSources.filter (u.pend.contains ·)))
        else if i.sources.any (u.pois.contains ·) then .trap s { cause := 11, aux := 8 }
        else body e u s

/-- The instruction of the issuing slot executes, or goes on after a wait: the extension check and migration (step 3), then the
others. -/
def issueInstr (i : Instr) (body : Env → Ctx → State → Res) (s : State) : Host.Outcome State Fault Refusal :=
  match s.issuing with
  | none => .fault .noIssue
  | some r =>
    match s.unitAt r with
    | none => .fault .noIssue
    | some u =>
      let s := { s with issuing := none }
      let u := { u with pass := [], running := none }
      let ext := (opSpec i).ext
      if kindLists (kindOf r.core) ext then
        let e : Env := ⟨r, i.fields, nextPc u.pc i.fields⟩
        .next (finish i e u (runChecked i e u s body))
      else .next (s.migrate r u ext)

end Sys2Proof.Machine
end

