-- ==== Sys2Proof/Machine/Context.lean ====
section
/-!
DEFINITION. Contexts and weight: splitting and returning quiescence weight (R214, R292 to R296, R319), freeing a slot, ending
and retiring a unit (R119, R238, R314), retiring a launch (R320, R321), safe points and taking a unit (R338 to R343).
-/
namespace Sys2Proof.Machine

open Sys2Proof

/-! ## Units wherever they are held -/

/-- The context of a unit with a serial number, in a slot, in the image of a taken unit or in a shadow bank. -/
def State.ctxOf (s : State) (key : Nat) : Option Ctx :=
  match s.findUnit key with
  | some (_, _, u) => some u
  | none =>
    (s.work.launches.findSome? fun l => l.queue.findSome? fun p => p.image.filter fun u => decide (u.key = key)).orElse fun _ =>
      s.work.swapped.findSome? fun x => (Machine.findUnit key x.slots).map fun r => r.2.2

/-- Whether store entries of a unit that are numbered below a number are held in its parked image (R136). -/
def State.heldBefore (s : State) (unit n : Nat) : Bool :=
  match s.ctxOf unit with
  | some u => u.held.any fun e => decide (e.num < n)
  | none => false

/-! ## Weight -/

def Phase.quiet (p : Phase) : Bool := decide (p.ret = p.exp)

/-- Whether a store entry of a unit and a launch is one of the returning party. -/
def ofParty (r : WeightReturn) (unit : Nat) (l : LaunchId) : Bool :=
  (decide (r.unit ≠ 0) && decide (unit = r.unit)) || (decide (r.launch ≠ 0) && decide (l = ⟨r.phase.job, r.launch⟩))

/-- Return weight of exponent k to a phase's root, with a mark, once the writes of the returning unit, or of a launch's
units, are performed (R214, R294). -/
def State.returnWeight (s : State) (p : PhaseId) (k : Nat) (m : Mark) (unit : Nat) (launch : Nat := 0) : State :=
  s.scheduleFree 1 (.rootReturn ⟨p, k, m, unit, launch, s.serial⟩)

/-- A root raises EXP by 2^(D−1) for a party that joins the phase with k = 1 (R318, R319). -/
def State.raiseRoot (s : State) (p : PhaseId) : State :=
  s.modPhase p fun x => { x with exp := x.exp + 2 ^ (x.depth - 1) }

def State.depthOf (s : State) (p : PhaseId) : Nat :=
  match s.phase p with
  | some x => x.depth
  | none => 63

/-- A unit about to split takes weight from its launch when it holds none (R319). -/
def State.ensureWeight (s : State) (u : Ctx) : State × Ctx :=
  match u.weight with
  | some _ => (s, u)
  | none =>
    match (s.launch u.launchId).bind (·.holds) with
    | some k => (s.modLaunch u.launchId fun l => { l with holds := none }, u.setWeight (some k))
    | none => (s.raiseRoot u.phaseId, u.setWeight (some 1))

/-- Whether a split must borrow first: the unit's exponent is D (R214). -/
def State.mustBorrow (s : State) (u : Ctx) : Bool :=
  match u.weight with
  | some k => decide (k = s.depthOf u.phaseId)
  | none =>
    match (s.launch u.launchId).bind (·.holds) with
    | some k => decide (k = s.depthOf u.phaseId)
    | none => decide (1 = s.depthOf u.phaseId)

/-- Split (R214) of a unit that need not borrow: the unit and the new party hold k + 1. -/
def State.split (s : State) (u : Ctx) : State × Ctx × Nat :=
  let (s, u) := s.ensureWeight u
  let k := u.weight.getD 0 + 1
  (s, u.setWeight (some k), k)

/-- A unit that must borrow waits for the root (R214, R294). -/
def State.askBorrow (s : State) (u : Ctx) : Res :=
  let (s, u) := s.ensureWeight u
  .wait (s.scheduleFree 1 (.rootBorrow u.key)) u .borrow

/-- Return a unit's own weight, if it holds any. -/
def State.returnOwn (s : State) (u : Ctx) (m : Mark) : State × Ctx :=
  match u.weight with
  | some k => (s.returnWeight u.phaseId k m u.key, u.setWeight none)
  | none => (s, u)

/-! ## Freeing slots -/

def State.pidOf (s : State) (tag : Nat) : Nat :=
  match s.tenant tag with
  | some t => t.pid
  | none => 0

/-- The slot whose unit is in transfer to a slot. -/
def State.incomingTo (s : State) (k : Nat) : Option Nat :=
  (s.fab.slots.find? fun e => match e.2.mode with
    | .migrating t _ => decide (t = k)
    | _ => false).map (·.1)

/-- A slot empties: the oldest queued migration that can use it is served first, then the launch unit may place units. A slot
that a unit in an exchange is moving to stays taken (R64). -/
def State.freeSlot (s : State) (k : Nat) (tag : Nat) : State :=
  let s := s.setSlot k (match s.incomingTo k with
    | some source => { Slot.empty with mode := .incoming source }
    | none => Slot.empty)
  (s.schedule s.ck (.migrationQueueGrant (tileOf (k / 16)))).schedule s.ck (.launchPlacement (s.pidOf tag))

/-- Release a unit's message class bindings; queued messages stay (R119, R240). -/
def State.releaseBinds (s : State) (key : Nat) : State :=
  s.modFab fun f => { f with binds := f.binds.filter fun e => decide (e.2 ≠ some key) }

/-- The classes bound to a unit on a core. -/
def State.boundClasses (s : State) (core key : Nat) : List Nat :=
  (List.range 7).filter fun c => decide (FMap.get none s.fab.binds (8 * core + c) = some key)

/-- A unit leaves its core's state-space engine and its waiting line (R208); a chunk it runs stops without committing. -/
def State.leaveEngine (s : State) (core key : Nat) : State :=
  let a := FMap.get Array.idle s.fab.arrays core
  let a := { a with waiters := a.waiters.filter (· ≠ key) }
  let ends := decide (a.holder = some key)
  let b := if ends then { a with holder := none, ran := 0, block := [], h0 := [], chunkWait := none } else a
  let s := s.modFab fun f => { f with arrays := FMap.set Array.idle f.arrays core b }
  let s := if ends then { s with agenda := s.agenda.filter fun e => decide (e.2 ≠ .ssmChunkCommit core) } else s
  if b.holder.isNone then s.rejoinWhere fun k w => decide (k / 16 = core) && w == .ssmEngine else s

/-! ## Launches (R314, R320, R321) -/

/-- The image that a swapped-out partition's tiles are held in (R342). -/
def State.swapImageOf (s : State) (tag : Nat) : Option SwapImage := s.work.swapped.find? fun i => decide (i.under.tag = tag)

/-- Replace the image of a partition. -/
def State.setImage (s : State) (i : SwapImage) : State :=
  s.modWork fun w => { w with swapped := w.swapped.map fun x => if x.pid = i.pid then i else x }

/-- Add to the counter of a launch (R320), in the image of its partition's scratchpads while that is swapped out: checked against the tenant's reach set and by steps 4 and 5 of R130; an addition
that fails is not made, and firmware logs it. The answer is false when the addition must wait: it has passed its reach check then, which
is not made again (R250). -/
def State.addCounter (s : State) (l : Launch) (tag : Nat) : State × Bool :=
  let a := l.desc.cnta
  if a = 0 then (s, true)
  else
    let top := (a.extractLsb' 56 8).toNat
    let origin := l.origin.getD 0
    let base := if top = 0 then a.toNat
      else if top = 0xF0 then scratchKey origin (a.extractLsb' 0 20).toNat
      else scratchKey (origin + (a.extractLsb' 20 5).toNat / 8 * 128 + (a.extractLsb' 20 5).toNat % 8)
        (a.extractLsb' 0 20).toNat
    let keys := (List.range 8).map (base + ·)
    let who : Who := ⟨origin, coreOf origin 0, 0, 0, tag, 0⟩
    let fails (s : State) (code : Nat) : State × Bool := (s.logEvent 14 10 a.toNat code 0 (some tag), true)
    if l.reached || s.inReach tag keys true then
      match s.swapImageOf tag, isScratchKey base with
      | some i, true =>
        if i.poison.contains (base / 8) then fails s 6
        else
          let sum := cntSum (natOfBytes (FMap.getMany 0 i.mem base 8)) 1
          (s.setImage { i with mem := FMap.setMany 0 i.mem base (bytesOfNat sum 8) }, true)
      | _, _ =>
        match s.performAtHome who keys true fun old => some (bytesOfNat (cntSum (natOfBytes old) 1) 8) with
        | .ok s old => (s.wakeCounter base (cntSum (natOfBytes old) 1), true)
        | .wait s _ => (s.modLaunch l.id fun x => { x with reached := true }, false)
        | .fail s cause _ _ => fails s (codeOfCause cause)
    else fails s 2

/-- Whether a launch is over. -/
def LaunchState.ended (x : LaunchState) : Bool :=
  match x with
  | .retired | .cancelled => true
  | _ => false

/-- A launch's weight returns to its phase, and the quantum of its issuer's phase to that phase (R214, R318, R320), once the writes of
its units are performed. -/
def State.returnLaunch (s : State) (l : Launch) (m : Mark) : State :=
  let s := match l.holds with
    | some k => s.returnWeight ⟨l.id.job, l.phase⟩ k m 0 l.id.handle
    | none => s
  let s := match l.parent with
    | some (k, p) => s.returnWeight p k m 0 l.id.handle
    | none => s
  s.modLaunch l.id fun x => { x with holds := none, parent := none }

/-- The state of a launch by handle, as its successors see it; one that is gone has retired, and one whose addition at CNTA is still
to be made has not (R320). -/
def State.launchState (s : State) (job h : Nat) : LaunchState :=
  match s.launch ⟨job, h⟩ with
  | some l => if l.adding then .placed else l.state
  | none => .retired

/-- A Waiting launch whose predecessors are settled becomes Ready in the next ck when every PRED retired, and Cancelled,
its weight returned, when one was cancelled (R321, R327). -/
def State.settleLaunch (s : State) (l : Launch) : State :=
  let ps := l.desc.preds.map (s.launchState l.id.job)
  if l.state ≠ .waiting then s
  else if ps.contains .cancelled then
    (s.modLaunch l.id fun x => { x with state := .cancelled, queue := [] }).returnLaunch l .cancel
  else if ps.all (· = .retired) then
    (s.modLaunch l.id fun x => { x with state := .ready, entered := s.ck + 1 }).schedule
      (s.ck + 1 + 4096) .preemptionGrant
  else s

/-- Every Waiting launch, in the order of their making. -/
def State.settlePreds (s : State) : State := s.work.launches.foldl (fun s l => s.settleLaunch l) s

def State.tagOfJob (s : State) (job : Nat) : Nat :=
  match s.job job with
  | some j => j.tag
  | none => 0

/-- A run's period ends when every launch of its graph is over: the next period is submitted in the next ck (R352). -/
def State.checkRuns (s : State) : State :=
  s.work.runs.foldl (fun s r =>
    if r.last.all fun h => match s.launch ⟨r.job, h⟩ with
        | some l => l.state.ended && !l.adding
        | none => true
    then s.schedule (s.ck + 1) (.periodSubmit r.id) else s) s

/-- A launch's fused clusters go back to tile L1s when its last unit has retired: dirty bytes are written back (R256). -/
def State.unfuse (s : State) (l : LaunchId) : State :=
  let clusters := (s.fab.fused.filter fun e => decide (e.2 = some l)).map (·.1)
  let s := s.writeBackWhere fun x => clusters.contains (pcluOf x.owner)
  s.modFab fun f => { f with fused := f.fused.filter fun e => decide (e.2 ≠ some l) }

/-- Whether a launch's units have writes that are not performed: store buffer entries, and operations that write memory. -/
def State.launchWrites (s : State) (l : LaunchId) : Bool :=
  s.fab.sbuf.any (fun e => decide (e.launch = l)) ||
    s.work.ops.any fun o => decide (o.job = l.job) && decide (o.launch = l.handle) && (match o.kind with
      | .window _ | .message .. => false
      | _ => true)

/-- What follows the addition at a retired launch's counter (R320, R321): its weight returns, its successors become ready. -/
def State.leaveLaunch (s : State) (l : Launch) : State :=
  let s := s.modLaunch l.id fun x => { x with adding := false }
  ((s.returnLaunch l .none).settlePreds.checkRuns).schedule (s.ck + 1) (.launchPlacement (s.pidOf (s.tagOfJob l.id.job)))

/-- The addition at a retired launch's counter, once every write of its units is performed (R320). -/
def State.settleRetired (s : State) (l : Launch) : State :=
  if l.desc.cnta ≠ 0 ∧ s.launchWrites l.id = true then s
  else
    let r := s.addCounter l (s.tagOfJob l.id.job)
    if r.2 then r.1.leaveLaunch l else r.1

/-- A launch retires (R320, R321). -/
def State.retireLaunch (s : State) (l : Launch) : State :=
  let s := (s.unfuse l.id).modLaunch l.id fun x => { x with state := .retired, adding := true }
  s.settleRetired { l with state := .retired, adding := true }

/-- Whether a slot holds a unit that satisfies a test. -/
def Slot.holds (sl : Slot) (p : Ctx → Bool) : Bool :=
  match sl.unit with
  | some u => p u
  | none => false

/-- The idle workers among a launch's units, in slots, in the images of taken units and in the shadow banks. -/
def State.idleUnits (s : State) (l : LaunchId) : Nat :=
  let mine (u : Ctx) : Bool := u.idle && decide (u.launchId = l) && !u.started
  let queue := match s.launch l with
    | some x => x.queue
    | none => []
  (s.fab.slots.filter fun e => e.2.holds mine).length +
    (queue.filter fun p => match p.image with
      | some u => mine u
      | none => false).length +
    (s.work.swapped.map fun x => (x.slots.filter fun e => e.2.holds mine).length).sum

/-- A launch all of whose units are complete or idle workers returns the weight it still holds (R319). -/
def State.settleIdle (s : State) (id : LaunchId) : State :=
  match s.launch id with
  | some l =>
    match l.holds with
    | some k =>
      if id.handle ≠ 1 ∧ l.count + s.idleUnits id = l.total then
        (s.modLaunch id fun x => { x with holds := none }).returnWeight ⟨id.job, l.phase⟩ k .none 0 id.handle
      else s
    | none => s
  | none => s

/-- A unit of a launch is complete (R314): the completion counter counts it, and a full counter retires the launch. -/
def State.countUnit (s : State) (u : Ctx) : State :=
  if u.started ∨ u.launch = 1 then s
  else
    match s.launch u.launchId with
    | none => s
    | some l =>
      let l := { l with count := l.count + 1 }
      let s := s.modLaunch l.id fun _ => l
      if l.state = .placed ∧ l.count = l.total then s.retireLaunch l else s.settleIdle l.id

/-! ## Ending a unit -/

/-- The mark of an ended unit: the fault mark when a parking trap parked it, else the mark of what ends it (R214). -/
def endMark (sl : Slot) (m : Mark) : Mark :=
  match sl.mode with
  | .parked (.trap _) | .parked (.taken (some _)) => .fault
  | _ => m

/-- Whether an operation is a copy form or `smerge`, which an end or `tok.cancel` stops (R222, R238). -/
def OpKind.stoppable (k : OpKind) : Bool :=
  match k with
  | .copy .. | .slab .. | .gather .. | .fill .. | .merge .. => true
  | _ => false

/-- Stop the copies and merges that satisfy a test: they end at a burst boundary, and one that waits for an extent stands at one. -/
def State.stopWhere (s : State) (p : Op → Bool) (m : Mark) : State :=
  let mine (o : Op) : Bool := o.kind.stoppable && p o
  let waiting := s.work.ops.filter fun o => mine o && o.waits.isSome
  let s := s.modWork fun w => { w with
    ops := w.ops.map fun o => if mine o then { o with stop := some m, waits := none } else o }
  waiting.foldl (fun s o => s.scheduleFree 1 (.copyBurst o.id)) s

/-- Stop the copies of an ended unit at a burst boundary (R238). The tokens of its operations find no unit any more. -/
def State.stopOps (s : State) (key : Nat) (m : Mark) : State := s.stopWhere (fun o => decide (o.unit = key)) m

/-- Remove the other slot of a migration. -/
def State.abandonMigration (s : State) (sl : Slot) : State :=
  match sl.mode with
  | .migrating target _ => if (s.slotAt target).unit.isNone then s.setSlot target Slot.empty else s
  | _ => s

/-- A task whose post was under way goes on waiting for its segment (R233, R300). -/
def State.acceptTask (s : State) (k : Nat) (sl : Slot) : State :=
  match sl.mode with
  | .waiting (.segmentFull seg task _) since => s.modWork fun w => { w with posts := w.posts ++ [⟨seg, since, k, task⟩] }
  | _ => s

/-- A unit retires from its slot (R119): its weight returns with a mark, its message bindings are released, the slot
empties, and the completion counter of its launch counts it. -/
def State.retireUnit (s : State) (k : Nat) (u : Ctx) (m : Mark) : State :=
  let (s, u) := s.returnOwn u m
  (((s.releaseBinds u.key).leaveEngine (k / 16) u.key).freeSlot k u.tag).countUnit u

/-- A multiply-accumulate (R196). -/
def isMmac (i : Instr) : Bool :=
  match i with
  | .mmac _ | .mmacz _ => true
  | _ => false

/-- Whether a slot's unit is in a multiply-accumulate, whose tile is still to be written (R199). One that waits for a token has not begun
to execute (R61). -/
def Slot.inMmac (sl : Slot) : Bool :=
  match sl.mode, sl.unit.bind (·.running) with
  | .waiting (.mmac _) _, _ => true
  | .waiting (.token _) _, _ => false
  | .waiting .., some i | .resuming _, some i => isMmac i
  | _, _ => false

/-- End the unit in a slot (R238, R240): its stores are performed, held ones discarded, its copies stopped, its weight returned
with the mark, its bindings released and its slot empty. A unit in `mmac` ends once its tile is written, but for a halted partition's, whose
array writes no tile any more (R337). -/
def State.endSlot (s : State) (k : Nat) (m : Mark) : State :=
  let sl := s.slotAt k
  match sl.unit with
  | none => s
  | some u =>
    if sl.inMmac && !s.haltedTag u.tag then s.setSlot k { sl with unit := some { u with doomed := some m } }
    else
      let m := endMark sl m
      let s := match s.drain u.key with
        | .ok s => s
        | .blocked s => s
        | .failed s => s
      (((s.stopOps u.key m).abandonMigration sl).acceptTask k sl).retireUnit k u m

/-! ## Safe points and taking a unit (R338 to R343) -/

/-- The first pending request that takes the unit away. -/
def Ctx.takePurpose (u : Ctx) : Option Purpose := u.purposes.find? fun p => decide (p ≠ .reload)

/-- Bytes of a single-slot image (R340). -/
def Ctx.imageBytes (u : Ctx) (p : Part) : Nat :=
  8 * p.scalars + 256 * p.rows + 1024 + 4096 * u.carries.length
/-- Time of a spill, and of the resume: 40 ck plus 1 ck per 128 bytes (R340, R341). -/
def Ctx.spillTime (u : Ctx) (p : Part) : Nat := 40 + (u.imageBytes p + 127) / 128

/-- Take a unit at a safe point (R339, R340, R342): it leaves the rotation with its stores performed. A swap leaves it in its
slot; a pre-emption or spill writes its image. The context's PC is where it resumes; `rpc` is the resume PC of a unit
that is taken while parked, which has not passed a safe point for a revocation (R365). -/
def State.takeUnit (s : State) (r : SlotRef) (u : Ctx) (rpc : Option Word) : State :=
  let (s, u) := if rpc.isNone then s.passSafe u else (s, u)
  match u.takePurpose with
  | none => s.putUnit r u
  | some .swap => s.putMode r (u.setPurposes (u.purposes.filter (· ≠ .swap))) (.parked (.taken rpc))
  | some _ =>
    (s.putMode r u (.parked (.taken rpc))).schedule (s.ck + u.spillTime (s.partOf (tileOf r.core))) (.spillComplete u.key)

/-- A deferred store trap that a unit has yet to take is held in its image, and DBRK is set (R343; log entry 62). -/
def Ctx.holdTrap (u : Ctx) (ck : Nat) : Ctx :=
  match u.failed with
  | some t => { u.setStatBit statDbrk true with failed := none, deferred := some ⟨{ t with rpc := u.pc }, ck⟩ }
  | none => u

/-- A safe point with a request (R339): the unit's stores are performed and it is taken, and the answer is true; a store
that waits keeps it, and the answer is false. `rpc` is the resume PC of a parked unit. A store that fails while the image is drained, or
failed before, leaves its trap held in the image (R343). -/
def State.takeDrained (s : State) (r : SlotRef) (u : Ctx) (rpc : Option Word := none) : State × Bool :=
  match s.drain u.key with
  | .ok s => (s.takeUnit r (u.holdTrap s.ck) rpc, true)
  | .blocked s => (s, false)
  | .failed s =>
    match s.unitAt r with
    | none => (s, true)
    | some v => (s.takeUnit r (({ u with held := v.held, failed := v.failed }).holdTrap s.ck) rpc, true)

end Sys2Proof.Machine
end

