-- ==== Sys2Proof/Machine/Control.lean ====
section
/-!
DEFINITION. Control transfer, issue and progress (R117 to R121, R66, R67).
-/
namespace Sys2Proof.Machine

open Sys2Proof

/-! ## Control transfer (R117) -/

def execBr (f : Fields) (s : State) : Host.Outcome State Fault Refusal :=
  issueInstr (.br f) (fun e u s => .jump s u (branchTarget u.pc e.f 22)) s

def execCall (f : Fields) (s : State) : Host.Outcome State Fault Refusal :=
  issueInstr (.call f) (fun e u s => .jump s (u.setReg 31 e.npc) (branchTarget u.pc e.f 22)) s

def execJmp (f : Fields) (s : State) : Host.Outcome State Fault Refusal :=
  issueInstr (.jmp f) (fun e u s => .jump s u (alignPc (u.reg e.f.b.toNat))) s

def execRet (f : Fields) (s : State) : Host.Outcome State Fault Refusal :=
  issueInstr (.ret f) (fun e u s => .jump s u (alignPc (u.reg e.f.b.toNat))) s

def execCallReg (f : Fields) (s : State) : Host.Outcome State Fault Refusal :=
  issueInstr (.callReg f) (fun e u s => .jump s (u.setReg 31 e.npc) (alignPc (u.reg e.f.b.toNat))) s

/-- `bg` (R117). Its guard is an operand in GA; when it does not hold, `runChecked` passes the branch at NPC. -/
def execBg (f : Fields) (s : State) : Host.Outcome State Fault Refusal :=
  issueInstr (.bg f) (fun e u s => .jump s u (branchTarget u.pc e.f 18)) s

def execLoop (f : Fields) (s : State) : Host.Outcome State Fault Refusal :=
  issueInstr (.loop f) (fun e u s =>
    let n := u.reg e.f.a.toNat - 1
    let u' := u.setReg e.f.a.toNat n
    if n = 0 then .ok s u' else .jump s u' (branchTarget u.pc e.f 16)) s

/-! ## Issue and progress -/

/-- The units in the other slots of the cluster that run code from the same sealed-code extent under the same owner, with a PC 4 to
256 bytes below an address (R67). -/
def State.laggards (s : State) (r : SlotRef) (pc : Word) : List Nat :=
  s.fab.slots.filterMap fun e =>
    match e.2.unit with
    | some v => if decide (e.1 ≠ r.key) && decide (pcluOf (tileOf (e.1 / 16)) = pcluOf (tileOf r.core)) &&
        decide (s.ownerOf (tileOf (e.1 / 16)) = s.ownerOf (tileOf r.core)) &&
        decide (extentOf v.pc.toNat = extentOf pc.toNat) &&
        decide (v.pc.toNat + 4 ≤ pc.toNat) && decide (pc.toNat ≤ v.pc.toNat + 256) then some v.key else none
    | none => none

/-- `realign` (R121, R67). -/
def execRealign (f : Fields) (s : State) : Host.Outcome State Fault Refusal :=
  issueInstr (.realign f) (fun e u s =>
    let t := (immUnsigned e.f).toNat
    match s.laggards e.ref u.pc with
    | [] => .ok s u
    | units =>
      if t = 0 then .ok s u
      else .wait (s.schedule (s.ck + t) .realignTimeout) u (.realign (s.ck + t) units e.npc)) s

/-- Whether a laggard of a `realign` at an address has reached or passed it (R67). One that has left its slot holds nothing up, which
the spec does not say (log entry 12). -/
def State.caughtUp (s : State) (pc : Word) (unit : Nat) : Bool :=
  match s.findUnit unit with
  | some (_, _, v) => decide (pc.toNat ≤ v.pc.toNat)
  | none => true

def execNop (f : Fields) (s : State) : Host.Outcome State Fault Refusal :=
  issueInstr (.nop f) (fun _ u s => .ok s u) s

/-- `safe` (R119, R338). With a pending token it is a `nop`; a plane load in flight leaves no safe point, but the revocation
count is by pending tokens alone. A unit with a request stands here until the ck has ended and it is settled which units are taken
(R326). -/
def execSafe (f : Fields) (s : State) : Host.Outcome State Fault Refusal :=
  issueInstr (.safe f) (fun e u s =>
    if !u.pend.isEmpty then .ok s u
    else if s.planeBusy u.key then .ok (s.passRevocations u.key) u
    else if u.takePurpose.isSome then .wait s u (.safe e.npc)
    else .ok (s.passSafe u).1 (s.passSafe u).2) s

/-- Whether a slot other than slot 0 of a core is occupied. -/
def State.othersOccupied (s : State) (core : Nat) : Bool :=
  (List.range 15).any fun n => !(s.slotAt (16 * core + n + 1)).isEmpty

/-- `halt` (R119): the unit retires once its buffered stores are performed. In context zero, while another slot of the core
is occupied, it has no effect. -/
def execHalt (f : Fields) (s : State) : Host.Outcome State Fault Refusal :=
  issueInstr (.halt f) (fun e u s =>
    if e.ref.slot = 0 ∧ s.othersOccupied e.core then .ok s u
    else
      match s.drain u.key with
      | .blocked s => .wait s u .drain
      | .failed s => .late s
      | .ok s => .gone (s.retireUnit e.ref.key u .none)) s

/-- `yield` (R119, R324): while a unit of the same launch waits for placement and this unit holds no pending token, it is
spilled and requeued. -/
def execYield (f : Fields) (s : State) : Host.Outcome State Fault Refusal :=
  issueInstr (.yield f) (fun e u s =>
    let waits := match s.launch u.launchId with
      | some l => l.queue.any fun p => p.slot.isNone
      | none => false
    if waits && u.pend.isEmpty && u.launch != 1 && !u.started then
      match s.takeDrained e.ref { u.setPurposes (.spill :: u.purposes) with pc := e.npc } with
      | (s, true) => .gone s
      | (s, false) => .wait s u .drain
    else .ok s u) s

/-- `sleep` (R120, R70): with the arrival bit set it returns at once. -/
def execSleep (f : Fields) (s : State) : Host.Outcome State Fault Refusal :=
  issueInstr (.sleep f) (fun e u s =>
    let t := (immUnsigned e.f).toNat
    if u.arrival then .ok s u
    else if t = 0 then .wait s u (.sleep none e.npc)
    else .wait (s.schedule (s.ck + t) .sleepTimeout) u (.sleep (some (s.ck + t)) e.npc)) s

end Sys2Proof.Machine
end

