-- ==== Sys2Proof/Machine/LoadStore.lean ====
section
/-!
DEFINITION. Scalar memory instructions: checks (R130), loads and stores (R137 to R139), `pf`, `cln`, `inv` (R140, R141) and
`bnd.ld` (R128).
-/
namespace Sys2Proof.Machine

open Sys2Proof

/-! ## Checks (R130 steps 1 to 3) -/

/-- The outcome of the first three checks: the keys of the access's bytes, or a trap. -/
inductive Checked where
  | ok (keys : List Nat)
  | trap (t : Trap)
  deriving DecidableEq, Repr

/-- What an access is, for its checks: its size, whether it writes, whether it may reach a device-register extent, and the
alignment it needs. -/
structure AccKind where
  size  : Nat
  write : Bool
  dev   : Bool
  align : Nat
  deriving DecidableEq, Repr

/-- Aperture and alignment of an access at `a`. -/
def State.checkAddr (s : State) (u : Ctx) (tile : Nat) (a : Word) (k : AccKind) : Checked :=
  match s.keysOf u tile a k.size with
  | none => .trap (accTrap 7 a k.size 0 none)
  | some keys =>
    if k.write && keys.any isDescKey then .trap (accTrap 7 a k.size 0 none)
    else if !k.dev && keys.any isDevKey then .trap (accTrap 7 a k.size 0 none)
    else if a.toNat % k.align ≠ 0 then .trap (accTrap 14 a k.size 0 none)
    else .ok keys

/-- Scope, aperture and alignment of an instruction's access. -/
def State.checkAccess (s : State) (u : Ctx) (e : Env) (a : Word) (k : AccKind) : Checked :=
  match scopeTrap u e.f with
  | some t => .trap t
  | none => s.checkAddr u e.tile a k

/-- A plain access of n bytes. -/
def plainAcc (n : Nat) (write : Bool) : AccKind := ⟨n, write, true, 1⟩

/-! ## Loads -/

/-- The lanes of a vector load whose device-register lanes have arrived: an entry v + 1 is a known lane, an entry 0 takes the
next w bits of the bytes that arrived. -/
def fillLanes (w : Nat) : List Nat → List Byte → List Nat
  | [], _ => []
  | 0 :: rest, bs => natOfBytes (bs.take (w / 8)) :: fillLanes w rest (bs.drop (w / 8))
  | (v + 1) :: rest, bs => v :: fillLanes w rest bs

/-- The number whose lanes of width w are the list. -/
def natOfLanes (w : Nat) : List Nat → Nat
  | [] => 0
  | x :: xs => x + 2 ^ w * natOfLanes w xs
def rowOfLanes (w : Nat) (xs : List Nat) : Row := BitVec.ofNat 2048 (natOfLanes w xs)

/-- What a load of a code writes (R137, R139, R128): codes 0 to 6 are the majors from 0x40, 7 is `ldp`, 8 is `bnd.ld`, and 9 a
vector load, whose list holds the row, the tag, the lane width and the lanes of `fillLanes`. -/
def loadWrites (code : Nat) (dsts : List Nat) (bs : List Byte) : List RegWrite :=
  let x := natOfBytes bs
  let d := dsts.headD 0
  if code = 7 then
    [.scalar d (BitVec.ofNat 64 x), .scalar ((dsts.drop 1).headD 0) (BitVec.ofNat 64 (x / 2 ^ 64))]
  else if code = 8 then [.bound d ⟨BitVec.ofNat 64 x, BitVec.ofNat 64 (x / 2 ^ 64)⟩]
  else if code = 9 then
    let w := (dsts.drop 2).headD 8;
    [.row d (rowOfLanes w (fillLanes w (dsts.drop 3) bs)) (BitVec.ofNat 4 ((dsts.drop 1).headD 0))]
  else if code % 2 = 0 ∧ code < 6 then [.scalar d (BitVec.ofInt 64 (signed x (8 * bs.length)))]
  else [.scalar d (BitVec.ofNat 64 x)]

/-- Whether a load must find the unit's buffered entries performed: an atomic or counter addition is buffered, the load is
`.sc`, or it reaches a strongly ordered or device-register extent (R134, R266). -/
def State.loadDrains (s : State) (u : Ctx) (ord : Nat) (keys : List Nat) : Bool :=
  s.rmwBuffered u.key || ord == 4 || keys.any fun k => isGlobalKey k && kindOfKey k % 2 == 1

/-- Perform a unit's buffered entries before the rest of its instruction. -/
def State.afterDrain (s : State) (u : Ctx) (need : Bool) (rest : State → Res) : Res :=
  if need then
    match s.drain u.key with
    | .ok s => rest s
    | .blocked s => .wait s u .drain
    | .failed s => .late s
  else rest s

/-- Read bytes on the core path for a unit, with store buffer forwarding (R135), and hand them on. -/
def State.coreRead (s : State) (e : Env) (u : Ctx) (a : Word) (keys : List Nat) (size lane : Nat)
    (rest : State → List Byte → Res) : Res :=
  match s.performRead (s.who e.core u) keys e.f.hint.toNat with
  | .wait s w => .wait s u w
  | .fail s cause _ aux => .trap s (accTrap cause a size lane aux)
  | .ok s bs => rest s ((keys.zip bs).map fun p => (forwardByte u.key p.1 s.fab.sbuf).getD p.2)

/-- A load of `n` bytes at `a` (R137): a device register is read through a host port (R409), any other byte now; the reply
writes the destinations. -/
def State.load (s : State) (e : Env) (u : Ctx) (a : Word) (n code : Nat) (dsts : List Nat) (watched : Bool) : Res :=
  match s.checkAccess u e a (plainAcc n false) with
  | .trap t => .trap s t
  | .ok keys =>
    s.afterDrain u (s.loadDrains u e.f.ord.toNat keys) fun s =>
      if keys.any isDevKey then
        match s.mayAccess (s.who e.core u) keys false false .home with
        | .wait s w => .wait s u w
        | .fail s cause _ aux => .trap s (accTrap cause a n 0 aux)
        | .ok s _ =>
          let parts := (alignedPieces n a (List.replicate n 0)).map fun p => (p.1, p.2.length)
          .wait (s.deviceRead parts) u (.devreg a parts [] code dsts e.npc (if watched then watchTrap u n [(0, a)] else none))
      else
        s.coreRead e u a keys n 0 fun s bs =>
          .reply s u (loadWrites code dsts bs) (if watched then watchTrap u n [(0, a)] else none)

/-- The shape of the scalar loads. -/
def loadInstr (i : Instr) (n code : Nat) (s : State) : Host.Outcome State Fault Refusal :=
  issueInstr i (fun e u s => s.load e u (effAddr u e.f n) n code [e.f.a.toNat] true) s

def execLdI8 (f : Fields) (s : State) : Host.Outcome State Fault Refusal := loadInstr (.ldI8 f) 1 0 s
def execLdN8 (f : Fields) (s : State) : Host.Outcome State Fault Refusal := loadInstr (.ldN8 f) 1 1 s
def execLdI16 (f : Fields) (s : State) : Host.Outcome State Fault Refusal := loadInstr (.ldI16 f) 2 2 s
def execLdN16 (f : Fields) (s : State) : Host.Outcome State Fault Refusal := loadInstr (.ldN16 f) 2 3 s
def execLdI32 (f : Fields) (s : State) : Host.Outcome State Fault Refusal := loadInstr (.ldI32 f) 4 4 s
def execLdN32 (f : Fields) (s : State) : Host.Outcome State Fault Refusal := loadInstr (.ldN32 f) 4 5 s
def execLdI64 (f : Fields) (s : State) : Host.Outcome State Fault Refusal := loadInstr (.ldI64 f) 8 6 s

/-- `ldp` (R139). -/
def execLdp (f : Fields) (s : State) : Host.Outcome State Fault Refusal :=
  issueInstr (.ldp f) (fun e u s => s.load e u (effAddr u e.f 16) 16 7 [e.f.a.toNat, e.f.d.toNat] true) s

/-- `bnd.ld` (R128). -/
def execBndLd (f : Fields) (s : State) : Host.Outcome State Fault Refusal :=
  issueInstr (.bndLd f) (fun e u s =>
    s.load e u (u.reg e.f.b.toNat &&& ~~~(15#64)) 16 8 [e.f.a.toNat] false) s

/-! ## Stores -/

/-- Complete an instruction, or take a watch trap after it (R329). -/
def okWatched (s : State) (u : Ctx) (w : Option Trap) : Res :=
  match w with
  | some t => .after s u t
  | none => .ok s u

/-- Put an entry into the core's store buffer, or wait while it is full (R135, R59). -/
def State.postEntry (s : State) (e : Env) (u : Ctx) (size : Nat) (kind : StoreKind) (watch : Option Trap)
    (lanes : Option (Nat × Nat) := none) : Res :=
  if 32 ≤ s.buffered e.core then .wait s u .bufferFull
  else okWatched (({ s with serial := s.serial + 1 }).enterBuffer
    ⟨s.serial, s.who e.core u, u.launchId, u.pc, size, lanes, e.f.hint.toNat, kind⟩) u watch

/-- A store of bytes at `a` (R138). -/
def State.storeBytes (s : State) (e : Env) (u : Ctx) (a : Word) (bs : List Byte) : Res :=
  let n := bs.length
  match s.checkAccess u e a (plainAcc n true) with
  | .trap t => .trap s t
  | .ok keys => s.postEntry e u n (.bytes [⟨0, a, keys.zip bs⟩]) (watchTrap u n [(0, a)])

/-- The shape of the scalar stores. -/
def storeInstr (i : Instr) (n : Nat) (s : State) : Host.Outcome State Fault Refusal :=
  issueInstr i (fun e u s => s.storeBytes e u (effAddr u e.f n) (bytesOfNat (u.reg e.f.a.toNat).toNat n)) s

def execSt8 (f : Fields) (s : State) : Host.Outcome State Fault Refusal := storeInstr (.st8 f) 1 s
def execSt16 (f : Fields) (s : State) : Host.Outcome State Fault Refusal := storeInstr (.st16 f) 2 s
def execSt32 (f : Fields) (s : State) : Host.Outcome State Fault Refusal := storeInstr (.st32 f) 4 s
def execSt64 (f : Fields) (s : State) : Host.Outcome State Fault Refusal := storeInstr (.st64 f) 8 s

/-- `stp` (R139). -/
def execStp (f : Fields) (s : State) : Host.Outcome State Fault Refusal :=
  issueInstr (.stp f) (fun e u s =>
    s.storeBytes e u (effAddr u e.f 16)
      (bytesOfNat (u.reg e.f.a.toNat).toNat 8 ++ bytesOfNat (u.reg e.f.d.toNat).toNat 8)) s

/-! ## Prefetch, clean and invalidate (R140, R141) -/

/-- The state an outcome leaves. -/
def Acc.state : Acc → State
  | .ok s _ => s
  | .fail s _ _ _ => s
  | .wait s _ => s

/-- A prefetched line comes into the home L2 slice, even when the unit's L1 holds it already, and as a load with the hint would into the
L1 (R140, R257). -/
def State.prefetchLine (s : State) (who : Who) (hint line : Nat) (keys : List Nat) : State :=
  if s.l1Holds (s.l1Of who.tile line) line keys && (s.l2Line line).isNone then
    match s.waysAll (s.reachedWay who.tag line hint).toList with
    | .ok s _ =>
      match s.openHome who line 0 hint with
      | .ok s _ => (s.loadLine who hint line 0 keys).state
      | r => r.state
    | r => r.state
  else (s.loadLine who hint line 0 keys).state

/-- A line that a prefetch in maintenance mode may reach (R140): within the tenant's reach set, not poisoned, and with a tag that
matches. -/
def State.mayPrefetch (s : State) (who : Who) (line : Nat) (keys : List Nat) : Bool :=
  s.inReach who.tag keys false && (match s.openLine who.tag line 0 with
    | .ok .. => true
    | _ => false)

/-- The effect of a prefetch of a global line (R140): an absent extent is asked for in service mode; a present one's line is opened
(R389) and brought in, or only its placement entry is. A prefetch waits for nothing, so one that reaches a retained way only starts its
exit; the spec does not say so (log entry 58). -/
def State.prefetch (s : State) (who : Who) (hint line : Nat) : State :=
  let base := line * 128
  let keys := (List.range 128).map (base + ·)
  let n := extentOf base
  match (s.extentAt n).state with
  | .absent => if s.firm.maint then s else s.requestExtent n (dieOf who.tile) true
  | .present =>
    if s.firm.maint && !s.mayPrefetch who line keys then s
    else if hint = 2 then s.lookUp (dieOf who.tile) n
    else
      match s.mayAccess who keys false false (.load hint) with
      | .ok s _ => s.prefetchLine who hint line keys
      | r => r.state
  | _ => s

/-- `pf` (R140): never a trap, and never a wait. -/
def execPf (f : Fields) (s : State) : Host.Outcome State Fault Refusal :=
  issueInstr (.pf f) (fun e u s =>
    match s.keyOf u e.tile (effAddr u e.f 1) with
    | some k =>
      if isGlobalKey k && !isDevKey k then .ok (s.prefetch (s.who e.core u) e.f.hint.toNat (k / 128)) u else .ok s u
    | none => .ok s u) s

/-- The effect of `cln` and `inv` on a present line (R141): the dirty bytes of the unit's L1 go to the home L2 slice, and at a scope
that reaches the host or a peer those of the L2 to backing memory; `inv` then discards the copies. -/
def State.cleanCopies (s : State) (who : Who) (line : Nat) (wide discard : Bool) : State :=
  let own := s.l1Copy (s.l1Of who.tile line) line
  let s := match own with
    | some l => if discard then s.evictCopy l else if l.dirty.isEmpty then s else s.cleanCopy line
    | none => s
  if !wide then s else if discard then s.l2Evict line else s.l2Clean line

/-- The L2 ways that `cln` and `inv` reach: the line's, when bytes go to it or leave it. -/
def State.cleanWays (s : State) (who : Who) (line : Nat) (wide : Bool) : List Nat :=
  let dirty := match s.l1Copy (s.l1Of who.tile line) line with
    | some l => !l.dirty.isEmpty
    | none => false
  if dirty || (wide && (s.l2Line line).isSome) then (s.reachedWay who.tag line 0).toList else []

/-- `cln` and `inv` on the line at `a` (R141): the unit's buffered stores are performed first. On a device-register extent they complete
with no effect (R131), an unallocated one too, for which R141 has a trap: DESIGN CHOICE, log entry 63. -/
def State.cleanLine (s : State) (e : Env) (u : Ctx) (a : Word) (discard : Bool) : Res :=
  let line := a &&& ~~~(127#64)
  match s.checkAccess u e line (plainAcc 128 false) with
  | .trap t => .trap s { t with addr := if t.cause = 9 then t.addr else a }
  | .ok keys =>
    let k := keys.headD 0
    if !isGlobalKey k || isDevKey k then .reply s u [] none
    else
      match (s.extentAt (extentOf k)).state with
      | .unallocated | .fenced => .trap s (accTrap 8 a 128 0 none)
      | .absent => .reply s u [] none
      | .moving => .wait s u (.extent (extentOf k))
      | .present =>
        s.afterDrain u true fun s =>
          let who := s.who e.core u
          let wide := scopeWide u e.f
          match s.waysAll (s.cleanWays who (k / 128) wide) with
          | .wait s w => .wait s u w
          | r => .reply (r.state.cleanCopies who (k / 128) wide discard) u [] none

def execCln (f : Fields) (s : State) : Host.Outcome State Fault Refusal :=
  issueInstr (.cln f) (fun e u s => s.cleanLine e u (regAddr u e.f.b e.f) false) s

def execInv (f : Fields) (s : State) : Host.Outcome State Fault Refusal :=
  issueInstr (.inv f) (fun e u s => s.cleanLine e u (regAddr u e.f.b e.f) true) s

end Sys2Proof.Machine
end

