-- ==== Sys2Proof/Machine/Scalar.lean ====
section
/-!
DEFINITION. The scalar family: integer arithmetic and logic, guards, addresses and geometry (R102 to R116).
-/
namespace Sys2Proof.Machine

open Sys2Proof

/-! ## Shared shapes -/

/-- sA = g(sB, sC). -/
def scalarRR (i : Instr) (g : Word → Word → Word) (s : State) : Host.Outcome State Fault Refusal :=
  issueInstr i (fun e u s => .ok s (u.setReg e.f.a.toNat (g (u.reg e.f.b.toNat) (u.reg e.f.c.toNat)))) s

/-- sA = g(sB, immediate), the immediate signed. -/
def scalarRI (i : Instr) (g : Word → Word → Word) (s : State) : Host.Outcome State Fault Refusal :=
  issueInstr i (fun e u s => .ok s (u.setReg e.f.a.toNat (g (u.reg e.f.b.toNat) (immSigned e.f)))) s

/-- sA = g(sB, immediate), the immediate unsigned. -/
def scalarRU (i : Instr) (g : Word → Word → Word) (s : State) : Host.Outcome State Fault Refusal :=
  issueInstr i (fun e u s => .ok s (u.setReg e.f.a.toNat (g (u.reg e.f.b.toNat) (immUnsigned e.f)))) s

/-- sA = g(sB). -/
def scalarR (i : Instr) (g : Word → Word) (s : State) : Host.Outcome State Fault Refusal :=
  issueInstr i (fun e u s => .ok s (u.setReg e.f.a.toNat (g (u.reg e.f.b.toNat)))) s

/-- gA = g(unit). -/
def guardOp (i : Instr) (g : Fields → Ctx → Bool) (s : State) : Host.Outcome State Fault Refusal :=
  issueInstr i (fun e u s => .ok s (u.setGuard e.f.a.toNat (g e.f u))) s

/-! ## Operations (R103) -/

def divSigned (a b : Word) : Word := if b = 0 then BitVec.allOnes 64 else BitVec.ofInt 64 (a.toInt.tdiv b.toInt)
def divUnsigned (a b : Word) : Word := if b = 0 then BitVec.allOnes 64 else BitVec.ofNat 64 (a.toNat / b.toNat)
def remSigned (a b : Word) : Word := if b = 0 then a else BitVec.ofInt 64 (a.toInt - a.toInt.tdiv b.toInt * b.toInt)
def remUnsigned (a b : Word) : Word := if b = 0 then a else BitVec.ofNat 64 (a.toNat % b.toNat)
def mulHighSigned (a b : Word) : Word := BitVec.ofInt 64 (a.toInt * b.toInt / 2 ^ 64)
def mulHighUnsigned (a b : Word) : Word := BitVec.ofNat 64 (a.toNat * b.toNat / 2 ^ 64)

/-- ClMul(a, b): the exclusive-or of a × 2^i over the bits i of b, for b of `n` bits (R103). -/
def clMul (a b : Nat) : Nat → Nat
  | 0 => 0
  | n + 1 => (if b.testBit n then a * 2 ^ n else 0) ^^^ clMul a b n

/-- The shift distance n = NB[5:0]. -/
def shiftDist (b : Word) : Nat := b.toNat % 64

def rotLeft (a b : Word) : Word := a.rotateLeft (shiftDist b)
def rotRight (a b : Word) : Word := a.rotateRight (shiftDist b)

/-- Leading zero bits of a value of `w` bits. -/
def clzNat (a w : Nat) : Nat := w - bitLen a
/-- Trailing zero bits of a value, at most `w`. -/
def ctzNat (a : Nat) : Nat → Nat
  | 0 => 0
  | w + 1 => if a % 2 = 1 then 0 else ctzNat (a / 2) w + 1
/-- One bits among the low `w`. -/
def popcNat (a : Nat) : Nat → Nat
  | 0 => 0
  | w + 1 => a % 2 + popcNat (a / 2) w

/-- The bytes of a word in reverse order. -/
def byteSwap (a : Word) : Word := BitVec.ofNat 64 (natOfBytes (bytesOfNat a.toNat 8).reverse)

/-- `add`, `sub` and `mul` of a type code (R104): the exact result of the operands' low bits, clamped under SAT, and the
flags. TY 0 keeps 64 bits. -/
def typedArith (op : Int → Int → Int) (ty : Nat) (sat : Bool) (a b : Word) : Word × Flags :=
  if ty = 0 then (BitVec.ofInt 64 (op a.toInt b.toInt), 0)
  else
    let w := laneWidth (ty % 16)
    let rd (x : Word) : Int := if ty ≤ 4 then signed (x.toNat % 2 ^ w) w else ((x.toNat % 2 ^ w : Nat) : Int)
    let t := op (rd a) (rd b)
    let c := if sat then clampInt t (intLo ty) (intHi ty) else (t, 0)
    let low := lowBits c.1 w
    (if ty ≤ 4 then BitVec.ofInt 64 (signed low w) else BitVec.ofNat 64 low, c.2)

/-- The shape of the typed instructions (R104). -/
def scalarTyped (i : Instr) (op : Int → Int → Int) (b : Fields → Ctx → Word) (s : State) :
    Host.Outcome State Fault Refusal :=
  issueInstr i (fun e u s =>
    let r := typedArith op e.f.ty.toNat e.f.sat (u.reg e.f.b.toNat) (b e.f u)
    .ok s ((u.setReg e.f.a.toNat r.1).setFlags r.2)) s

def regC (f : Fields) (u : Ctx) : Word := u.reg f.c.toNat
def immB (f : Fields) (_ : Ctx) : Word := immSigned f

/-! ## Instructions -/

def execAdd (f : Fields) (s : State) := scalarTyped (.add f) (· + ·) regC s
def execSub (f : Fields) (s : State) := scalarTyped (.sub f) (· - ·) regC s
def execMul (f : Fields) (s : State) := scalarTyped (.mul f) (· * ·) regC s
def execMulh (f : Fields) (s : State) := scalarRR (.mulh f) mulHighSigned s
def execMulhn (f : Fields) (s : State) := scalarRR (.mulhn f) mulHighUnsigned s
def execDiv (f : Fields) (s : State) := scalarRR (.div f) divSigned s
def execDivn (f : Fields) (s : State) := scalarRR (.divn f) divUnsigned s
def execRem (f : Fields) (s : State) := scalarRR (.rem f) remSigned s
def execRemn (f : Fields) (s : State) := scalarRR (.remn f) remUnsigned s
def execAndR (f : Fields) (s : State) := scalarRR (.andR f) (· &&& ·) s
def execOrR (f : Fields) (s : State) := scalarRR (.orR f) (· ||| ·) s
def execXorR (f : Fields) (s : State) := scalarRR (.xorR f) (· ^^^ ·) s
def execAndn (f : Fields) (s : State) := scalarRR (.andn f) (fun a b => a &&& ~~~b) s
def execOrn (f : Fields) (s : State) := scalarRR (.orn f) (fun a b => a ||| ~~~b) s
def execClmul (f : Fields) (s : State) :=
  scalarRR (.clmul f) (fun a b => BitVec.ofNat 64 (clMul a.toNat b.toNat 64)) s
def execClmulh (f : Fields) (s : State) :=
  scalarRR (.clmulh f) (fun a b => BitVec.ofNat 64 (clMul a.toNat b.toNat 64 / 2 ^ 64)) s
def execShl (f : Fields) (s : State) := scalarRR (.shl f) (fun a b => a <<< shiftDist b) s
def execShr (f : Fields) (s : State) := scalarRR (.shr f) (fun a b => a >>> shiftDist b) s
def execSar (f : Fields) (s : State) := scalarRR (.sar f) (fun a b => a.sshiftRight (shiftDist b)) s
def execRol (f : Fields) (s : State) := scalarRR (.rol f) rotLeft s
def execRor (f : Fields) (s : State) := scalarRR (.ror f) rotRight s
def execMinR (f : Fields) (s : State) := scalarRR (.minR f) (fun a b => if a.slt b then a else b) s
def execMaxR (f : Fields) (s : State) := scalarRR (.maxR f) (fun a b => if a.slt b then b else a) s
def execMinn (f : Fields) (s : State) := scalarRR (.minn f) (fun a b => if a.ult b then a else b) s
def execMaxn (f : Fields) (s : State) := scalarRR (.maxn f) (fun a b => if a.ult b then b else a) s
def execClz (f : Fields) (s : State) := scalarR (.clz f) (fun a => BitVec.ofNat 64 (clzNat a.toNat 64)) s
def execCtz (f : Fields) (s : State) := scalarR (.ctz f) (fun a => BitVec.ofNat 64 (ctzNat a.toNat 64)) s
def execPopc (f : Fields) (s : State) := scalarR (.popc f) (fun a => BitVec.ofNat 64 (popcNat a.toNat 64)) s
def execBswap (f : Fields) (s : State) := scalarR (.bswap f) byteSwap s

/-- Move the token of an operation of a unit to another register (R61). -/
def Op.retoken (o : Op) (unit src dst : Nat) : Op :=
  if o.unit = unit ∧ o.token = src ∧ ¬ o.dead then { o with token := dst } else o

/-- `mov` (R103, R61): the source's value, or its token: the destination becomes pending on the same completion, and the
source reads 0. -/
def execMov (f : Fields) (s : State) : Host.Outcome State Fault Refusal :=
  issueInstr (.mov f) (fun e u s =>
    let a := e.f.a.toNat
    let b := e.f.b.toNat
    if u.pend.contains b then
      .ok (s.modWork fun w => { w with ops := w.ops.map fun o => o.retoken u.key b a })
        { u.setReg b 0 with pend := NSet.insert (NSet.erase u.pend b) a }
    else .ok s (u.setReg a (u.reg b))) s

/-- Bits [pos + len − 1 : pos] of a word. -/
def bitField (w : Word) (pos len : Nat) : Nat := w.toNat / 2 ^ pos % 2 ^ len

def execBfx (f : Fields) (s : State) : Host.Outcome State Fault Refusal :=
  issueInstr (.bfx f) (fun e u s => .ok s (u.setReg e.f.a.toNat
    (BitVec.ofNat 64 (bitField (u.reg e.f.b.toNat) e.f.c.toNat e.f.d.toNat)))) s
def execBfxs (f : Fields) (s : State) : Host.Outcome State Fault Refusal :=
  issueInstr (.bfxs f) (fun e u s => .ok s (u.setReg e.f.a.toNat
    (BitVec.ofInt 64 (signed (bitField (u.reg e.f.b.toNat) e.f.c.toNat e.f.d.toNat) e.f.d.toNat)))) s
/-- `bfi` (R105): bits [pos + len − 1 : pos] of sA replaced by sB[len − 1 : 0]. -/
def execBfi (f : Fields) (s : State) : Host.Outcome State Fault Refusal :=
  issueInstr (.bfi f) (fun e u s =>
    let pos := e.f.c.toNat
    let len := e.f.d.toNat
    .ok s (u.setReg e.f.a.toNat
      (statField (u.reg e.f.a.toNat) pos len (u.reg e.f.b.toNat).toNat))) s

def execSel (f : Fields) (s : State) : Host.Outcome State Fault Refusal :=
  issueInstr (.sel f) (fun e u s => .ok s (u.setReg e.f.a.toNat
    (if u.guardOf e.f.b.toNat then u.reg e.f.c.toNat else u.reg e.f.d.toNat))) s

/-- A condition of R90 on two words. -/
def condHolds (fn : Nat) (a b : Word) : Bool :=
  match fn with
  | 0 => a == b
  | 1 => a != b
  | 2 => a.slt b
  | 3 => a.sle b
  | 4 => b.slt a
  | 5 => b.sle a
  | 6 => a.ult b
  | 7 => a.ule b
  | 8 => b.ult a
  | _ => b.ule a

def execCmp (f : Fields) (s : State) :=
  guardOp (.cmp f) (fun f u => condHolds f.fn.toNat (u.reg f.b.toNat) (u.reg f.c.toNat)) s
def execCmpImm (f : Fields) (s : State) :=
  guardOp (.cmpImm f) (fun f u => condHolds f.fn.toNat (u.reg f.b.toNat) (immSigned f)) s
def execTstZ (f : Fields) (s : State) :=
  guardOp (.tstZ f) (fun f u => u.reg f.b.toNat &&& u.reg f.c.toNat == 0) s
def execTstNz (f : Fields) (s : State) :=
  guardOp (.tstNz f) (fun f u => u.reg f.b.toNat &&& u.reg f.c.toNat != 0) s

/-- A function of R108 on two guards. -/
def guardFn (fn : Nat) (b c : Bool) : Bool :=
  match fn with
  | 0 => b && c
  | 1 => b || c
  | 2 => b != c
  | 3 => b && !c
  | 4 => b || !c
  | 5 => !b
  | 6 => true
  | _ => false

def execGop (f : Fields) (s : State) :=
  guardOp (.gop f) (fun f u => guardFn f.fn.toNat (u.guardOf f.b.toNat) (u.guardOf f.c.toNat)) s

def execAddImm (f : Fields) (s : State) := scalarTyped (.addImm f) (· + ·) immB s
def execMulImm (f : Fields) (s : State) := scalarTyped (.mulImm f) (· * ·) immB s
def execAndImm (f : Fields) (s : State) := scalarRI (.andImm f) (· &&& ·) s
def execOrImm (f : Fields) (s : State) := scalarRI (.orImm f) (· ||| ·) s
def execXorImm (f : Fields) (s : State) := scalarRI (.xorImm f) (· ^^^ ·) s
def execShlImm (f : Fields) (s : State) := scalarRU (.shlImm f) (fun a b => a <<< shiftDist b) s
def execShrImm (f : Fields) (s : State) := scalarRU (.shrImm f) (fun a b => a >>> shiftDist b) s
def execSarImm (f : Fields) (s : State) := scalarRU (.sarImm f) (fun a b => a.sshiftRight (shiftDist b)) s
def execRolImm (f : Fields) (s : State) := scalarRU (.rolImm f) rotLeft s
def execRorImm (f : Fields) (s : State) := scalarRU (.rorImm f) rotRight s

def execLi (f : Fields) (s : State) : Host.Outcome State Fault Refusal :=
  issueInstr (.li f) (fun e u s => .ok s (u.setReg e.f.a.toNat (immSigned e.f))) s

def execLea (f : Fields) (s : State) : Host.Outcome State Fault Refusal :=
  issueInstr (.lea f) (fun e u s => .ok s (u.setReg e.f.a.toNat (effAddr u e.f 1))) s

/-- `cvta` (R113). FN is the target aperture: 0 global, 1 local, 2 shared. -/
def convertAperture (code target own : Nat) (a : Word) : Word :=
  let off := a.extractLsb' 0 20
  let index := (a.extractLsb' 20 5).toNat
  if code = target then (if code ≤ 2 then a else BitVec.allOnes 64)
  else if code = 1 ∧ target = 2 then BitVec.ofNat 64 (0xF1 * 2 ^ 56 + own * 2 ^ 20 + off.toNat)
  else if code = 2 ∧ target = 1 ∧ index = own then BitVec.ofNat 64 (0xF0 * 2 ^ 56 + off.toNat)
  else BitVec.allOnes 64

def execCvta (f : Fields) (s : State) : Host.Outcome State Fault Refusal :=
  issueInstr (.cvta f) (fun e u s =>
    let a := u.reg e.f.b.toNat
    .ok s (u.setReg e.f.a.toNat (convertAperture (s.apertureOf u e.tile a) e.f.fn.toNat u.ownIndex a))) s

def execTsta (f : Fields) (s : State) : Host.Outcome State Fault Refusal :=
  issueInstr (.tsta f) (fun e u s =>
    let a := u.reg e.f.b.toNat
    let code := s.apertureOf u e.tile a
    .ok s (u.setReg e.f.a.toNat
      (BitVec.ofNat 64 (code + (if code = 0 then 16 * (a.extractLsb' 54 2).toNat else 0))))) s

/-- The value of `georng` from the grid and the unit's coordinates (R116). -/
def georngValue (u : Ctx) (nx ny : Nat) (sel halo : Word) : Word :=
  if sel = 2 then BitVec.ofNat 64 nx
  else if sel = 3 then BitVec.ofNat 64 ny
  else if 2 ≤ sel.toNat then 0
  else
    let n := if sel = 0 then nx else ny
    let p := if sel = 0 then u.tw * u.units else u.th
    let i := if sel = 0 then u.lx * u.units + u.lslot else u.ly
    let q := n / p
    let r := n % p
    let lo := i * q + min i r
    let cnt := q + (if i < r then 1 else 0)
    if cnt = 0 then BitVec.ofNat 64 lo
    else
      let h := halo.toNat
      let wlo := lo - h
      let whi := min (lo + cnt + h) n
      BitVec.ofNat 64 ((if lo = 0 then 2 ^ 62 else 0) + (if lo + cnt = n then 2 ^ 63 else 0) +
        (whi - wlo) * 2 ^ 32 + wlo)

/-- The abstract grid of a unit's launch (R116, R316); the standing launch, which no descriptor shapes, has a grid of its
supervisor kernel. -/
def State.gridOf (s : State) (u : Ctx) : Nat × Nat :=
  match s.launch u.launchId with
  | some l => (l.desc.nx, l.desc.ny)
  | none => (1, 1)

def execGeorng (f : Fields) (s : State) : Host.Outcome State Fault Refusal :=
  issueInstr (.georng f) (fun e u s =>
    let g := s.gridOf u
    .ok s (u.setReg e.f.a.toNat (georngValue u g.1 g.2 (u.reg e.f.b.toNat) (u.reg e.f.c.toNat)))) s

end Sys2Proof.Machine
end

