-- ==== Sys2Proof/Machine/Vector.lean ====
section
/-!
DEFINITION. The vector family on registers: lanes, tags and masks, moves, arithmetic, special functions, compares, logic,
cross-lane operations (R159 to R162, R167 to R182).
-/
namespace Sys2Proof.Machine

open Sys2Proof

/-! ## Lanes (R160) -/

/-- Lane i of width w of a row's bits. -/
def laneAt (v w i : Nat) : Nat := v / 2 ^ (w * i) % 2 ^ w

/-- Whether lane i is active under an instruction's mask. -/
def laneActive (u : Ctx) (f : Fields) (i : Nat) : Bool := (u.maskOf f.lmask.toNat).getLsbD i

/-- The tag of a type code. -/
def tagOfTy (ty : Nat) : Nat := ty % 16
/-- The integer tag whose lanes have a width (R165). -/
def indexTag (w : Nat) : Nat := if w = 8 then 1 else if w = 16 then 2 else if w = 32 then 3 else 4

/-- The destination row: each lane of the list is written where the answer gives a value, and keeps its bits elsewhere. -/
def mergeLanes (old : Row) (w n : Nat) (g : Nat → Option (Nat × Flags)) : Row × Flags :=
  let out := (List.range n).map fun i => (g i).getD (laneAt old.toNat w i, 0)
  (rowOfLanes w (out.map (·.1)), out.foldl (fun acc x => acc ||| x.2) 0)

/-! ## Tags (R52, R80, R161) -/

/-- A row with the tags it may carry. -/
structure TagNeed where
  row  : Nat
  tags : List Nat
  deriving DecidableEq, Repr

/-- The format-tag mismatch trap of the first row that carries a tag it may not (R332). -/
def tagFault (u : Ctx) (needs : List TagNeed) : Option Trap :=
  (needs.find? fun n => !n.tags.contains (u.tagOf n.row).toNat).map fun n =>
    { cause := 4, aux := BitVec.ofNat 64 (n.row + (u.tagOf n.row).toNat * 2 ^ 8 +
        (if n.tags.length = 1 then n.tags.headD 0 else 0) * 2 ^ 12) }

/-- Tags 0 to 14. -/
def anyTag : List Nat := List.range 15

/-- Data source rows: the tags the instruction accepts, then ETAG (R80). -/
def dataNeeds (f : Fields) (tags rows : List Nat) : List TagNeed :=
  rows.flatMap fun r => ⟨r, tags⟩ :: (if f.etag = 0 then [] else [⟨r, [f.etag.toNat]⟩])

/-- A merged destination (R161): the result tag or RAW. -/
def mergeNeed (f : Fields) (partial_ : Bool) (t : Nat) : List TagNeed :=
  if f.lmask != 0 || partial_ then [⟨f.a.toNat, if t = 0 then [0] else [t, 0]⟩] else []

/-- The rows that a register operand reads. -/
def rowRead (r : Role) (v : BitVec 8) : List Nat :=
  match r with
  | .rowR => [v.toNat]
  | .rowOpt => if v = 0xFF then [] else [v.toNat]
  | _ => []

/-- Whether an instruction is a vector operation whose operating or source tag is TF32 (R162): it occupies the vector unit for 2 ck. -/
def tf32Op (i : Instr) (u : Ctx) : Bool :=
  let f := i.fields
  let spec := opSpec i
  let rows := rowRead spec.a f.a ++ rowRead spec.b f.b ++ rowRead spec.c f.c ++ rowRead spec.d f.d
  (spec.ext == .vec || spec.ext == .conv) && guardHolds u f.ga && guardHolds u f.gb &&
    (tagOfTy f.ty.toNat == 10 || f.etag == 10 || rows.any fun r => u.tagOf r == 10)

/-- A TF32 operation that a core issues keeps its vector unit busy in the next ck (R57). -/
def State.holdVector (s : State) (core : Nat) (u : Ctx) (i : Instr) : State :=
  if tf32Op i u && kindLists (kindOf core) (opSpec i).ext then
    s.modFab fun m => { m with vbusy := FMap.set none m.vbusy core (some (s.ck + 1)) }
  else s

/-- A vector instruction on registers: the tags are checked, then it completes with the unit that `g` gives. -/
def vecInstr (i : Instr) (needs : Fields → Ctx → List TagNeed)
    (g : Env → Ctx → Ctx) (s : State) : Host.Outcome State Fault Refusal :=
  issueInstr i (fun e u s =>
    match tagFault u (needs e.f u) with
    | some t => .trap s t
    | none => .ok s (g e u)) s

/-- Write a row from a lane function under the instruction's mask, with its flags. -/
def writeLanes (u : Ctx) (f : Fields) (t : Nat) (g : Nat → Nat × Flags) : Ctx :=
  let r := mergeLanes (u.row f.a.toNat) (laneWidth t) (lanesOf t) fun i =>
    if laneActive u f i then some (g i) else none
  (u.setRow f.a.toNat r.1 (BitVec.ofNat 4 t)).setFlags r.2

/-- A lane-wise instruction whose sources and result carry TY's tag: `g` computes a lane from the rows' patterns. -/
def laneWise (i : Instr) (rows : Fields → List Nat) (g : Fields → List Nat → Nat × Flags) (s : State) :
    Host.Outcome State Fault Refusal :=
  vecInstr i
    (fun f _ => dataNeeds f [tagOfTy f.ty.toNat] (rows f) ++ mergeNeed f false (tagOfTy f.ty.toNat))
    (fun e u =>
      let t := tagOfTy e.f.ty.toNat
      let vs := (rows e.f).map fun r => (u.row r).toNat
      writeLanes u e.f t fun i => g e.f (vs.map fun v => laneAt v (laneWidth t) i)) s

def rowB (f : Fields) : List Nat := [f.b.toNat]
def rowBC (f : Fields) : List Nat := [f.b.toNat, f.c.toNat]
def rowBCD (f : Fields) : List Nat := [f.b.toNat, f.c.toNat, f.d.toNat]

/-! ## Moves, broadcasts, inserts and extracts (R167) -/

/-- Lanes of a tag for `vmov` under a mask; MSK has 256 lanes of one bit (R51). -/
def movLanes (t : Nat) : Nat × Nat := if t = 14 then (1, 256) else (laneWidth t, lanesOf t)

def execVmov (f : Fields) (s : State) : Host.Outcome State Fault Refusal :=
  vecInstr (.vmov f)
    (fun f u =>
      let t := (u.tagOf f.b.toNat).toNat
      if f.lmask = 0 then dataNeeds f anyTag [f.b.toNat]
      else dataNeeds f (anyTag.drop 1) [f.b.toNat] ++ mergeNeed f false t)
    (fun e u =>
      let v := u.row e.f.b.toNat
      let tag := u.tagOf e.f.b.toNat
      if e.f.lmask = 0 then u.setRow e.f.a.toNat v tag
      else
        let l := movLanes tag.toNat
        u.setRow e.f.a.toNat (mergeLanes (u.row e.f.a.toNat) l.1 l.2 fun i =>
          if laneActive u e.f i then some (laneAt v.toNat l.1 i, 0) else none).1 tag) s

def execVbc (f : Fields) (s : State) : Host.Outcome State Fault Refusal :=
  vecInstr (.vbc f) (fun f _ => mergeNeed f false (tagOfTy f.ty.toNat))
    (fun e u =>
      let t := tagOfTy e.f.ty.toNat
      writeLanes u e.f t fun _ => ((u.reg e.f.b.toNat).toNat % 2 ^ laneWidth t, 0)) s

/-- A lane-fault trap: the mask and the lane (R332). -/
def laneFault (u : Ctx) (f : Fields) (n : Nat) : Trap :=
  { cause := 5, aux := BitVec.ofNat 64 (n % 512), mask := u.maskOf f.lmask.toNat }

/-- `vins` (R167). Where a tag mismatch and a lane fault both apply, the tags are looked at first, here, in `vext` and in the permutes of
R176: the spec gives no order within step 7 of R93, DESIGN CHOICE, log entry 63. -/
def execVins (f : Fields) (s : State) : Host.Outcome State Fault Refusal :=
  issueInstr (.vins f) (fun e u s =>
    let t := tagOfTy e.f.ty.toNat
    let n := (u.reg e.f.c.toNat).toNat
    match tagFault u (mergeNeed e.f true t) with
    | some x => .trap s x
    | none =>
      if lanesOf t ≤ n then .trap s (laneFault u e.f n)
      else
        if laneActive u e.f n then
          let v := (u.reg e.f.b.toNat).toNat % 2 ^ laneWidth t
          .ok s (u.setRow e.f.a.toNat (mergeLanes (u.row e.f.a.toNat) (laneWidth t) (lanesOf t) fun i =>
            if i = n then some (v, 0) else none).1 (BitVec.ofNat 4 t))
        else .ok s u) s

/-- A lane as a scalar: sign-extended for TY 1 to 4 (R167, R178). -/
def laneScalar (ty p : Nat) : Word :=
  if 1 ≤ ty ∧ ty ≤ 4 then BitVec.ofInt 64 (signed p (laneWidth ty)) else BitVec.ofNat 64 p

def execVext (f : Fields) (s : State) : Host.Outcome State Fault Refusal :=
  issueInstr (.vext f) (fun e u s =>
    let t := tagOfTy e.f.ty.toNat
    let n := (u.reg e.f.c.toNat).toNat
    match tagFault u (dataNeeds e.f [t] [e.f.b.toNat]) with
    | some x => .trap s x
    | none =>
      let active := laneActive u e.f n
      if lanesOf t ≤ n ∨ (¬ active ∧ ¬ e.f.pz) then .trap s (laneFault u e.f n)
      else
        .ok s (u.setReg e.f.a.toNat
          (if active then laneScalar e.f.ty.toNat (laneAt (u.row e.f.b.toNat).toNat (laneWidth t) n) else 0))) s

/-! ## Arithmetic (R168 to R170) -/

/-- −x, a NaN staying as it is. -/
def flipVal (x : Val) : Val :=
  match x with
  | .nan a => .nan a
  | y => y.neg

/-- The exact result of an arithmetic function on integers, by FN of major 0x87. -/
def arithInt (fn : Nat) (x y z : Int) : Int :=
  match fn with
  | 0 => x + y
  | 1 => x - y
  | 2 => x * y
  | 3 => x * y + z
  | 4 => x * y - z
  | 5 => -x
  | 6 => x.natAbs
  | 7 => min x y
  | _ => max x y

/-- The exact result on other values, with the flags of the operation. -/
def arithVal (fn mode : Nat) (tap : Bool) (x y z : Val) : Val × Flags :=
  match fn with
  | 0 => addVal mode x y
  | 1 => addVal mode x (flipVal y)
  | 2 => mulVal x y
  | 3 => fmaVal mode x y z
  | 4 => fmaVal mode x y (flipVal z)
  | 5 => (x.neg, 0)
  | 6 => (x.abs, 0)
  | 7 => minVal false x y
  | 8 => minVal true x y
  | 9 => divVal tap x y
  | 10 => sqrtVal tap x
  | 11 => divVal tap (.fin false 1 0 false) x
  | _ => rsqrtVal tap x

/-- One lane of an arithmetic function: patterns in, pattern and flags out (R169). -/
def arithLane (fn ty rm : Nat) (sat : Bool) (a b c : Nat) : Nat × Flags :=
  if isIntTy ty then
    let w := laneWidth (tagOfTy ty)
    let rd (p : Nat) : Int := if ty ≤ 4 then signed p w else (p : Int)
    let r := arithInt fn (rd a) (rd b) (rd c)
    let k := if sat then clampInt r (intLo ty) (intHi ty) else (r, 0)
    (lowBits k.1 w, k.2)
  else
    let mode := if ty = 13 then 0 else rm
    let r := arithVal fn mode (isTfTag ty) (decodeVal ty a) (decodeVal ty b) (decodeVal ty c)
    let p := roundVal ty r.1 mode
    (p.1, r.2 ||| p.2)

/-- The shape of the arithmetic instructions. -/
def vecArith (i : Instr) (fn : Nat) (rows : Fields → List Nat) (s : State) : Host.Outcome State Fault Refusal :=
  laneWise i rows (fun f xs =>
    arithLane fn f.ty.toNat f.rm.toNat f.sat (xs.headD 0) ((xs.drop 1).headD 0) ((xs.drop 2).headD 0)) s

def execVadd (f : Fields) (s : State) : Host.Outcome State Fault Refusal := vecArith (.vadd f) 0 rowBC s
def execVsub (f : Fields) (s : State) : Host.Outcome State Fault Refusal := vecArith (.vsub f) 1 rowBC s
def execVmul (f : Fields) (s : State) : Host.Outcome State Fault Refusal := vecArith (.vmul f) 2 rowBC s
def execVfma (f : Fields) (s : State) : Host.Outcome State Fault Refusal := vecArith (.vfma f) 3 rowBCD s
def execVfms (f : Fields) (s : State) : Host.Outcome State Fault Refusal := vecArith (.vfms f) 4 rowBCD s
def execVneg (f : Fields) (s : State) : Host.Outcome State Fault Refusal := vecArith (.vneg f) 5 rowB s
def execVabs (f : Fields) (s : State) : Host.Outcome State Fault Refusal := vecArith (.vabs f) 6 rowB s
def execVmin (f : Fields) (s : State) : Host.Outcome State Fault Refusal := vecArith (.vmin f) 7 rowBC s
def execVmax (f : Fields) (s : State) : Host.Outcome State Fault Refusal := vecArith (.vmax f) 8 rowBC s
def execVdiv (f : Fields) (s : State) : Host.Outcome State Fault Refusal := vecArith (.vdiv f) 9 rowBC s
def execVsqrt (f : Fields) (s : State) : Host.Outcome State Fault Refusal := vecArith (.vsqrt f) 10 rowB s
def execVrcp (f : Fields) (s : State) : Host.Outcome State Fault Refusal := vecArith (.vrcp f) 11 rowB s
def execVrsq (f : Fields) (s : State) : Host.Outcome State Fault Refusal := vecArith (.vrsq f) 12 rowB s

/-! ## Special functions (R171) -/

/-- A of `vexp2`, and whether x is an integer. -/
def exp2Arg (x : Val) : Int × Bool :=
  match x with
  | .inf false => (2 ^ 63 - 1, false)
  | .inf true => (-(2 ^ 63), false)
  | .fin .. => (clamp64 (roundInt x 32 0).1, !(roundInt x 0 0).2)
  | _ => (0, true)

/-- One lane of `vexp2`. -/
def exp2Lane (ty p : Nat) : Nat × Flags :=
  let x := decodeVal ty p
  if x.isNan then (ieeeNan 6, sigFlags x)
  else if x.isNar then (p, 0)
  else
    let a := exp2Arg x
    let y := expE a.1
    let inf := decide (y = ieeeInf 6)
    if ty = 6 then
      let nx := !a.2 || inf || y == 0
      let finite := match x with
        | .inf _ => false
        | _ => true
      (y, (if nx then flNX else 0) ||| (if inf && finite then flOF else 0) |||
        (if decide (y < 2 ^ 23) && nx then flUF else 0))
    else if inf then (2 ^ (laneWidth ty - 1) - 1, flSAT ||| flNX)
    else if y = 0 then (1, flSAT ||| flNX)
    else roundVal ty (decodeIeee 6 y) 0

/-- One lane of another special function. -/
def specialLane (g : Val → Val × Flags) (ty rm p : Nat) : Nat × Flags :=
  let r := g (decodeVal ty p)
  let q := roundVal ty r.1 rm
  (q.1, r.2 ||| q.2)

def execVexp2 (f : Fields) (s : State) : Host.Outcome State Fault Refusal :=
  laneWise (.vexp2 f) rowB (fun f xs => exp2Lane f.ty.toNat (xs.headD 0)) s
def execVlog2 (f : Fields) (s : State) : Host.Outcome State Fault Refusal :=
  laneWise (.vlog2 f) rowB
    (fun f xs => specialLane (log2Val (isTfTag f.ty.toNat)) f.ty.toNat f.rm.toNat (xs.headD 0)) s
def execVtanh (f : Fields) (s : State) : Host.Outcome State Fault Refusal :=
  laneWise (.vtanh f) rowB (fun f xs => specialLane tanhVal f.ty.toNat f.rm.toNat (xs.headD 0)) s
def execVsig (f : Fields) (s : State) : Host.Outcome State Fault Refusal :=
  laneWise (.vsig f) rowB (fun f xs => specialLane sigmoidVal f.ty.toNat f.rm.toNat (xs.headD 0)) s

/-! ## Compare, select and logic (R172 to R175) -/

/-- A condition from an order. -/
def condOf (fn : Nat) (o : Ordering) : Bool :=
  match fn with
  | 0 => o == .eq
  | 1 => o != .eq
  | 2 => o == .lt
  | 3 => o != .gt
  | 4 => o == .gt
  | 5 => o != .lt
  | _ => false

/-- One lane of `vcmp`: a NaN makes a comparison unordered; a tapered or E64 NAR is the least pattern. -/
def cmpLane (fn ty a b : Nat) : Bool × Flags :=
  let x := decodeVal ty a
  let y := decodeVal ty b
  if x.isNan || y.isNan then
    let quiet := fn == 0 || fn == 1 || fn == 6
    (fn == 1 || fn == 6, if quiet then sigFlags x ||| sigFlags y else flNV)
  else if isIeeeTag ty then (condOf fn (cmpVal x y), 0)
  else
    let w := laneWidth (tagOfTy ty)
    if ty ≤ 16 then (condOf fn (compare (signed a w) (signed b w)), 0) else (condOf fn (compare a b), 0)

/-- A mask from its bits. -/
def maskOfBits (n : Nat) (g : Nat → Bool) : Mask :=
  BitVec.ofNat 256 (natOfLanes 1 ((List.range n).map fun i => (g i).toNat))

def execVcmp (f : Fields) (s : State) : Host.Outcome State Fault Refusal :=
  vecInstr (.vcmp f) (fun f _ => dataNeeds f [tagOfTy f.ty.toNat] (rowBC f))
    (fun e u =>
      let t := tagOfTy e.f.ty.toNat
      let w := laneWidth t
      let x := (u.row e.f.b.toNat).toNat
      let y := (u.row e.f.c.toNat).toNat
      let g (i : Nat) := if laneActive u e.f i then cmpLane e.f.fn.toNat e.f.ty.toNat (laneAt x w i) (laneAt y w i)
        else (false, 0)
      (u.setMask e.f.a.toNat (maskOfBits (lanesOf t) fun i => (g i).1)).setFlags
        ((List.range (lanesOf t)).foldl (fun acc i => acc ||| (g i).2) 0)) s

def execVsel (f : Fields) (s : State) : Host.Outcome State Fault Refusal :=
  vecInstr (.vsel f)
    (fun f _ => dataNeeds f [tagOfTy f.ty.toNat] [f.c.toNat, f.d.toNat] ++ mergeNeed f false (tagOfTy f.ty.toNat))
    (fun e u =>
      let t := tagOfTy e.f.ty.toNat
      let w := laneWidth t
      let m := u.maskOf e.f.b.toNat
      let x := (u.row e.f.c.toNat).toNat
      let y := (u.row e.f.d.toNat).toNat
      writeLanes u e.f t fun i => (if m.getLsbD i then laneAt x w i else laneAt y w i, 0)) s

/-- The bitwise functions: on the whole row, or on lanes under a mask; the result is RAW. -/
def vecLogic (i : Instr) (g : Row → Row → Row) (s : State) : Host.Outcome State Fault Refusal :=
  vecInstr i (fun f _ => dataNeeds f anyTag (rowBC f) ++ mergeNeed f false 0)
    (fun e u =>
      let v := g (u.row e.f.b.toNat) (u.row e.f.c.toNat)
      if e.f.lmask = 0 then u.setRow e.f.a.toNat v 0
      else
        let t := tagOfTy e.f.ty.toNat
        let w := laneWidth t
        u.setRow e.f.a.toNat (mergeLanes (u.row e.f.a.toNat) w (lanesOf t) fun i =>
          if laneActive u e.f i then some (laneAt v.toNat w i, 0) else none).1 0) s

def execVand (f : Fields) (s : State) : Host.Outcome State Fault Refusal := vecLogic (.vand f) (· &&& ·) s
def execVor (f : Fields) (s : State) : Host.Outcome State Fault Refusal := vecLogic (.vor f) (· ||| ·) s
def execVxor (f : Fields) (s : State) : Host.Outcome State Fault Refusal := vecLogic (.vxor f) (· ^^^ ·) s
def execVandn (f : Fields) (s : State) : Host.Outcome State Fault Refusal :=
  vecLogic (.vandn f) (fun a b => a &&& ~~~b) s

/-- The rows of a shift: the amount row is absent when OPC is 0xFF. -/
def rowShift (f : Fields) : List Nat := if f.c = 0xFF then rowB f else rowBC f

/-- A shift by the amount lane, or by IMM8, modulo the width. -/
def vecShift (i : Instr) (g : Nat → Nat → Nat → Nat) (s : State) : Host.Outcome State Fault Refusal :=
  laneWise i rowShift (fun f xs =>
    let w := laneWidth (tagOfTy f.ty.toNat)
    let n := (if f.c = 0xFF then f.imm.toNat else (xs.drop 1).headD 0) % w
    (g w (xs.headD 0) n, 0)) s

def execVshl (f : Fields) (s : State) : Host.Outcome State Fault Refusal :=
  vecShift (.vshl f) (fun w x n => x * 2 ^ n % 2 ^ w) s
def execVshr (f : Fields) (s : State) : Host.Outcome State Fault Refusal := vecShift (.vshr f) (fun _ x n => x / 2 ^ n) s
def execVsar (f : Fields) (s : State) : Host.Outcome State Fault Refusal :=
  vecShift (.vsar f) (fun w x n => lowBits (signed x w / 2 ^ n) w) s

def execVclmul (f : Fields) (s : State) : Host.Outcome State Fault Refusal :=
  vecInstr (.vclmul f)
    (fun f _ => dataNeeds f [tagOfTy f.ty.toNat] (rowBC f) ++ mergeNeed f false (tagOfTy f.ty.toNat))
    (fun e u =>
      let t := tagOfTy e.f.ty.toNat
      let w := laneWidth t
      let x := (u.row e.f.b.toNat).toNat
      let y := (u.row e.f.c.toNat).toNat
      writeLanes u e.f t fun i =>
        let p := clMul (laneAt x w (i / 2 * 2)) (laneAt y w (i / 2 * 2)) w
        (p / 2 ^ (w * (i % 2)) % 2 ^ w, 0)) s

def execVpopc (f : Fields) (s : State) : Host.Outcome State Fault Refusal :=
  laneWise (.vpopc f) rowB (fun f xs => (popcNat (xs.headD 0) (laneWidth (tagOfTy f.ty.toNat)), 0)) s
def execVclz (f : Fields) (s : State) : Host.Outcome State Fault Refusal :=
  laneWise (.vclz f) rowB (fun f xs => (clzNat (xs.headD 0) (laneWidth (tagOfTy f.ty.toNat)), 0)) s

/-! ## Cross-lane operations (R176 to R179) -/

/-- A permute: `from_` gives the source of each destination lane (a row and its lane). An active lane that reads an inactive
one faults, or takes zero under PZ. -/
def vecPermute (i : Instr) (rows : Fields → List Nat) (more : Fields → List TagNeed)
    (from_ : Fields → Ctx → Nat → Nat × Nat) (s : State) : Host.Outcome State Fault Refusal :=
  issueInstr i (fun e u s =>
    let t := tagOfTy e.f.ty.toNat
    match tagFault u (dataNeeds e.f [t] (rows e.f) ++ more e.f ++ mergeNeed e.f false t) with
    | some x => .trap s x
    | none =>
      let w := laneWidth t
      let bad (i : Nat) : Bool := laneActive u e.f i && !laneActive u e.f (from_ e.f u i).2
      match (if e.f.pz then none else (List.range (lanesOf t)).find? bad) with
      | some n => .trap s (laneFault u e.f n)
      | none =>
        .ok s (writeLanes u e.f t fun i =>
          let p := from_ e.f u i
          (if laneActive u e.f p.2 then laneAt (u.row p.1).toNat w p.2 else 0, 0))) s

def execVperm (f : Fields) (s : State) : Host.Outcome State Fault Refusal :=
  vecPermute (.vperm f) rowB (fun f => [⟨f.c.toNat, [indexTag (laneWidth f.ty.toNat)]⟩])
    (fun f u i =>
      let t := f.ty.toNat
      (f.b.toNat, laneAt (u.row f.c.toNat).toNat (laneWidth t) i % lanesOf t)) s

/-- The source of a destination lane of `vshuf`: whether it is vC's, and the lane. -/
def shufFrom (code l i : Nat) : Bool × Nat :=
  let h := l / 2
  match code with
  | 0 => (i % 2 == 1, i / 2)
  | 1 => (i % 2 == 1, h + i / 2)
  | 2 => (decide (h ≤ i), 2 * (i % h))
  | 3 => (decide (h ≤ i), 2 * (i % h) + 1)
  | 4 => (false, if i % 2 = 0 then i + 1 else i - 1)
  | _ => (false, l - 1 - i)

def rowShuf (f : Fields) : List Nat := if f.imm.toNat ≤ 3 then rowBC f else rowB f

def execVshuf (f : Fields) (s : State) : Host.Outcome State Fault Refusal :=
  vecPermute (.vshuf f) rowShuf (fun _ => [])
    (fun f _ i =>
      let p := shufFrom f.imm.toNat (lanesOf f.ty.toNat) i
      (if p.1 then f.c.toNat else f.b.toNat, p.2)) s

def execVrot (f : Fields) (s : State) : Host.Outcome State Fault Refusal :=
  vecPermute (.vrot f) rowB (fun _ => [])
    (fun f u i =>
      let l := lanesOf f.ty.toNat
      let n := if f.c = 0xFF then f.imm.toNat else (u.reg f.c.toNat).toNat
      (f.b.toNat, (i + n) % l)) s

/-- The operation of a reduction or scan on two patterns, by its code (R178). -/
def combine (op ty rm : Nat) (sat : Bool) (a b : Nat) : Nat × Flags :=
  match op with
  | 0 => arithLane 0 ty rm sat a b 0
  | 1 => arithLane 7 ty rm false a b 0
  | 2 => arithLane 8 ty rm false a b 0
  | 3 => (a &&& b, 0)
  | 4 => (a ||| b, 0)
  | _ => (a ^^^ b, 0)

/-- A lane of a reduction: its value, if any, with the flags so far. -/
def combOpt (c : Nat → Nat → Nat × Flags) (x y : Option Nat × Flags) : Option Nat × Flags :=
  match x.1, y.1 with
  | some a, some b => (some (c a b).1, x.2 ||| y.2 ||| (c a b).2)
  | some a, none => (some a, x.2 ||| y.2)
  | none, r => (r, x.2 ||| y.2)

/-- Combine neighbours. -/
def pairUp (c : Nat → Nat → Nat × Flags) : List (Option Nat × Flags) → List (Option Nat × Flags)
  | x :: y :: rest => combOpt c x y :: pairUp c rest
  | xs => xs

/-- The fixed binary tree of R178. -/
def reduceTree (c : Nat → Nat → Nat × Flags) : Nat → List (Option Nat × Flags) → Option Nat × Flags
  | 0, xs => xs.headD (none, 0)
  | fuel + 1, xs => reduceTree c fuel (pairUp c xs)

def execVred (f : Fields) (s : State) : Host.Outcome State Fault Refusal :=
  vecInstr (.vred f) (fun f _ => dataNeeds f [tagOfTy f.ty.toNat] (rowB f))
    (fun e u =>
      let ty := e.f.ty.toNat
      let t := tagOfTy ty
      let v := (u.row e.f.b.toNat).toNat
      let xs := (List.range (lanesOf t)).map fun i =>
        let p := canonLane t (laneAt v (laneWidth t) i)
        if laneActive u e.f i then (some p.1, p.2) else (none, 0)
      let r := reduceTree (combine e.f.imm.toNat ty e.f.rm.toNat e.f.sat) 8 xs
      (u.setReg e.f.a.toNat (match r.1 with
        | some p => laneScalar ty p
        | none => 0)).setFlags r.2) s

/-- Id(op, t) of R179. -/
def identityOf (op ty : Nat) : Nat :=
  let t := tagOfTy ty
  let w := laneWidth t
  match op with
  | 0 => 0
  | 1 => if isIntTy ty then lowBits (intHi ty) w
    else if isIeeeTag ty then ieeeInf ty
    else 2 ^ (w - 1) - 1
  | 2 => if isIntTy ty then lowBits (intLo ty) w
    else if isIeeeTag ty then ieeeSign ty + ieeeInf ty
    else 2 ^ (w - 1) + 1
  | 3 => 2 ^ w - 1
  | _ => 0

/-- The lanes of a scan with its flags: from a lane on, with the running value (R179). A lane brings its operand with its flags. -/
def scanLanes (c : Nat → Nat → Nat × Flags) (exclusive : Bool) (id : Nat) :
    Option Nat → List (Bool × (Nat × Flags) × Nat) → List Nat × Flags
  | _, [] => ([], 0)
  | run, (active, v, old) :: rest =>
    if active then
      let nx := match run with
        | some a => ((c a v.1).1, (c a v.1).2 ||| v.2)
        | none => v
      let r := scanLanes c exclusive id (some nx.1) rest
      ((if exclusive then run.getD id else nx.1) :: r.1, nx.2 ||| r.2)
    else
      let r := scanLanes c exclusive id run rest
      (old :: r.1, r.2)

/-- The shape of the scans. -/
def vecScan (i : Instr) (exclusive : Bool) (s : State) : Host.Outcome State Fault Refusal :=
  vecInstr i (fun f _ => dataNeeds f [tagOfTy f.ty.toNat] (rowB f) ++ mergeNeed f false (tagOfTy f.ty.toNat))
    (fun e u =>
      let ty := e.f.ty.toNat
      let t := tagOfTy ty
      let w := laneWidth t
      let v := (u.row e.f.b.toNat).toNat
      let old := (u.row e.f.a.toNat).toNat
      let r := scanLanes (combine e.f.imm.toNat ty e.f.rm.toNat e.f.sat) exclusive (identityOf e.f.imm.toNat ty) none
        ((List.range (lanesOf t)).map fun i => (laneActive u e.f i, canonLane t (laneAt v w i), laneAt old w i))
      (u.setRow e.f.a.toNat (rowOfLanes w r.1) (BitVec.ofNat 4 t)).setFlags r.2) s

def execVscan (f : Fields) (s : State) : Host.Outcome State Fault Refusal := vecScan (.vscan f) false s
def execVxscan (f : Fields) (s : State) : Host.Outcome State Fault Refusal := vecScan (.vxscan f) true s

/-! ## Tags and masks (R180 to R182) -/

def execVtag (f : Fields) (s : State) : Host.Outcome State Fault Refusal :=
  vecInstr (.vtag f) (fun _ _ => []) (fun e u => u.setReg e.f.a.toNat ((u.tagOf e.f.b.toNat).setWidth 64)) s

def execVretag (f : Fields) (s : State) : Host.Outcome State Fault Refusal :=
  vecInstr (.vretag f)
    (fun f u => dataNeeds f anyTag (rowB f) ++
      (if f.ty = 14 ∧ (u.row f.b.toNat).extractLsb' 256 1792 ≠ 0 then [⟨f.b.toNat, []⟩] else []))
    (fun e u => u.setRow e.f.a.toNat (u.row e.f.b.toNat) (BitVec.ofNat 4 (tagOfTy e.f.ty.toNat))) s

/-- The mask operations that write a mask (R181). -/
def maskOp (op : Nat) (u : Ctx) (f : Fields) : Mask :=
  let b := u.maskOf f.b.toNat
  let c := u.maskOf f.c.toNat
  match op with
  | 0 => b &&& c
  | 1 => b ||| c
  | 2 => b ^^^ c
  | 3 => b &&& ~~~c
  | 4 => ~~~b
  | 5 => BitVec.allOnes 256
  | 6 => 0
  | 7 => BitVec.ofNat 256 (2 ^ min (u.reg f.b.toNat).toNat 256 - 1)
  | _ => (u.row f.b.toNat).setWidth 256

def execMop (f : Fields) (s : State) : Host.Outcome State Fault Refusal :=
  vecInstr (.mop f) (fun f _ => if f.imm = 9 then [⟨f.b.toNat, [14]⟩] else [])
    (fun e u =>
      if e.f.imm = 8 then u.setRow e.f.a.toNat ((u.maskOf e.f.b.toNat).setWidth 2048) 14
      else u.setMask e.f.a.toNat (maskOp e.f.imm.toNat u e.f)) s

def execMcnt (f : Fields) (s : State) : Host.Outcome State Fault Refusal :=
  vecInstr (.mcnt f) (fun _ _ => [])
    (fun e u =>
      let m := (u.maskOf e.f.b.toNat).toNat
      u.setReg e.f.a.toNat (BitVec.ofNat 64 (popcNat m 256 + ctzNat m 256 * 2 ^ 16))) s

end Sys2Proof.Machine
end

