-- ==== Sys2Proof/Machine/Matrix.lean ====
section
/-!
DEFINITION. The matrix array (R187 to R202): plane loads, swaps, `mmac`, `mclr` and `mcsum`.
-/
namespace Sys2Proof.Machine

open Sys2Proof

/-! ## Shapes (R188) -/

/-- Output columns of a weight format. -/
def matCols (ty : Nat) : Nat := if ty = 8 ∨ ty = 10 then 32 else 64
/-- Bits of a weight code. -/
def codeWidth (ty : Nat) : Nat := if ty = 11 then 4 else if ty = 9 then 16 else if ty = 10 then 32 else 8
/-- Bytes of a plane column. -/
def colBytes (ty : Nat) : Nat := 8 * codeWidth ty
/-- The activation format, and the bytes of its 64 elements. -/
def actTag (ty : Nat) : Nat := if ty = 11 then 12 else ty
def actBytes (ty : Nat) : Nat := 8 * codeWidth (actTag ty)
/-- The accumulator tag. -/
def accTag (ty : Nat) : Nat := if ty = 1 then 3 else if ty = 8 then 13 else if ty = 10 then 7 else 6
/-- Array occupancy of one operation in ck. -/
def occupancy (ty : Nat) : Nat := if ty = 11 then 8 else if ty = 9 then 64 else if ty = 10 then 128 else 16
def groupedTy (ty : Nat) : Bool := ty == 11 || ty == 12
/-- Portions of a plane, and the length of one (R189). -/
def portions (g : Nat) : Nat := if g = 32 then 2 else 1
def portionLen (g : Nat) : Nat := if g = 32 then 32 else 64

/-! ## Planes -/

/-- A plane of a core: 0 active, 1 shadow. -/
def State.planeAt (s : State) (core which : Nat) : Plane := FMap.get Plane.empty s.fab.planes (2 * core + which)
def State.setPlane (s : State) (core which : Nat) (p : Plane) : State :=
  s.modFab fun f => { f with planes := FMap.set Plane.empty f.planes (2 * core + which) p }
def State.arrayAt (s : State) (core : Nat) : Array := FMap.get Array.idle s.fab.arrays core
def State.setArray (s : State) (core : Nat) (a : Array) : State :=
  s.modFab fun f => { f with arrays := FMap.set Array.idle f.arrays core a }

/-- The record of the shadow when a load goes to the port (R193, R194). -/
def Plane.record (p : Plane) (l : PlaneLoad) : Plane :=
  if l.scales then { p with g := l.g, h := l.h, sfmt := l.ty, sf := true, fails := none }
  else { p with wfmt := l.ty, cf := true, failc := none }

/-- Start what stands at the head of the load port: a swap takes effect after the last stream ck; a load completes at a time
that is not promised (R195, R202). -/
def State.startPort (s : State) (core : Nat) : State :=
  let a := s.arrayAt core
  match a.port with
  | .swap .. :: _ => s.schedule (max (s.ck + 1) (a.lastE + 1)) (.mwswTakesEffect core)
  | .load .. :: _ => s.scheduleFree 1 (.planeLoadComplete core)
  | [] => s

/-- The ck in which what stands in the port was issued. -/
def PortEntry.issued (x : PortEntry) : Nat :=
  match x with
  | .swap _ t | .load _ t => t

def PortEntry.isSwap (x : PortEntry) : Bool :=
  match x with
  | .swap .. => true
  | .load .. => false

/-- Insert into the port by the ck of issue: a load that waited before it was posted stands ahead of a later swap (R195). -/
def insertPort (x : PortEntry) : List PortEntry → List PortEntry
  | [] => [x]
  | y :: ys => if x.issued < y.issued then x :: y :: ys else y :: insertPort x ys

/-- Put a load or a swap into the port, and start it when it is first. -/
def State.postPort (s : State) (core : Nat) (x : PortEntry) : State :=
  let a := s.arrayAt core
  let port := insertPort x a.port
  let s := s.setArray core { a with port := port }
  if port.head? = some x then s.startPort core else s

/-- The ck in which the instruction of a slot was issued. -/
def State.issuedAt (s : State) (k : Nat) : Nat := (s.slotAt k).issued.getD s.ck

/-- Post a plane load. Its record is made now, or, behind a swap, when the swap is settled (R195). -/
def State.postLoad (s : State) (core at_ : Nat) (l : PlaneLoad) : State :=
  let held := (s.arrayAt core).port.any fun x => x.isSwap && decide (x.issued < at_)
  let s := if held then s else s.setPlane core 1 ((s.planeAt core 1).record l)
  s.postPort core (.load l at_)

/-! ### The order of issue (R195, R199, R201) -/

/-- An instruction that uses the planes. -/
def usesPlanes (i : Instr) : Bool :=
  match i with
  | .mmac _ | .mmacz _ | .mcsum _ | .mwld _ | .mwsc _ => true
  | _ => false

/-- Whether an instruction of a core that satisfies a test was issued before a ck and still waits to go on. -/
def State.heldEarlier (s : State) (core at_ : Nat) (p : Instr → Bool) : Bool :=
  s.fab.slots.any fun e => decide (e.1 / 16 = core) && decide (s.issuedAt e.1 < at_) && (match e.2.mode, e.2.unit.bind (·.running) with
    | .waiting .., some i | .resuming _, some i => p i
    | _, _ => false)

/-- Whether an instruction in a slot that was issued in a ck waits for the planes: a multiply-accumulate for every swap and
multiply-accumulate of the core before it, a chunk for the multiply-accumulates, and a `mcsum` of the shadow for every load (R195, R199,
R201, R207). -/
def State.planesWait (s : State) (k : Nat) (i : Instr) : Bool :=
  let core := k / 16
  let at_ := s.issuedAt k
  let port := ((s.arrayAt core).port.filter fun x => decide (x.issued < at_))
  match i with
  | .mmac _ | .mmacz _ => port.any PortEntry.isSwap || s.heldEarlier core at_ isMmac
  | .ssmRun _ => s.heldEarlier core at_ isMmac
  | .mcsum f => !f.imm.getLsbD 1 && port.any fun x => !x.isSwap
  | _ => false

/-- Slots of a core whose instruction need not wait for the planes any more go on. -/
def State.planesChanged (s : State) (core : Nat) : State :=
  s.fab.slots.foldl (fun s e => match e.2.mode, e.2.unit.bind (·.running) with
    | .waiting .planeLoad _, some i => if e.1 / 16 = core ∧ s.planesWait e.1 i = false then s.rejoin e.1 else s
    | _, _ => s) s

/-- An access of the matrix path (R191): the description block fails. -/
def State.matKeys (s : State) (u : Ctx) (tile : Nat) (a : Word) (n : Nat) : Checked :=
  match s.checkAddr u tile a (plainAcc n false) with
  | .ok keys => if keys.any isDescKey then .trap (accTrap 7 a n 0 none) else .ok keys
  | r => r

/-- The keys of several pieces (address, bytes), or the trap of the first that fails. -/
def State.matPieces (s : State) (u : Ctx) (tile : Nat) : List (Word × Nat) → Except Trap (List (List Nat))
  | [] => .ok []
  | (a, n) :: rest =>
    match s.matKeys u tile a n with
    | .trap t => .error t
    | .ok keys =>
      match State.matPieces s u tile rest with
      | .error t => .error t
      | .ok more => .ok (keys :: more)

/-- A stride operand: a register, or 0xFF for the packed stride. -/
def strideOf (u : Ctx) (r : BitVec 8) (packed : Nat) : Word :=
  if r = 0xFF then BitVec.ofNat 64 packed else u.reg r.toNat

/-- Post a plane load of pieces after the unit's own stores (R191). -/
def postPieces (s : State) (e : Env) (u : Ctx) (pieces : List (Word × Nat)) (l : List (List Nat) → PlaneLoad) : Res :=
  match s.matPieces u e.tile pieces with
  | .error t => .trap s t
  | .ok parts => s.afterDrain u true fun s => .ok (s.postLoad e.core (s.issuedAt e.ref.key) (l parts)) u

def execMwld (f : Fields) (s : State) : Host.Outcome State Fault Refusal :=
  issueInstr (.mwld f) (fun e u s =>
    let ty := e.f.ty.toNat
    let base := u.reg e.f.b.toNat
    let stride := strideOf u e.f.c (colBytes ty)
    postPieces s e u ((List.range (matCols ty)).map fun c => (base + BitVec.ofNat 64 c * stride, colBytes ty))
      fun parts => ⟨s.who e.core u, false, ty, 0, 0, parts⟩) s

/-- The group size of IMM8[1:0] (R194). -/
def mwscGroup (f : Fields) : Nat := 32 * 2 ^ (f.imm.toNat % 4)

def execMwsc (f : Fields) (s : State) : Host.Outcome State Fault Refusal :=
  issueInstr (.mwsc f) (fun e u s =>
    let g := mwscGroup e.f
    let base := u.reg e.f.b.toNat
    let dist := strideOf u e.f.c 256
    let cells := (List.range (portions g)).flatMap fun j => (List.range 64).map fun c => (j, c)
    postPieces s e u
      (cells.map (fun p => (base + BitVec.ofNat 64 p.1 * dist + BitVec.ofNat 64 (4 * p.2), 4)) ++
        cells.map (fun p => (u.reg e.f.d.toNat + BitVec.ofNat 64 (2 * (64 * p.1 + p.2)), 2)))
      fun parts => ⟨s.who e.core u, true, e.f.ty.toNat, g, e.f.imm.toNat / 4 % 2, parts⟩) s

def execMwsw (f : Fields) (s : State) : Host.Outcome State Fault Refusal :=
  issueInstr (.mwsw f) (fun e u s => .wait (s.postPort e.core (.swap u.key (s.issuedAt e.ref.key))) u (.swapPlanes e.npc)) s

/-! ### Loads and swaps taking effect -/

/-- A map from values at keys 0, 1, …, each shifted by a function, without the entries that are 0. -/
def mapOfList {w : Nat} (key : Nat → Nat) (xs : List (BitVec w)) : FMap (BitVec w) :=
  (xs.zipIdx.filter fun p => p.1 != 0).map fun p => (key p.2, p.1)

/-- The plane with a load's bytes in it. -/
def Plane.fill (p : Plane) (l : PlaneLoad) (data : List (List Byte)) : Plane :=
  if l.scales then
    let n := 64 * portions l.g
    { p with scales := mapOfList id ((data.take n).map fun b => BitVec.ofNat 32 (natOfBytes b)),
             sums := mapOfList id ((data.drop n).map fun b => BitVec.ofNat 16 (natOfBytes b)) }
  else
    let codes := data.flatMap fun b =>
      (List.range 64).map fun k => BitVec.ofNat 32 (laneAt (natOfBytes b) (codeWidth l.ty) k)
    { p with codes := mapOfList (fun i => 256 * (i / 64) + i % 64) codes }

/-- Read the pieces of a load. -/
def State.readParts (s : State) (who : Who) : List (List Nat) → Acc × List (List Byte)
  | [] => (.ok s [], [])
  | keys :: rest =>
    match s.performRead who keys with
    | .ok s b =>
      let r := State.readParts s who rest
      (r.1, b :: r.2)
    | .fail s cause idx aux => (.fail s cause (keys.getD idx 0) (some (aux.getD (BitVec.ofNat 64 keys.length))), [])
    | r => (r, [])

/-- A load leaves the head of the port. -/
def State.advancePort (s : State) (core : Nat) : State :=
  let a := s.arrayAt core
  ((s.setArray core { a with port := a.port.drop 1 }).startPort core).planesChanged core

/-- The load at the head of a port fills the shadow (R193, R194): bytes that are absent, moving or retained, or in a window that fills,
make the port wait, and a failure sets the mark. -/
def State.loadPlane (s : State) (core : Nat) : State :=
  match (s.arrayAt core).port with
  | .load l _ :: _ =>
    match s.readParts l.who l.parts with
    | (.wait s w, _) => s.setArray core { s.arrayAt core with portWait := some w }
    | (.fail s cause key aux, _) =>
      let p := s.planeAt core 1
      let t : Trap := { cause := cause, addr := BitVec.ofNat 64 key, aux := aux.getD 0 }
      (s.setPlane core 1 (if l.scales then { p with fails := some t } else { p with failc := some t })).advancePort core
    | (.ok s _, data) => (s.setPlane core 1 ((s.planeAt core 1).fill l data)).advancePort core
  | _ => s

/-- PLANE_LOAD_COMPLETE (R193, R194). -/
def execPlaneLoadComplete (core : Nat) (s : State) : Host.Outcome State Fault Refusal := .next (s.loadPlane core)

/-- The plane loads and the chunks that wait for something go on in this ck (R225, R250). -/
def State.wakeArrays (s : State) (p : Wait → Bool) : State :=
  s.fab.arrays.foldl (fun s e =>
    let a := s.arrayAt e.1
    let s := if a.portWait.any p then
        (s.setArray e.1 { a with portWait := none }).schedule s.ck (.planeLoadComplete e.1) else s
    let a := s.arrayAt e.1
    if a.chunkWait.any p then (s.setArray e.1 { a with chunkWait := none }).schedule s.ck (.ssmChunkCommit e.1) else s) s

/-- A wait that ends when an extent becomes present, is fenced or is freed (R250). -/
def Wait.isExtent (n : Nat) (w : Wait) : Bool := w == .extent n
def Wait.isWindow (tile n : Nat) (w : Wait) : Bool := w == .window tile n
def Wait.isBank (n : Nat) (w : Wait) : Bool := w == .bank n

/-- The plane loads that wait for a window are performed on its filled bytes (R225). -/
def State.loadWaiting (s : State) (tile w : Nat) : State :=
  s.fab.arrays.foldl (fun s e =>
    let a := s.arrayAt e.1
    if a.portWait.any (·.isWindow tile w) then (s.setArray e.1 { a with portWait := none }).loadPlane e.1 else s) s

/-- The trap of a swap that may not take effect (R195). -/
def swapTrap (p : Plane) : Option Trap :=
  match p.failc, p.fails with
  | some t, _ | none, some t => some t
  | none, none =>
    let tag : Trap := { cause := 4, aux := BitVec.ofNat 64 (p.wfmt * 2 ^ 8) }
    if p.wfmt = 15 then some tag
    else if (p.cf || p.sf) && !(p.cf && (!groupedTy p.wfmt || (p.sf && p.sfmt == p.wfmt))) then some tag
    else none

/-- The loads held for a swap make their records once it is settled, up to the next swap. -/
def recordHeld (p : Plane) : List PortEntry → Plane
  | .load l _ :: rest => recordHeld (p.record l) rest
  | _ => p

/-- MWSW_TAKES_EFFECT (R195): the planes exchange, or the unit whose swap it is traps; loads held for it go on. It waits while a matrix
instruction that was issued before it has not gone on, and for the last stream ck of the array. The swap of a unit that has been ended
does nothing. -/
def execMwswTakesEffect (core : Nat) (s : State) : Host.Outcome State Fault Refusal :=
  .next (match (s.arrayAt core).port with
    | .swap unit at_ :: rest =>
      if s.ck ≤ (s.arrayAt core).lastE ∨ s.heldEarlier core at_ usesPlanes = true then s.schedule (s.ck + 1) (.mwswTakesEffect core) else
      let active := s.planeAt core 0
      let shadow := s.planeAt core 1
      let settle (s : State) : State :=
        (s.setPlane core 1 (recordHeld (s.planeAt core 1) rest)).advancePort core
      match s.findUnit unit with
      | some (k, sl, u) =>
        if s.haltedTag u.tag then s else
        match sl.mode with
        | .waiting (.swapPlanes npc) _ =>
          match swapTrap shadow with
          | some t => settle (s.takeTrap (refOfKey k) u ⟨t, u.pc, u.pc⟩)
          | none =>
            settle (((s.setPlane core 0 shadow).setPlane core 1 { active with cf := false, sf := false }).complete k npc id)
        | _ => settle s
      | none => settle s
    | _ => s)

/-! ## Multiply-accumulate (R196 to R199) -/

/-- The codes of a column of a plane. -/
def Plane.column (p : Plane) (c : Nat) : List Nat := (FMap.getMany 0 p.codes (256 * c) 64).map (·.toNat)

/-- A code as an exact integer multiple of 2^q; none for NAR. TF8 values are multiples of 2^−12, TF16 of 2^−56, TF32 of
2^−120. -/
def matUnit (tag : Nat) : Int := if tag = 8 then -12 else if tag = 9 then -56 else if tag = 10 then -120 else 0
def matValue (tag p : Nat) : Option Int :=
  if tag = 1 then some (signed p 8)
  else if isTfTag tag then
    match decodeTF tag p with
    | .nar => none
    | x => some (x.scaled (matUnit tag))
  else some (p : Int)

/-- The exact sum of products of two lists; none when one holds a NAR. -/
def dotProduct : List (Option Int) → List (Option Int) → Option Int
  | some a :: xs, some b :: ys => (dotProduct xs ys).map (a * b + ·)
  | [], _ | _, [] => some 0
  | _, _ => none

/-- The plain formats (R197): the lane, the flags, and whether the tile saturates. -/
def macPlain (ty acc : Nat) (dot : Option Int) : Nat × Flags × Bool :=
  if ty = 1 then
    let c := clampInt (signed acc 32 + dot.getD 0) (-(2 ^ 31)) (2 ^ 31 - 1)
    (lowBits c.1 32, c.2, c.2 != 0)
  else if ty = 8 then
    match dot with
    | none => (2 ^ 63, 0, false)
    | some d =>
      if acc = 2 ^ 63 then (2 ^ 63, 0, false)
      else
        let r := roundVal 13 (valOfInt (signed acc 64 + d) (-24)) 0
        (r.1, r.2, r.2 &&& flSAT != 0)
  else
    let t := accTag ty
    match dot with
    | none => (ieeeNan t, sigFlags (decodeIeee t acc), false)
    | some d =>
      let x := addVal 0 (decodeIeee t acc) (valOfInt d (2 * matUnit ty))
      let r := roundVal t x.1 0
      (r.1, x.2 ||| r.2, false)

/-- One portion of a grouped row and column (R198): the exact partial P. -/
def macPartial (qw qa : List Nat) (sw : Nat) (zw za : Nat) : Int :=
  let n : Int := qw.length
  let products : Int := ((qw.zip qa).map fun p => ((p.1 * p.2 : Nat) : Int)).sum
  let sumA : Int := (qa.map fun (x : Nat) => (x : Int)).sum
  products - (za : Int) * sw - (zw : Int) * sumA + n * zw * za

/-- A partial scaled and rounded into the accumulator (R198). -/
def macScaled (acc : Nat) (p : Int) (sw sa : Val) : Nat × Flags :=
  let bad (v : Val) : Bool := match v with
    | .nan _ | .inf _ | .nar => true
    | _ => false
  if bad sw || bad sa then (ieeeNan 6, flNV)
  else
    let x := addVal 0 (decodeIeee 6 acc) (mulVal (mulVal (valOfInt p 0) sw).1 sa).1
    let r := roundVal 6 x.1 0
    (r.1, x.2 ||| r.2)

/-- The portions of a grouped lane in ascending order: the accumulator, the flags, and the carry it leaves. `carry` is the
partial a split group brings; `words` are the scale words, sums and side words by portion. -/
def macGrouped (ty g h : Nat) (qw qa : List Nat) (carry : Int) :
    List (Nat × Nat × Nat) → Nat × Flags → (Nat × Flags) × Int
  | [], acc => (acc, carry)
  | (scale, sum, side) :: rest, acc =>
    let n := portionLen g
    let zw := if ty = 11 then scale / 2 ^ 16 % 16 else scale / 2 ^ 16 % 256
    let p := macPartial (qw.take n) (qa.take n) sum zw (side / 2 ^ 16 % 256)
    if g = 128 ∧ h = 0 then (acc, p)
    else
      let r := macScaled acc.1 (if g = 128 then p + carry else p) (decodeIeee 5 (scale % 65536))
        (decodeIeee 5 (side % 65536))
      macGrouped ty g h (qw.drop n) (qa.drop n) 0 rest (r.1, acc.2 ||| r.2)

/-- The result of one row of a multiply-accumulate: lanes, flags, saturation, and the row of the carry. -/
structure MacRow where
  lanes : List Nat
  flags : Flags
  sat   : Bool
  carry : List Int
  deriving DecidableEq, Repr

/-- One activation row against the plane. `bytes` are the row's bytes, `acc` its accumulators, `carry` its carried partials. -/
def macRow (p : Plane) (cols : List (List Nat)) (bytes : Nat) (acc : List Nat) (carry : List Int) : MacRow :=
  let ty := p.wfmt
  let aw := codeWidth (actTag ty)
  let act := (List.range 64).map fun k => laneAt bytes aw k
  if groupedTy ty then
    let words (c : Nat) := (List.range (portions p.g)).map fun j =>
      ((FMap.get 0 p.scales (64 * j + c)).toNat, (FMap.get 0 p.sums (64 * j + c)).toNat, laneAt bytes 32 (16 + j))
    let rs := (cols.zipIdx).map fun q =>
      macGrouped ty p.g p.h q.1 act (carry.getD q.2 0) (words q.2) (acc.getD q.2 0, 0)
    ⟨rs.map (·.1.1), rs.foldl (fun f r => f ||| r.1.2) 0, false, rs.map (·.2)⟩
  else
    let av := act.map (matValue ty)
    let rs := (cols.zipIdx).map fun q => macPlain ty (acc.getD q.2 0) (dotProduct av (q.1.map (matValue ty)))
    ⟨rs.map (·.1), rs.foldl (fun f r => f ||| r.2.1) 0, rs.any (·.2.2), []⟩

/-- The format-tag checks of `mmac` and `mmacz` in their order (R196). -/
def macTrap (p : Plane) (u : Ctx) (ty q : Nat) (zero : Bool) : Option Trap :=
  let tag (lo found want extra : Nat) : Trap :=
    { cause := 4, aux := BitVec.ofNat 64 (lo + found * 2 ^ 8 + want * 2 ^ 12 + extra * 2 ^ 16) }
  match p.failc, p.fails with
  | some t, _ | none, some t => some t
  | none, none =>
    if p.wfmt ≠ ty then some (tag q p.wfmt ty 0)
    else
      match (if zero then none else ((List.range 16).map (16 * q + ·)).find? fun r => (u.tagOf r).toNat != accTag ty) with
      | some r => some (tag r (u.tagOf r).toNat (accTag ty) 0)
      | none =>
        let held := !(u.carryOf q).isEmpty
        let want := groupedTy ty && p.g == 128 && p.h == 1
        if held != want then some (tag q 0 0 (1 + 2 * held.toNat)) else none

/-- Bytes of an activation row with its side words. -/
def actRowBytes (p : Plane) (ty : Nat) : Nat := actBytes ty + (if groupedTy ty then 4 * portions p.g else 0)

/-- The addresses of the activation rows. -/
def actRows (u : Ctx) (f : Fields) (n : Nat) : List Word :=
  (List.range 16).map fun i => u.reg f.b.toNat + BitVec.ofNat 64 i * strideOf u f.c n

/-- Read the activation rows: local or shared addresses only (R191). -/
def State.readActs (s : State) (e : Env) (u : Ctx) (n : Nat) : List Word → Except Res (State × List Nat)
  | [] => .ok (s, [])
  | a :: rest =>
    let code := s.apertureOf u e.tile a
    match s.matKeys u e.tile a n with
    | .trap t => .error (.trap s t)
    | .ok keys =>
      if code ≠ 1 ∧ code ≠ 2 then .error (.trap s (accTrap 7 a n 0 none))
      else
        match s.performRead (s.who e.core u) keys with
        | .wait s w => .error (.wait s u w)
        | .fail s cause _ aux => .error (.trap s (accTrap cause a n 0 aux))
        | .ok s b =>
          match State.readActs s e u n rest with
          | .ok (s, more) => .ok (s, natOfBytes b :: more)
          | .error r => .error r

/-- The sixteen rows of a multiply-accumulate. -/
def macRows (p : Plane) (u : Ctx) (q : Nat) (zero : Bool) (acts : List Nat) : List MacRow :=
  let cols := (List.range (matCols p.wfmt)).map p.column
  let w := laneWidth (accTag p.wfmt)
  let carry := u.carryOf q
  acts.zipIdx.map fun a =>
    let old := (u.row (16 * q + a.2)).toNat
    let acc := (List.range (matCols p.wfmt)).map fun c => if zero then 0 else laneAt old w c
    macRow p cols a.1 acc ((carry.drop (64 * a.2)).take 64)

/-- What a multiply-accumulate writes when its tile is written: the rows, the carry, the saturation flag and the flags. -/
def macWrites (p : Plane) (q : Nat) (rs : List MacRow) : List RegWrite :=
  let t := accTag p.wfmt
  let rows : List RegWrite := rs.zipIdx.map fun r =>
    .row (16 * q + r.2) (rowOfLanes (laneWidth t) r.1.lanes) (BitVec.ofNat 4 t)
  let carry : List RegWrite :=
    if groupedTy p.wfmt && p.g == 128 then
      [.carry q (if p.h = 0 then rs.flatMap (·.carry) else [])] else []
  let sat : List RegWrite := if rs.any (·.sat) then [.tileSat q] else []
  rows ++ carry ++ sat ++ [.flags (rs.foldl (fun f r => f ||| r.flags) 0)]

/-- `mmac` and `mmacz` (R196 to R199). While a swap or a multiply-accumulate of the core that was issued before it has not gone on, the
operation waits behind it. -/
def macInstr (i : Instr) (zero : Bool) (s : State) : Host.Outcome State Fault Refusal :=
  issueInstr i (fun e u s =>
    let a := s.arrayAt e.core
    if s.planesWait e.ref.key i then .wait s u .planeLoad
    else
      let ty := e.f.ty.toNat
      let q := e.f.a.toNat
      let p := s.planeAt e.core 0
      match macTrap p u ty q zero with
      | some t => .trap s t
      | none =>
        s.afterDrain u true fun s =>
          match s.readActs e u (actRowBytes p ty) (actRows u e.f (actRowBytes p ty)) with
          | .error r => r
          | .ok (s, acts) =>
            let last := max (s.ck + 1) (a.lastE + 1) + occupancy ty - 1
            let written := max (s.ck + 23) (last + 7)
            .wait ((s.setArray e.core { s.arrayAt e.core with lastE := last }).schedule written (.mmacWrite e.core)) u
              (.mmac ⟨macWrites p q (macRows p u q zero acts), e.npc, none⟩)) s

def execMmac (f : Fields) (s : State) : Host.Outcome State Fault Refusal := macInstr (.mmac f) false s
def execMmacz (f : Fields) (s : State) : Host.Outcome State Fault Refusal := macInstr (.mmacz f) true s

/-- Apply one register write of a reply. -/
def Ctx.applyWrite (u : Ctx) (w : RegWrite) : Ctx :=
  match w with
  | .scalar n v => u.setReg n v
  | .row n b t => u.setRow n b t
  | .bound n b => u.setBound n b
  | .guardBit n v => u.setGuard n v
  | .carry n c => u.setCarry n c
  | .tileSat n => { u with tileSat := NSet.insert u.tileSat n }
  | .flags m => u.setFlags m

def Ctx.applyReply (u : Ctx) (r : Reply) : Ctx := r.writes.foldl Ctx.applyWrite u

/-- The slot of a core whose multiply-accumulate streams, the one issued first: the array takes operations in the order of issue (R199). -/
def State.nextMmac (s : State) (core : Nat) : Option (Nat × Slot) :=
  s.fab.slots.foldl (fun acc e => match e.2.mode with
    | .waiting (.mmac _) _ =>
      if e.1 / 16 ≠ core then acc
      else match acc with
        | some (k, sl) => if s.issuedAt e.1 < s.issuedAt k then some e else some (k, sl)
        | none => some e
    | _ => acc) none

/-- MMAC_WRITE (R199): the oldest operation of the core writes its tile, and its slot rejoins; an end that waited for the
tile acts now. A slot of a halted partition is held (R337). -/
def execMmacWrite (core : Nat) (s : State) : Host.Outcome State Fault Refusal :=
  .next (match s.nextMmac core with
    | some (k, sl) =>
      match sl.unit, sl.mode with
      | some u, .waiting (.mmac r) _ =>
        if s.haltedTag u.tag then s else
        let s := s.complete k r.npc fun v => v.applyReply r
        match u.doomed with
        | some m => s.endSlot k m
        | none => s
      | _, _ => s
    | none => s)

/-! ## `mclr` and `mcsum` (R200, R201) -/

def execMclr (f : Fields) (s : State) : Host.Outcome State Fault Refusal :=
  issueInstr (.mclr f) (fun e u s =>
    let q := e.f.b.toNat
    let v := (if u.tileSat.contains q then 1 else 0) + (if (u.carryOf q).isEmpty then 0 else 2)
    let u' := (List.range 16).foldl (fun (u : Ctx) i => u.setRow (16 * q + i) 0 (BitVec.ofNat 4 e.f.ty.toNat)) u
    let u' := { u'.setCarry q [] with tileSat := NSet.erase u.tileSat q }
    .ok s (if e.f.a = 0xFF then u' else u'.setReg e.f.a.toNat (BitVec.ofNat 64 v))) s

/-- The sum of a portion's codes. -/
def Plane.codeSum (p : Plane) (j c : Nat) : Nat := (((p.column c).drop (portionLen p.g * j)).take (portionLen p.g)).sum

def execMcsum (f : Fields) (s : State) : Host.Outcome State Fault Refusal :=
  issueInstr (.mcsum f) (fun e u s =>
    let computed := e.f.imm.getLsbD 0
    let active := e.f.imm.getLsbD 1
    let p := s.planeAt e.core (if active then 0 else 1)
    if s.planesWait e.ref.key (.mcsum e.f) then .wait s u .planeLoad
    else if !groupedTy p.wfmt || (if computed then p.g == 0 else !p.sf) then
      .trap s { cause := 4, aux := BitVec.ofNat 64 (e.f.a.toNat + p.wfmt * 2 ^ 8) }
    else
      match (if computed then p.failc else p.fails) with
      | some t => .trap s t
      | none =>
        .ok s (u.setRow e.f.a.toNat (rowOfLanes 16 ((List.range 128).map fun i =>
          if i / 64 < portions p.g then
            (if computed then p.codeSum (i / 64) (i % 64) else (FMap.get 0 p.sums i).toNat)
          else 0)) 2)) s

end Sys2Proof.Machine
end

