-- ==== Sys2Proof/Machine/System.lean ====
section
/-!
DEFINITION. Special registers, traps by program, `tret`, `chk` and `bnd.ld` (R122 to R128).
-/
namespace Sys2Proof.Machine

open Sys2Proof

/-! ## Special registers (R91, R114, R115, R123, R25, R328) -/

def boolNat (b : Bool) : Nat := if b then 1 else 0

/-- `tile` (R25). -/
def tileReg (tile : Nat) : Word :=
  BitVec.ofNat 64 (tileX tile + 2 ^ 8 * tileY tile + 2 ^ 16 * dieOf tile + 2 ^ 18 * cluOf tile + 2 ^ 24 * tixOf tile)

/-- The code of a partition in `slot` and in a descriptor (R25, R316). -/
def Part.code : Part → Nat
  | .p16 => 0
  | .p8 => 1
  | .p4 => 2

/-- The value of a special register for a unit in a slot. -/
def State.specialReg (s : State) (r : SlotRef) (u : Ctx) (n : Nat) : Word :=
  match n with
  | 0 => u.geo
  | 1 => u.uid.setWidth 64
  | 2 => BitVec.ofNat 64 (r.slot + 16 * Part.code (s.partOf (tileOf r.core)))
  | 3 => BitVec.ofNat 64 (kindOf r.core)
  | 4 => tileReg (tileOf r.core)
  | 5 => BitVec.ofNat 64 u.tag
  | 6 => BitVec.ofNat 64 u.pid
  | 7 => BitVec.ofNat 64 s.ck
  | 8 => s.tvecOf r.core
  | 9 => u.trec
  | 10 => BitVec.ofNat 64 featValue
  | 11 => BitVec.ofNat 64 (boolNat s.firm.maint)
  | 12 => match s.tenant u.tag with
    | some t => t.bgen.setWidth 64
    | none => 0
  | 13 => u.stat
  | _ => 0

def execRdsr (f : Fields) (s : State) : Host.Outcome State Fault Refusal :=
  issueInstr (.rdsr f) (fun e u s => .ok s (u.setReg e.f.a.toNat (s.specialReg e.ref u e.f.b.toNat))) s

def illegalTrap (i : Instr) : Trap := { cause := 1, aux := firstWord i }

/-- Whether the 4 KiB area at an address lies in one range of a tenant with both rights (R123). -/
def State.recordAreaOk (s : State) (tag : Nat) (a : Word) : Bool :=
  match s.tenant tag with
  | some t => t.reach.any fun r => decide (r.base ≤ a.toNat) && decide (a.toNat + 4096 ≤ r.limit) && r.rd && r.wr
  | none => false

/-- `wrsr` (R122): `stat` from any slot, its writable bits only; `tvec` from context zero, its area within reach; any other
register is illegal. The aperture trap of `tvec`, which makes no access, names the new area and its 4,096 bytes: DESIGN CHOICE, log
entry 63. -/
def execWrsr (f : Fields) (s : State) : Host.Outcome State Fault Refusal :=
  issueInstr (.wrsr f) (fun e u s =>
    let v := u.reg e.f.b.toNat
    if e.f.a = 13 then .ok s { u with stat := (u.stat &&& ~~~statWritable) ||| (v &&& statWritable) }
    else if e.f.a = 8 ∧ e.ref.slot = 0 then
      let base := v &&& ~~~(4095#64)
      if s.recordAreaOk u.tag base then
        .ok (s.modFab fun m => { m with tvec := FMap.set 0 m.tvec e.core base }) u
      else .trap s { cause := 7, addr := base, aux := 4096 }
    else .trap s (illegalTrap (.wrsr e.f))) s

/-! ## Traps by program (R124, R125) -/

def execTrap (f : Fields) (s : State) : Host.Outcome State Fault Refusal :=
  issueInstr (.trap f) (fun e u s => .after s u { cause := 18, code := e.f.imm.toNat }) s

def execBrk (f : Fields) (s : State) : Host.Outcome State Fault Refusal :=
  issueInstr (.brk f) (fun e u s => .after s u { cause := 16, code := e.f.imm.toNat }) s

/-- `tret` names a slot (R125): one that a delivered trap has parked restarts once the ck's cancels have acted (R347). -/
def State.askTret (s : State) (core slot : Nat) (redirect : Option Word) : State :=
  match (s.slotAt (16 * core + slot)).mode with
  | .parked (.trap _) => s.modWork fun w => { w with late := w.late ++ [.tret core slot redirect] }
  | _ => s

def execTret (f : Fields) (s : State) : Host.Outcome State Fault Refusal :=
  issueInstr (.tret f) (fun e u s =>
    if e.ref.slot = 0 then .ok (s.askTret e.core e.f.b.toNat none) u
    else .trap s (illegalTrap (.tret e.f))) s

def execTretRedirect (f : Fields) (s : State) : Host.Outcome State Fault Refusal :=
  issueInstr (.tretRedirect f) (fun e u s =>
    if e.ref.slot = 0 then .ok (s.askTret e.core e.f.b.toNat (some (alignPc (u.reg e.f.c.toNat)))) u
    else .trap s (illegalTrap (.tretRedirect e.f))) s

/-! ## Bounds (R127, R128) -/

def execChk (f : Fields) (s : State) : Host.Outcome State Fault Refusal :=
  issueInstr (.chk f) (fun e u s =>
    let a := u.reg e.f.b.toNat
    let n := e.f.imm.toNat
    if (u.boundOf e.f.a.toNat).within a n then .ok s u
    else .trap s { cause := 6, addr := a, aux := BitVec.ofNat 64 (e.f.a.toNat + n * 2 ^ 16) }) s

end Sys2Proof.Machine
end

