-- ==== Sys2Proof/Machine/Engines.lean ====
section
/-!
DEFINITION. The engines of a tile: tokens (R212, R222), copies and merges (R215 to R221), windows (R223 to R227), collectives
(R228, R229) and messages (R230, R231).
-/
namespace Sys2Proof.Machine

open Sys2Proof

/-! ## Tokens -/

/-- A token with ERR set (R212). -/
def errToken (code done : Nat) : Word := BitVec.ofNat 64 (2 ^ 63 + done % 2 ^ 40 * 2 ^ 16 + code)

/-- A unit whose pending registers changed: a wait for tokens ends when none of them is pending, and a unit that is being
sealed is taken once it holds none (R59, R343). -/
def State.tokensChanged (s : State) (k : Nat) : State :=
  match (s.slotAt k).mode, (s.slotAt k).unit with
  | .waiting (.token regs) _, some u =>
    if regs.any (u.pend.contains ·) then s
    else if u.deferred.isSome then s.setSlot k { s.slotAt k with mode := .parked (.taken none) }
    else s.rejoin k
  | _, _ => s

/-- Write a token into a unit's state wherever it lies (R62). -/
def State.writeToken (s : State) (unit reg : Nat) (v : Word) : State :=
  match s.findUnit unit with
  | some (k, sl, u) =>
    (s.setSlot k { sl with unit := some ({ u with pend := NSet.erase u.pend reg }.setReg reg v) }).tokensChanged k
  | none => s

/-! ## Operations in flight -/

def State.findOp (s : State) (id : Nat) : Option Op := s.work.ops.find? (·.id = id)
def State.dropOp (s : State) (id : Nat) : State :=
  s.modWork fun w => { w with ops := w.ops.filter fun o => decide (o.id ≠ id) }
def State.setOp (s : State) (o : Op) : State :=
  s.modWork fun w => { w with ops := modifyFirst (fun x => decide (x.id = o.id)) (fun _ => o) w.ops }

/-- The frame an operation's addresses are bound in: the issuing unit's logical geometry and tile (R215). -/
def Op.frame (o : Op) : Ctx := Ctx.fresh o.unit 0 o.geo o.uid o.tag 0 o.job o.launch o.phase false

/-- The accessor an operation is. -/
def State.opWho (s : State) (o : Op) : Who :=
  { tile := o.tile, core := o.core, unit := o.unit, uid := o.uid, tag := o.tag,
    image := match s.job o.job with
      | some j => j.image
      | none => 0 }

/-- A new operation of a unit, with its token pending. -/
def State.startOp (s : State) (e : Env) (u : Ctx) (kind : OpKind) (counter : Option Word) (cb : Bool)
    (weight : Option Nat) : State × Ctx × Nat :=
  let o : Op := { id := s.serial, tile := e.tile, core := e.core, unit := u.key, uid := u.uid, geo := u.geo, job := u.job,
                  launch := u.launch, phase := u.phase, tag := (s.who e.core u).tag, pc := u.pc, token := e.f.a.toNat,
                  kind := kind, done := 0, counter := counter, cb := cb, weight := weight, stop := none, code := 0,
                  dead := false, waits := none, passed := [], moved := none }
  ({ s with serial := s.serial + 1, work := { s.work with ops := s.work.ops ++ [o] } },
    { u with pend := NSet.insert u.pend e.f.a.toNat }, o.id)

/-- The weight of an operation returns with a mark (R214). -/
def State.returnOp (s : State) (o : Op) (m : Mark) : State :=
  match o.weight with
  | some k => s.returnWeight ⟨o.job, o.phase⟩ k m 0
  | none => s

/-- A reach trap record for an engine's stop with code 2, for a unit that holds the token pending (R212, R331). -/
def State.reachRecord (s : State) (o : Op) (addr : Word) : State :=
  match s.findUnit o.unit with
  | some (k, _, u) =>
    s.nonparkingRecord (refOfKey k) u
      ⟨{ cause := 12, addr := addr, aux := BitVec.ofNat 64 (o.token + 2 * 2 ^ 16), nonpark := true }, o.pc, 0⟩
  | none => s

/-- An operation ends: its token is written, its weight returns. -/
def State.endOp (s : State) (o : Op) (token : Word) (m : Mark) : State :=
  ((s.dropOp o.id).writeToken o.unit o.token token).returnOp o m

/-- An operation stops on a failing check at an address (R212, R216). -/
def State.failOp (s : State) (o : Op) (code : Nat) (addr : Word) : State :=
  (if code = 2 then s.reachRecord o addr else s).endOp o (errToken code o.done) .none

/-! ## Accesses of the engines (R216, R377) -/

/-- The outcome of an access of an engine: bytes, a failing check with its code, or a wait, for an extent or for something else. -/
inductive Eng where
  | ok (s : State) (v : List Byte)
  | fail (s : State) (code : Nat)
  | stall (s : State) (extent : Option Nat)
  deriving DecidableEq, Repr

/-- Whether an access of an operation's next burst has passed its reach check: it is not checked again when it restarts (R250, R377). -/
def State.hasPassed (s : State) (o : Op) (a : Word) (n : Nat) (write : Bool) : Bool :=
  match s.findOp o.id with
  | some x => x.passed.contains (a, n, write)
  | none => false

/-- An access of an operation's next burst has passed its reach check. -/
def State.pass (s : State) (o : Op) (a : Word) (n : Nat) (write : Bool) : State :=
  s.modWork fun w => { w with
    ops := modifyFirst (fun x => decide (x.id = o.id)) (fun x => { x with passed := x.passed ++ [(a, n, write)] }) w.ops }

/-- The keys an engine access names, after step 2 of R130 and the reach check; or the failing code. -/
def State.engineKeys (s : State) (o : Op) (a : Word) (n : Nat) (write : Bool) : List Nat × Nat :=
  match s.keysOf o.frame o.tile a n with
  | none => ([], 3)
  | some keys =>
    if keys.any fun k => isDescKey k || isDevKey k then ([], 3)
    else if s.inReach o.tag keys write || s.hasPassed o a n write then (keys, 0)
    else ([], 2)

/-- An engine's access on bytes that steps 4 and 5 of R130 allow. -/
def Acc.eng (r : Acc) (rest : State → List Byte → Eng) : Eng :=
  match r with
  | .ok s v => rest s v
  | .fail s cause _ _ => .fail s (codeOfCause cause)
  | .wait s (.extent n) => .stall s (some n)
  | .wait s _ => .stall s none

/-- Read bytes on an engine's path at admitted keys, at their homes (R253). -/
def State.engineReadKeys (s : State) (who : Who) (keys : List Nat) : Eng :=
  (s.mayAccess who keys false false .home).eng fun s _ => (s.readHome who keys.zipIdx).eng fun s v => .ok s v

/-- Read bytes for an operation. -/
def State.engineRead (s : State) (o : Op) (a : Word) (n : Nat) : Eng :=
  match s.engineKeys o a n false with
  | (keys, 0) => (s.pass o a n false).engineReadKeys (s.opWho o) keys
  | (_, code) => .fail s code

/-- Write the bytes of one line at its home for a tenant: a whole line is sealed and clears its poison mark; a part of one
opens the line first and merges (R373, R389, R390). -/
def State.homeWrite (s : State) (who : Who) (keys : List Nat) (bs : List Byte) : Eng :=
  let line := keys.headD 0 / 128
  let s := s.writeBack line
  if keys.length = 128 then .ok (((s.l2Access who.tag line 0).putHome who keys bs).clearPoison line) []
  else (s.openHome who line 0 0).eng fun s _ => .ok (s.putHome who keys bs) []

/-- Write the bytes of one line or of scratchpads at keys, after steps 4 and 5 of R130. A write that fails writes nothing (R216). -/
def State.engineWriteKeys (s : State) (who : Who) (keys : List Nat) (bs : List Byte) : Eng :=
  (s.mayAccess who keys true false .home).eng fun s _ =>
    if keys.any isGlobalKey then s.homeWrite who keys bs
    else (s.checkWords who none keys keys.zipIdx).eng fun s _ => .ok (s.putHome who keys bs) []

/-- Write bytes for an operation; they lie in one line of their destination. -/
def State.engineWrite (s : State) (o : Op) (a : Word) (bs : List Byte) : Eng :=
  match s.engineKeys o a bs.length true with
  | (keys, 0) => (s.pass o a bs.length true).engineWriteKeys (s.opWho o) keys bs
  | (_, code) => .fail s code

/-- Bytes from an address to the end of its line, at most n. -/
def lineLeft (a : Word) (n : Nat) : Nat := min n (128 - a.toNat % 128)

/-! ## Bursts -/

/-- What an operation does next: it has written every byte, with the count its token takes; it stops with a code at an
address; it waits; or it writes a burst at an address. -/
inductive Burst where
  | finished (s : State) (count : Nat)
  | fail (s : State) (code : Nat) (addr : Word)
  | stall (s : State) (extent : Option Nat)
  | write (s : State) (o : Op) (dst : Word) (bs : List Byte)
  deriving DecidableEq, Repr

/-- Continue with what an engine read at an address. -/
def Eng.burst (r : Eng) (a : Word) (rest : State → List Byte → Burst) : Burst :=
  match r with
  | .ok s v => rest s v
  | .fail s code => .fail s code a
  | .stall s n => .stall s n

/-- A burst of `cp` and of a window fill: the next bytes of one destination line. -/
def State.copyBurst (s : State) (o : Op) (dst src : Word) (len : Nat) : Burst :=
  if len ≤ o.done then .finished s len
  else
    let d := dst + BitVec.ofNat 64 o.done
    let a := src + BitVec.ofNat 64 o.done
    (s.engineRead o a (lineLeft d (len - o.done))).burst a fun s bs => .write s o d bs

/-- The shared address of a byte of a tile of the rectangle (R218). -/
def slabAddr (off blk x0 y0 x1 y1 b : Nat) : Word × Nat :=
  let w := x1 + 1 - x0
  let t := w * (y1 + 1 - y0)
  let m := b % t
  let at_ := off + b / t * blk
  (BitVec.ofNat 64 (0xF1 * 2 ^ 56 + ((y0 + m / w) * 8 + x0 + m % w) * 2 ^ 20 + at_), at_)

/-- A burst of `cp.slab` (R218). -/
def State.slabBurst (s : State) (o : Op) (off : Nat) (glob : Word) (dir : Bool) (nb blk x0 y0 x1 y1 : Nat) : Burst :=
  if nb * blk ≤ o.done then .finished s (nb * blk)
  else
    let b := o.done / blk
    let r := o.done % blk
    let (p, at_) := slabAddr off blk x0 y0 x1 y1 b
    if 2 ^ 20 < at_ + blk then .fail s 3 p
    else
      let t := p + BitVec.ofNat 64 r
      let g := glob + BitVec.ofNat 64 o.done
      let (d, a) := if dir then (g, t) else (t, g)
      (s.engineRead o a (lineLeft d (blk - r))).burst a fun s bs => .write s o d bs

/-- Read the next index of a list once for each element (R219). -/
def State.elementIndex (s : State) (o : Op) (list : Word) (n idx : Nat) (rest : State → Nat → Burst) : Burst :=
  if o.done % n = 0 then
    let a := list + BitVec.ofNat 64 (8 + 4 * (o.done / n))
    (s.engineRead o a 4).burst a fun s bs => rest s (natOfBytes bs)
  else rest s idx

/-- A burst of a gather or scatter once its count is known (R219). -/
def State.elementBurst (s : State) (o : Op) (scatter : Bool) (dst src list : Word) (z count idx : Nat) : Burst :=
  let n := 2 ^ z
  if count * n ≤ o.done then .finished s (count * n)
  else
    s.elementIndex o list n idx fun s i =>
      let r := o.done % n
      let far := BitVec.ofNat 64 (i * n + r)
      let near := BitVec.ofNat 64 o.done
      let d := dst + (if scatter then far else near)
      let a := src + (if scatter then near else far)
      (s.engineRead o a (lineLeft d (n - r))).burst a fun s bs =>
        .write s { o with kind := .gather scatter dst src list z (some count) i } d bs

/-- A burst of `cp.gth` or `cp.sct`: the count of the list is read first. -/
def State.gatherBurst (s : State) (o : Op) (scatter : Bool) (dst src list : Word) (z : Nat) (count : Option Nat)
    (idx : Nat) : Burst :=
  match count with
  | some c => s.elementBurst o scatter dst src list z c idx
  | none =>
    (s.engineRead o list 8).burst list fun s bs =>
      let c := natOfBytes bs
      if 2 ^ 24 < c then .fail s 7 list else s.elementBurst o scatter dst src list z c 0

/-- A burst of `cp.fill` (R220). -/
def State.fillBurst (s : State) (o : Op) (dst : Word) (len : Nat) (quad : Word) : Burst :=
  if len ≤ o.done then .finished s len
  else
    let d := dst + BitVec.ofNat 64 o.done
    let bs := (List.range (lineLeft d (len - o.done))).map fun i =>
      BitVec.ofNat 8 (quad.toNat / 256 ^ ((d.toNat + i) % 8))
    .write s o d bs

/-- Whether key b orders before key a (R221): signed, unsigned, or by totalOrder of binary64. -/
def keyBefore (ty : Nat) (b a : Word) : Bool :=
  if ty = 4 then b.slt a
  else if ty = 20 then b.ult a
  else
    let rank (x : Word) : Word := if x.msb then ~~~x else x ||| (1#64 <<< 63)
    (rank b).ult (rank a)

/-- The key of a pair of a run, read when the comparison needs it. -/
def State.mergeKeys (s : State) (o : Op) (a b : Word) (na nb i j : Nat) (rest : State → Bool → Burst)
    (ty : Nat) : Burst :=
  if j = nb then rest s true
  else if i = na then rest s false
  else
    let pa := a + BitVec.ofNat 64 (16 * i)
    let pb := b + BitVec.ofNat 64 (16 * j)
    (s.engineRead o pb 8).burst pb fun s kb =>
      (s.engineRead o pa 8).burst pa fun s ka =>
        rest s !(keyBefore ty (BitVec.ofNat 64 (natOfBytes kb)) (BitVec.ofNat 64 (natOfBytes ka)))

/-- A burst of `smerge` (R221): each pair is read just before it is written, and split at a line of its destination. -/
def State.mergeBurst (s : State) (o : Op) (dst a b : Word) (na nb ty i j : Nat) (rest : List Byte) : Burst :=
  let d := dst + BitVec.ofNat 64 o.done
  if 16 * (na + nb) ≤ o.done then .finished s (16 * (na + nb))
  else if rest ≠ [] then .write s { o with kind := .merge dst a b na nb ty i j [] } d rest
  else
    s.mergeKeys o a b na nb i j (fun s fromA =>
      let p := if fromA then a + BitVec.ofNat 64 (16 * i) else b + BitVec.ofNat 64 (16 * j)
      (s.engineRead o p 16).burst p fun s bs =>
        let n := lineLeft d 16
        let kind := .merge dst a b na nb ty (if fromA then i + 1 else i) (if fromA then j else j + 1) (bs.drop n)
        .write s { o with kind := kind } d (bs.take n)) ty

/-- What an operation does next. -/
def State.nextBurst (s : State) (o : Op) : Burst :=
  match o.kind with
  | .copy dst src len => s.copyBurst o dst src len
  | .slab off glob dir nb blk x0 y0 x1 y1 => s.slabBurst o off glob dir nb blk x0 y0 x1 y1
  | .gather scatter dst src list z count idx => s.gatherBurst o scatter dst src list z count idx
  | .fill dst len quad => s.fillBurst o dst len quad
  | .merge dst a b na nb ty i j rest => s.mergeBurst o dst a b na nb ty i j rest
  | .window w =>
    let x := s.windowAt o.tile w
    s.copyBurst o (BitVec.ofNat 64 (0xF0 * 2 ^ 56 + x.lbase)) x.gbase x.len
  | .grant .. | .message .. | .coll .. => .stall s none

/-- The counter of a finished copy (R217): added to after the last write and before the token. -/
def State.countCopy (s : State) (o : Op) (a : Word) : Eng :=
  match s.keysOf o.frame o.tile a 8 with
  | none => .fail s 3
  | some keys =>
    let x : Word := if o.cb then BitVec.ofNat 64 o.done else 1
    (s.performAtHome (s.opWho o) keys true (touch := false) fun old => some (bytesOfNat (cntSum (natOfBytes old) x) 8)).eng
      fun s old =>
      .ok (s.wakeCounter (keys.headD 0) (cntSum (natOfBytes old) x)) []

/-- An operation goes on later: its next burst has no promised time. -/
def State.later (s : State) (o : Op) : State := (s.setOp o).scheduleFree 1 (.copyBurst o.id)

/-- The event by which an operation goes on. -/
def Op.event (o : Op) : Instr :=
  match o.kind with
  | .coll .. => .collectiveComplete o.id
  | .message .. => .messageQueued o.id
  | .grant .. => .grantAnswer o.id
  | _ => .copyBurst o.id

/-- An operation waits: for an extent, until it is released (R250); for anything else, it tries again. -/
def State.stallOp (s : State) (o : Op) (extent : Option Nat) : State :=
  match extent with
  | some n => s.modWork fun w => { w with
      ops := modifyFirst (fun x => decide (x.id = o.id)) (fun x => { x with waits := some n }) w.ops }
  | none => s.scheduleFree 1 o.event

/-- A finished copy: its counter, then its token. A window fill ends by an event of its own. -/
def State.finishCopy (s : State) (o : Op) (count : Nat) : State :=
  match o.kind with
  | .window _ => (s.setOp o).scheduleFree 1 (.windowFillEnd o.id)
  | _ =>
    match o.counter with
    | none => s.endOp o (BitVec.ofNat 64 count) .none
    | some a =>
      match s.countCopy o a with
      | .ok s _ => s.endOp o (BitVec.ofNat 64 count) .none
      | .fail s code => s.failOp o code a
      | .stall s n => (s.setOp o).stallOp o n

/-- A failing burst: a window fill keeps its code to its end (R225). -/
def State.stopCopy (s : State) (o : Op) (code : Nat) (addr : Word) : State :=
  match o.kind with
  | .window _ => (s.setOp { o with code := code }).scheduleFree 1 (.windowFillEnd o.id)
  | _ => s.failOp o code addr

/-- After a burst: the next one, or the end when every byte is written. -/
def State.afterBurst (s : State) (o : Op) : State :=
  let o := { o with passed := [] }
  let s := s.setOp o
  match s.nextBurst o with
  | .finished _ count => s.finishCopy o count
  | _ => s.later o

/-- One step of an operation on the copy engine (R216, R222). -/
def State.copyStep (s : State) (o : Op) : State :=
  if o.dead then s
  else
    match o.stop with
    | some m => s.endOp o (errToken 1 o.done) m
    | none =>
      match s.nextBurst o with
      | .finished s count => s.finishCopy o count
      | .fail s code addr => s.stopCopy o code addr
      | .stall s n => s.stallOp o n
      | .write s o' d bs =>
        match s.engineWrite o d bs with
        | .ok s _ => s.afterBurst { o' with done := o.done + bs.length }
        | .fail s code => s.stopCopy o code d
        | .stall s n => s.stallOp o n

/-- COPY_BURST (R216). -/
def execCopyBurst (op : Nat) (s : State) : Host.Outcome State Fault Refusal :=
  .next (match s.findOp op with
    | some o => s.copyStep o
    | none => s)

/-! ## Issue of a copy (R214, R215, R217) -/

/-- The counter address of a copy, checked as for `cnt.add` (R217). -/
def State.counterCheck (s : State) (e : Env) (u : Ctx) : Option Trap :=
  if e.f.e = 0xFF then none
  else
    match s.checkAddr u e.tile (u.reg e.f.e.toNat) ⟨8, true, false, 8⟩ with
    | .trap t => some t
    | .ok _ => none

/-- An operation that ends at issue: its token is written at once, and it takes no weight (R214). -/
def endNow (s : State) (e : Env) (u : Ctx) (v : Word) : Res := .ok s (u.setReg e.f.a.toNat v)

/-- Start an operation on the copy engine, after Split when it carries weight (R214). -/
def State.startCopy (s : State) (e : Env) (u : Ctx) (kind : OpKind) : Res :=
  let counter := if e.f.e = 0xFF || (match kind with
    | .merge .. => true
    | _ => false) then none else some (u.reg e.f.e.toNat)
  let go (s : State) (u : Ctx) (w : Option Nat) : Res :=
    let r := s.startOp e u kind counter (e.f.imm.getLsbD 6) w
    .ok (r.1.scheduleFree 1 (.copyBurst r.2.2)) r.2.1
  if e.f.imm.getLsbD 7 then
    if s.mustBorrow u then s.askBorrow u
    else
      let r := s.split u
      go r.1 r.2.1 (some r.2.2)
  else go s u none

/-- The shape of the copy forms: the counter check, the cases that end at issue, then the start. -/
def copyInstr (i : Instr) (now : Env → Ctx → Option Word) (kind : Env → Ctx → OpKind) (s : State) :
    Host.Outcome State Fault Refusal :=
  issueInstr i (fun e u s =>
    match s.counterCheck e u with
    | some t => .trap s t
    | none =>
      match now e u with
      | some v => endNow s e u v
      | none => s.startCopy e u (kind e u)) s

/-- The lengths that end a copy at issue (R215). -/
def lengthNow (e : Env) (u : Ctx) : Option Word :=
  let n := (u.reg e.f.d.toNat).toNat
  if 2 ^ 40 ≤ n then some (errToken 7 0) else if n = 0 then some 0 else none

/-- `cp` (R215). -/
def execCp (f : Fields) (s : State) : Host.Outcome State Fault Refusal :=
  copyInstr (.cp f) lengthNow
    (fun e u => .copy (u.reg e.f.b.toNat) (u.reg e.f.c.toNat) (u.reg e.f.d.toNat).toNat) s

/-- `cp.fill` (R220). -/
def execCpFill (f : Fields) (s : State) : Host.Outcome State Fault Refusal :=
  copyInstr (.cpFill f) lengthNow
    (fun e u => .fill (u.reg e.f.b.toNat) (u.reg e.f.d.toNat).toNat (u.reg e.f.c.toNat)) s

/-- The parameters of `cp.slab` are in range (R218). -/
def slabOk (p : Word) : Bool :=
  p.extractLsb' 46 2 == 0 && !p.getLsbD 43 && p.extractLsb' 38 2 == 0 && !p.getLsbD 35 && p.extractLsb' 21 11 == 0 &&
    decide ((p.extractLsb' 32 3).toNat ≤ (p.extractLsb' 40 3).toNat) &&
    decide ((p.extractLsb' 36 2).toNat ≤ (p.extractLsb' 44 2).toNat) &&
    decide (1 ≤ (p.extractLsb' 0 21).toNat) && decide ((p.extractLsb' 0 21).toNat ≤ 2 ^ 20)

/-- `cp.slab` (R218): sB must be local or shared. -/
def execCpSlab (f : Fields) (s : State) : Host.Outcome State Fault Refusal :=
  issueInstr (.cpSlab f) (fun e u s =>
    let b := u.reg e.f.b.toNat
    let p := u.reg e.f.d.toNat
    let code := s.apertureOf u e.tile b
    match s.counterCheck e u with
    | some t => .trap s t
    | none =>
      if code ≠ 1 ∧ code ≠ 2 then .trap s (accTrap 7 b 0 0 none)
      else if !slabOk p then endNow s e u (errToken 7 0)
      else
        s.startCopy e u (.slab (b.extractLsb' 0 20).toNat (u.reg e.f.c.toNat) (e.f.imm.getLsbD 0)
          ((p.extractLsb' 48 16).toNat + 1) (p.extractLsb' 0 21).toNat (p.extractLsb' 32 3).toNat
          (p.extractLsb' 36 2).toNat (p.extractLsb' 40 3).toNat (p.extractLsb' 44 2).toNat)) s

/-- An element size above 12 ends a gather or scatter at issue (R219). -/
def elementNow (e : Env) (_ : Ctx) : Option Word := if 12 < e.f.imm.toNat % 16 then some (errToken 7 0) else none

/-- `cp.gth` (R219). -/
def execCpGth (f : Fields) (s : State) : Host.Outcome State Fault Refusal :=
  copyInstr (.cpGth f) elementNow
    (fun e u => .gather false (u.reg e.f.b.toNat) (u.reg e.f.c.toNat) (u.reg e.f.d.toNat) (e.f.imm.toNat % 16) none 0) s

/-- `cp.sct` (R219). -/
def execCpSct (f : Fields) (s : State) : Host.Outcome State Fault Refusal :=
  copyInstr (.cpSct f) elementNow
    (fun e u => .gather true (u.reg e.f.b.toNat) (u.reg e.f.c.toNat) (u.reg e.f.d.toNat) (e.f.imm.toNat % 16) none 0) s

/-- `smerge` (R221): OPE gives the lengths of the runs. -/
def execSmerge (f : Fields) (s : State) : Host.Outcome State Fault Refusal :=
  issueInstr (.smerge f) (fun e u s =>
    let n := u.reg e.f.e.toNat
    if n = 0 then endNow s e u 0
    else
      s.startCopy e u (.merge (u.reg e.f.b.toNat) (u.reg e.f.c.toNat) (u.reg e.f.d.toNat) (n.extractLsb' 0 32).toNat
        (n.extractLsb' 32 32).toNat e.f.ty.toNat 0 0 [])) s

/-! ## Tokens (R222) -/

/-- `tok.test` (R222). -/
def execTokTest (f : Fields) (s : State) : Host.Outcome State Fault Refusal :=
  issueInstr (.tokTest f) (fun e u s => .ok s (u.setGuard e.f.a.toNat !(u.pend.contains e.f.b.toNat))) s

/-- Whether a register's token is that of an operation that `tok.cancel` stops. -/
def Op.cancels (o : Op) (unit reg : Nat) : Bool :=
  decide (o.unit = unit) && decide (o.token = reg) && o.kind.stoppable

/-- `tok.cancel` (R222): the operation stops at its next burst boundary. -/
def execTokCancel (f : Fields) (s : State) : Host.Outcome State Fault Refusal :=
  issueInstr (.tokCancel f) (fun e u s =>
    if u.pend.contains e.f.b.toNat then
      .ok (s.stopWhere (fun o => o.cancels u.key e.f.b.toNat) .none) u
    else .ok s u) s

/-! ## Windows (R223 to R227) -/

/-- The fill in progress of a window stops at a burst boundary. -/
def State.stopFill (s : State) (tile w : Nat) : State :=
  s.modWork fun k => { k with ops := k.ops.filter fun o => !(decide (o.tile = tile) && decide (o.kind = .window w)) }

/-- The access of every unit, plane load and chunk that waits on a window goes on in this ck; `pass` lets that of a unit through without
a touch. -/
def State.releaseWindow (s : State) (tile w : Nat) (pass : Bool) : State :=
  let through (u : Ctx) : Ctx := if pass then { u with pass := NSet.insert u.pass (16 * tile + w) } else u
  let s := s.fab.arrays.foldl (fun s e => match e.2.holder with
    | some key => if e.2.chunkWait.any (·.isWindow tile w) then s.modUnit key through else s
    | none => s) s
  (s.fab.slots.foldl (fun s e =>
    match e.2.mode, e.2.unit with
    | .waiting (.window t x) _, some u =>
      if t = tile ∧ x = w then (s.setSlot e.1 { e.2 with unit := some (through u) }).rejoin e.1 else s
    | _, _ => s) s).wakeArrays (·.isWindow tile w)

/-- A window becomes unbound: its waiters use the bytes as they stand (R226). -/
def State.unbindWindow (s : State) (tile w : Nat) : State :=
  ((s.stopFill tile w).setWindow tile w Window.unbound).releaseWindow tile w false

/-- `win.bind` (R224). -/
def State.bindWindow (s : State) (tile w lbase len : Nat) (gbase : Word) : State :=
  let s := (List.range 16).foldl (fun s x =>
    let v := s.windowAt tile x
    if x ≠ w ∧ v.state ≠ 0 ∧ lbase < v.lbase + v.len ∧ v.lbase < lbase + len then s.unbindWindow tile x else s) s
  ((s.stopFill tile w).setWindow tile w ⟨lbase, len, gbase, 1, 0, false⟩).releaseWindow tile w false

def execWinBind (f : Fields) (s : State) : Host.Outcome State Fault Refusal :=
  issueInstr (.winBind f) (fun e u s =>
    let b := u.reg e.f.b.toNat
    let g := u.reg e.f.c.toNat
    let n := (u.reg e.f.d.toNat).toNat
    let lbase := (b.extractLsb' 7 13).toNat * 128
    let len := (n + 127) / 128 * 128
    if s.apertureOf u e.tile b ≠ 1 then .trap s (accTrap 7 b 0 0 none)
    else if s.apertureOf u e.tile g ≠ 0 then .trap s (accTrap 7 g 0 0 none)
    else if 2 ^ 20 < lbase + len then .trap s (accTrap 7 b 0 0 none)
    else if n = 0 then .ok (s.unbindWindow e.tile e.f.a.toNat) u
    else .ok (s.bindWindow e.tile e.f.a.toNat lbase len (g &&& ~~~(127#64))) u) s

/-- `win.mark` (R226). -/
def execWinMark (f : Fields) (s : State) : Host.Outcome State Fault Refusal :=
  issueInstr (.winMark f) (fun e u s =>
    let w := e.f.a.toNat
    let x := s.windowAt e.tile w
    if x.state = 3 ∨ x.code ≠ 0 then .ok (s.setWindow e.tile w { x with state := 1, code := 0 }) u
    else if x.state = 2 then .ok (s.setWindow e.tile w { x with mark := true }) u
    else .ok s u) s

/-- `win.drop` (R226). -/
def execWinDrop (f : Fields) (s : State) : Host.Outcome State Fault Refusal :=
  issueInstr (.winDrop f) (fun e u s => .ok (s.unbindWindow e.tile e.f.a.toNat) u) s

/-- `win.q` (R227). -/
def execWinQ (f : Fields) (s : State) : Host.Outcome State Fault Refusal :=
  issueInstr (.winQ f) (fun e u s =>
    let x := s.windowAt e.tile e.f.b.toNat
    .ok s (u.setReg e.f.a.toNat (BitVec.ofNat 64
      (x.code * 256 + x.mark.toNat * 8 + (if x.code = 0 then 0 else 4) + x.state)))) s

/-- Whether a store entry touches a window. -/
def State.entryTouches (s : State) (tile w : Nat) (e : StoreEntry) : Bool :=
  let hits (k : Nat) : Bool := isScratchKey k && decide (keyTile k = tile) && decide (s.windowHit tile (keyOff k) = some w)
  match e.kind with
  | .bytes ps => ps.any fun p => p.cells.any fun c => hits c.1
  | .amo _ _ _ keys _ _ => keys.any hits
  | .cntAdd _ keys _ => keys.any hits
  | .sem _ => false

/-- Perform the buffered stores that wait on a window, while it is PRESENT. -/
def State.performWaiting (s : State) (tile w : Nat) : State :=
  s.fab.sbuf.foldl (fun s e =>
    if s.entryTouches tile w e then s.performNext e.who.core (fun x => decide (x = e)) s.fab.sbuf [] else s) s

/-- WINDOW_FILL_END (R225): the window becomes PRESENT, or ABSENT under its mark, and every waiter's access, a plane load's too, is
performed on the filled bytes; or it fails and every waiter meets the failure. -/
def execWindowFillEnd (op : Nat) (s : State) : Host.Outcome State Fault Refusal :=
  .next (match s.findOp op with
    | none => s
    | some o =>
      match o.kind with
      | .window w =>
        let s := s.dropOp op
        let x := s.windowAt o.tile w
        if o.dead then s
        else if o.code ≠ 0 then
          (s.setWindow o.tile w { x with state := 1, code := o.code }).releaseWindow o.tile w false
        else
          let s := ((s.setWindow o.tile w { x with state := 3, mark := false }).performWaiting o.tile w).loadWaiting o.tile w
          (s.setWindow o.tile w { x with state := if x.mark then 1 else 3, mark := false }).releaseWindow o.tile w true
      | _ => s)

/-! ## Collectives (R228, R229) -/

/-- The scope of a collective (R228): the rectangle of a register, or the region around the tile that a named scope names. -/
def collScope (u : Ctx) (f : Fields) (tile : Nat) : Nat :=
  match f.scope.toNat with
  | 6 => 6 * 2 ^ 40 + ((u.reg f.e.toNat).extractLsb' 0 32).toNat
  | 1 => 2 ^ 40 + tile
  | 2 => 2 * 2 ^ 40 + pcluOf tile
  | 3 => 3 * 2 ^ 40 + dieOf tile
  | _ => 4 * 2 ^ 40

/-- Whether a logical tile, lying on a physical one, is in a scope. -/
def inCollScope (scope lx ly tile : Nat) : Bool :=
  let v := scope % 2 ^ 40
  match scope / 2 ^ 40 with
  | 6 => decide (v % 128 ≤ lx) && decide (lx ≤ v / 2 ^ 16 % 128) && decide (v / 2 ^ 8 % 64 ≤ ly) && decide (ly ≤ v / 2 ^ 24 % 64)
  | 1 => decide (tile = v)
  | 2 => decide (pcluOf tile = v)
  | 3 => decide (dieOf tile = v)
  | _ => true

/-- How many participants a collective has (R228): one for each tile of the team in the scope. In a standing launch the units
that hold the LSLOT are counted. -/
def State.participants (s : State) (o : Op) (scope : Nat) : Nat :=
  let u := o.frame
  if o.launch = 1 then
    (s.fab.slots.filter fun e => match e.2.unit with
      | some v => decide (v.job = o.job) && decide (v.launch = 1) && decide (v.lslot = u.lslot) &&
          inCollScope scope v.lx v.ly (tileOf (e.1 / 16))
      | none => false).length
  else
    ((List.range (u.tw * u.th)).filter fun r =>
      match s.teamTile u o.tile (r % u.tw) (r / u.tw) with
      | some t => inCollScope scope (r % u.tw) (r / u.tw) t
      | none => false).length

/-- The operands two joined collectives must share (R228). -/
def OpKind.collKey (k : OpKind) : Option (Nat × Nat × Nat × Nat) :=
  match k with
  | .coll fn op ty _ _ _ len _ => some (fn, op, ty, len)
  | _ => none

/-- Whether an operation joins another one's collective. -/
def joins (o x : Op) : Bool :=
  match o.kind, x.kind with
  | .coll _ _ _ c _ _ _ n, .coll _ _ _ d _ _ _ m =>
    decide (c = d) && decide (n = m) && decide (o.job = x.job) && decide (o.launch = x.launch) &&
      decide (o.frame.lslot = x.frame.lslot)
  | _, _ => false

/-- The place of a participant among the ranks: row-major over the logical tiles. -/
def Op.rankKey (o : Op) : Nat := (o.frame.ly * 128 + o.frame.lx) * 3 + kindOf o.core

/-- Insert an operation by its rank. -/
def insertOp (o : Op) : List Op → List Op
  | [] => [o]
  | x :: xs => if o.rankKey < x.rankKey then o :: x :: xs else x :: insertOp o xs

/-- The participants that have issued, by rank. -/
def State.joined (s : State) (o : Op) : List Op := (s.work.ops.filter (joins o)).foldl (fun acc x => insertOp x acc) []

/-- What the reads of a collective's sources give: the bytes of each source, a wait, or the code that stops the collective with the
operation and the address. -/
inductive Sources where
  | ok (s : State) (xs : List (List Byte))
  | stall (s : State) (extent : Option Nat)
  | fail (s : State) (o : Op) (code : Nat) (addr : Word)
  deriving DecidableEq, Repr

/-- Read n bytes of a source, line by line, each line checked as a burst of its own (R216, R377). -/
def State.collRead (s : State) (o : Op) : Nat → Word → Nat → Sources
  | 0, _, _ => .ok s [[]]
  | fuel + 1, a, n =>
    if n = 0 then .ok s [[]]
    else
      let m := lineLeft a n
      match s.engineRead o a m with
      | .stall s x => .stall s x
      | .fail s code => .fail s o code a
      | .ok s bs =>
        match State.collRead s o fuel (a + BitVec.ofNat 64 m) (n - m) with
        | .ok s more => .ok s [bs ++ more.flatten]
        | r => r

/-- The sources of a collective read in rank order. -/
def State.collSources (s : State) (n : Nat) : List (Op × Word) → Sources
  | [] => .ok s []
  | (o, a) :: rest =>
    match s.collRead o (n + 1) a n with
    | .ok s x =>
      match State.collSources s n rest with
      | .ok s xs => .ok s (x ++ xs)
      | r => r
    | r => r

/-- Cut bytes into elements of n bytes. -/
def elementsOf (n : Nat) : Nat → List Byte → List Nat
  | 0, _ => []
  | c + 1, bs => natOfBytes (bs.take n) :: elementsOf n c (bs.drop n)

/-- The combination over ranks of every element (R229): the tree of R178 over ranks, under `.rne`; and the flags of all of them. -/
def reduceRanks (op ty n len : Nat) (xs : List (List Byte)) : List Byte × Flags :=
  let cols := xs.map (elementsOf n len)
  let rs := (List.range len).map fun e =>
    reduceTree (combine op ty 0 false) (xs.length + 1) (cols.map fun c =>
      let p := canonLane (tagOfTy ty) (c.getD e 0)
      (some p.1, p.2))
  (rs.flatMap fun r => bytesOfNat (r.1.getD 0) n, rs.foldl (fun f r => f ||| r.2) 0)

/-- Write a participant's destination line by line; a failing line stops it with its code (R216). -/
def State.collWrite (s : State) (o : Op) (dst : Word) : Nat → List Byte → State × Nat × Nat
  | 0, _ => (s, 0, 0)
  | fuel + 1, bs =>
    if bs.isEmpty then (s, 0, 0)
    else
      let n := lineLeft dst bs.length
      match s.engineWrite o dst (bs.take n) with
      | .ok s _ =>
        let r := State.collWrite s o (dst + BitVec.ofNat 64 n) fuel (bs.drop n)
        (r.1, r.2.1, r.2.2 + n)
      | .fail s code => ((if code = 2 then s.reachRecord o dst else s), code, 0)
      | .stall s _ => (s, 4, 0)

/-- Whether the lines of a destination make a collective wait before any of it is written. -/
def State.collAwait (s : State) (o : Op) (dst : Word) : Nat → Nat → State × Option (Option Nat)
  | 0, _ => (s, none)
  | fuel + 1, n =>
    if n = 0 then (s, none)
    else
      let m := lineLeft dst n
      match s.engineKeys o dst m true with
      | (keys, 0) =>
        match (s.pass o dst m true).mayAccess (s.opWho o) keys true false .home with
        | .wait s (.extent x) => (s, some (some x))
        | .wait s _ => (s, some none)
        | .ok s _ => State.collAwait s o (dst + BitVec.ofNat 64 m) fuel (n - m)
        | .fail .. => (s, none)
      | _ => (s, none)

/-- Whether a participant's destination must wait for an extent or a way before any of it is written. -/
def State.collWaits (s : State) (n : Nat) : List Op → State × Option (Option Nat)
  | [] => (s, none)
  | o :: rest =>
    match o.kind with
    | .coll _ _ _ _ dst _ _ _ =>
      match s.collAwait o dst (n + 1) n with
      | (s, none) => State.collWaits s n rest
      | r => r
    | _ => State.collWaits s n rest

/-- Deliver the result to every participant: its destination, the flags of the combinations, which R27 makes sticky in `stat`, then
its token. That the flags go to every participant is read from R229, which gives each of them the result (log entry 59). -/
def State.collDeliver (s : State) (bs : List Byte) (flags : Flags) (ops : List Op) : State :=
  ops.foldl (fun s o => match o.kind with
    | .coll _ _ _ _ dst _ _ _ =>
      let r := s.collWrite o dst bs.length bs
      (r.1.modUnit o.unit fun u => u.setFlags flags).endOp o (if r.2.1 = 0 then BitVec.ofNat 64 bs.length else errToken r.2.1 r.2.2) .none
    | _ => s) s

/-- Every participant's token takes a code; the failing one's reach stop is recorded. -/
def State.collFail (s : State) (ops : List Op) (code : Nat) : State :=
  ops.foldl (fun s o => s.endOp o (errToken code 0) .none) s

/-- Whether the length of a collective is in range (R229). -/
def collLenOk (fn len : Nat) : Bool := if fn = 0 then decide (1 ≤ len) && decide (len ≤ 2 ^ 24) else decide (len < 2 ^ 40)

/-- The source of a participant. -/
def Op.collSrc (o : Op) : Word :=
  match o.kind with
  | .coll _ _ _ _ _ src _ _ => src
  | _ => 0

/-- Perform a collective that every participant has issued. An element has the bytes of its type, unsigned ones those of their tag
(R28). -/
def State.collective (s : State) (o : Op) (fn op ty len : Nat) (ops : List Op) : State :=
  let n := laneWidth (tagOfTy ty) / 8
  let sources := (if fn = 1 then ops.take 1 else ops).map fun x => (x, x.collSrc)
  match s.collSources (if fn = 0 then len * n else len) sources with
  | .fail s x code a => (if code = 2 then s.reachRecord x a else s).collFail ops code
  | .stall s x => s.stallOp o x
  | .ok s xs =>
    let r := if fn = 0 then reduceRanks op ty n len xs else (xs.flatten, 0)
    match s.collWaits r.1.length ops with
    | (s, some x) => s.stallOp o x
    | (s, none) => s.collDeliver r.1 r.2 ops

/-- COLLECTIVE_COMPLETE (R229). -/
def execCollectiveComplete (op : Nat) (s : State) : Host.Outcome State Fault Refusal :=
  .next (match s.findOp op with
    | none => s
    | some o =>
      match o.kind with
      | .coll fn k ty _ _ _ len _ =>
        let ops := s.joined o
        if o.dead then s
        else if ops.any (fun x => decide (x.kind.collKey ≠ o.kind.collKey)) || !collLenOk fn len then s.collFail ops 7
        else s.collective o fn k ty len ops
      | _ => s)

/-- The issue of a collective (R228): the n-th of each participant at one scope joins the n-th of the others. -/
def collInstr (i : Instr) (fn : Nat) (s : State) : Host.Outcome State Fault Refusal :=
  issueInstr i (fun e u s =>
    match scopeTrap u e.f with
    | some t => .trap s t
    | none =>
      let scope := collScope u e.f e.tile
      let n := FMap.get 0 u.colls scope
      let kind := .coll fn (e.f.imm.toNat % 8) e.f.ty.toNat scope (u.reg e.f.b.toNat) (u.reg e.f.c.toNat)
        (u.reg e.f.d.toNat).toNat n;
      let r := s.startOp e { u with colls := FMap.set 0 u.colls scope (n + 1) } kind none false none
      match r.1.findOp r.2.2 with
      | some o =>
        if (r.1.joined o).length = r.1.participants o scope then
          .ok (r.1.scheduleFree 1 (.collectiveComplete o.id)) r.2.1
        else .ok r.1 r.2.1
      | none => .ok r.1 r.2.1) s

def execCollRed (f : Fields) (s : State) : Host.Outcome State Fault Refusal := collInstr (.collRed f) 0 s
def execCollBc (f : Fields) (s : State) : Host.Outcome State Fault Refusal := collInstr (.collBc f) 1 s
def execCollAg (f : Fields) (s : State) : Host.Outcome State Fault Refusal := collInstr (.collAg f) 2 s

/-! ## Messages (R230, R231) -/

/-- Whether a receiver operand and a length are accepted (R230). -/
def messageOk (u : Ctx) (v : Word) (len : Nat) : Bool :=
  v.extractLsb' 21 43 == 0 && v.extractLsb' 14 2 == 0 && !v.getLsbD 7 && (v.extractLsb' 18 3).toNat != 7 &&
    (v.extractLsb' 16 2).toNat != 3 && decide ((v.extractLsb' 0 7).toNat < u.tw) &&
    decide ((v.extractLsb' 8 6).toNat < u.th) && decide (len ≤ 256)

/-- `msg.send` (R230). -/
def execMsgSend (f : Fields) (s : State) : Host.Outcome State Fault Refusal :=
  issueInstr (.msgSend f) (fun e u s =>
    let v := u.reg e.f.b.toNat
    let len := (u.reg e.f.d.toNat).toNat
    let inTeam := (s.teamTile u e.tile (v.extractLsb' 0 7).toNat (v.extractLsb' 8 6).toNat).isSome
    if !(messageOk u v len && inTeam) then endNow s e u (errToken 7 0)
    else if s.mustBorrow u then s.askBorrow u
    else
      let w := s.split u
      let r := w.1.startOp e w.2.1 (.message v (u.reg e.f.c.toNat) len none) none false (some w.2.2)
      .ok (r.1.scheduleFree 1 (.messageQueued r.2.2)) r.2.1) s

/-- An earlier message of the same sender to the same core and class has not been queued. -/
def State.earlierMessage (s : State) (o : Op) (recv : Word) : Bool :=
  s.work.ops.any fun x => decide (x.unit = o.unit) && decide (x.id < o.id) &&
    (match x.kind with
      | .message r _ _ _ => decide (r = recv)
      | _ => false)

/-- The core a message goes to: the one its operand names, or the one it is redirected to (R346). -/
def State.messageCore (s : State) (o : Op) (recv : Word) : Option Nat :=
  match o.moved with
  | some c => some c
  | none =>
    (s.teamTile o.frame o.tile (recv.extractLsb' 0 7).toNat (recv.extractLsb' 8 6).toNat).map fun tile =>
      coreOf tile (recv.extractLsb' 16 2).toNat

/-- Queue a message at its receiving core, or wait while the store is full; then the token is written. -/
def State.deliverMessage (s : State) (o : Op) (recv : Word) (bs : List Byte) : State :=
  let cls := (recv.extractLsb' 18 3).toNat
  match s.messageCore o recv with
  | none => s.failOp o 7 0
  | some core =>
    if s.freePlace core then
      let msg : Msg := ⟨cls, o.uid, bs, o.weight.map fun k => (k, ⟨o.job, o.phase⟩), 0⟩
      let s := (s.setMsgs core (s.msgsOf core ++ [msg])).arrive core cls
      s.endOp { o with weight := none } (BitVec.ofNat 64 bs.length) .none
    else s.scheduleFree 1 (.messageQueued o.id)

/-- The step of a message in transit: the sender's earlier stores are performed (it is a `.rel`; entries held in a parked image are
waited for), its payload is read, and it is queued in send order. -/
def State.messageStep (s : State) (o : Op) (recv src : Word) (len : Nat) (payload : Option (List Byte)) : State :=
  let again (s : State) : State := s.scheduleFree 1 (.messageQueued o.id)
  if s.earlierMessage o recv then again s
  else
    match s.drainUpto o.unit o.id with
    | .blocked s => again s
    | .ok s | .failed s =>
      if s.heldBefore o.unit o.id then again s else
      match payload with
      | some bs => s.deliverMessage o recv bs
      | none =>
        match s.collRead o (len + 1) src len with
        | .stall s x => s.stallOp o x
        | .fail s _ code a => s.failOp o code a
        | .ok s xs =>
          let o := { o with kind := .message recv src len (some xs.flatten) }
          (s.setOp o).deliverMessage o recv xs.flatten

/-- MESSAGE_QUEUED (R230). -/
def execMessageQueued (op : Nat) (s : State) : Host.Outcome State Fault Refusal :=
  .next (match s.findOp op with
    | none => s
    | some o =>
      match o.kind with
      | .message recv src len payload => if o.dead then s else s.messageStep o recv src len payload
      | _ => s)

/-- The classes that messages on a core are queued for. -/
def State.queued (s : State) (core cls : Nat) : Bool := (s.msgsOf core).any (·.cls = cls)

/-- `msg.bind` (R231, R68): a new binding replaces the old one, and messages already queued count as an arrival (R69). -/
def execMsgBind (f : Fields) (s : State) : Host.Outcome State Fault Refusal :=
  issueInstr (.msgBind f) (fun e u s =>
    let c := e.f.a.toNat
    if 7 ≤ c then .trap s (illegalTrap (.msgBind e.f))
    else
      .ok (s.modFab fun m => { m with binds := FMap.set none m.binds (8 * e.core + c) (some u.key) })
        (if s.queued e.core c then { u with arrival := true } else u)) s

/-- The cores of a tile on which a class is bound to a unit, in the order X, F, K; class 7 is bound to context zero on its own
core (R68, R69). -/
def State.boundCores (s : State) (r : SlotRef) (key cls : Nat) : List Nat :=
  if cls = 7 then (if r.slot = 0 then [r.core] else [])
  else ([0, 1, 2].map (coreOf (tileOf r.core))).filter fun c => decide (FMap.get none s.fab.binds (8 * c + cls) = some key)

/-- Whether a message remains on any class bound to a unit (R70). -/
def State.anyQueued (s : State) (r : SlotRef) (key : Nat) : Bool :=
  (List.range 8).any fun c => (s.boundCores r key c).any fun core => s.queued core c

/-- Take the oldest message of a class from a core. -/
def State.takeMessage (s : State) (core cls : Nat) : State :=
  s.setMsgs core (removeFirst (fun m => decide (m.cls = cls)) (s.msgsOf core))

/-- The length and the sender's UID of a message, as `msg.recv` reports them. -/
def Msg.report (m : Msg) : Word := BitVec.ofNat 64 (m.payload.length + m.uid.toNat * 2 ^ 16)

/-- `msg.recv` of a message: its payload is stored, checked precisely by R130; then it leaves the queue and its weight
returns. -/
def State.receive (s : State) (e : Env) (u : Ctx) (core cls : Nat) (m : Msg) : Res :=
  let a := u.reg e.f.b.toNat
  let n := m.payload.length
  let leave (s : State) : Res :=
    let s := s.takeMessage core cls
    let s := match m.weight with
      | some (k, p) => s.returnWeight p k .none 0
      | none => s
    .reply s (if s.anyQueued e.ref u.key then u else { u with arrival := false }) [.scalar e.f.a.toNat m.report] none
  if n = 0 then leave s
  else
    match s.checkAddr u e.tile a (plainAcc n true) with
    | .trap t => .trap s t
    | .ok keys =>
      s.afterDrain u true fun s =>
        match s.performWrite (s.who e.core u) 0 keys m.payload with
        | .wait s w => .wait s u w
        | .fail s cause _ aux => .trap s (accTrap cause a n 0 aux)
        | .ok s _ => leave s

/-- `msg.recv` (R231). -/
def execMsgRecv (f : Fields) (s : State) : Host.Outcome State Fault Refusal :=
  issueInstr (.msgRecv f) (fun e u s =>
    let c := e.f.c.toNat
    match s.boundCores e.ref u.key c with
    | [] => .ok s (u.setReg e.f.a.toNat 0x8000000000000001)
    | cores =>
      match cores.find? fun core => s.queued core c with
      | none => .ok s (u.setReg e.f.a.toNat 0x8000000000000000)
      | some core =>
        match (s.msgsOf core).find? (·.cls = c) with
        | some m => s.receive e u core c m
        | none => .ok s (u.setReg e.f.a.toNat 0x8000000000000000)) s

end Sys2Proof.Machine
end

