-- ==== Sys2Proof/Machine/Launch.lean ====
section
/-!
DEFINITION. Launches (R314 to R320): descriptors and their checks, the making of a launch, argument buffers (R350), and ending
launches (R238): `lnch` and `cancel`.
-/
namespace Sys2Proof.Machine

open Sys2Proof

/-! ## Descriptors (R316) -/

/-- Bits [lo + len − 1 : lo] of a number. -/
def bitsOf (v lo len : Nat) : Nat := v / 2 ^ lo % 2 ^ len

def partOfCode (n : Nat) : Part := if n = 0 then .p16 else if n = 1 then .p8 else .p4

/-- The fields of a descriptor. -/
def parseDesc (v : Nat) : Desc where
  pc := alignPc (BitVec.ofNat 64 v)
  nx := bitsOf v 64 16 + 1
  ny := bitsOf v 80 16 + 1
  dnx := bitsOf v 96 16 + 1
  dny := bitsOf v 112 16 + 1
  tw := bitsOf v 128 7 + 1
  th := bitsOf v 136 6 + 1
  units := bitsOf v 144 4 + 1
  kind := bitsOf v 148 2
  part := partOfCode (bitsOf v 150 2)
  gang := bitsOf v 152 1 == 1
  fuse := bitsOf v 153 1 == 1
  den := bitsOf v 154 1 == 1
  prio := bitsOf v 156 3
  depth := bitsOf v 160 6
  graph := bitsOf v 192 32
  phase := bitsOf v 224 32
  preds := ([0, 1, 2, 3].map fun i => bitsOf v (256 + 32 * i) 32).filter (· ≠ 0)
  arga := BitVec.ofNat 64 (bitsOf v 384 64)
  cnta := BitVec.ofNat 64 (bitsOf v 448 64)
  spillb := BitVec.ofNat 64 (bitsOf v 512 64)
  spillsz := bitsOf v 576 32
  argn := bitsOf v 608 4

/-- The must-be-zero bits of a descriptor, and its codes of KIND and PART. -/
def descCodesOk (v : Nat) : Bool :=
  bitsOf v 135 1 == 0 && bitsOf v 142 2 == 0 && bitsOf v 155 1 == 0 && bitsOf v 159 1 == 0 && bitsOf v 166 26 == 0 &&
    bitsOf v 612 412 == 0 && bitsOf v 148 2 != 3 && bitsOf v 150 2 != 3

/-- A phase is live: it is not quiet, or a launch of it is live (R314). -/
def State.phaseLive (s : State) (p : PhaseId) : Bool :=
  match s.phase p with
  | some x => !x.quiet || s.work.launches.any fun l =>
      decide (l.id.job = p.job) && decide (l.phase = p.handle) && !l.state.ended
  | none => false

def State.graphLive (s : State) (job g : Nat) : Bool :=
  s.work.launches.any fun l => decide (l.id.job = job) && decide (l.graph = g) && !l.state.ended

/-- CNTA as it is checked when a launch is made (R317). -/
def cntaOk (d : Desc) : Bool :=
  let top := (d.cnta.extractLsb' 56 8).toNat
  let idx := (d.cnta.extractLsb' 20 5).toNat
  d.cnta == 0 ||
    (d.cnta.extractLsb' 0 3 == 0 &&
      (top == 0 || (top == 0xF0 && d.cnta.extractLsb' 20 36 == 0) ||
        (top == 0xF1 && d.cnta.extractLsb' 25 31 == 0 && decide (idx % 8 < d.tw) && decide (idx / 8 < d.th))))

/-- The kernel of an image of a tenant that starts at a PC. -/
def State.kernelAt (s : State) (tag cls : Nat) (pc : Word) : Option (Image × Kernel) :=
  s.store.images.findSome? fun i =>
    if i.tag = tag then (i.kernels.find? fun k => decide (k.cls = cls) && decide (k.entry = pc)).map fun k => (i, k)
    else none

/-- The shape fields equal the kernel's record (R316). -/
def shapeOk (d : Desc) (k : Kernel) : Bool :=
  decide (d.nx = k.nx) && decide (d.ny = k.ny) && decide (d.dnx = k.dnx) && decide (d.dny = k.dny) &&
    decide (d.tw = k.tw) && decide (d.th = k.th) && decide (d.units = k.units) && decide (d.kind = k.kind) &&
    decide (d.part = k.part) && d.den == k.den

/-- The origins at which a team of a shape lies within tiles and obeys R22, in ascending physical row and column. -/
def originsIn (tiles : List Nat) (tw th : Nat) : List Nat :=
  let ordered := (List.range Config.tiles).filter fun t => tiles.contains t
  ordered.filter fun o =>
    (decide (tw * th = 1) || (tileX o % 8 == 0 && tileY o % 4 == 0)) &&
      ((List.range (tw * th)).all fun i =>
        decide (tileX o + i % tw < 128) && tiles.contains (o + i / tw * 128 + i % tw))

/-- The checks of R317 on a descriptor for a job, but for its arguments; the descriptor and the kernel. -/
def State.checkDesc (s : State) (j : Job) (v : Nat) : Option (Desc × Kernel) :=
  let d := parseDesc v
  let preds := d.preds.map fun h => s.launch ⟨j.handle, h⟩
  let predOk := preds.all fun p => match p with
    | some l => decide (d.graph ≠ 0) && decide (l.graph = d.graph)
    | none => false
  if descCodesOk v && decide (d.units ≤ d.part.contexts - 1) &&
      (if d.phase = 0 then decide (2 ≤ d.depth) else decide (d.depth = 0) && s.phaseLive ⟨j.handle, d.phase⟩) &&
      decide (d.argn ≤ 8) && (d.graph == 0 || s.graphLive j.handle d.graph) && predOk && cntaOk d &&
      !(originsIn j.tiles d.tw d.th).isEmpty then
    match s.kernelAt j.tag 1 d.pc with
    | some (_, k) => if shapeOk d k then some (d, k) else none
    | none => none
  else none

/-- The bound registers of a kernel's argument buffers, or none when a range fails its check (R350). -/
def State.checkArgs (s : State) (tag : Nat) (args : List Word) (bufs : List (Nat × Nat × Nat × Nat)) :
    Option (FMap Bound) :=
  bufs.foldl (fun acc b =>
    match acc with
    | none => none
    | some m =>
      let a := args.getD b.1 0
      let n := b.2.2.1
      let ok := if b.2.1 = 0 then
          a.extractLsb' 56 8 == 0 && (match s.tenant tag with
            | some t => t.reach.any fun r =>
                decide (r.base ≤ a.toNat) && decide (a.toNat + n ≤ r.limit) && r.rd && r.wr
            | none => false)
        else
          a.extractLsb' 20 44 == (0xF0 <<< 36 : BitVec 44) && decide ((a.extractLsb' 0 20).toNat + n ≤ 2 ^ 20)
      if ok then some (FMap.set Bound.empty m b.2.2.2 ⟨a, a + BitVec.ofNat 64 n⟩) else none) (some [])

/-! ## Making a launch (R317, R318) -/

/-- The launches a launch depends on inherit its priority, directly and through others (R322). -/
def State.inheritPrio (s : State) : State :=
  s.work.launches.reverse.foldl (fun s x =>
    match s.launch x.id with
    | none => s
    | some l =>
      if l.state.ended then s
      else
        l.desc.preds.foldl (fun s h => s.modLaunch ⟨l.id.job, h⟩ fun p => { p with prio := max p.prio l.prio }) s) s

/-- The units of a launch before any is placed. -/
def Desc.pending (d : Desc) : List Pending :=
  (List.range (d.tw * d.th)).flatMap fun r => (List.range d.units).map fun l => ⟨r, l, none, none, 0, none, Seal.none, false⟩

/-- Make a launch of a job (R317, R318): `issuer` is the issuing unit's phase with the exponent Split gave, none for the host
and firmware; `order` places it among entries of one ck (R322). The answer holds its handle. -/
def State.addLaunch (s : State) (j : Job) (d : Desc) (args : List Word) (bounds : FMap Bound)
    (issuer : Option (Nat × PhaseId)) (order : Nat) : State × Nat :=
  let h := (s.work.jobs.map (·.nextH)).foldl max j.nextH
  let p : PhaseId := ⟨j.handle, if d.phase = 0 then h else d.phase⟩
  let own := match issuer with
    | some (_, q) => decide (p = q)
    | none => false
  let s := if d.phase = 0 then
      s.modWork fun w => { w with phases := w.phases ++ [⟨p, d.depth, 2 ^ d.depth, 0, false, false, 0⟩] }
    else if own then s
    else s.raiseRoot p
  let l : Launch :=
    { id := ⟨j.handle, h⟩, phase := p.handle, graph := if d.graph = 0 then h else d.graph, desc := d, prio := d.prio,
      args := args, bounds := bounds, state := .waiting, entered := 0, order := order, ticket := none, origin := none,
      reserved := [], head := 0,
      queue := d.pending, count := 0, total := d.tw * d.th * d.units, next := 0,
      holds := if d.phase = 0 then some 0 else if own then issuer.map (·.1) else some 1,
      parent := if own then none else issuer, sliceEnd := 0, taking := false, adding := false, reached := false }
  let s := (s.modJob j.handle fun x => { x with nextH := h + 1 }).modWork fun w => { w with launches := w.launches ++ [l] }
  (((s.settleLaunch l).inheritPrio).schedule (s.ck + 1) (.launchPlacement j.pid), h)

/-- The place of a unit among the entries of one ck (R322): after the eight host channels, by die, tile rank, core and slot. -/
def State.issuerOrder (s : State) (r : SlotRef) (u : Ctx) : Nat :=
  let tile := tileOf r.core
  let rank := match s.job u.job with
    | some j => (j.tiles.idxOf tile)
    | none => 0
  8 + ((dieOf tile * 8192 + rank) * 3 + kindOf r.core) * 16 + r.slot

/-- Read bytes for `lnch` and `post` (R233, R237): the precise checks of R130, and the reach check. -/
def State.launchRead (s : State) (e : Env) (u : Ctx) (a : Word) (n : Nat) (rest : State → List Byte → Res) : Res :=
  match s.checkAddr u e.tile a (plainAcc n false) with
  | .trap t => .trap s t
  | .ok keys =>
    if s.reaches (s.who e.core u) keys false then s.coreRead e u a keys n 0 rest
    else .trap s (accTrap 7 a n 0 none)

/-- The quads that bytes hold. -/
def quadsOf (n : Nat) (bs : List Byte) : List Word := (elementsOf 8 n bs).map (BitVec.ofNat 64)

/-- The rest of `lnch` once the descriptor is read: its checks, its arguments, Split, and the launch. -/
def State.submit (s : State) (e : Env) (u : Ctx) (j : Job) (v : Nat) : Res :=
  match s.checkDesc j v with
  | none => endNow s e u (errToken 7 0)
  | some (d, k) =>
    let go (s : State) (bs : List Byte) : Res :=
      match s.checkArgs j.tag (quadsOf d.argn bs) k.bufs with
      | none => endNow s e u (errToken 7 0)
      | some bounds =>
        if s.mustBorrow u then s.askBorrow u
        else
          let w := s.split u
          let r := w.1.addLaunch j d (quadsOf d.argn bs) bounds (some (w.2.2, u.phaseId)) (w.1.issuerOrder e.ref u)
          .ok r.1 (w.2.1.setReg e.f.a.toNat (BitVec.ofNat 64 r.2))
    if d.argn = 0 then go s [] else s.launchRead e u d.arga (8 * d.argn) go

/-- `lnch` (R237). -/
def execLnch (f : Fields) (s : State) : Host.Outcome State Fault Refusal :=
  issueInstr (.lnch f) (fun e u s =>
    let a := u.reg e.f.b.toNat
    s.afterDrain u true fun s =>
      s.launchRead e u a 128 fun s bs =>
        match s.job u.job with
        | some j =>
          if a.toNat % 128 ≠ 0 ∨ s.apertureOf u e.tile a = 3 then endNow s e u (errToken 7 0)
          else s.submit e u j (natOfBytes bs)
        | none => endNow s e u (errToken 7 0)) s

/-! ## Ending launches (R238) -/

/-- The live launches that a level and a handle name: 0 a launch, 1 a graph, 2 a phase, 3 a job. The standing launch is named
only through its job (R315). -/
def State.targets (s : State) (job level h : Nat) : List LaunchId :=
  (s.work.launches.filter fun l =>
    decide (l.id.job = job) && !l.state.ended &&
      (match level with
        | 0 => decide (l.id.handle = h) && decide (h ≠ 1)
        | 1 => decide (l.graph = h) && decide (l.id.handle ≠ 1)
        | 2 => decide (l.phase = h) && decide (l.id.handle ≠ 1)
        | _ => decide (job = h))).map (·.id)

/-- A unit held in an image ends: its weight returns, with the fault mark when a trap had parked it (R214). -/
def State.endImage (s : State) (u : Ctx) (parked : Bool) (m : Mark) : State :=
  let r := s.returnOwn u (if parked then .fault else m)
  r.1.releaseBinds u.key

/-- The units of a launch that have no slot end; a slot one was to be restored into empties. -/
def State.endPending (s : State) (l : Launch) (m : Mark) : State :=
  let s := l.queue.foldl (fun s p =>
    let s := match p.image with
      | some u => s.endImage u p.rpc.isSome m
      | none => s
    match p.slot with
    | some k => s.freeSlot k (s.tagOfJob l.id.job)
    | none => s) s
  s.modLaunch l.id fun x => { x with queue := [], count := x.count + x.queue.length }

/-- Units of a launch in a swapped-out partition end (R238); its completion counter counts them (R314). -/
def State.endSwapped (s : State) (id : LaunchId) (m : Mark) : State :=
  let mine (e : Nat × Slot) : Bool := e.2.holds fun u => decide (u.launchId = id)
  let ended := ((s.work.swapped.flatMap fun i => i.slots.filter mine).filter fun e => e.2.holds fun u => !u.started).length
  let s := s.modLaunch id fun x => { x with count := x.count + ended }
  let s := (s.work.swapped.flatMap fun i => i.slots.filter mine).foldl (fun s e => match e.2.unit with
    | some u => s.endImage u (endMark e.2 .none = .fault) m
    | none => s) s
  s.modWork fun w => { w with swapped := w.swapped.map fun i => { i with slots := i.slots.filter fun e => !mine e } }

/-- The slots that hold units of a launch. -/
def State.slotsOf (s : State) (id : LaunchId) : List Nat :=
  (s.fab.slots.filter fun e => match e.2.unit with
    | some u => decide (u.launchId = id)
    | none => false).map (·.1)

/-- End a launch (R238, R321): it is Cancelled, its weight returns with the mark, and its units end, one of them (the issuer) last. -/
def State.endLaunch (s : State) (id : LaunchId) (m : Mark) (last : Option Nat) : State :=
  match s.launch id with
  | none => s
  | some l =>
    let s := (s.modLaunch id fun x => { x with state := .cancelled, reserved := [], taking := false }).returnLaunch l m
    let s := (s.endPending l m).endSwapped id m
    let s := (s.slotsOf id).foldl (fun s k => if last = some k then s else s.endSlot k m) s
    let s := s.modWork fun w => { w with runs := w.runs.filter fun r =>
      !(decide (r.job = id.job) && decide (r.phase = l.phase)) }
    (s.unfuse id).settlePreds.checkRuns

/-- End the launches that a level and a handle name; a unit among theirs that asks for it ends last. -/
def State.endTargets (s : State) (ids : List LaunchId) (m : Mark) (last : Option Nat) : State :=
  let s := ids.foldl (fun s id => s.endLaunch id m last) s
  match last with
  | some k =>
    match (s.slotAt k).unit with
    | some u => if ids.contains u.launchId then s.endSlot k m else s
    | none => s
  | none => s

/-- A unit's own launch, graph, phase or job. -/
def State.ownTarget (s : State) (u : Ctx) (level : Nat) : Nat :=
  match level with
  | 0 => u.launch
  | 1 => match s.launch u.launchId with
    | some l => l.graph
    | none => 0
  | 2 => u.phase
  | _ => u.job

/-- Whether a target of a `cancel` is live: it holds a live launch, or it is a phase that is not complete (R314). -/
def State.targetLive (s : State) (job level h : Nat) : Bool :=
  if level = 2 then s.phaseLive ⟨job, h⟩ else !(s.targets job level h).isEmpty

/-- A `cancel` takes effect once the halts, retirements and restarts of its ck are settled (R238, R321, R347). `unit` is the issuing
unit, 0 for the host. -/
def State.askCancel (s : State) (job level h unit : Nat) : State :=
  s.modWork fun w => { w with late := w.late ++ [.cancel job level h unit] }

/-- `cancel` (R238). -/
def execCancel (f : Fields) (s : State) : Host.Outcome State Fault Refusal :=
  issueInstr (.cancel f) (fun e u s =>
    let level := e.f.fn.toNat
    let v := (u.reg e.f.b.toNat).toNat
    let h := if v = 0 then s.ownTarget u level else v
    if s.targetLive u.job level h then .ok (s.askCancel u.job level h u.key) (u.setReg e.f.a.toNat 0)
    else .ok s (u.setReg e.f.a.toNat 1)) s

/-- A cancelled target submits no further period of a run (R352), not even when every launch of its period has just retired. -/
def State.dropRuns (s : State) (job level h : Nat) : State :=
  let mine (r : PeriodRun) : Bool := decide (r.job = job) && (match level with
    | 0 => r.last.contains h
    | 1 => r.last.any fun x => match s.launch ⟨job, x⟩ with
      | some l => decide (l.graph = h)
      | none => false
    | 2 => decide (r.phase = h)
    | _ => decide (job = h))
  s.modWork fun w => { w with runs := w.runs.filter fun r => !mine r }

/-- What waits for the end of the ck takes effect: a cancel, or a restart by `tret`. -/
def State.actLate (s : State) (x : Late) : State :=
  match x with
  | .cancel job level h unit =>
    let s := (s.endTargets (s.targets job level h) .cancel ((s.findUnit unit).map (·.1))).dropRuns job level h
    s.schedule (s.ck + 1) (.launchPlacement (s.pidOf (s.tagOfJob job)))
  | .tret core slot redirect => s.tret core slot redirect

def Late.isCancel (x : Late) : Bool :=
  match x with
  | .cancel .. => true
  | .tret .. => false

/-- Everything that waits for the end of the ck: the cancels, then the restarts (R347). -/
def State.settleLate (s : State) : State :=
  let xs := s.work.late
  ((xs.filter (·.isCancel)) ++ xs.filter (!·.isCancel)).foldl State.actLate (s.modWork fun w => { w with late := [] })

end Sys2Proof.Machine
end

