-- ==== Sys2Proof/Machine/Tasks.lean ====
section
/-!
DEFINITION. Tasks and quiescence (R232 to R236, R292 to R300): frames, the deque and its spill areas, stealing, the package
queue, the work distributor, and the roots of phases.
-/
namespace Sys2Proof.Machine

open Sys2Proof

/-! ## Frames (R232) -/

/-- The checks of a JN access at a frame: aperture, alignment and reach. `sync` only reads (R377). -/
def State.jnCheck (s : State) (e : Env) (u : Ctx) (a : Word) (write : Bool) : Checked :=
  match s.checkAddr u e.tile a ⟨8, write, false, 8⟩ with
  | .trap t => .trap t
  | .ok keys => if s.reaches (s.who e.core u) keys write then .ok keys else .trap (accTrap 7 a 8 0 none)

/-- Change JN at a frame by an amount, at its home; frame 0 has none. -/
def State.jnAdd (s : State) (e : Env) (u : Ctx) (a x : Word) (rest : State → Res) : Res :=
  if a = 0 then rest s
  else
    match s.jnCheck e u a true with
    | .trap t => .trap s t
    | .ok keys =>
      let sum (old : List Byte) : Nat := (BitVec.ofNat 64 (natOfBytes old) + x).toNat
      match s.performAtHome (s.who e.core u) keys true fun old => some (bytesOfNat (sum old) 8) with
      | .wait s w => .wait s u w
      | .fail s cause _ aux => .trap s (accTrap cause a 8 0 aux)
      | .ok s old => rest (s.wakeCounter (keys.headD 0) (sum old))

/-- The checks of a JN change at a frame, steps 4 and 5 of R130 included, before anything else is done: nothing is written. -/
def State.jnTry (s : State) (e : Env) (u : Ctx) (a : Word) (rest : State → Res) : Res :=
  if a = 0 then rest s
  else
    match s.jnCheck e u a true with
    | .trap t => .trap s t
    | .ok keys =>
      match s.performAtHome (s.who e.core u) keys true fun _ => none with
      | .wait s w => .wait s u w
      | .fail s cause _ aux => .trap s (accTrap cause a 8 0 aux)
      | .ok s _ => rest s

/-! ## The deque (R297, R298) -/

def State.dequeOf (s : State) (core : Nat) : List DequeEntry := FMap.get [] s.fab.deques core
def State.setDeque (s : State) (core : Nat) (xs : List DequeEntry) : State :=
  s.modFab fun f => { f with deques := FMap.set [] f.deques core xs }

/-- The 32 bytes of an entry (R297). -/
def DequeEntry.bytes (x : DequeEntry) : List Byte :=
  bytesOfNat (x.phase % 2 ^ 32 * 2 ^ 160 + x.k % 64 * 2 ^ 152 + x.uid.toNat * 2 ^ 128 + x.frame.toNat * 2 ^ 64 + x.pc.toNat) 32

/-- An entry as it stands in memory. -/
def DequeEntry.ofBytes (x : DequeEntry) (bs : List Byte) : DequeEntry :=
  let v := natOfBytes bs
  { x with pc := BitVec.ofNat 64 v, frame := BitVec.ofNat 64 (v / 2 ^ 64), uid := BitVec.ofNat 24 (v / 2 ^ 128),
           k := v / 2 ^ 152 % 64, phase := v / 2 ^ 160 % 2 ^ 32, spilled := none }

/-- The spill area of a launch for a core (R297): its base and size. -/
def State.spillArea (s : State) (l : Launch) (core : Nat) : Word × Nat :=
  let tile := tileOf core
  let o := l.origin.getD 0
  let rank := (tileY tile - tileY o) * l.desc.tw + (tileX tile - tileX o)
  let rank := if l.id.handle = 1 then (match s.job l.id.job with
    | some j => j.tiles.idxOf tile
    | none => 0) else rank
  (l.desc.spillb + BitVec.ofNat 64 (l.desc.spillsz * (3 * rank + kindOf core)), l.desc.spillsz)

/-- Where the next entry of a launch is spilled: behind its youngest spilled entry of the core; none when its area is full or
absent. -/
def State.spillPlace (s : State) (core : Nat) (x : DequeEntry) : Option Word :=
  match s.launch ⟨x.job, x.launch⟩ with
  | none => none
  | some l =>
    let a := s.spillArea l core
    let used := (s.dequeOf core).filterMap fun y => if y.job = x.job ∧ y.launch = x.launch then y.spilled else none
    let p := match used.getLast? with
      | some q => q + 32
      | none => a.1
    if (p - a.1).toNat + 32 ≤ a.2 then some p else none

/-- The accessor the deque of a core is: the tenant that owns the core. -/
def State.dequeWho (s : State) (core : Nat) : Who :=
  ⟨tileOf core, core, 0, 0, (s.ownerOf (tileOf core)).getD 0, 0⟩

def globalKeys (a : Word) (n : Nat) : List Nat := (List.range n).map fun i => (a + BitVec.ofNat 64 i).toNat

/-- The outcome of making room. -/
inductive Room where
  | ok (s : State)
  | full
  | wait (s : State) (w : Wait)
  deriving DecidableEq, Repr

/-- Write bytes on the copy path, a burst for each line. -/
def State.engineWriteLines (s : State) (who : Who) : Nat → Word → List Byte → Eng
  | 0, _, _ => .ok s []
  | fuel + 1, a, bs =>
    if bs.isEmpty then .ok s []
    else
      let n := lineLeft a bs.length
      match s.engineWriteKeys who (globalKeys a n) (bs.take n) with
      | .ok s _ => State.engineWriteLines s who fuel (a + BitVec.ofNat 64 n) (bs.drop n)
      | r => r

/-- Write an entry to its place; a write that fails its reach check is not made, and the area counts as full. -/
def State.spillEntry (s : State) (core : Nat) (x : DequeEntry) (a : Word) : Room :=
  let who := s.dequeWho core
  let keys := globalKeys a 32
  if !keys.all isGlobalKey || !s.inReach who.tag keys true then .full
  else
    match s.mayAccess who keys true false .home with
    | .wait s w => .wait s w
    | .fail .. => .full
    | .ok s _ =>
      match s.engineWriteLines who 2 a x.bytes with
      | .ok s _ => .ok s
      | .fail .. | .stall .. => .full

/-- The places of the held entries at some indices when they are spilled in order; none when one has no place. -/
def State.spillPlaces (s : State) (core : Nat) : List Nat → Option (List Word)
  | [] => some []
  | i :: is =>
    match (s.dequeOf core)[i]? with
    | none => some []
    | some x =>
      match s.spillPlace core x with
      | none => none
      | some a => (State.spillPlaces (s.setDeque core ((s.dequeOf core).set i { x with spilled := some a })) core is).map (a :: ·)

/-- Write the held entries at some indices to their places in order (R298). -/
def State.spillTo (s : State) (core : Nat) : List Nat → Room
  | [] => .ok s
  | i :: is =>
    match (s.dequeOf core)[i]? with
    | none => .ok s
    | some x =>
      match s.spillPlace core x with
      | none => .full
      | some a =>
        match s.spillEntry core x a with
        | .ok s => State.spillTo (s.setDeque core ((s.dequeOf core).set i { x with spilled := some a })) core is
        | r => r

/-- Spill the held entries at some indices in order (R298): all of them, or none while one of their places waits or takes nothing. -/
def State.spillAll (s : State) (core : Nat) (is : List Nat) : Room :=
  match s.spillPlaces core is with
  | none => .full
  | some as =>
    match s.mayAccess (s.dequeWho core) (as.flatMap fun a => globalKeys a 32) true false .home with
    | .wait s w => .wait s w
    | .fail .. => .full
    | .ok s _ => s.spillTo core is

/-- The indices of the entries of a deque that are spilled, or held, oldest first. -/
def dequeIdx (spilled : Bool) (xs : List DequeEntry) : List Nat :=
  (xs.zipIdx.filter fun e => e.1.spilled.isSome == spilled).map (·.2)

/-- Room for a push: when 64 entries are held, the 16 oldest of them are spilled first. -/
def State.makeRoom (s : State) (core : Nat) : Room :=
  let held := dequeIdx false (s.dequeOf core)
  if held.length < 64 then .ok s else s.spillAll core (held.take 16)

/-- Slots whose `spawn` waits for the core's deque issue again once an entry has left it. -/
def State.dequeShrank (s : State) (core : Nat) : State :=
  s.rejoinWhere fun k w => decide (k / 16 = core) && (match w with
    | .dequeFull => true
    | _ => false)

/-- What taking an entry gives: there is none; the entry; or its read-back waits. -/
inductive Taken where
  | none
  | ok (s : State) (x : DequeEntry)
  | wait (s : State) (w : Wait)
  deriving DecidableEq, Repr

/-- An entry as it is taken: a spilled one is read back as it stands, once it can be read; where a read of it fails, it is what was
pushed. -/
def State.loadEntry (s : State) (core : Nat) (x : DequeEntry) : Taken :=
  match x.spilled with
  | .none => .ok s x
  | some a =>
    let who := s.dequeWho core
    let keys := globalKeys a 32
    match s.mayAccess who keys false false .home with
    | .wait s w => .wait s w
    | .fail s .. => .ok s { x with spilled := .none }
    | .ok s _ =>
      match s.engineReadKeys who keys with
      | .ok s bs => .ok s (x.ofBytes bs)
      | .fail s _ | .stall s _ => .ok s { x with spilled := .none }

/-- The deque of a core has performed an operation in this ck (R298). -/
def State.dequeUsed (s : State) (core : Nat) : State :=
  s.modFab fun f => { f with dequeAt := FMap.set 0 f.dequeAt core (s.ck + 1) }

/-- Whether the deque of a core has performed its operation of this ck. -/
def State.dequeBusy (s : State) (core : Nat) : Bool := decide (FMap.get 0 s.fab.dequeAt core = s.ck + 1)

/-- When held entries fall below 16 and spilled entries exist, the youngest 16 spilled ones are brought back in (R298). One that cannot be read
now stays spilled, with those above it, until the next pop (log entry 45). -/
def State.bringBack (s : State) (core : Nat) : State :=
  let xs := s.dequeOf core
  if (dequeIdx false xs).length < 16 then
    (((dequeIdx true xs).reverse.take 16).foldl (fun (acc : State × Bool) i =>
      if acc.2 then acc
      else
        match (acc.1.dequeOf core)[i]? with
        | some x =>
          match acc.1.loadEntry core x with
          | .ok s y => (s.setDeque core ((s.dequeOf core).set i y), false)
          | .wait s _ => (s, true)
          | .none => acc
        | none => acc) (s, false)).1
  else s

/-- Take the entry at an index. -/
def State.takeAt (s : State) (core i : Nat) : Taken :=
  match (s.dequeOf core)[i]? with
  | none => .none
  | some x =>
    match s.loadEntry core x with
    | .ok s y => .ok (((s.setDeque core ((s.dequeOf core).eraseIdx i)).dequeShrank core).dequeUsed core) y
    | r => r

/-- Whether an entry was pushed by a unit. -/
def DequeEntry.isOf (x : DequeEntry) (u : Ctx) : Bool :=
  decide (x.uid = u.uid) && decide (x.job = u.job) && decide (x.launch = u.launch)

/-- The index of the last entry that satisfies a test. -/
def lastIdx (p : DequeEntry → Bool) (xs : List DequeEntry) : Option Nat :=
  (xs.zipIdx.foldl (fun acc e => if p e.1 then some e.2 else acc) none)

/-- The index of the first entry that satisfies a test. -/
def firstIdx (p : DequeEntry → Bool) (xs : List DequeEntry) : Option Nat :=
  (xs.zipIdx.find? fun e => p e.1).map (·.2)

/-- Pop (R298): the youngest entry of a unit; it waits while the deque has performed another operation in this ck. -/
def State.popEntry (s : State) (core : Nat) (u : Ctx) : Taken :=
  match lastIdx (·.isOf u) (s.dequeOf core) with
  | none => .none
  | some i =>
    if s.dequeBusy core then .wait s .deque
    else
      match s.takeAt core i with
      | .ok s x => .ok (s.bringBack core) x
      | r => r

/-- Steal (R298): the oldest entry of a phase, spilled ones first; it waits while the deque has performed another operation in this
ck. -/
def State.stealEntry (s : State) (core : Nat) (p : PhaseId) : Taken :=
  let of (x : DequeEntry) : Bool := decide (x.job = p.job) && decide (x.phase = p.handle)
  match (firstIdx (fun x => of x && x.spilled.isSome) (s.dequeOf core)).orElse fun _ => firstIdx of (s.dequeOf core) with
  | none => .none
  | some i => if s.dequeBusy core then .wait s .deque else s.takeAt core i

/-- Push (R298). -/
def State.pushEntry (s : State) (core : Nat) (u : Ctx) (pc : Word) (k : Nat) : State :=
  (({ s with serial := s.serial + 1 }).setDeque core
    (s.dequeOf core ++ [(⟨u.job, u.launch, u.phase, k, u.uid, u.reg 30, pc, s.serial, none⟩ : DequeEntry)])).dequeUsed core

/-! ## `spawn`, `sync` and `done` (R232) -/

/-- Slots that wait for a deque that has performed its operation of a ck go on in the next one (R298). -/
def State.dequeSweep (s : State) : State := s.rejoinWhere fun _ w => w == .deque

/-- `spawn`: its checks, room in the deque, JN, Split and the push, with the child going on in the same slot. Every check is made before
an entry is spilled (R7). -/
def execSpawn (f : Fields) (s : State) : Host.Outcome State Fault Refusal :=
  issueInstr (.spawn f) (fun e u s =>
    let a := u.reg 30
    match (if a = 0 then .ok [] else s.jnCheck e u a true) with
    | .trap t => .trap s t
    | .ok _ =>
      s.afterDrain u true fun s =>
        s.jnTry e u a fun s =>
          if s.mustBorrow u then s.askBorrow u
          else if s.dequeBusy e.core then .wait s u .deque
          else
            match s.makeRoom e.core with
            | .full => .wait s u .dequeFull
            | .wait s w => .wait s u w
            | .ok s =>
              s.jnAdd e u a 1 fun s =>
                let w := s.split u
                .jump (w.1.pushEntry e.core w.2.1 e.npc w.2.2) w.2.1 (branchTarget u.pc e.f 22)) s

/-- `sync`: it waits until JN is 0. -/
def execSync (f : Fields) (s : State) : Host.Outcome State Fault Refusal :=
  issueInstr (.sync f) (fun e u s =>
    let a := u.reg 30
    if a = 0 then .ok s u
    else
      match s.jnCheck e u a false with
      | .trap t => .trap s t
      | .ok keys =>
        s.afterDrain u true fun s =>
          match s.performAtHome (s.who e.core u) keys false fun _ => none with
          | .wait s w => .wait s u w
          | .fail s cause _ aux => .trap s (accTrap cause a 8 0 aux)
          | .ok s old =>
            if natOfBytes old = 0 then .reply s u [] none else .wait s u (.sync a (keys.headD 0) e.npc)) s

/-- An idle worker starts its search (R234, R299). -/
def State.becomeIdle (s : State) (e : Env) (u : Ctx) : Res :=
  let u := { u with idle := true, backoff := 256, pc := e.npc }
  let s := (s.putUnit e.ref u).settleIdle u.launchId
  .wait (s.schedule (s.ck + 1) (.idleWorkerRound u.key)) u (.idleRound (s.ck + 1))

/-- The pop of `done`: the unit goes on with its youngest continuation, or becomes an idle worker. -/
def State.popWork (s : State) (e : Env) (u : Ctx) : Res :=
  match s.popEntry e.core u with
  | .ok s x => .jump s (({ u with popping := false }.setReg 30 x.frame).setWeight (some x.k)) (alignPc x.pc)
  | .wait s w => .wait s { u with popping := true } w
  | .none => s.becomeIdle e { u with popping := false }

/-- `done`: the frame's count, the unit's weight, then the youngest continuation of the unit. -/
def execDone (f : Fields) (s : State) : Host.Outcome State Fault Refusal :=
  issueInstr (.done f) (fun e u s =>
    let a := u.reg 30
    if u.popping then s.popWork e u
    else
      match (if a = 0 then .ok [] else s.jnCheck e u a true) with
      | .trap t => .trap s t
      | .ok _ =>
        s.afterDrain u true fun s =>
          s.jnAdd e u a (-1) fun s =>
            let w := s.returnOwn u .none
            w.1.popWork e w.2) s

/-! ## The package queue (R233, R300) -/

/-- The segment of an affinity key: the sum of its nine 7-bit groups, modulo 320. -/
def segmentOf (aff : Word) : Nat :=
  ((List.range 9).foldl (fun n i => n + (aff.extractLsb' (7 * i) 7).toNat) 0) % 320

def State.segAt (s : State) (seg : Nat) : List Task := FMap.get [] s.work.segs seg
def State.setSeg (s : State) (seg : Nat) (ts : List Task) : State :=
  s.modWork fun w => { w with segs := FMap.set [] w.segs seg ts }

/-- Steps 3 and 4 of `post` for a header: Split, then the wait until the segment accepts the task. A borrow keeps the header. -/
def State.postTask (s : State) (e : Env) (u : Ctx) (v : Nat) : Res :=
  if s.mustBorrow u then s.askBorrow { u with posting := some v }
  else
    let w := s.split { u with posting := none }
    let seg := segmentOf (BitVec.ofNat 64 (v / 2 ^ 128))
    .wait (w.1.scheduleFree 1 (.queueSegmentAccept seg)) w.2.1
      (.segmentFull seg ⟨u.phaseId, w.2.2, BitVec.ofNat 64 (v / 2 ^ 64), alignPc (BitVec.ofNat 64 v)⟩ e.npc)

/-- `post`: the header, JN, Split, then the wait until the segment accepts the task, in the order of R233. -/
def execPost (f : Fields) (s : State) : Host.Outcome State Fault Refusal :=
  issueInstr (.post f) (fun e u s =>
    match u.posting with
    | some v => s.postTask e u v
    | none =>
      s.launchRead e u (u.reg e.f.b.toNat) 32 fun s bs =>
        let v := natOfBytes bs
        let frame := BitVec.ofNat 64 (v / 2 ^ 64)
        match (if frame = 0 then .ok [] else s.jnCheck e u frame true) with
        | .trap t => .trap s t
        | .ok _ => s.afterDrain u true fun s => s.jnAdd e u frame 1 fun s => s.postTask e u v) s

/-- Every idle worker of a phase searches at once (R299). -/
def State.wakeIdle (s : State) (p : PhaseId) : State :=
  s.fab.slots.foldl (fun s e =>
    match e.2.mode, e.2.unit with
    | .waiting (.idleRound _) since, some u =>
      if u.phaseId = p then
        (s.setSlot e.1 { e.2 with mode := .waiting (.idleRound (s.ck + 1)) since }).schedule (s.ck + 1) (.idleWorkerRound u.key)
      else s
    | _, _ => s) s

/-- The oldest post to a segment whose poster has been ended. -/
def State.oldestPost (s : State) (seg : Nat) : Option Posted :=
  (s.work.posts.filter fun p => decide (p.seg = seg)).foldl (fun acc p =>
    match acc with
    | some q => if earlier (p.since, p.slot) (q.since, q.slot) then some p else acc
    | none => some p) none

/-- A segment takes a task, and the idle workers of its phase search at once (R299). -/
def State.takeIn (s : State) (seg : Nat) (task : Task) : State := (s.setSeg seg (s.segAt seg ++ [task])).wakeIdle task.phase

/-- A segment takes the post of an ended poster. -/
def State.takePost (s : State) (p : Posted) : State :=
  (s.modWork fun w => { w with posts := removeFirst (fun q => decide (q = p)) w.posts }).takeIn p.seg p.task

/-- QUEUE_SEGMENT_ACCEPT (R300): a segment with room takes the oldest post that waits for it, and the poster goes on. -/
def execQueueSegmentAccept (seg : Nat) (s : State) : Host.Outcome State Fault Refusal :=
  .next (if 4096 ≤ (s.segAt seg).length then s
    else
      match s.oldestWaiter (fun _ w => match w with
          | .segmentFull x _ _ => decide (x = seg)
          | _ => false), s.oldestPost seg with
      | some (k, sl), p =>
        match sl.mode with
        | .waiting (.segmentFull _ task npc) since =>
          match p with
          | some q =>
            if earlier (q.since, q.slot) (since, k) then s.takePost q else (s.complete k npc id).takeIn seg task
          | none => (s.complete k npc id).takeIn seg task
        | _ => s
      | none, some q => s.takePost q
      | none, none => s)

/-- Take the oldest task of a phase from the lowest-numbered segment that holds one. -/
def State.takeTask (s : State) (p : PhaseId) : Option (State × Task) :=
  match s.work.segs.find? fun e => e.2.any fun t => decide (t.phase = p) with
  | none => none
  | some (seg, ts) =>
    (ts.find? fun t => decide (t.phase = p)).map fun t =>
      ((s.setSeg seg (removeFirst (fun x => decide (x.phase = p)) ts)).scheduleFree 1 (.queueSegmentAccept seg), t)

/-! ## Idle workers (R234, R299) -/

/-- The ring a logical distance lies in: ring r ends at distance 2^(r − 1). -/
def ringOf (d : Nat) : Nat := if d = 0 then 0 else if d = 1 then 1 else Nat.log2 (d - 1) + 2

/-- The logical tiles of a unit's team in the order its rounds ask them: its own tile, then ring by ring, row-major in each. -/
def Ctx.askOrder (u : Ctx) : List (Nat × Nat) :=
  let dist (a b : Nat) : Nat := max a b - min a b
  let tiles := (List.range (u.tw * u.th)).map fun r => (r % u.tw, r / u.tw)
  let ring (t : Nat × Nat) : Nat := ringOf (max (dist t.1 u.lx) (dist t.2 u.ly))
  (List.range 9).flatMap fun r => tiles.filter fun t => decide (ring t = r)

/-- The cores a round asks: the worker's own, the other two of its tile, then those of the rings. -/
def State.askCores (s : State) (core : Nat) (u : Ctx) : List Nat :=
  core :: (u.askOrder.flatMap fun t =>
    match s.teamTile u (tileOf core) t.1 t.2 with
    | some tile => ([0, 1, 2].map (coreOf tile)).filter (· ≠ core)
    | none => [])

/-- The context of an idle worker that takes an entry (R234). -/
def Ctx.takeWork (u : Ctx) (pc frame : Word) (k : Nat) : Ctx :=
  ({ u with regs := [], pois := [], rows := [], tags := [], guards := 1, masks := [], pc := alignPc pc, idle := false,
            backoff := 256 }.setReg 30 frame).setWeight (some k)

/-- What a round of an idle worker finds. -/
inductive Found where
  | work (s : State) (pc frame : Word) (k : Nat)
  | none (s : State)
  | wait (s : State)
  deriving DecidableEq, Repr

/-- A round of an idle worker: the first continuation or task it finds; an ask that must wait ends it for this ck. -/
def State.findWork (s : State) (core : Nat) (u : Ctx) : Found :=
  match (s.askCores core u).findSome? fun c =>
      match s.stealEntry c u.phaseId with
      | .ok s x => some (Found.work s x.pc x.frame x.k)
      | .wait s _ => some (Found.wait s)
      | .none => Option.none with
  | some r => r
  | Option.none =>
    match s.takeTask u.phaseId with
    | some r => .work r.1 r.2.pc r.2.frame r.2.k
    | Option.none => .none s

def State.phaseQuiet (s : State) (p : PhaseId) : Bool :=
  match s.phase p with
  | some x => x.quiet
  | none => true

/-- IDLE_WORKER_ROUND (R299): the worker retires when its phase is quiet, takes what it finds, or waits twice as long; an ask that a
deque cannot serve in this ck is made again in the next one. A halted partition's workers are held (R337). -/
def execIdleWorkerRound (unit : Nat) (s : State) : Host.Outcome State Fault Refusal :=
  .next (match s.findUnit unit with
    | none => s
    | some (k, sl, u) =>
      match sl.mode with
      | .waiting (.idleRound t) since =>
        let r := s.passSafe u
        let (s, u) := if s.ck < t ∨ ¬ s.safeNow u then (s, u) else r
        if s.ck < t ∨ s.haltedTag u.tag = true then s
        else if s.phaseQuiet u.phaseId then s.retireUnit k { u with idle := false } .none
        else
          match s.findWork (k / 16) u with
          | .work s pc frame n =>
            s.setSlot k { s.slotAt k with unit := some (u.takeWork pc frame n), mode := .ready (s.ck + 1) }
          | .wait s =>
            (s.setSlot k { sl with unit := some u, mode := .waiting (.idleRound (s.ck + 1)) since }).schedule (s.ck + 1)
              (.idleWorkerRound unit)
          | .none s =>
            let next := s.ck + u.backoff
            (s.setSlot k { sl with unit := some { u with backoff := min 4096 (2 * u.backoff) },
                                   mode := .waiting (.idleRound next) since }).schedule next (.idleWorkerRound unit)
      | _ => s)

/-! ## Roots (R293, R294, R236) -/

/-- The value `quiet.wait` writes for a quiet phase. -/
def Phase.status (p : Phase) : Nat := if p.fault then 1 else if p.cancel then 2 else 0

def State.phaseStatus (s : State) (p : PhaseId) : Word :=
  match s.phase p with
  | some x => BitVec.ofNat 64 x.status
  | none => 0

/-- A quiet phase wakes its `quiet.wait`s and retires its idle workers (R294). -/
def State.quietNow (s : State) (p : PhaseId) : State :=
  let v := s.phaseStatus p
  s.fab.slots.foldl (fun s e =>
    match e.2.mode, e.2.unit with
    | .waiting (.quiet dst npc) _, some u => if u.phaseId = p then s.complete e.1 npc (·.setReg dst v) else s
    | .waiting (.idleRound _) _, some u => if u.phaseId = p then s.retireUnit e.1 { u with idle := false } .none else s
    | _, _ => s) s

/-- A return at a root: the weight, the mark. -/
def Phase.receive (p : Phase) (k : Nat) (m : Mark) : Phase :=
  { p with ret := p.ret + 2 ^ (p.depth - k), fault := p.fault || m == .fault, cancel := p.cancel || m == .cancel }

/-- The commands that wait for a phase to be quiet complete (R403): `QUIESCE`. -/
def State.quiesced (s : State) (p : PhaseId) : State :=
  s.firm.chans.foldl (fun s e =>
    match e.2.work with
    | some a =>
      if a.code = 0x0C ∧ a.begun ∧ a.quads.headD 0 = BitVec.ofNat 64 p.job ∧
          (a.quads.drop 1).headD 0 = BitVec.ofNat 64 p.handle then
        let c := { e.2 with result := some 0, reply := [s.phaseStatus p] };
        (s.modFirm fun f => { f with chans := FMap.set Channel.fresh f.chans e.1 c }).scheduleFree 1 (.commandComplete e.1)
      else s
    | none => s) s

/-- Whether an operation of a returning party has writes that its return of weight waits for: a copy's; a collective's, unless it waits
for participants and its launch is over; and the answer of a `grant`, which a party that ends with a mark does not get. An operation that
carries weight of its own is a party of its own. -/
def State.writesFor (s : State) (ret : WeightReturn) (o : Op) : Bool :=
  ofParty ret o.unit ⟨o.job, o.launch⟩ && decide (o.id < ret.upto) && o.weight.isNone && !o.dead && (match o.kind with
    | .coll _ _ _ scope .. => decide ((s.joined o).length = s.participants o scope) || (match s.launch ⟨o.job, o.launch⟩ with
      | some l => !l.state.ended
      | none => false)
    | .grant .. => decide (ret.mark = .none)
    | k => k.stoppable)

/-- Whether writes of a returning party are still to be performed: in a store buffer, in a parked image, or by an operation. -/
def State.writesLeft (s : State) (ret : WeightReturn) : Bool :=
  s.fab.sbuf.any (fun e => ofParty ret e.who.unit e.launch && decide (e.num < ret.upto)) ||
    (decide (ret.unit ≠ 0) && s.heldBefore ret.unit ret.upto) || s.work.ops.any (s.writesFor ret)

/-- ROOT_RETURN (R294): the returning party's writes on every path are performed first (R214, R269, R274). -/
def execRootReturn (ret : WeightReturn) (s : State) : Host.Outcome State Fault Refusal :=
  let again (s : State) : State := s.scheduleFree 1 (.rootReturn ret)
  .next (match s.drainList (s.fab.sbuf.filter fun e => ofParty ret e.who.unit e.launch && decide (e.num < ret.upto)) with
    | .blocked s => again s
    | .ok s | .failed s =>
      if s.writesLeft ret then again s else
      let s := s.modPhase ret.phase fun p => p.receive ret.exp ret.mark
      if s.phaseQuiet ret.phase then (s.quietNow ret.phase).quiesced ret.phase else s)

/-- ROOT_BORROW (R294): the holder gives back its last unit and takes a fresh half, or waits while the total would pass
2^128 − 1. -/
def execRootBorrow (unit : Nat) (s : State) : Host.Outcome State Fault Refusal :=
  .next (match s.findUnit unit with
    | none => s
    | some (k, sl, u) =>
      match sl.mode with
      | .waiting .borrow since =>
        let up := 2 ^ (s.depthOf u.phaseId - 1)
        let fits := match s.phase u.phaseId with
          | some p => decide (p.exp + up ≤ 2 ^ 128 - 1)
          | none => false
        if fits then
          let s := s.modPhase u.phaseId fun p =>
            { p with ret := p.ret + 1, exp := p.exp + up, borrows := min (2 ^ 32 - 1) (p.borrows + 1) }
          (s.setSlot k { s.slotAt k with unit := some (u.setWeight (some 1)) }).rejoin k
        else s.setSlot k { sl with mode := .waiting .borrowRefused since }
      | _ => s)

/-- `quiet.wait` (R236): the unit's own weight returns, then it waits for its phase. -/
def execQuietWait (f : Fields) (s : State) : Host.Outcome State Fault Refusal :=
  issueInstr (.quietWait f) (fun e u s =>
    match u.weight with
    | none =>
      if s.phaseQuiet u.phaseId then .ok s (u.setReg e.f.a.toNat (s.phaseStatus u.phaseId))
      else .wait s u (.quiet e.f.a.toNat e.npc)
    | some _ =>
      let w := s.returnOwn u .none
      .wait w.1 w.2 (.quiet e.f.a.toNat e.npc)) s

/-! ## The work distributor (R235) -/

/-- The next coordinate of a launch's distributor grid, each handed out once; then the end of work. -/
def State.nextCoord (s : State) (id : LaunchId) : State × Word :=
  match s.launch id with
  | some l =>
    if l.desc.den ∧ l.next < l.desc.dnx * l.desc.dny then
      (s.modLaunch id fun x => { x with next := x.next + 1 },
        BitVec.ofNat 64 (l.next / l.desc.dnx * 2 ^ 32 + l.next % l.desc.dnx))
    else (s, BitVec.allOnes 64)
  | none => (s, BitVec.allOnes 64)

/-- `grant` (R235). -/
def execGrant (f : Fields) (s : State) : Host.Outcome State Fault Refusal :=
  issueInstr (.grant f) (fun e u s =>
    let a := u.reg e.f.b.toNat &&& ~~~(7#64)
    let code := s.apertureOf u e.tile a
    if code ≠ 1 ∧ code ≠ 2 then .trap s (accTrap 7 a 8 0 none)
    else
      let c := s.nextCoord u.launchId
      let r := c.1.startOp e u (.grant a c.2) none false none
      .ok (r.1.scheduleFree 1 (.grantAnswer r.2.2)) r.2.1) s

/-- GRANT_ANSWER (R235): the answer is written, then the token. An ended unit's answer is not written. -/
def execGrantAnswer (op : Nat) (s : State) : Host.Outcome State Fault Refusal :=
  .next (match s.findOp op with
    | none => s
    | some o =>
      match o.kind with
      | .grant a c =>
        if o.dead then s
        else if (s.ctxOf o.unit).isNone then s.dropOp op
        else
          match s.engineWrite o a (bytesOfNat c.toNat 8) with
          | .ok s _ => s.endOp o 8 .none
          | .fail s code => s.endOp o (errToken code 0) .none
          | .stall s n => s.stallOp o n
      | _ => s)

end Sys2Proof.Machine
end

