-- ==== Sys2Proof/Machine/Contexts.lean ====
section
/-!
DEFINITION. Contexts and migration: `ctx.start`, `ctx.reap` and `ctx.part` (R239 to R241, R71), the end of a transfer and the
migration queue (R63, R64).
-/
namespace Sys2Proof.Machine

open Sys2Proof

/-! ## Sealed code (R118) -/

/-- Whether an address lies in a sealed-code extent of the tenant that owns a tile. -/
def State.inOwnCode (s : State) (tile : Nat) (pc : Word) : Bool :=
  let e := s.extentAt (extentOf pc.toNat)
  isGlobalKey pc.toNat && e.code && decide (e.state ≠ .unallocated) && decide (some e.owner = s.ownerOf tile)

/-! ## The migration queue (R64) -/

/-- The units in a tile's migration queue: slot key, extension, oldest first. -/
def State.migrationQueue (s : State) (tile : Nat) : List (Nat × Ext) :=
  let waiting := s.fab.slots.filterMap fun e => match e.2.mode, e.2.unit with
    | .waiting (.queue x) since, some _ => if tileOf (e.1 / 16) = tile then some ((since, e.1), x) else none
    | _, _ => none
  let insert (acc : List ((Nat × Nat) × Ext)) (a : (Nat × Nat) × Ext) : List ((Nat × Nat) × Ext) :=
    (acc.filter fun b => !earlier a.1 b.1) ++ [a] ++ acc.filter fun b => earlier a.1 b.1
  (waiting.foldl insert []).map fun a => (a.1.2, a.2)

/-- Whether a queued unit could use a slot of a core (R64): the launch unit and `ctx.start` place nothing there. -/
def State.keptForQueue (s : State) (core : Nat) : Bool :=
  (s.migrationQueue (tileOf core)).any fun q => (s.usableCores (q.1 / 16) q.2).contains core

/-- The lowest empty slot of a core in which a new unit may be placed. -/
def State.placeSlot (s : State) (core : Nat) : Option Nat := if s.keptForQueue core then none else s.emptySlot core

/-- Begin the transfer of a queued unit. -/
def State.grantSlot (s : State) (k core slot : Nat) : State :=
  match (s.slotAt k).unit with
  | some u => s.startMigration (refOfKey k) u core slot
  | none => s

/-- The oldest queued unit that an empty slot can serve, with the slot. -/
def State.nextGrant (s : State) (tile : Nat) : Option (Nat × Nat × Nat) :=
  (s.migrationQueue tile).findSome? fun q =>
    (s.usableCores (q.1 / 16) q.2).findSome? fun c => (s.emptySlot c).map fun n => (q.1, c, n)

/-- The queued units on a core that a queued unit could use, in the order of its search. -/
def State.wants (s : State) (queue : List (Nat × Ext)) (q : Nat × Ext) : List (Nat × Ext) :=
  (s.usableCores (q.1 / 16) q.2).flatMap fun c => queue.filter fun p => decide (p.1 / 16 = c)

/-- The cycle of queued units that holds the oldest possible unit (R64): two units, or three. Of two cycles that hold the same oldest unit,
DESIGN CHOICE, the one of two units goes first, then the first that the search finds (log entry 63). -/
def State.migrationCycle (s : State) (tile : Nat) : Option (List Nat) :=
  let queue := s.migrationQueue tile
  queue.findSome? fun a =>
    (s.wants queue a).findSome? fun b =>
      if (s.wants queue b).contains a then some [a.1, b.1]
      else
        (s.wants queue b).findSome? fun c =>
          if (s.wants queue c).contains a then some [a.1, b.1, c.1] else none

/-- Exchange the units of a cycle in one transfer: each takes the slot that the next one leaves. -/
def State.exchange (s : State) (ks : List Nat) : State :=
  (ks.zip (ks.drop 1 ++ ks.take 1)).foldl (fun s e =>
    match (s.slotAt e.1).unit with
    | some u => (s.setSlot e.1 { s.slotAt e.1 with mode := .migrating e.2 s.ck }).schedule (s.ck + 41)
        (.migrationTransferEnd u.key)
    | none => s) s

/-- Serve a tile's queue: empty slots first, then cycles. -/
def State.serveQueue (s : State) (tile : Nat) : Nat → State
  | 0 => s
  | fuel + 1 =>
    match s.nextGrant tile with
    | some (k, core, slot) => State.serveQueue (s.grantSlot k core slot) tile fuel
    | none =>
      match s.migrationCycle tile with
      | some ks => State.serveQueue (s.exchange ks) tile fuel
      | none => s

/-- Whether a tile is of a halted partition: its slots are held as they stand (R337). -/
def State.haltedTile (s : State) (tile : Nat) : Bool :=
  match s.ownerOf tile with
  | some tag => s.haltedTag tag
  | none => false

/-- MIGRATION_QUEUE_GRANT (R64). -/
def execMigrationQueueGrant (tile : Nat) (s : State) : Host.Outcome State Fault Refusal :=
  .next (if s.haltedTile tile then s else s.serveQueue tile 48)

/-- A unit arrives in a slot, eligible from this ck; its purposes may now be met (R65). -/
def State.arriveAt (s : State) (k : Nat) (u : Ctx) : State :=
  s.setSlot k { mode := .ready s.ck, issued := none, unit := some u }

/-- The transfers that end together with one out of a slot: the slots along an exchange. -/
def State.transferChain (s : State) (k : Nat) : Nat → List (Nat × Ctx × Nat)
  | 0 => []
  | fuel + 1 =>
    match (s.slotAt k).mode, (s.slotAt k).unit with
    | .migrating target _, some u => (k, u, target) :: State.transferChain s target fuel
    | _, _ => []

/-- A unit's buffered stores move with it and drain from the target core (R135); the buffer they leave has room again. -/
def State.moveStores (s : State) (k : Nat) (u : Ctx) (target : Nat) : State :=
  let sent (e : StoreEntry) : StoreEntry := { e with who := { e.who with core := target / 16 } }
  let mine (e : StoreEntry) : Bool := decide (e.who.unit = u.key)
  let moved := (s.fab.sbuf.filter mine).map sent
  let s := s.setBuffer (s.fab.sbuf.map fun e => if mine e then sent e else e)
  (moved.foldl (fun s e => s.scheduleFree 1 e.event) s).bufferChanged (k / 16)

/-- MIGRATION_TRANSFER_END (R63): the units of the transfer take their slots, with their buffered stores, and a source slot that
nothing moves into empties. A halted partition's units stay where they are (R337). -/
def execMigrationTransferEnd (unit : Nat) (s : State) : Host.Outcome State Fault Refusal :=
  .next (match s.findUnit unit with
    | none => s
    | some (k, _, u) =>
      if s.haltedTag u.tag then s else
      let chain := s.transferChain k 3
      let s := chain.foldl (fun s e => s.setSlot e.1 { s.slotAt e.1 with unit := none }) s
      let s := chain.foldl (fun s e => (s.arriveAt e.2.2 e.2.1).moveStores e.1 e.2.1 e.2.2) s
      chain.foldl (fun s e => if (s.slotAt e.1).unit.isNone then s.freeSlot e.1 e.2.1.tag else s) s)

/-! ## `ctx.start`, `ctx.reap` and `ctx.part` -/

/-- The unit `ctx.start` makes (R239). -/
def startedUnit (key : Nat) (u : Ctx) (core slot : Nat) (pc arg : Word) : Ctx :=
  let geo := mkGeo u.lx u.ly u.tw u.th u.units slot
  let uid := BitVec.ofNat 24 (2 ^ 23 + (u.ly * u.tw + u.lx) * 48 + kindOf core * 16 + slot)
  (Ctx.fresh key (alignPc pc) geo uid u.tag u.pid u.job u.launch u.phase true).setReg 0 arg

def execCtxStart (f : Fields) (s : State) : Host.Outcome State Fault Refusal :=
  issueInstr (.ctxStart f) (fun e u s =>
    if e.ref.slot ≠ 0 then .trap s (illegalTrap (.ctxStart e.f))
    else
      match s.placeSlot e.core with
      | none => .ok s (u.setReg e.f.a.toNat 0x8000000000000001)
      | some n =>
        let pc := u.reg e.f.b.toNat
        if !s.inOwnCode e.tile pc then .ok s (u.setReg e.f.a.toNat 0x8000000000000002)
        else
          let v := startedUnit s.serial u e.core n pc (u.reg e.f.c.toNat);
          let s := ({ s with serial := s.serial + 1 }).setSlot (16 * e.core + n) ⟨.ready (s.ck + 1), none, some v⟩
          .ok s (u.setReg e.f.a.toNat (BitVec.ofNat 64 n))) s

/-- End the image that is being restored into a slot (R238): its slot empties, and its launch counts it (R314). -/
def State.endRestoring (s : State) (k : Nat) (m : Mark) : State :=
  let mine (p : Pending) : Bool := decide (p.slot = some k)
  match s.work.launches.findSome? fun l => (l.queue.find? mine).bind fun p => p.image.map fun u => (l.id, p, u) with
  | some (id, p, u) =>
    let s := s.modLaunch id fun x => { x with queue := removeFirst mine x.queue }
    ((s.endImage u p.rpc.isSome m).freeSlot k u.tag).countUnit u
  | none => s.freeSlot k 0

/-- `ctx.reap` of a slot (R240): the unit in it, migrating from it, or migrating into it ends; 1 when it was empty. -/
def State.reap (s : State) (k : Nat) : State × Nat :=
  match (s.slotAt k).unit, (s.slotAt k).mode with
  | some _, _ => (s.endSlot k .cancel, 0)
  | none, .incoming source => (s.endSlot source .cancel, 0)
  | none, .restoring _ => (s.endRestoring k .cancel, 0)
  | none, _ => (s, 1)

def execCtxReap (f : Fields) (s : State) : Host.Outcome State Fault Refusal :=
  issueInstr (.ctxReap f) (fun e u s =>
    if e.ref.slot ≠ 0 then .trap s (illegalTrap (.ctxReap e.f))
    else
      let r := s.reap (16 * e.core + e.f.b.toNat)
      .ok r.1 (u.setReg e.f.a.toNat (BitVec.ofNat 64 r.2))) s

/-- The number of the first condition of R71 that fails on a tile, 0 when the tile is quiescent. DESIGN CHOICE: a window fill in
flight is no copy of condition 2, which counts the operations that units started and that can be stopped (log entry 38). -/
def State.quiescence (s : State) (tile : Nat) : Nat :=
  let cores := [0, 1, 2].map (coreOf tile)
  if cores.any fun c => s.othersOccupied c then 1
  else if cores.any (fun c => match (s.slotAt (16 * c)).unit with
      | some u => !u.pend.isEmpty
      | none => false) || s.work.ops.any (fun o => decide (o.tile = tile) && o.kind.stoppable) then 2
  else if cores.any fun c => (s.msgsOf c).any (·.cls ≠ 7) then 3
  else 0

/-- A context that keeps what lies within a share (R71). -/
def Ctx.trim (u : Ctx) (p : Part) : Ctx :=
  { u with
    regs := u.regs.filter fun e => decide (e.1 < p.scalars)
    pois := u.pois.filter fun n => decide (n < p.scalars)
    rows := u.rows.filter fun e => decide (e.1 < p.rows)
    tags := u.tags.filter fun e => decide (e.1 < p.rows)
    carries := u.carries.filter fun e => decide (e.1 < p.tiles)
    tileSat := u.tileSat.filter fun n => decide (n < p.tiles) }

/-- A tile is in a partition from now on; a change lets each core count from slot 0 again (R56). -/
def State.setPart (s : State) (tile : Nat) (p : Part) : State :=
  if s.partOf tile = p then s
  else s.modFab fun f => { f with
    parts := FMap.set .p16 f.parts tile p
    last := FMap.clear f.last (coreOf tile 0) (coreOf tile 0 + 3) }

/-- Change the partition of a quiescent tile (R71): nothing issues there for 64 ck, and each core counts from slot 0 again
(R56). DESIGN CHOICE (log entry 38): the tile's other cores issue nothing in the very ck of the change either, and a `ctx.part` to the
partition that the tile already has is a change too. -/
def State.repartition (s : State) (tile : Nat) (p : Part) : State :=
  let cores := [0, 1, 2].map (coreOf tile)
  let s := s.modFab fun f => { f with
    parts := FMap.set .p16 f.parts tile p
    hold := FMap.set 0 f.hold tile (s.ck + 65)
    last := f.last.filter fun e => !cores.contains e.1 }
  let s := cores.foldl (fun s c => match (s.slotAt (16 * c)).unit with
    | some u => s.setSlot (16 * c) { s.slotAt (16 * c) with unit := some (u.trim p) }
    | none => s) s
  match s.ownerOf tile with
  | some tag => s.schedule (s.ck + 65) (.launchPlacement (s.pidOf tag))
  | none => s

/-- `ctx.part` (R241, R71). Its own context's registers are cut to the new share as the others are. -/
def execCtxPart (f : Fields) (s : State) : Host.Outcome State Fault Refusal :=
  issueInstr (.ctxPart f) (fun e u s =>
    let n := e.f.b.toNat
    let q := s.quiescence e.tile
    if e.ref.slot ≠ 0 then .trap s (illegalTrap (.ctxPart e.f))
    else if q ≠ 0 then .ok s (u.setReg e.f.a.toNat (BitVec.ofNat 64 q))
    else if n ≠ 16 ∧ n ≠ 8 ∧ n ≠ 4 then .ok s (u.setReg e.f.a.toNat 4)
    else
      let p : Part := if n = 16 then .p16 else if n = 8 then .p8 else .p4
      .ok (s.repartition e.tile p) (if e.f.a.toNat < p.scalars then (u.trim p).setReg e.f.a.toNat 0 else u.trim p)) s

end Sys2Proof.Machine
end

