-- ==== Sys2Proof/Machine/StateSpace.lean ====
section
/-!
DEFINITION. The state-space block (R203 to R210): the control block, the values of a chunk, runs, `ssm.st` and `ssm.stat`.
-/
namespace Sys2Proof.Machine

open Sys2Proof

/-! ## Accesses of the block (R191, R192) -/

/-- The index of the first of several bytes that no range of a tenant reaches, for an access at a global address; none when
the access passes (R377). -/
def State.reachGap (s : State) (who : Who) (keys : List Nat) (write : Bool) : Option Nat :=
  if s.reaches who keys write then none
  else
    let k := keys.headD 0
    let ranges : List Range := match s.tenant who.tag with
      | some t => t.reach.filter fun (r : Range) =>
          decide (r.base ≤ k) && decide (k < r.limit) && (if write then r.wr else r.rd)
      | none => []
    some ((ranges.foldl (fun m r => max m r.limit) k) - k)

/-- The outcome of an access of the block. -/
inductive BlockAcc where
  | ok (s : State) (v : List Byte)
  | trap (s : State) (t : Trap)
  | wait (s : State) (w : Wait)
  deriving DecidableEq, Repr

/-- The pieces of n bytes at an address that fall in one 128-byte line each, as offsets with their lengths. -/
def linePieces (a : Word) (n : Nat) : List (Nat × Nat) :=
  let first := 128 - a.toNat % 128
  if n ≤ first then [(0, n)]
  else (0, first) :: (List.range ((n - first + 127) / 128)).map fun i => (first + 128 * i, min 128 (n - first - 128 * i))

/-- Aperture and reach of one piece of an access (R192): the trap names the first byte that fails. -/
def State.pieceKeys (s : State) (core : Nat) (u : Ctx) (a : Word) (n size : Nat) (write : Bool) : Checked :=
  let bad (i : Nat) : Checked := .trap (accTrap 7 (a + BitVec.ofNat 64 i) size 0 none)
  match s.checkAddr u (tileOf core) a (plainAcc n false) with
  | .trap _ => bad (((List.range n).find? fun i => (s.keyOf u (tileOf core) (a + BitVec.ofNat 64 i)).isNone).getD 0)
  | .ok keys =>
    if keys.any isDescKey then bad 0
    else
      match s.reachGap (s.who core u) keys write with
      | some i => bad i
      | none => .ok keys

/-- Aperture and reach of an access of n bytes, its elements having `size` bytes, line by line as an engine's bursts: the keys,
or the trap of the first piece that fails (R192, R377). -/
def State.blockKeys (s : State) (core : Nat) (u : Ctx) (a : Word) (n size : Nat) (write : Bool) : Checked :=
  (linePieces a n).foldl (fun acc p =>
    match acc with
    | .trap t => .trap t
    | .ok keys =>
      match s.pieceKeys core u (a + BitVec.ofNat 64 p.1) p.2 size write with
      | .trap t => .trap t
      | .ok more => .ok (keys ++ more)) (.ok [])

def State.blockRead (s : State) (core : Nat) (u : Ctx) (a : Word) (n size : Nat) : BlockAcc :=
  match s.blockKeys core u a n size false with
  | .trap t => .trap s t
  | .ok keys =>
    match s.performRead (s.who core u) keys with
    | .ok s v => .ok s v
    | .wait s w => .wait s w
    | .fail s cause i aux => .trap s (accTrap cause (a + BitVec.ofNat 64 i) size 0 aux)

def State.blockWrite (s : State) (core : Nat) (u : Ctx) (a : Word) (bs : List Byte) (size : Nat) : BlockAcc :=
  match s.blockKeys core u a bs.length size true with
  | .trap t => .trap s t
  | .ok keys =>
    match s.performWrite (s.who core u) 0 keys bs with
    | .ok s v => .ok s v
    | .wait s w => .wait s w
    | .fail s cause i aux => .trap s (accTrap cause (a + BitVec.ofNat 64 i) size 0 aux)

/-! ## The control block (R203, R204) -/

/-- The fields of a control block. -/
structure SsmBlock where
  n     : Nat
  p     : Nat
  l     : Nat
  yf    : Nat
  t     : Nat
  xa    : Word
  da    : Word
  ba    : Word
  ca    : Word
  ha    : Word
  wa    : Word
  ya    : Word
  tdone : Nat
  range : Bool
  inval : Bool
  mbz   : Bool
  deriving DecidableEq, Repr

/-- The fields of 128 bytes. -/
def ssmBlock (bs : List Byte) : SsmBlock :=
  let v := natOfBytes bs
  let f (lo len : Nat) : Nat := v / 2 ^ lo % 2 ^ len
  let w (lo : Nat) : Word := BitVec.ofNat 64 (f lo 64)
  { n := f 0 8, p := f 8 8, l := f 16 11, yf := f 32 4, t := f 64 32, xa := w 128, da := w 192, ba := w 256,
    ca := w 320, ha := w 384, wa := w 448, ya := w 512, tdone := f 576 32, range := f 609 1 == 1,
    inval := f 610 1 == 1, mbz := f 27 5 == 0 && f 36 28 == 0 && f 96 32 == 0 && f 611 413 == 0 }

/-- Bytes of an output element. -/
def SsmBlock.width (b : SsmBlock) : Nat := if b.yf = 6 then 4 else 2

/-- The first failing check of R204, 0 when every one passes. -/
def ssmCheck (ptr : Word) (b : SsmBlock) : Nat :=
  let odd (w : Word) (n : Nat) : Bool := w.toNat % n != 0
  if odd ptr 128 then 1
  else if b.n = 0 ∨ 64 < b.n ∨ b.p = 0 ∨ 64 < b.p then 2
  else if b.l = 0 ∨ 1024 < b.l ∨ b.t = 0 then 3
  else if b.yf ≠ 6 ∧ b.yf ≠ 9 then 4
  else if b.t < b.tdone then 5
  else if !b.mbz then 6
  else if odd b.xa 2 || odd b.da 2 || odd b.ba 2 || odd b.ca 2 || odd b.ha 4 || odd b.wa 4 || odd b.ya b.width then 7
  else 0

/-! ## The values of a chunk (R205, R206) -/

/-- The largest magnitude of Clamp80 in multiples of 2^−80. -/
def clampTop : Int := 2 ^ 160 - 1
def clamp80 (x : Int) : Int := max (-clampTop) (min x clampTop)

/-- Grid and Clamp80 of an exact value, in multiples of 2^−80, and whether RANGE is set. -/
def gridVal (x : Val) : Int × Bool :=
  match x with
  | .inf neg => (if neg then -clampTop else clampTop, true)
  | .fin .. =>
    let g := (roundInt x 80 0).1
    (clamp80 g, g == 0 || clamp80 g != g)
  | _ => (0, false)

/-- The exact product of values, without flags. -/
def mul2 (x y : Val) : Val := (mulVal x y).1

/-- A term e × B × x: an infinite e gives the clamp, or 0 for a zero product; none when B or x is NAR. -/
def ssmTerm (e b x : Val) : Option (Int × Bool) :=
  if b.isNar || x.isNar then none
  else
    match mul2 b x with
    | .zero _ => some (0, false)
    | bx => some (gridVal (mul2 e bx))

/-- f × v rounded into a format: an infinite f gives 0 for a zero v. -/
def ssmScale (f v : Val) (ty : Nat) : Nat × Flags :=
  match v with
  | .zero _ => roundVal ty (.zero false) 0
  | _ =>
    match mul2 f v with
    | .zero _ => roundVal ty (.zero false) 0
    | x => roundVal ty x 0

/-- The inputs of one step: d, B and C by n, x by p. -/
structure SsmStep where
  d : Val
  b : List Val
  c : List Val
  x : List Val
  deriving DecidableEq, Repr

/-- What a chunk has so far: the sum of its decays, whether a decay was NAR, the state I by n and p (none when invalid), the
outputs, the marks and the flags. -/
structure SsmRun where
  sum   : Int
  dead  : Bool
  state : List (List (Option Int))
  last  : Val
  out   : List Nat
  range : Bool
  inval : Bool
  flags : Flags
  deriving DecidableEq, Repr

/-- The dot product of C with a column of I, in multiples of 2^−80 × 2^−56; none when an entry is invalid. -/
def ssmDot (cs : List Val) (col : List (Option Int)) : Option Int :=
  dotProduct (cs.map fun c => if c.isNar then none else some (c.scaled (-56))) col

/-- The canonical invalid pattern of an output format (R206). -/
def invalidOut (yf : Nat) : Nat := if yf = 6 then ieeeNan 6 else 2 ^ 15

/-- E as an exact value; +infinity when it overflows. -/
def ssmExp (a : Int) : Val := decodeIeee 6 (expE a)
def isInf (x : Val) : Bool := match x with
  | .inf _ => true
  | _ => false

/-- One step of the recurrence on the exact I(t, n, p). -/
def ssmStep (yf : Nat) (r : SsmRun) (st : SsmStep) : SsmRun :=
  let q := (roundInt st.d 32 0).1
  let dq := clamp64 q
  let sum := r.sum + dq
  let big := clamp64 sum
  let e := ssmExp (clamp64 (-big))
  let f := ssmExp big
  let dead := r.dead || st.d.isNar
  let terms := st.b.map fun b => st.x.map fun x => ssmTerm e b x
  let state := (r.state.zip terms).map fun row => (row.1.zip row.2).map fun c =>
    match c.1, c.2 with
    | some i, some t => some (i + t.1)
    | _, _ => none
  let range := dq != q || big != sum || clamp64 (-big) != -big || isInf e || isInf f ||
    terms.any (fun row => row.any fun t => match t with
      | some x => x.2
      | none => false) ||
    state.any (fun row => row.any fun c => match c with
      | some i => clamp80 i != i
      | none => false)
  let ys := (List.range st.x.length).map fun p =>
    match (if dead then none else ssmDot st.c (state.map fun row => (row.getD p none).map clamp80)) with
    | some dot => some (ssmScale f (valOfInt dot (-136)) yf)
    | none => none
  { sum := sum, dead := dead, state := state, last := f,
    out := r.out ++ ys.map fun y => match y with
      | some v => v.1
      | none => invalidOut yf,
    range := r.range || range, inval := r.inval || ys.any (·.isNone),
    flags := ys.foldl (fun acc y => match y with
      | some v => acc ||| v.2
      | none => acc) r.flags }

/-- The run before the first step of a chunk, from the state array as binary32 patterns: a NaN or an infinity is invalid. -/
def ssmStart (n p : Nat) (h : List Nat) : SsmRun :=
  let cells := (List.range n).map fun i => (List.range p).map fun j =>
    match decodeIeee 6 (h.getD (i * p + j) 0) with
    | .nan _ | .inf _ | .nar => (none : Option (Int × Bool))
    | x => some (gridVal x)
  { sum := 0, dead := false, state := cells.map fun row => row.map fun c => c.map (·.1), last := .fin false 1 0 false,
    out := [],
    range := cells.any fun row => row.any fun c => match c with
      | some x => x.2
      | none => false,
    inval := false, flags := 0 }

/-- The boundary state at the end of a chunk, as binary32 patterns with their flags. -/
def ssmEnd (r : SsmRun) : List (Option (Nat × Flags)) :=
  r.state.flatMap fun row => row.map fun c =>
    match (if r.dead then none else c) with
    | some i => some (ssmScale r.last (valOfInt (clamp80 i) (-80)) 6)
    | none => none

/-- A number of bytes as elements of w bytes each. -/
def elements (w : Nat) (n : Nat) (bs : List Byte) : List Nat :=
  (List.range n).map fun i => natOfBytes ((bs.drop (w * i)).take w)

/-- The steps of a chunk from its arrays. -/
def ssmSteps (b : SsmBlock) (len : Nat) (xs ds bs cs : List Byte) : List SsmStep :=
  let tf (l : List Byte) (lo n : Nat) : List Val := (elements 2 n (l.drop (2 * lo))).map (decodeTF 9)
  (List.range len).map fun t =>
    ⟨((tf ds t 1).headD .nar), tf bs (t * b.n) b.n, tf cs (t * b.n) b.n, tf xs (t * b.p) b.p⟩

/-- Read several arrays in order: address, bytes, element size. -/
def State.blockReads (s : State) (core : Nat) (u : Ctx) : List (Word × Nat × Nat) → BlockAcc × List (List Byte)
  | [] => (.ok s [], [])
  | (a, n, size) :: rest =>
    match s.blockRead core u a n size with
    | .ok s v =>
      let r := State.blockReads s core u rest
      (r.1, v :: r.2)
    | r => (r, [])

/-- Whether several arrays can be written: the first that may not traps, and the first that must wait waits, before any byte of one is
written. -/
def State.blockReady (s : State) (core : Nat) (u : Ctx) : List (Word × List Byte × Nat) → BlockAcc
  | [] => .ok s []
  | (a, bs, size) :: rest =>
    match s.blockKeys core u a bs.length size true with
    | .trap t => .trap s t
    | .ok keys =>
      match s.mayAccess (s.who core u) keys true true (.store 0) with
      | .ok s _ => State.blockReady s core u rest
      | .wait s w => .wait s w
      | .fail s cause i aux => .trap s (accTrap cause (a + BitVec.ofNat 64 i) size 0 aux)

/-- Write the outputs of a chunk, then its boundary state, then its quad (R209), once all three can be written. The state is not replaced
when the quad cannot be: a later run reads it again (R208). -/
def State.blockCommit (s : State) (core : Nat) (u : Ctx) (outs wa quad : Word × List Byte × Nat) : BlockAcc :=
  match s.blockReady core u [outs, wa, quad] with
  | .ok s _ =>
    match s.blockWrite core u outs.1 outs.2.1 outs.2.2 with
    | .ok s _ =>
      match s.blockWrite core u quad.1 quad.2.1 quad.2.2 with
      | .ok .. =>
        match s.blockWrite core u wa.1 wa.2.1 wa.2.2 with
        | .ok s _ => s.blockWrite core u quad.1 quad.2.1 quad.2.2
        | r => r
      | r => r
    | r => r
  | r => r

/-- What a committed chunk leaves: the state, TDONE, whether T is reached, and the flags. -/
structure Committed where
  state : State
  tdone : Nat
  full  : Bool
  flags : Flags
  deriving DecidableEq, Repr

/-- Read the state at the start of a chunk (R205): the array at HA for TDONE = 0, else the one at WA. -/
def State.readState (s : State) (core : Nat) (u : Ctx) (b : SsmBlock) : BlockAcc :=
  s.blockRead core u (if b.tdone = 0 then b.ha else b.wa) (4 * b.n * b.p) 4

/-- Compute and commit one chunk of a block from the state `hs` at its start (R205 to R209): outputs, then the boundary state, then the
quad that holds TDONE, DONE, RANGE and INVALID. -/
def State.ssmChunk (s : State) (core : Nat) (u : Ctx) (ptr : Word) (b : SsmBlock) (hs : List Byte) : Except BlockAcc Committed :=
  let len := min b.l (b.t - b.tdone)
  let off (base : Word) (elem : Nat) : Word := base + BitVec.ofNat 64 (elem * b.tdone)
  match s.blockReads core u [(off b.da 2, 2 * len, 2), (off b.ba (2 * b.n), 2 * len * b.n, 2),
      (off b.xa (2 * b.p), 2 * len * b.p, 2), (off b.ca (2 * b.n), 2 * len * b.n, 2)] with
  | (.ok s _, [ds, bs, xs, cs]) =>
    let r := (ssmSteps b len xs ds bs cs).foldl (ssmStep b.yf) (ssmStart b.n b.p (elements 4 (b.n * b.p) hs))
    let fin := ssmEnd r
    let tdone := b.tdone + len
    let quad := tdone + (if tdone = b.t then 2 ^ 32 else 0) + (if b.range || r.range then 2 ^ 33 else 0) +
      (if b.inval || r.inval || fin.any (·.isNone) then 2 ^ 34 else 0)
    let w := b.width
    match s.blockCommit core u (off b.ya (w * b.p), r.out.flatMap fun y => bytesOfNat y w, w)
        (b.wa, fin.flatMap (fun c => bytesOfNat (match c with
          | some v => v.1
          | none => ieeeNan 6) 4), 4) (ptr + 72, bytesOfNat quad 8, 8) with
    | .ok s _ => .ok ⟨s, tdone, decide (tdone = b.t), fin.foldl (fun acc c => match c with
        | some v => acc ||| v.2
        | none => acc) r.flags⟩
    | r => .error r
  | (r, _) => .error r

/-! ## Instructions -/

/-- The answer of `ssm.run` and `ssm.stat` for code k; code 1 is also a pointer that is not valid (R208, R210). -/
def ssmCode (k : Nat) : Word := BitVec.ofNat 64 (2 ^ 63 + k)

/-- Read the bytes of a control block for an instruction. -/
def State.readBytes (s : State) (e : Env) (u : Ctx) (ptr : Word) (rest : State → List Byte → Res) : Res :=
  s.afterDrain u true fun s =>
    match s.blockRead e.core u ptr 128 128 with
    | .trap s t => .trap s t
    | .wait s w => .wait s u w
    | .ok s bs => rest s bs

/-- Read a control block for an instruction. -/
def State.readBlock (s : State) (e : Env) (u : Ctx) (ptr : Word) (rest : State → SsmBlock → Res) : Res :=
  s.readBytes e u ptr fun s bs => rest s (ssmBlock bs)

def execSsmCfg (f : Fields) (s : State) : Host.Outcome State Fault Refusal :=
  issueInstr (.ssmCfg f) (fun e u s =>
    let ptr := u.reg e.f.b.toNat
    s.readBlock e u ptr fun s b =>
      let k := ssmCheck ptr b
      .reply s (if k = 0 then { u with ssmPtr := some ptr } else u) [.scalar e.f.a.toNat (BitVec.ofNat 64 k)] none) s

/-- Whether the next chunk of a block is computed in the matrix form (R207). -/
def SsmBlock.matrix (b : SsmBlock) : Bool := decide (16 ≤ min b.l (b.t - b.tdone))

/-- Start a chunk of the block that has been read, from the state at its start: its end is at a time that is not promised; the matrix
form occupies the array as one operation in issue order (R207, R199). -/
def State.startChunk (s : State) (core : Nat) (bs h0 : List Byte) : State :=
  let a := s.arrayAt core
  let matrix := (ssmBlock bs).matrix
  let due := (if matrix then max (s.ck + 1) (a.lastE + 1) else s.ck + 1) + Config.latency s.freeCtr
  let s := { s with freeCtr := s.freeCtr + 1 }
  (s.setArray core { a with block := bs, h0 := h0, lastE := if matrix then due else a.lastE }).schedule due (.ssmChunkCommit core)

/-- The slots that wait for a core's engine go on (R208). -/
def State.wakeEngine (s : State) (core : Nat) : State :=
  s.rejoinWhere fun k w => decide (k / 16 = core) && w == .ssmEngine

/-- The engine is free again (R208). -/
def State.freeEngine (s : State) (core : Nat) : State :=
  (s.setArray core { s.arrayAt core with holder := none, ran := 0, block := [], h0 := [] }).wakeEngine core

/-- A unit's `ssm.run` ends without the engine: it leaves the waiting line (R208). -/
def State.leaveLine (s : State) (core key : Nat) : State :=
  let a := s.arrayAt core
  if a.waiters.contains key then
    let s := s.setArray core { a with waiters := a.waiters.filter (· ≠ key) }
    if a.holder.isNone then s.wakeEngine core else s
  else s

/-- A result that ends an `ssm.run` takes its unit out of the waiting line (R208). -/
def Res.leaveLine (core key : Nat) (r : Res) : Res :=
  match r with
  | .reply s u ws w => .reply (s.leaveLine core key) u ws w
  | .trap s t => .trap (s.leaveLine core key) t
  | .late s => .late (s.leaveLine core key)
  | r => r

/-- `ssm.run` (R208). -/
def execSsmRun (f : Fields) (s : State) : Host.Outcome State Fault Refusal :=
  issueInstr (.ssmRun f) (fun e u s =>
    let dst := e.f.a.toNat
    match u.ssmPtr with
    | none => .ok s (u.setReg dst (ssmCode 1))
    | some ptr =>
      Res.leaveLine e.core u.key <| s.readBytes e u ptr fun s bs =>
        let b := ssmBlock bs
        let k := ssmCheck ptr b
        if k ≠ 0 then .reply s u [.scalar dst (ssmCode k)] none
        else if b.tdone = b.t then .reply s u [.scalar dst (BitVec.ofNat 64 b.tdone)] none
        else
          let a := s.arrayAt e.core
          let line (s : State) (w : Wait) : Res :=
            let ws := if a.waiters.contains u.key then a.waiters else a.waiters ++ [u.key]
            .wait (s.setArray e.core { s.arrayAt e.core with waiters := ws }) u w
          if a.holder.isNone ∧ (a.waiters.head? = none ∨ a.waiters.head? = some u.key) then
            if b.matrix && s.planesWait e.ref.key (.ssmRun e.f) then line s .planeLoad
            else
              match s.readState e.core u b with
              | .trap s t => .trap s t
              | .wait s w => line s w
              | .ok s h0 =>
                let s := s.setArray e.core { s.arrayAt e.core with
                  holder := some u.key, waiters := a.waiters.filter (· ≠ u.key), ran := 0 }
                .wait (s.startChunk e.core bs h0) u (.ssmRun (u.reg e.f.b.toNat).toNat dst e.npc)
          else line s .ssmEngine) s

/-- The end of a run: its result is written and the slot rejoins. -/
def State.endRun (s : State) (core k : Nat) (npc : Word) (dst : Nat) (v : Word) : State :=
  (s.complete k npc fun u => u.setReg dst v).freeEngine core

/-- What a chunk waits for: it goes on when the wait ends, and an access that waits for an extent has passed its reach check (R250). -/
def State.chunkWaits (s : State) (core unit : Nat) (w : Wait) : State :=
  (s.setArray core { s.arrayAt core with chunkWait := some w }).modUnit unit fun v => { v with pass := w.passed v.pass }

/-- A failure inside a run traps at the `ssm.run`, and the engine is free (R208). -/
def State.failRun (s : State) (core k : Nat) (u : Ctx) (t : Trap) : State :=
  (s.freeEngine core).takeTrap (refOfKey k) { u with pass := [] } ⟨t, u.pc, u.pc⟩

/-- Before a later chunk, the block is read and checked again (R208), and the state at the start of the chunk is read. A read that waits
keeps the engine. -/
def State.nextChunk (s : State) (core k : Nat) (u : Ctx) (ptr : Word) (dst : Nat) (npc : Word) : State :=
  let waits (s : State) (w : Wait) : State := (s.setArray core { s.arrayAt core with block := [] }).chunkWaits core u.key w
  match s.blockRead core u ptr 128 128 with
  | .ok s bs =>
    let b := ssmBlock bs
    let code := ssmCheck ptr b
    if code ≠ 0 then s.endRun core k npc dst (ssmCode code)
    else if b.tdone = b.t then s.endRun core k npc dst (BitVec.ofNat 64 b.tdone)
    else
      match s.readState core u b with
      | .ok s h0 => (s.modUnit u.key fun v => { v with pass := [] }).startChunk core bs h0
      | .trap s t => s.failRun core k u t
      | .wait s w => waits s w
  | .trap s t => s.failRun core k u t
  | .wait s w => waits s w

/-- After a commit: the run ends, the unit is taken, or the next chunk starts (R208). -/
def State.afterCommit (s : State) (core k : Nat) (ptr : Word) (limit dst : Nat) (npc : Word) (c : Committed) : State :=
  match (s.slotAt k).unit with
  | none => s
  | some u =>
    let a := s.arrayAt core
    let ran := a.ran + 1
    let s := s.setArray core { a with ran := ran }
    if c.full ∨ (limit ≠ 0 ∧ limit ≤ ran) then s.endRun core k npc dst (BitVec.ofNat 64 c.tdone)
    else if !u.purposes.isEmpty && s.safeNow u then
      match (s.freeEngine core).takeDrained (refOfKey k) u with
      | (s, true) => if u.takePurpose.isSome then s else s.rejoin k
      | (s, false) => s.rejoin k
    else
      (if s.safeNow u then s.passRevocations u.key else s).nextChunk core k u ptr dst npc

/-- SSM_CHUNK_COMMIT (R209): the running chunk of a core commits, with the block as it was read before the chunk (R382); a wait keeps it
running until it is over, and a failure traps at the `ssm.run`. A run that waited to read its block reads it again. A slot of a halted
partition is held (R337). -/
def execSsmChunkCommit (core : Nat) (s : State) : Host.Outcome State Fault Refusal :=
  .next (match (s.arrayAt core).holder.bind s.findUnit with
    | some (k, sl, u) =>
      match sl.mode, u.ssmPtr with
      | .waiting (.ssmRun limit dst npc) _, some ptr =>
        let stop (r : BlockAcc) : State := match r with
          | .trap s t => s.failRun core k u t
          | .wait s w => s.chunkWaits core u.key w
          | .ok s _ => s
        if s.haltedTag u.tag then s else
        match (s.arrayAt core).block with
        | [] => s.nextChunk core k u ptr dst npc
        | bs =>
          match s.ssmChunk core u ptr (ssmBlock bs) (s.arrayAt core).h0 with
          | .ok c => (c.state.modUnit u.key fun v => { v.setFlags c.flags with pass := [] }).afterCommit core k ptr limit dst npc c
          | .error r => stop r
      | _, _ => s
    | none => s)

/-- `ssm.st` (R210). -/
def execSsmSt (f : Fields) (s : State) : Host.Outcome State Fault Refusal :=
  issueInstr (.ssmSt f) (fun e u s =>
    match u.ssmPtr with
    | none => .ok s u
    | some ptr =>
      s.readBlock e u ptr fun s b =>
        if ssmCheck ptr b ≠ 0 then .reply s u [] none
        else
          match s.readState e.core u b with
          | .trap s t => .trap s t
          | .wait s w => .wait s u w
          | .ok s bs =>
            let ty := e.f.ty.toNat
            let w := laneWidth ty / 8
            let vs := (elements 4 (b.n * b.p) bs).map fun v =>
              let x := decodeIeee 6 v
              let r := roundVal ty x 0
              (r.1, sigFlags x ||| r.2)
            match s.blockWrite e.core u (u.reg e.f.b.toNat) (vs.flatMap fun v => bytesOfNat v.1 w) w with
            | .trap s t => .trap s t
            | .wait s x => .wait s u x
            | .ok s _ => .reply s u [.flags (vs.foldl (fun acc v => acc ||| v.2) 0)] none) s

/-- `ssm.stat` (R210). -/
def execSsmStat (f : Fields) (s : State) : Host.Outcome State Fault Refusal :=
  issueInstr (.ssmStat f) (fun e u s =>
    match u.ssmPtr with
    | none => .ok s (u.setReg e.f.a.toNat (ssmCode 1))
    | some ptr =>
      s.afterDrain u true fun s =>
        match s.blockRead e.core u (ptr + 72) 8 8 with
        | .trap s t => .trap s t
        | .wait s w => .wait s u w
        | .ok s bs => .reply s u [.scalar e.f.a.toNat (BitVec.ofNat 64 (natOfBytes bs))] none) s

end Sys2Proof.Machine
end

