-- ==== Sys2Proof/Machine/Barrel.lean ====
section
/-!
DEFINITION. The barrel (R55 to R60, R66, R67, R70): eligibility and the choice of a slot, fetching (R118, R391), replies, the
store buffer's events, and the timers of `sleep` and `realign`.
-/
namespace Sys2Proof.Machine

open Sys2Proof

/-! ## Fetching (R66, R118, R391) -/

/-- The key of a line in a tile's instruction cache. -/
def icacheKey (tile line : Nat) : Nat := tile * 2 ^ 50 + line

/-- A line is in a tile's instruction cache from now on; a full cache of 256 lines (R13) gives up one that is not fixed. -/
def State.icacheInstall (s : State) (tile line : Nat) : State :=
  let key := icacheKey tile line
  let held := s.fab.icache.filter fun k => decide (k / 2 ^ 50 = tile)
  if held.contains key then s
  else if held.length < 256 then s.modFab fun f => { f with icache := NSet.insert f.icache key }
  else
    let old := held.getD (Config.victim s.freeCtr % 256) key
    ({ s with freeCtr := s.freeCtr + 1 }).modFab fun f => { f with icache := NSet.insert (NSet.erase f.icache old) key }

/-- A fetch asks the port of its cluster for a line (R66): a request within 8 ck of another one for the line, for the same owner, is
served by the same read, which is broadcast, and comes when the window has closed. That the window opens with the first request is
read from the rule (log entry 58). -/
def State.requestCode (s : State) (tile line : Nat) : State :=
  let joins (a : Nat × Instr) : Bool := match a.2 with
    | .icacheFill fill => decide (fill.line = line) && fill.demand && decide (s.ck < fill.asked + 8) &&
        fill.tiles.any fun t => decide (pcluOf t = pcluOf tile) && decide (s.ownerOf t = s.ownerOf tile)
    | _ => false
  let join (a : Nat × Instr) : Nat × Instr := match a.2 with
    | .icacheFill fill => (a.1, .icacheFill { fill with tiles := NSet.insert fill.tiles tile })
    | _ => a
  if s.agenda.any joins then { s with agenda := modifyFirst joins join s.agenda }
  else s.scheduleFree 8 (.icacheFill ⟨line, [tile], s.ck, true, false⟩)

/-- What a fetch makes of one code line: it is in the tile's instruction cache; or the slot traps or waits. -/
inductive CodeLine where
  | here
  | trap (s : State) (t : Trap)
  | wait (s : State) (w : Wait)
  deriving DecidableEq, Repr

/-- A line that a slot fetches from, for an instruction at an address. Outside the tile's own sealed code no word is fetched, and the AUX of
the illegal-instruction trap, which R332 makes the first word, is 0 (R118): DESIGN CHOICE, log entry 63. -/
def State.codeLine (s : State) (tile : Nat) (uid : BitVec 24) (pc : Word) (line : Nat) : CodeLine :=
  let n := extentOf (line * 128)
  let tag := (s.ownerOf tile).getD 0
  if !s.inOwnCode tile (BitVec.ofNat 64 (line * 128)) then .trap s { cause := 1, addr := 0 }
  else
    match (s.extentAt n).state with
    | .unallocated => .trap s { cause := 1 }
    | .fenced => .trap s (accTrap 8 pc 4 0 none)
    | .absent => .wait (s.requestExtent n (dieOf tile) false) (.extent n)
    | .moving => .wait s (.extent n)
    | .present =>
      if s.fab.icache.contains (icacheKey tile line) then .here
      else
        let s := (s.setExtent n { s.extentAt n with touched := s.ck }).lookUp (dieOf tile) n
        match s.waysAll (s.reachedWay tag line 0).toList with
        | .ok s _ =>
          match s.openHome ⟨tile, coreOf tile 0, 0, uid, tag, 0⟩ line 0 0 with
          | .fail s cause _ _ => .trap s (accTrap cause pc 4 0 none)
          | r => .wait (r.state.requestCode tile line) (.icache line)
        | r => .wait r.state (match r with
          | .wait _ w => w
          | _ => .icache line)

/-- The bytes of memory at an address, as a fetch from present lines reads them. -/
def State.codeBytes (s : State) (pc : Word) (n : Nat) : List Byte :=
  (List.range n).map fun i => s.byteAt (pc.toNat + i)

/-- The words of the instruction at an address, by the length in its first word (R72). -/
def State.codeWords (s : State) (pc : Word) : Nat :=
  (formOf ((BitVec.ofNat 32 (natOfBytes (s.codeBytes pc 1))).extractLsb' 0 2)).words

/-- What the fetch of a slot's instruction gives: the decoder's answer, or a state in which the slot has trapped or waits. -/
inductive Fetched where
  | code (d : Decoded)
  | stop (s : State)
  deriving DecidableEq, Repr

/-- Steps 1 and 2 of R93 as the first word decides them: its major is assigned, and it takes the length. -/
def headOk (w : IWord) : Bool :=
  match majorOf (w.extractLsb' 2 8).toNat with
  | some m => m.allows (formOf (w.extractLsb' 0 2))
  | none => false

/-- Fetch the instruction of a unit in a slot: its first word, and the words after it once the first word is found good and they lie in
its extent (R73, R93). -/
def State.fetch (s : State) (r : SlotRef) (u : Ctx) : Fetched :=
  let tile := tileOf r.core
  let stop (c : CodeLine) (next : Fetched) : Fetched :=
    match c with
    | .here => next
    | .trap s t => .stop (s.takeTrap r u ⟨t, u.pc, u.pc⟩)
    | .wait s w => .stop (s.putMode r u (.waiting w s.ck))
  stop (s.codeLine tile u.uid u.pc (u.pc.toNat / 128))
    (let n := 4 * s.codeWords u.pc
     let last := (u.pc.toNat + n - 1) / 128
     let ready := Fetched.code (decodeBytes (s.codeBytes u.pc n))
     if !headOk (BitVec.ofNat 32 (natOfBytes (s.codeBytes u.pc 4))) || decide (extentOf (128 * last) ≠ extentOf u.pc.toNat) then
       .code .illegal
     else if last = u.pc.toNat / 128 then ready else stop (s.codeLine tile u.uid u.pc last) ready)

/-- The slot whose instruction runs next fetches it (steps 1 and 2 of R93): the instruction, or the state in which the slot
traps, waits or migrates instead. -/
def State.fetchIssuing (s : State) : Instr ⊕ State :=
  match s.issuing with
  | none => .inr s
  | some r =>
    match s.unitAt r with
    | none => .inr { s with issuing := none }
    | some u =>
      match s.fetch r u with
      | .stop s => .inr { s with issuing := none }
      | .code (.instr i) => .inl i
      | .code d =>
        let s := { s with issuing := none }
        let word := natOfBytes (s.codeBytes u.pc 4)
        let trap := s.takeTrap r u ⟨{ cause := 1, aux := BitVec.ofNat 64 word }, u.pc, u.pc⟩
        match d with
        | .badFn e => if kindLists (kindOf r.core) e then .inr trap else .inr (s.migrate r u e)
        | _ => .inr trap

/-- ICACHE_FILL (R66, R389, R391): a line is opened and arrives in the instruction caches it was read for, and the slots that wait for
it issue again. A line with an uncorrectable error is marked and not installed. -/
def execIcacheFill (fill : CodeFill) (s : State) : Host.Outcome State Fault Refusal :=
  let base := fill.line * 128
  let type := if fill.demand then 2 else 3
  let tag := s.ownerOf (fill.tiles.headD 0)
  let s := if fill.uncorr && !s.poisoned fill.line then
      (s.setPoison fill.line).logEvent type 1 base 0 0 tag
    else (s.findLine fill.line 1 ⟨0, tag⟩ type).1
  let install (s : State) (tile : Nat) : State :=
    if (s.extentAt (extentOf base)).state = .present then
      match s.openHome ⟨tile, coreOf tile 0, 0, 0, (s.ownerOf tile).getD 0, 0⟩ fill.line 0 0 with
      | .ok s _ => s.icacheInstall tile fill.line
      | r => r.state
    else s
  .next ((fill.tiles.foldl install s).rejoinWhere fun k w => match w with
    | .icache l => decide (l = fill.line) && fill.tiles.contains (tileOf (k / 16))
    | _ => false)

/-! ## Issue (R56 to R58) -/

/-- The slot that issued last; the highest slot of the partition at first (R56). -/
def State.lastOf (s : State) (core : Nat) : Nat :=
  match FMap.get 0 s.fab.last core with
  | 0 => (s.partOf (tileOf core)).contexts - 1
  | n + 1 => n

def State.setLast (s : State) (core slot : Nat) : State :=
  s.modFab fun f => { f with last := FMap.set 0 f.last core (slot + 1) }

/-- Whether a core issues at all: it is not fenced, its tile is not held by a repartition (R71), and its tenant's partition is
not halted (R337). -/
def State.coreIssues (s : State) (core : Nat) : Bool :=
  !s.fab.fenced.contains core && decide (FMap.get 0 s.fab.hold (tileOf core) ≤ s.ck) &&
    (match (s.ownerOf (tileOf core)).bind s.tenant with
      | some t => !t.halted
      | none => false)

/-- The next instruction of a slot is a vector instruction: it waits in the ck after a TF32 vector operation (R57). -/
def State.nextIsVector (s : State) (r : SlotRef) (u : Ctx) : Bool :=
  match s.fetch r u with
  | .code (.instr i) => (opSpec i).ext == .vec || (opSpec i).ext == .conv
  | _ => false

/-- A slot is eligible in this ck (R56). -/
def State.eligible (s : State) (r : SlotRef) : Bool :=
  let sl := s.slotAt r.key
  match sl.mode, sl.unit with
  | .ready t, some u =>
    decide (t ≤ s.ck) &&
      (match sl.issued with
        | some i => decide (i + 8 ≤ s.ck)
        | none => true) &&
      !(decide (FMap.get none s.fab.vbusy r.core = some s.ck) && s.nextIsVector r u)
  | _, _ => false

/-- The slot a core issues from in this ck: the first eligible one after the last (R56). -/
def State.pickSlot (s : State) (core : Nat) : Option Nat :=
  let n := (s.partOf (tileOf core)).contexts
  if s.coreIssues core then
    ((List.range n).map fun i => (s.lastOf core + i + 1) % n).find? fun c => s.eligible ⟨core, c⟩
  else none

/-- Whether the fetch of a slot must wait for a line or an extent. -/
def State.fetchWaits (s : State) (r : SlotRef) (u : Ctx) : Option State :=
  match s.fetch r u with
  | .stop t =>
    (match (t.slotAt r.key).mode with
      | .waiting .. => some t
      | _ => none)
  | _ => none

/-- BARREL_ISSUE (R56): the core's chosen slot runs its instruction in the next step. A slot whose earlier store has failed
parks instead (R136), as does one whose image held a trap (R343), and a slot that must wait for its line leaves the rotation at the fetch (R59): neither has issued, and the core
looks again. -/
def execBarrelIssue (core : Nat) (s : State) : Host.Outcome State Fault Refusal :=
  .next (match s.pickSlot core with
    | none => s
    | some n =>
      let r : SlotRef := ⟨core, n⟩
      match s.unitAt r with
      | none => s
      | some u =>
        match u.failed, u.deferred with
        | some t, _ => { s.parkFailed r u t with cursor := core }
        | none, some h => { s.takeHeld r u h with cursor := core }
        | none, none =>
          match s.fetchWaits r u with
          | some t => { t with cursor := core }
          | none =>
            let s := match s.fetch r u with
              | .code (.instr i) => s.holdVector core u i
              | _ => s
            { (s.setLast core n).setSlot r.key { s.slotAt r.key with issued := some s.ck } with issuing := some r })

/-! ## Replies and the store buffer -/

/-- MEMORY_REPLY (R59): the waiting instruction completes with its register writes; a watched access then traps (R329). A slot of a
halted partition is held (R337). -/
def execMemoryReply (unit : Nat) (s : State) : Host.Outcome State Fault Refusal :=
  .next (match s.findUnit unit with
    | none => s
    | some (k, sl, u) =>
      match sl.mode with
      | .waiting (.reply r) _ =>
        if s.haltedTag u.tag then s else
        match r.watch with
        | none => s.complete k r.npc fun v => v.applyReply r
        | some t => s.takeTrap (refOfKey k) (u.applyReply r) ⟨t, u.pc, r.npc⟩
      | _ => s)

def StoreEntry.isSem (e : StoreEntry) : Bool :=
  match e.kind with
  | .sem _ => true
  | _ => false

/-- Perform one buffered entry of a core; when each of its kind must wait, try again later. -/
def State.performOne (s : State) (core : Nat) (sem : Bool) (again : Instr) : State :=
  let mine (e : StoreEntry) : Bool := decide (e.who.core = core) && e.isSem == sem
  let t := s.performNext core mine s.fab.sbuf []
  if s.fab.sbuf.any mine && decide (t.fab.sbuf.length = s.fab.sbuf.length) then t.scheduleFree 1 again else t

/-- STORE_BUFFER_ENTRY_PERFORMED (R135, R136). -/
def execStoreBufferEntryPerformed (core : Nat) (s : State) : Host.Outcome State Fault Refusal :=
  .next (s.performOne core false (.storeBufferEntryPerformed core))

/-- SEM_POST_PERFORMED (R155). -/
def execSemPostPerformed (core : Nat) (s : State) : Host.Outcome State Fault Refusal :=
  .next (s.performOne core true (.semPostPerformed core))

/-! ## Timers -/

/-- Complete every wait that ends at a time, once the time has come. -/
def State.completeDue (s : State) (due : Wait → Option (Nat × Word)) : State :=
  s.fab.slots.foldl (fun s e =>
    match e.2.mode with
    | .waiting w _ =>
      match due w with
      | some (t, npc) => if t ≤ s.ck then s.complete e.1 npc id else s
      | none => s
    | _ => s) s

/-- SLEEP_TIMEOUT (R70). -/
def execSleepTimeout (s : State) : Host.Outcome State Fault Refusal :=
  .next (s.completeDue fun w => match w with
    | .sleep (some t) npc => some (t, npc)
    | _ => none)

/-- REALIGN_TIMEOUT (R67). -/
def execRealignTimeout (s : State) : Host.Outcome State Fault Refusal :=
  .next (s.completeDue fun w => match w with
    | .realign t _ npc => some (t, npc)
    | _ => none)

/-- The accesses that wait for a bank or a way go on, plane loads and chunks among them. -/
def State.wakeBank (s : State) (n : Nat) : State :=
  (s.rejoinWhere fun _ w => w.isBank n).wakeArrays (·.isBank n)

/-- Whether a bank or a way, by the number that waits name it by, is awake. -/
def State.storageAwake (s : State) (n : Nat) : Bool :=
  match (if firstWay ≤ n ∧ n < descBank then s.wayAt (n - firstWay) else s.bankAt n) with
  | .awake _ => true
  | _ => false

/-- Accesses that wait for a bank or a way which something else has woken go on. -/
def State.bankSweep (s : State) : State :=
  let ended (w : Wait) : Bool := match w with
    | .bank n => s.storageAwake n
    | _ => false
  (s.rejoinWhere fun _ w => ended w).wakeArrays ended

/-- What follows the end of an entry into retention: the exit, when an access waits for it (R246). -/
def BankState.entered (ck : Nat) (wanted : Bool) : BankState := if wanted then .exiting (ck + 576) else .retained

/-- The exit that an access waits for is due. -/
def State.scheduleExit (s : State) (wanted : Bool) : State :=
  if wanted then s.schedule (s.ck + 576) .retentionExitComplete else s

/-- RETENTION_EXIT_COMPLETE (R246, R388): the banks and ways whose exit has ended are awake, and the accesses that wait for them go
on. An entry that has ended leaves its bank or way retained, or in its exit when an access arrived meanwhile. Each pass finds errors
by the code it reads: SEC-DED at an entry, BCH at an exit. -/
def execRetentionExitComplete (s : State) : Host.Outcome State Fault Refusal :=
  let s := s.store.banks.foldl (fun s e =>
    match e.2 with
    | .entering t w =>
      if t ≤ s.ck then ((s.findBankErrors e.1 1).setBank e.1 (.entered s.ck w)).scheduleExit w else s
    | .exiting t => if t ≤ s.ck then ((s.findBankErrors e.1 2).setBank e.1 (.awake s.ck)).wakeBank e.1 else s
    | _ => s) s
  .next (s.store.ways.foldl (fun s e =>
    match e.2 with
    | .entering t w =>
      if t ≤ s.ck then ((s.findWayErrors e.1 1).setWay e.1 (.entered s.ck w)).scheduleExit w else s
    | .exiting t => if t ≤ s.ck then ((s.findWayErrors e.1 2).setWay e.1 (.awake s.ck)).wakeBank (firstWay + e.1) else s
    | _ => s) s)

end Sys2Proof.Machine
end

