-- ==== Sys2Proof/Machine/Sched.lean ====
section
/-!
DEFINITION. The launch unit (R321 to R326, R340, R341, R345, R346): placing teams, filling slots, time slices, granted
pre-emption, and the end of a spill and of a resume.
-/
namespace Sys2Proof.Machine

open Sys2Proof

/-! ## Teams on tiles (R22, R324) -/

/-- The tiles of a team of a shape at an origin, in rank order. -/
def teamTiles (d : Desc) (o : Nat) : List Nat :=
  (List.range (d.tw * d.th)).map fun i => o + i / d.tw * 128 + i % d.tw

/-- The empty slots of a core for launched units, those included that Gathering gangs hold; none while a queued migration could use one
(R64), and none while the tile is held after a change of its partition (R71). -/
def State.emptySlots (s : State) (core : Nat) : List Nat :=
  if s.keptForQueue core ∨ s.ck < FMap.get 0 s.fab.hold (tileOf core) then []
  else ((List.range ((s.partOf (tileOf core)).contexts - 1)).map (· + 1)).filter fun n => (s.slotAt (16 * core + n)).isEmpty

/-- The slots of a core that the launch unit may give to a unit: empty ones that no Gathering gang holds (R323). -/
def State.freeSlots (s : State) (core : Nat) : List Nat :=
  (s.emptySlots core).filter fun n => !s.slotReserved (16 * core + n)

/-- The tile of a rank of a team at an origin. -/
def Desc.tileAt (d : Desc) (o rank : Nat) : Nat := o + rank / d.tw * 128 + rank % d.tw

/-- The waiting units of a rank of a launch, oldest first. -/
def Launch.unplaced (l : Launch) (rank : Nat) : List Pending := l.queue.filter fun p => p.slot.isNone && decide (p.rank = rank)

/-- The slots a launch needs on the tile of a rank: all its units' for a gang, else one (R324). -/
def Launch.need (l : Launch) (rank : Nat) : Nat := if l.desc.gang then (l.unplaced rank).length else 1

/-- Whether a slot of a tile is held by a Gathering gang. -/
def State.tileReserved (s : State) (tile : Nat) : Bool :=
  s.work.launches.any fun l => l.reserved.any fun k => decide (tileOf (k / 16) = tile)

/-- A tile can take its part of a launch (R324): it has the partition and the free slots, or it is quiescent. A fenced core takes
nothing. A gang counts the slots that another gang has reserved, for which it will contend (R323). -/
def State.tileFits (s : State) (l : Launch) (rank tile : Nat) : Bool :=
  let c := coreOf tile l.desc.kind
  !s.fab.fenced.contains c &&
    (if s.partOf tile = l.desc.part then
      decide (l.need rank ≤ (if l.desc.gang then s.emptySlots c else s.freeSlots c).length)
     else decide (s.quiescence tile = 0) && !s.tileReserved tile)

/-- A tile holds a unit of a tenant that is not of a standing launch, or a slot that one is on its way to (R345). -/
def State.tileHeld (s : State) (tag tile : Nat) : Bool :=
  s.fab.slots.any fun e => decide (tileOf (e.1 / 16) = tile) && (match e.2.unit, e.2.mode with
    | some u, _ => decide (u.tag = tag) && decide (u.launch ≠ 1)
    | none, .incoming _ | none, .restoring _ => true
    | none, _ => false)

/-- The origins a launch may take (R324, R345): any of its partition, or its old one while one of its old tiles holds a unit of
the tenant. -/
def State.originChoices (s : State) (l : Launch) (j : Job) : List Nat :=
  match l.origin with
  | some o => if (teamTiles l.desc o).any (s.tileHeld j.tag) then [o] else originsIn j.tiles l.desc.tw l.desc.th
  | none => originsIn j.tiles l.desc.tw l.desc.th

/-- The first origin at which a launch fits (R324). -/
def State.chooseOrigin (s : State) (l : Launch) (j : Job) : Option Nat :=
  (s.originChoices l j).find? fun o => (teamTiles l.desc o).zipIdx.all fun e => s.tileFits l e.2 e.1

/-! ## A team on other tiles (R345, R346) -/

/-- Copy what a tile holds to the tile that takes its logical position: scratchpad, region table (a filling window is saved as
ABSENT), semaphores and planes, as they stood in a state. -/
def State.copyTile (s old : State) (a b : Nat) : State :=
  let lo := scratchKey a 0
  let hi := lo + 2 ^ 20
  let base := scratchKey b 0
  let mem := (old.store.mem.filter fun e => decide (lo ≤ e.1) && decide (e.1 < hi)).foldl
    (fun m e => FMap.set 0 m (base + (e.1 - lo)) e.2) (FMap.clear s.store.mem base (base + 2 ^ 20))
  let poison := (old.store.poison.filter fun n => decide (lo / 8 ≤ n) && decide (n < hi / 8)).foldl
    (fun p n => NSet.insert p (base / 8 + (n - lo / 8)))
    (s.store.poison.filter fun n => decide (n < base / 8) || decide ((base + 2 ^ 20) / 8 ≤ n))
  let s := s.modStore fun m => { m with
    mem := mem, poison := poison, errors := FMap.clear m.errors (base / 8) ((base + 2 ^ 20) / 8) }
  let s := (List.range 16).foldl (fun s w =>
    let x := old.windowAt a w
    (s.setWindow b w (if x.state = 2 then { x with state := 1 } else x)).setSem b w (old.semAt a w)) s
  (List.range 2).foldl (fun s i => s.setPlane (coreOf b 2) i (old.planeAt (coreOf a 2) i)) s

/-- A tile's scratchpad is read out through its code, which finds its errors (R387, R388). -/
def State.checkTile (s : State) (tile : Nat) : State :=
  (List.range 16).foldl (fun s b => s.wakeScratch (16 * tile + b)) s

/-- Whether a unit is one of a launch's taken units. -/
def Launch.tookUnit (l : Launch) (key : Nat) : Bool :=
  l.queue.any fun p => match p.image with
    | some u => decide (u.key = key)
    | none => false

/-- The classes of a core that are bound to taken units of a launch. -/
def State.boundToTeam (s : State) (l : Launch) (core : Nat) : List Nat :=
  (List.range 7).filter fun c => match FMap.get none s.fab.binds (8 * core + c) with
    | some key => l.tookUnit key
    | none => false

/-- Insert a deque entry by its age. -/
def insertAge (x : DequeEntry) : List DequeEntry → List DequeEntry
  | [] => [x]
  | y :: ys => if x.age < y.age then x :: y :: ys else y :: insertAge x ys

/-- The oldest held entries beyond the 64 that a core holds are spilled (R297). One whose area takes nothing stays held, for which the
spec has no outcome (log entry 45). -/
def State.holdAtMost (s : State) (core : Nat) : State :=
  let held := dequeIdx false (s.dequeOf core)
  (held.take (held.length - 64)).foldl (fun s i => match s.spillAll core [i] with
    | .ok s => s
    | .full | .wait .. => s) s

/-- The deque entries of a launch pass from a core to another in age order (R346). -/
def State.moveEntries (s : State) (l : Launch) (a b : Nat) : State :=
  let mine (x : DequeEntry) : Bool := decide (x.job = l.id.job) && decide (x.launch = l.id.handle)
  let xs := (s.dequeOf a).filter mine
  if xs.isEmpty then s
  else
    let s := (s.setDeque a ((s.dequeOf a).filter fun x => !mine x)).dequeShrank a
    (s.setDeque b (xs.foldl (fun acc x => insertAge x acc) (s.dequeOf b))).holdAtMost b

/-- Move the messages, bindings and deque entries of a launch from a core to the one that takes its position (R346): messages
ahead of those queued there, and messages in transit redirected. -/
def State.moveCore (s : State) (l : Launch) (a b : Nat) : State :=
  let cls := s.boundToTeam l a
  let moved (m : Msg) : Bool := cls.contains m.cls
  let ms := (s.msgsOf a).filter moved
  let s := (s.setMsgs a ((s.msgsOf a).filter fun m => !moved m))
  let s := s.setMsgs b (ms ++ s.msgsOf b)
  let s := cls.foldl (fun s c => s.modFab fun f =>
    { f with binds := FMap.set none (FMap.set none f.binds (8 * b + c) (FMap.get none f.binds (8 * a + c))) (8 * a + c) none }) s
  let redirect (o : Op) : Op := match o.kind with
    | .message recv _ _ _ =>
      if s.messageCore o recv = some a ∧ cls.contains (recv.extractLsb' 18 3).toNat then { o with moved := some b }
      else o
    | _ => o
  (s.modWork fun w => { w with ops := w.ops.map redirect }).moveEntries l a b

/-- Move a team that resumes at another origin. Two rectangles may overlap, so the copies read the state before the move, and
the cores are emptied rank by rank into their successors from a common state. -/
def State.moveTeam (s : State) (l : Launch) (o n : Nat) : State :=
  let pairs := (teamTiles l.desc o).zip (teamTiles l.desc n)
  let s := (teamTiles l.desc o).foldl State.checkTile s
  let t := pairs.foldl (fun t e => t.copyTile s e.1 e.2) s
  (if o ≤ n then pairs.reverse else pairs).foldl (fun t e =>
    [0, 1, 2].foldl (fun t k => t.moveCore l (coreOf e.1 k) (coreOf e.2 k)) t) t

/-! ## Placing (R321, R324) -/

/-- A new unit of a launch (R20, R114, R115, R320, R350). -/
def Launch.newUnit (l : Launch) (key : Nat) (tag pid : Nat) (p : Pending) : Ctx :=
  let d := l.desc
  let geo := mkGeo (p.rank % d.tw) (p.rank / d.tw) d.tw d.th d.units p.lslot
  let u := Ctx.fresh key d.pc geo (BitVec.ofNat 24 (p.rank * d.units + p.lslot)) tag pid l.id.job l.id.handle l.phase false
  { u with regs := FMap.setMany 0 [] 0 l.args, bounds := l.bounds }

/-- The time from a unit's placing to its first ck in the rotation: 1 for a new unit; for an image, what its spill took (R341). -/
def State.placeTime (s : State) (p : Pending) (k : Nat) : Nat :=
  match p.image with
  | none => 1
  | some u => u.spillTime (s.partOf (tileOf (k / 16)))

/-- Put a unit of a launch into an empty slot, to be in the rotation from a ck on: a new unit is ready then, and an image is restored
then (R341). DESIGN CHOICE: the 8 ck after an issue of the slot's last unit do not bind a new unit (R56; log entry 14). -/
def State.placePending (s : State) (l : Launch) (j : Job) (p : Pending) (k at_ : Nat) : State :=
  match p.image with
  | none =>
    let s := s.setSlot k ⟨.ready at_, none, some (l.newUnit s.serial j.tag j.pid p)⟩
    ({ s with serial := s.serial + 1 }).modLaunch l.id fun x => { x with queue := removeFirst (fun q => decide (q = p)) x.queue }
  | some u =>
    let s := s.setSlot k ⟨.restoring u.key, none, none⟩
    let s := s.modLaunch l.id fun x => { x with
      queue := modifyFirst (fun q => decide (q = p)) (fun q => { q with slot := some k }) x.queue }
    s.schedule at_ (.unitResume u.key)

/-- Insert a waiting unit by its LSLOT. -/
def insertLslot (p : Pending) : List Pending → List Pending
  | [] => [p]
  | q :: qs => if p.lslot < q.lslot then p :: q :: qs else q :: insertLslot p qs

/-- The units that take slots of a tile together, each with its slot: the oldest ones, and among them the lowest slots in ascending
LSLOT (R324). -/
def pairUnits (ps : List Pending) (ks : List Nat) : List (Pending × Nat) :=
  ((ps.take ks.length).foldl (fun acc p => insertLslot p acc) []).zip ks

/-- Fill the free slots of a Placed launch with its oldest waiting units, each on its own logical tile (R321, R324). -/
def State.fillLaunch (s : State) (id : LaunchId) (j : Job) : State :=
  match s.launch id with
  | none => s
  | some l =>
    (List.range (l.desc.tw * l.desc.th)).foldl (fun s rank =>
      let tile := l.desc.tileAt (l.origin.getD 0) rank
      let c := coreOf tile l.desc.kind
      if s.partOf tile ≠ l.desc.part ∨ s.fab.fenced.contains c then s
      else
        (pairUnits (l.unplaced rank) ((s.freeSlots c).map (16 * c + ·))).foldl
          (fun s e => s.placePending l j e.1 e.2 (s.ck + s.placeTime e.1 e.2)) s) s

/-- Fuse the L1s of every cluster whose tiles all lie in the team (R256). -/
def State.fuseTeam (s : State) (l : Launch) (tiles : List Nat) : State :=
  if l.desc.fuse then
    let whole := (tiles.map pcluOf).eraseDups.filter fun c => decide ((tiles.filter fun t => decide (pcluOf t = c)).length = 32)
    let s := s.writeBackWhere fun x => whole.contains (pcluOf x.owner)
    whole.foldl (fun s c => s.modFab fun f => { f with fused := FMap.set none f.fused c (some l.id) }) s
  else s

/-- Bring the tiles of a team that are quiescent to the partition of a launch (R324). -/
def State.bringTiles (s : State) (l : Launch) (o : Nat) : State :=
  (teamTiles l.desc o).foldl (fun s t => if s.partOf t = l.desc.part then s else s.repartition t l.desc.part) s

/-- A launch stands at an origin: its clusters are fused and those it had elsewhere are not any more (R256), what it left on other tiles
moves to the new ones (R346), and its slice starts (R325). -/
def State.seatLaunch (s : State) (l : Launch) (j : Job) (o : Nat) : State :=
  let s := ((s.unfuse l.id).fuseTeam l (teamTiles l.desc o)).modLaunch l.id fun x => { x with origin := some o }
  let s := match l.origin with
    | some old => if old = o then s else s.moveTeam l old o
    | none => s
  let ends := s.ck + (match s.tenant j.tag with
    | some t => t.slice
    | none => 1800000)
  (s.modLaunch l.id fun x => { x with
    state := .placed, reserved := [], head := 0, sliceEnd := ends, taking := false }).schedule
      (ends + 1) .timeSliceExpiry

/-! ## Gathering (R321, R323) -/

/-- A gang leaves Ready: it takes its ticket the first time, and gathers at an origin. -/
def State.beginGather (s : State) (l : Launch) (j : Job) (o : Nat) : State :=
  let s := s.bringTiles l o
  let s := match l.ticket with
    | some _ => s
    | none => (s.modJob j.handle fun x => { x with tickets := x.tickets + 1 }).modLaunch l.id fun x => { x with ticket := some (j.tickets + 1) }
  s.modLaunch l.id fun x => { x with state := .gathering o, reserved := [], head := 0 }

/-- A launch chosen with an origin is Placed, its first wave taking every free slot, or a gang gathers. -/
def State.placeLaunch (s : State) (l : Launch) (j : Job) (o : Nat) : State :=
  if l.desc.gang then s.beginGather l j o else ((s.bringTiles l o).seatLaunch l j o).fillLaunch l.id j

/-- A Gathering gang loses a contention: it releases every slot and re-enters Ready at the head of its priority, with its ticket
(R323). -/
def State.loseGather (s : State) (id : LaunchId) : State :=
  let top := (s.work.launches.map (·.head)).foldl max 0
  (s.modLaunch id fun x => { x with state := .ready, reserved := [], entered := s.ck + 1, head := top + 1 }).schedule
    (s.ck + 1 + 4096) .preemptionGrant

/-- How many slots a Gathering gang holds on the tile of a rank. -/
def Launch.heldOn (l : Launch) (o rank : Nat) : Nat :=
  (l.reserved.filter fun k => decide (k / 16 = coreOf (l.desc.tileAt o rank) l.desc.kind)).length

/-- The rank whose slots a Gathering gang reserves next; none when every unit has one. -/
def Launch.nextRank (l : Launch) (o : Nat) : Option Nat :=
  (List.range (l.desc.tw * l.desc.th)).find? fun r => decide (l.heldOn o r < l.need r)

/-- The other gangs of a job that hold one of some slots; tickets count within a job. -/
def State.holders (s : State) (l : Launch) (ks : List Nat) : List Launch :=
  s.work.launches.filter fun x => decide (x.id.job = l.id.job) && decide (x.id ≠ l.id) && x.reserved.any ks.contains

/-- A Gathering gang reserves slots of its next tile: the free ones that it needs there, then those that younger gangs hold, which lose
them; a slot that an older gang holds costs it the contention (R323). -/
def State.gatherTile (s : State) (l : Launch) (o rank : Nat) : State :=
  let tile := l.desc.tileAt o rank
  let c := coreOf tile l.desc.kind
  let ks := ((s.freeSlots c) ++ (s.emptySlots c).filter fun n => s.slotReserved (16 * c + n)).map (16 * c + ·)
  if s.partOf tile ≠ l.desc.part then s.loseGather l.id
  else
    let mine := (ks.filter fun k => !l.reserved.contains k).take (l.need rank - l.heldOn o rank)
    let rivals := s.holders l mine
    if rivals.any fun x => decide (x.ticket.getD 0 < l.ticket.getD 0) then s.loseGather l.id
    else (rivals.foldl (fun s x => s.loseGather x.id) s).modLaunch l.id fun x => { x with reserved := x.reserved ++ mine }

/-- The slots among some that lie on a core, in ascending order. -/
def slotsOn (core : Nat) (ks : List Nat) : List Nat :=
  ((List.range 16).map (16 * core + ·)).filter ks.contains

/-- Every unit of a gang has its slot: the gang is Placed, and all its units start in one ck (R321, R327). -/
def State.seatGang (s : State) (l : Launch) (j : Job) (o : Nat) : State :=
  let es := (List.range (l.desc.tw * l.desc.th)).flatMap fun r =>
    pairUnits (l.unplaced r) (slotsOn (coreOf (l.desc.tileAt o r) l.desc.kind) l.reserved)
  let start := (es.map fun e => s.ck + s.placeTime e.1 e.2).foldl max (s.ck + 1)
  let s := s.seatLaunch l j o
  match s.launch l.id with
  | some x => es.foldl (fun s e => s.placePending x j e.1 e.2 start) s
  | none => s

/-- One step of a Gathering gang: slots of one tile, or its placing when it holds all, once no tile of its team is held after a change of
its partition (R71). -/
def State.gatherStep (s : State) (j : Job) (id : LaunchId) : State :=
  match s.launch id with
  | some l =>
    match l.state with
    | .gathering o =>
      match l.nextRank o with
      | some r => s.gatherTile l o r
      | none =>
        if (teamTiles l.desc o).any fun t => decide (s.ck < FMap.get 0 s.fab.hold t) then s
        else if (teamTiles l.desc o).all fun t => s.partOf t = l.desc.part then s.seatGang l j o else s.loseGather id
    | _ => s
  | none => s

/-- Insert a launch by its ticket. -/
def insertTicket (l : Launch) : List Launch → List Launch
  | [] => [l]
  | x :: xs => if l.ticket.getD 0 < x.ticket.getD 0 then l :: x :: xs else x :: insertTicket l xs

def LaunchState.isGathering (x : LaunchState) : Bool :=
  match x with
  | .gathering _ => true
  | _ => false

/-- The Gathering gangs of a job, by ticket. -/
def State.gangs (s : State) (j : Job) : List Launch :=
  (s.work.launches.filter fun l => decide (l.id.job = j.handle) && l.state.isGathering).foldl (fun acc l => insertTicket l acc) []

/-- Every Gathering gang of a job reserves the slots of its next tile, the older ticket first; they go on in the next ck. -/
def State.gatherJob (s : State) (j : Job) : State :=
  let s := (s.gangs j).foldl (fun s l => s.gatherStep j l.id) s
  if (s.gangs j).isEmpty then s else s.schedule (s.ck + 1) (.launchPlacement j.pid)

/-! ## The order of choice (R322) -/

/-- Whether a launch is chosen before another: by effective priority; the gangs that re-entered at the head of it, the last one first
(R323); then by entry into Ready, and by its place among the entries of that ck. -/
def Launch.before (a b : Launch) : Bool :=
  decide (b.prio < a.prio) || (decide (a.prio = b.prio) &&
    (decide (b.head < a.head) || (decide (a.head = b.head) &&
      (decide (a.entered < b.entered) || (decide (a.entered = b.entered) &&
        (decide (a.order < b.order) || (decide (a.order = b.order) && decide (a.id.handle < b.id.handle))))))))

/-- Insert a launch by the order of choice. -/
def insertLaunch (l : Launch) : List Launch → List Launch
  | [] => [l]
  | x :: xs => if l.before x then l :: x :: xs else x :: insertLaunch l xs

/-- The Ready and Placed launches of a job in the order of choice, but for the standing launch. -/
def State.choiceOrder (s : State) (j : Job) : List Launch :=
  (s.work.launches.filter fun l => decide (l.id.job = j.handle) && decide (l.id.handle ≠ 1) &&
    (decide (l.state = .ready) || decide (l.state = .placed))).foldl (fun acc l => insertLaunch l acc) []

/-! ## Requests of pre-emption (R325, R326) -/

/-- The partitions that are being swapped, or are swapped out: nothing is placed there. -/
def State.swapping (s : State) (pid : Nat) : Bool :=
  s.work.swaps.any (fun r => decide (r.pid = pid)) || s.work.swapped.any fun i => decide (i.pid = pid)

/-- Whether a slot's unit has been taken. -/
def Slot.isTaken (sl : Slot) : Bool :=
  match sl.mode with
  | .parked (.taken _) => true
  | _ => false

/-- Request a purpose of the unit in a slot (R339); a unit that has been taken is asked nothing. -/
def State.request (s : State) (k : Nat) (p : Purpose) : State :=
  let sl := s.slotAt k
  match sl.unit with
  | some u => if sl.isTaken ∨ u.purposes.contains p then s else s.setSlot k { sl with unit := some (u.setPurposes (u.purposes ++ [p])) }
  | none => s

/-- Request pre-emption of every unit of a launch. -/
def State.preemptLaunch (s : State) (id : LaunchId) : State :=
  ((s.slotsOf id).foldl (fun s k => s.request k .preempt) s).modLaunch id fun l => { l with taking := true }

/-- A slot that is empty, or will be once the unit taken from it is written out. -/
def State.freeing (s : State) (k : Nat) : Bool :=
  let sl := s.slotAt k
  sl.isEmpty || (sl.isTaken && sl.unit.isSome)

/-- The slots that are free or being freed are enough for a launch (R326); those of a fenced core are none. -/
def State.suffices (s : State) (l : Launch) (j : Job) : Bool :=
  (s.originChoices l j).any fun o => (teamTiles l.desc o).zipIdx.all fun e =>
    let c := coreOf e.1 l.desc.kind
    if s.fab.fenced.contains c then false
    else if s.partOf e.1 = l.desc.part then
      decide (l.need e.2 ≤ (((List.range (l.desc.part.contexts - 1)).map (· + 1)).filter fun n =>
        s.freeing (16 * c + n) && (l.desc.gang || !s.slotReserved (16 * c + n))).length)
    else [0, 1, 2].all fun k => (List.range 15).all fun n => s.freeing (16 * coreOf e.1 k + n + 1)

/-- Whether a Ready launch has waited long enough to be granted pre-emption (R326). -/
def State.waitedLong (s : State) (l : Launch) : Bool := decide (l.state = .ready) && decide (l.entered + 4096 ≤ s.ck)

/-- The Placed launches that give way to a launch: of lower effective priority on its core kind. -/
def State.victims (s : State) (l : Launch) : List Launch :=
  s.work.launches.filter fun x => decide (x.id.job = l.id.job) && decide (x.id.handle ≠ 1) && decide (x.state = .placed) &&
    decide (x.desc.kind = l.desc.kind) && decide (x.prio < l.prio)

/-- A unit of a gang has been taken: the gang is taken whole (R325, R327). -/
def State.gangTaken (s : State) (l : Launch) : Bool :=
  l.desc.gang && (l.queue.any (·.image.isSome) || (s.slotsOf l.id).any fun k => (s.slotAt k).isTaken)

/-- Withdraw the requests of granted pre-emptions from the launches of a kind (R326). A launch that keeps a unit goes on; one whose
units have all been taken will be Ready. -/
def State.withdraw (s : State) (j : Job) (kind : Nat) : State :=
  (s.work.launches.filter fun x => decide (x.id.job = j.handle) && decide (x.state = .placed) && decide (x.desc.kind = kind) &&
    x.taking && decide (x.sliceEnd ≠ 0) && !s.gangTaken x).foldl (fun s x =>
      let ks := s.slotsOf x.id
      let s := ks.foldl (fun s k =>
        let sl := s.slotAt k
        match sl.unit with
        | some u => if sl.isTaken then s
            else s.setSlot k { sl with unit := some (u.setPurposes (u.purposes.filter (· ≠ .preempt))) }
        | none => s) s
      let stays := ks.any (fun k => !(s.slotAt k).isTaken) || x.queue.any fun p => p.slot.isSome
      s.modLaunch x.id fun y => { y with taking := !stays }) s

/-- The Ready launches of a kind that have been granted pre-emption and for which the freed slots do not suffice. -/
def State.granted (s : State) (j : Job) (kind : Nat) : List Launch :=
  (s.choiceOrder j).filter fun l => s.waitedLong l && decide (l.desc.kind = kind) && !(s.victims l).isEmpty && !s.suffices l j

/-- Grant pre-emption where it is due, and withdraw the requests that remain where the freed slots suffice (R326). -/
def State.grantPreemption (s : State) (j : Job) : State :=
  [0, 1, 2].foldl (fun s kind =>
    match s.granted j kind with
    | [] => s.withdraw j kind
    | ls => (ls.flatMap s.victims).foldl (fun s x => s.preemptLaunch x.id) s) s

/-- A launch whose units are being taken is Ready when none is left in a slot, at the tail of its priority (R321, R325). Its clusters are
not fused until it is placed again (R256): others may be placed there. -/
def State.settleTaking (s : State) (id : LaunchId) : State :=
  match s.launch id with
  | none => s
  | some l =>
    if l.taking ∧ l.state = .placed ∧ (s.slotsOf id).isEmpty ∧ (l.queue.all fun p => p.slot.isNone) ∧ ¬ l.queue.isEmpty then
      ((s.unfuse id).modLaunch id fun x => { x with state := .ready, entered := s.ck + 1, taking := false }).schedule
        (s.ck + 1 + 4096) .preemptionGrant
    else s

/-! ## One decision (R321 to R326) -/

/-- Whether the slots of a launch's kind are kept for a granted launch of higher effective priority (R326). -/
def State.keptForGranted (s : State) (l : Launch) : Bool :=
  s.work.launches.any fun x => decide (x.id.job = l.id.job) && s.waitedLong x && decide (x.desc.kind = l.desc.kind) &&
    decide (l.prio < x.prio)

/-- Place one launch if it can be, or fill its free slots. -/
def State.tryLaunch (s : State) (j : Job) (id : LaunchId) : State :=
  match s.launch id with
  | none => s
  | some l =>
    if l.state = .ready then
      if l.entered ≤ s.ck then
        match s.chooseOrigin l j with
        | some o => match s.job j.handle with
          | some j => s.placeLaunch l j o
          | none => s
        | none => s
      else s
    else if l.taking ∨ l.desc.gang ∨ s.keptForGranted l then s
    else s.fillLaunch id j

/-- Decide for a job: every launch in the order of choice, and the grants. -/
def State.decideJob (s : State) (j : Job) : State :=
  let s := (s.work.launches.filter fun l => decide (l.id.job = j.handle)).foldl (fun s l => s.settleTaking l.id) s
  let s := (s.choiceOrder j).foldl (fun s l => s.tryLaunch j l.id) s
  (s.gatherJob j).grantPreemption j

/-- LAUNCH_PLACEMENT (R321 to R324): a decision for the job of a partition that is not halted (R337) nor swapped. -/
def execLaunchPlacement (pid : Nat) (s : State) : Host.Outcome State Fault Refusal :=
  .next (match s.work.jobs.find? fun j => decide (j.pid = pid) with
    | none => s
    | some j =>
      if s.swapping pid || s.haltedTag j.tag || (s.tenant j.tag).isNone then s else s.decideJob j)

/-- A Ready launch that fits without any act of its own that makes it fit (a tile has become quiescent as a copy ended, a token was
written or a message was read) is decided on in the next ck (R324). -/
def State.placementSweep (s : State) : State :=
  s.work.jobs.foldl (fun s j =>
    if s.swapping j.pid || s.haltedTag j.tag || (s.tenant j.tag).isNone then s
    else if (s.choiceOrder j).any fun l => decide (l.state = .ready) && decide (l.entered ≤ s.ck) && (s.chooseOrigin l j).isSome then
      s.schedule (s.ck + 1) (.launchPlacement j.pid)
    else s) s

/-- PREEMPTION_GRANT (R326): the launches that have waited 4,096 ck. -/
def execPreemptionGrant (s : State) : Host.Outcome State Fault Refusal :=
  .next (s.work.jobs.foldl (fun s j =>
    if s.swapping j.pid || s.haltedTag j.tag || (s.tenant j.tag).isNone then s else s.grantPreemption j) s)

/-- A slice has expired (R325): the launch is pre-empted when a Ready launch of equal or higher effective priority cannot be
placed; else its slice starts again. -/
def State.expireSlice (s : State) (l : Launch) : State :=
  match s.job l.id.job with
  | none => s
  | some j =>
    let rival := s.work.launches.any fun x => decide (x.id.job = l.id.job) && decide (x.state = .ready) && decide (l.prio ≤ x.prio) &&
      (s.chooseOrigin x j).isNone
    if rival then (s.preemptLaunch l.id).modLaunch l.id fun x => { x with sliceEnd := 0 }
    else
      let ends := l.sliceEnd + (match s.tenant j.tag with
        | some t => t.slice
        | none => 1800000)
      (s.modLaunch l.id fun x => { x with sliceEnd := ends }).schedule (ends + 1) .timeSliceExpiry

/-- TIME_SLICE_EXPIRY (R325): after the issues of the ck in which the slice ends, so that a retirement in that ck wins. -/
def execTimeSliceExpiry (s : State) : Host.Outcome State Fault Refusal :=
  .next (s.work.launches.foldl (fun s x =>
    match s.launch x.id with
    | some l =>
      if l.id.handle ≠ 1 ∧ l.state = .placed ∧ l.sliceEnd ≠ 0 ∧ l.sliceEnd < s.ck ∧ ¬ s.swapping (s.pidOf (s.tagOfJob l.id.job)) ∧
          ¬ s.haltedTag (s.tagOfJob l.id.job) then
        s.expireSlice l
      else s
    | none => s) s)

/-! ## The ends of a spill and of a resume (R340, R341, R343, R344) -/

/-- SPILL_COMPLETE (R340): the image is written; the unit waits with its launch, behind its unplaced units, and its slot is
empty. -/
def execSpillComplete (unit : Nat) (s : State) : Host.Outcome State Fault Refusal :=
  .next (match s.findUnit unit with
    | none => s
    | some (k, sl, u) =>
      match sl.mode with
      | .parked (.taken rpc) =>
        if s.haltedTag u.tag then s
        else
        let p : Pending := ⟨u.ly * u.tw + u.lx, u.lslot, some (u.setPurposes []), rpc, k / 16, none, s.dataSeal u.tag, false⟩
        let s := s.modLaunch u.launchId fun l => { l with queue := l.queue ++ [p] }
        ((s.freeSlot k u.tag).settleTaking u.launchId).schedule (s.ck + 1) (.launchPlacement (s.pidOf u.tag))
      | _ => s)

/-- A unit goes on in a slot from its image: parked as it was (R338), parked by the record its image holds (R343), idle, or
ready. The messages of its classes stand in the core's store. -/
def State.resumeUnit (s : State) (k : Nat) (u : Ctx) (rpc : Option Word) : State :=
  let r := refOfKey k
  let u := if s.anyQueued r u.key then { u with arrival := true } else u
  match rpc with
  | some x => s.putMode r u (.parked (.trap x))
  | none =>
    match u.deferred with
    | some t => s.takeHeld r u t
    | none =>
      if u.idle then (s.putMode r u (.waiting (.idleRound (s.ck + 1)) s.ck)).schedule (s.ck + 1) (.idleWorkerRound u.key)
      else s.putMode r u (.ready s.ck)

/-- The waiting unit of a launch that is being restored. -/
def State.restoringUnit (s : State) (unit : Nat) : Option (LaunchId × Pending × Ctx × Nat) :=
  s.work.launches.findSome? fun l => l.queue.findSome? fun p =>
    match p.image, p.slot with
    | some u, some k => if u.key = unit then some (l.id, p, u, k) else none
    | _, _ => none

/-- UNIT_RESUME (R341): the image is restored; MOVED is set on another tile (R345). A unit whose launch is being taken meanwhile is asked
to give way at once (R325). An image whose seal fails cancels its launch with the fault mark (R344). A halted partition's slots are
held (R337). -/
def execUnitResume (unit : Nat) (s : State) : Host.Outcome State Fault Refusal :=
  .next (match s.restoringUnit unit with
    | none => s
    | some (id, p, u, k) =>
      if s.haltedTag u.tag then s
      else if p.bad || !s.opens u.tag p.under false then (s.logEvent 7 8 u.key 0 u.uid.toNat (some u.tag)).endLaunch id .fault none
      else
        let s := s.modLaunch id fun l => { l with queue := removeFirst (fun q => decide (q = p)) l.queue }
        let u := if tileOf p.core = tileOf (k / 16) then u else u.setStatBit statMoved true
        let u := match s.launch id with
          | some l => if l.taking then u.setPurposes [.preempt] else u
          | none => u
        (s.setSlot k { Slot.empty with unit := some u }).resumeUnit k u p.rpc)

end Sys2Proof.Machine
end

