-- ==== Sys2Proof/Machine/Swap.lean ====
section
/-!
DEFINITION. Partition swap (R342 to R344), the change of a tile's owner (R370), safe points of waiting and parked units (R326,
R338), and hang detection (R301 to R303).
-/
namespace Sys2Proof.Machine

open Sys2Proof

/-! ## Tiles and their owners (R370) -/

/-- Write back the dirty lines of the L1s of tiles, and invalidate them. -/
def State.flushTiles (s : State) (tiles : List Nat) : State := s.writeBackWhere fun x => tiles.contains x.owner

/-- Empty what a tile holds (R370 step 2): scratchpad with its marks and errors, region table, semaphores, and planes with what was
posted to them. -/
def State.scrubTile (s : State) (tile : Nat) : State :=
  let lo := scratchKey tile 0
  let s := s.modStore fun m => { m with
    mem := FMap.clear m.mem lo (lo + 2 ^ 20)
    poison := m.poison.filter fun n => decide (n < lo / 8) || decide ((lo + 2 ^ 20) / 8 ≤ n)
    errors := FMap.clear m.errors (lo / 8) ((lo + 2 ^ 20) / 8) }
  s.modFab fun f => { f with
    windows := FMap.clear f.windows (16 * tile) (16 * tile + 16)
    sems := FMap.clear f.sems (16 * tile) (16 * tile + 16)
    planes := FMap.clear f.planes (2 * coreOf tile 0) (2 * coreOf tile 0 + 6)
    arrays := FMap.clear f.arrays (coreOf tile 0) (coreOf tile 0 + 3) }

/-- Invalidate a tile's instruction cache. -/
def State.dropCode (s : State) (tile : Nat) : State :=
  s.modFab fun f => { f with icache := f.icache.filter fun k => decide (k / 2 ^ 50 ≠ tile) }

/-- Empty the deques, message stores, lost counts and bindings of a tile's cores. -/
def State.emptyQueues (s : State) (tile : Nat) : State :=
  s.modFab fun f => { f with
    deques := FMap.clear f.deques (coreOf tile 0) (coreOf tile 0 + 3)
    msgs := FMap.clear f.msgs (coreOf tile 0) (coreOf tile 0 + 3)
    lost := FMap.clear f.lost (16 * coreOf tile 0) (16 * (coreOf tile 0 + 3))
    binds := FMap.clear f.binds (8 * coreOf tile 0) (8 * coreOf tile 0 + 24) }

/-- Change the owner of tiles (R370), in the order of its steps; they are in partition 16 then (R17). -/
def State.setOwner (s : State) (tiles : List Nat) (owner : Option Nat) : State :=
  let s := s.flushTiles tiles
  tiles.foldl (fun s t =>
    let s := ((s.dropCode t).scrubTile t).setPart t .p16
    s.modFab fun f => { f with owners := FMap.set none f.owners t owner }) s

/-! ## Partition swap (R342) -/

/-- A partition of exactly one cluster. -/
def Tenant.oneCluster (t : Tenant) : Bool :=
  let ts := t.tiles
  decide (ts.length = 32) && ts.all fun x => decide (pcluOf x = pcluOf (ts.headD 0))

/-- The image of a partition: what the exchange takes. -/
def State.swapImage (s : State) (t : Tenant) : SwapImage :=
  let ts := t.tiles
  let core (c : Nat) : Bool := ts.contains (tileOf c)
  { pid := t.pid
    under := ⟨t.tag, t.inst, t.period, false⟩
    slots := s.fab.slots.filter fun e => core (e.1 / 16)
    mem := s.store.mem.filter fun e => isScratchKey e.1 && ts.contains (keyTile e.1)
    poison := s.store.poison.filter fun n => isScratchKey (8 * n) && ts.contains (keyTile (8 * n))
    windows := s.fab.windows.filter fun e => ts.contains (e.1 / 16)
    sems := s.fab.sems.filter fun e => ts.contains (e.1 / 16)
    planes := s.fab.planes.filter fun e => core (e.1 / 2)
    arrays := s.fab.arrays.filter fun e => core e.1
    deques := s.fab.deques.filter fun e => core e.1
    msgs := s.fab.msgs.filter fun e => core e.1
    lost := s.fab.lost.filter fun e => core (e.1 / 16)
    binds := s.fab.binds.filter fun e => core (e.1 / 8)
    tvec := s.fab.tvec.filter fun e => core e.1
    parts := s.fab.parts.filter fun e => ts.contains e.1
    bad := false }

/-- Take a partition's image out: its scratchpads are read through their codes, the slots that its Gathering gangs hold are free for
others (R323), its clusters are not fused (R256), and the tiles are left without an owner. -/
def State.swapOut (s : State) (t : Tenant) : State :=
  let ts := t.tiles
  let s := ts.foldl State.checkTile (s.flushTiles ts)
  let i := s.swapImage t
  let s := s.modWork fun w => { w with
    swapped := w.swapped ++ [i]
    launches := w.launches.map fun l => if l.reserved.any fun k => ts.contains (tileOf (k / 16)) then { l with reserved := [] } else l }
  let s := s.modFab fun f => { f with fused := f.fused.filter fun e => !ts.any fun x => decide (pcluOf x = e.1) }
  let s := s.modFab fun f => { f with
    slots := f.slots.filter fun e => !ts.contains (tileOf (e.1 / 16))
    tvec := f.tvec.filter fun e => !ts.contains (tileOf e.1) }
  (ts.foldl State.emptyQueues s).setOwner ts none

/-- Put the entries of a map into another. -/
def FMap.putAll {α : Type} [DecidableEq α] (d : α) (m : FMap α) (es : FMap α) : FMap α :=
  es.foldl (fun m e => FMap.set d m e.1 e.2) m

/-- Bring an image in: every part goes back, the units go on, its placed launches' clusters are fused again (R256), and slices that ended
meanwhile are looked at (R325). -/
def State.swapIn (s : State) (t : Tenant) (i : SwapImage) : State :=
  let s := s.setOwner t.tiles (some t.tag)
  let s := s.modWork fun w => { w with swapped := w.swapped.filter fun x => decide (x.pid ≠ i.pid) }
  let s := s.modStore fun m => { m with
    mem := FMap.putAll 0 m.mem i.mem
    poison := i.poison.foldl NSet.insert m.poison }
  let s := s.modFab fun f => { f with
    slots := FMap.putAll Slot.empty f.slots i.slots
    windows := FMap.putAll Window.unbound f.windows i.windows
    sems := FMap.putAll 0 f.sems i.sems
    planes := FMap.putAll Plane.empty f.planes i.planes
    arrays := FMap.putAll Array.idle f.arrays i.arrays
    deques := FMap.putAll [] f.deques i.deques
    msgs := FMap.putAll [] f.msgs i.msgs
    lost := FMap.putAll 0 f.lost i.lost
    binds := FMap.putAll none f.binds i.binds
    tvec := FMap.putAll 0 f.tvec i.tvec }
  let s := i.parts.foldl (fun s e => s.setPart e.1 e.2) s
  let s := i.slots.foldl (fun s e =>
    match e.2.unit, e.2.mode with
    | some u, .parked (.taken rpc) => s.resumeUnit e.1 (u.setPurposes []) rpc
    | _, _ => s) s
  let s := (s.work.launches.filter fun l => decide (l.state = .placed) && decide (s.pidOf (s.tagOfJob l.id.job) = t.pid)).foldl
    (fun s l => s.fuseTeam l (teamTiles l.desc (l.origin.getD 0))) s
  (s.schedule (s.ck + 1) .timeSliceExpiry).schedule (s.ck + 1) (.launchPlacement t.pid)

/-- Cancel a job (R238): every launch of it, the standing launch included. -/
def State.cancelJob (s : State) (job : Nat) (m : Mark) : State := s.endTargets (s.targets job 3 job) m none

/-- End a launch that loses a unit by a deadline or a bad image: a standing launch takes its job with it (R365). -/
def State.endWithJob (s : State) (id : LaunchId) (m : Mark) : State :=
  if id.handle = 1 then s.cancelJob id.job m else s.endLaunch id m none

/-- The launches that have units in an image. -/
def SwapImage.launches (i : SwapImage) : List LaunchId :=
  (i.slots.filterMap fun e => e.2.unit.map Ctx.launchId).eraseDups

/-- The weight of an image's deque entries and queued messages returns to its phases with a mark (R295). -/
def State.returnImage (s : State) (i : SwapImage) (m : Mark) : State :=
  let s := (i.deques.flatMap (·.2)).foldl (fun s x => s.returnWeight ⟨x.job, x.phase⟩ x.k m 0) s
  (i.msgs.flatMap (·.2)).foldl (fun s x => match x.weight with
    | some (k, p) => s.returnWeight p k m 0
    | none => s) s

/-- Restore an image (R342, R344): one whose seal fails is not resumed; its launches are cancelled with the fault mark, with which the
weight of its deque entries and messages returns too (log entry 45). -/
def State.restoreImage (s : State) (t : Tenant) (i : SwapImage) : State :=
  if i.bad || !s.opens t.tag i.under false then
    let s := i.launches.foldl (fun s id => s.endWithJob id .fault) (s.logEvent 7 8 i.pid 0 0 (some t.tag))
    let s := s.returnImage i .fault
    (s.modWork fun w => { w with swapped := w.swapped.filter fun x => decide (x.pid ≠ i.pid) }).setOwner t.tiles (some t.tag)
  else s.swapIn t i

/-- The image that comes in for a partition's tiles: the oldest of another tenant of the same cluster. -/
def State.incomingImage (s : State) (t : Tenant) : Option (Tenant × SwapImage) :=
  s.work.swapped.findSome? fun i =>
    match s.tenantOfPid i.pid with
    | some x => if x.pid ≠ t.pid ∧ ¬ x.halted ∧ x.tiles.all t.tiles.contains then some (x, i) else none
    | none => none

/-- The exchange (R342 step 3). -/
def State.exchangeImages (s : State) (t : Tenant) : State :=
  let s := s.modWork fun w => { w with swaps := w.swaps.filter fun r => decide (r.pid ≠ t.pid) }
  match s.work.swapped.find? fun i => decide (i.pid = t.pid) with
  | some i => s.restoreImage t i
  | none =>
    let s := s.swapOut t
    match s.incomingImage t with
    | some (x, i) => s.restoreImage x i
    | none => s

/-- Request a swap of every unit of a partition that has not been taken. -/
def State.requestSwap (s : State) (t : Tenant) : State :=
  (s.fab.slots.filter fun e => t.tiles.contains (tileOf (e.1 / 16))).foldl (fun s e => s.request e.1 .swap) s

/-- The exchange begins: it ends within 20 µs. -/
def State.beginExchange (s : State) (t : Tenant) (deadline : Nat) : State :=
  let ends := s.ck + 1 + Config.latency s.freeCtr % 18000
  let r : SwapReq := ⟨t.pid, deadline, some ends⟩
  let s := s.modWork fun w => { w with swaps := (w.swaps.filter fun x => decide (x.pid ≠ t.pid)) ++ [r] }
  ({ s with freeCtr := s.freeCtr + 1 }).schedule ends (.partitionSwap t.pid)

/-- Firmware requests the swap of a partition: of its units, or of an image whose tiles have no owner. -/
def State.startSwap (s : State) (t : Tenant) : State :=
  if !t.oneCluster then s
  else if s.work.swapped.any fun i => decide (i.pid = t.pid) then
    if t.tiles.all fun x => (s.ownerOf x).isNone then s.beginExchange t (s.ck + t.deadline) else s
  else
    let r : SwapReq := ⟨t.pid, s.ck + t.deadline, none⟩
    let s := s.modWork fun w => { w with swaps := w.swaps ++ [r] }
    (s.requestSwap t).schedule (s.ck + t.deadline) .swapDeadline

/-- PARTITION_SWAP (R342): the request of firmware, and the end of an exchange. A halted partition's slots are held as they stand, and it
is not swapped (R337). -/
def execPartitionSwap (pid : Nat) (s : State) : Host.Outcome State Fault Refusal :=
  .next (match s.tenantOfPid pid with
    | none => s
    | some t =>
      if t.halted then s else
      match s.work.swaps.find? fun r => decide (r.pid = pid) with
      | none => s.startSwap t
      | some r =>
        match r.until_ with
        | some u => if u ≤ s.ck then s.exchangeImages t else s
        | none => s)

/-- Nothing of a partition's tiles is in flight, and every occupied slot has been taken (R342 step 2). -/
def State.swapReady (s : State) (t : Tenant) : Bool :=
  let mine (tile : Nat) : Bool := t.tiles.contains tile
  (s.fab.slots.all fun e => !mine (tileOf (e.1 / 16)) || e.2.isEmpty || e.2.isTaken) &&
    !(s.work.ops.any fun o => mine o.tile) && !(s.fab.sbuf.any fun e => mine e.who.tile) &&
    s.fab.arrays.all fun e => !mine (tileOf e.1) || e.2.port.isEmpty

/-- The swaps that wait for their units: late ones are asked, and an exchange that may begin does. -/
def State.swapSweep (s : State) : State :=
  s.work.swaps.foldl (fun s r =>
    match r.until_, s.tenantOfPid r.pid with
    | none, some t =>
      if t.halted then s else
      let s := s.requestSwap t
      if s.swapReady t then s.beginExchange t r.deadline else s
    | _, _ => s) s

/-- End the units of a partition that have not been taken (R342): as by `cancel.launch`, and logged. -/
def State.endUntaken (s : State) (t : Tenant) : State :=
  let late := (s.fab.slots.filter fun e => t.tiles.contains (tileOf (e.1 / 16)) && !e.2.isTaken).filterMap (·.2.unit)
  let s := late.foldl (fun s u => s.logEvent 10 10 0 0 u.uid.toNat (some t.tag)) s
  late.foldl (fun s u => s.endWithJob u.launchId .cancel) s

/-- SWAP_DEADLINE (R342). A unit that is on its way into a slot is ended when it is there; a halted partition's slots are held
(R337). -/
def execSwapDeadline (s : State) : Host.Outcome State Fault Refusal :=
  .next (s.work.swaps.foldl (fun s r =>
    match r.until_, s.tenantOfPid r.pid with
    | none, some t =>
      if r.deadline ≤ s.ck ∧ ¬ t.halted then
        let s := s.endUntaken t
        if s.fab.slots.any fun e => t.tiles.contains (tileOf (e.1 / 16)) && !e.2.isEmpty && !e.2.isTaken then
          s.schedule (s.ck + 64) .swapDeadline
        else s
      else s
    | _, _ => s) s)

/-! ## Safe points of units out of the rotation (R326, R338) -/

/-- A wait that is a safe point (R338). -/
def Wait.isSafe (w : Wait) : Bool :=
  match w with
  | .bar .. | .cnt .. | .sync .. | .idleRound _ => true
  | _ => false

/-- The slot's unit stands at a safe point outside the rotation with a request that takes it: when it entered its wait, and its
resume PC when it is parked. -/
def State.standing (s : State) (sl : Slot) : Option (Ctx × Nat × Option Word) :=
  match sl.unit with
  | none => none
  | some u =>
    if s.haltedTag u.tag ∨ ¬ s.safeNow u then none
    else
      match sl.mode with
      | .waiting (.safe npc) since => if u.takePurpose.isSome then some ({ u with pc := npc }, since, none) else none
      | .waiting w since => if w.isSafe ∧ u.takePurpose.isSome then some (u, since, none) else none
      | .parked (.trap rpc) =>
        let ps := u.purposes.filter (· ≠ .spill)
        if ps.any (· ≠ .reload) then some ({ u with purposes := ps }, 0, some rpc) else none
      | _ => none

/-- Insert a slot by the order in which units are taken: latest entry, then tile rank, then slot (R326). -/
def insertTaken (a : Nat × Nat × Nat) : List (Nat × Nat × Nat) → List (Nat × Nat × Nat)
  | [] => [a]
  | b :: bs =>
    if b.1 < a.1 ∨ (b.1 = a.1 ∧ (a.2.1 < b.2.1 ∨ (a.2.1 = b.2.1 ∧ a.2.2 < b.2.2))) then a :: b :: bs
    else b :: insertTaken a bs

/-- The rank of a tile in a tenant's partition. -/
def State.rankOf (s : State) (tag tile : Nat) : Nat :=
  match s.tenant tag with
  | some t => t.tiles.idxOf tile
  | none => 0

/-- The slots whose units are taken at the end of this ck, in order. -/
def State.takenOrder (s : State) : List Nat :=
  (s.fab.slots.foldl (fun acc e =>
    match s.standing e.2 with
    | some (u, since, _) => insertTaken (since, s.rankOf u.tag (tileOf (e.1 / 16)), e.1) acc
    | none => acc) []).map (·.2.2)

/-- The units at a `safe` that no request takes any more complete it (R119). -/
def State.leaveSafe (s : State) : State :=
  s.fab.slots.foldl (fun s e =>
    match (s.slotAt e.1).mode, (s.slotAt e.1).unit with
    | .waiting (.safe npc) _, some u =>
      if u.takePurpose.isSome ∨ s.haltedTag u.tag then s else s.completeSafe e.1 npc id
    | _, _ => s) s

/-- Take the units that stand at safe points; each one taken may end a granted pre-emption, and the units at a `safe` that are then
not needed complete it. -/
def State.takeStanding (s : State) : State :=
  (s.takenOrder.foldl (fun s k =>
    match s.standing (s.slotAt k) with
    | none => s
    | some (u, _, rpc) =>
      let s := (s.takeDrained (refOfKey k) u rpc).1
      match s.job u.job with
      | some j => if s.swapping j.pid then s else s.grantPreemption j
      | none => s) s).leaveSafe

/-! ## Ends that waited (R199) -/

/-- A unit whose end waited for its tile, and that is in a multiply-accumulate no more, ends. -/
def State.doomedSweep (s : State) : State :=
  s.fab.slots.foldl (fun s e =>
    let sl := s.slotAt e.1
    match sl.unit.bind (·.doomed) with
    | some m => if sl.inMmac then s else s.endSlot e.1 m
    | none => s) s

/-! ## The setter table (R301) -/

/-- The rectangle of a collective's scope in its team's logical tiles, as a scope register holds it. -/
def State.scopeRect (s : State) (o : Op) (scope : Nat) : Word :=
  let u := o.frame
  let ts := (List.range (u.tw * u.th)).filter fun r =>
    match s.teamTile u o.tile (r % u.tw) (r / u.tw) with
    | some t => inCollScope scope (r % u.tw) (r / u.tw) t
    | none => false
  let least (xs : List Nat) : Nat := xs.foldl min (xs.headD 0)
  let most (xs : List Nat) : Nat := xs.foldl max 0
  let xs := ts.map (· % u.tw)
  let ys := ts.map (· / u.tw)
  BitVec.ofNat 64 (least xs + least ys * 2 ^ 8 + most xs * 2 ^ 16 + most ys * 2 ^ 24)

/-- An operation that waits for participants or for room, with its reason and object. A message behind an earlier one to the same
store waits for that room too. -/
def State.opReason (s : State) (o : Op) : Option (Nat × Word) :=
  match o.kind with
  | .coll _ _ _ scope _ _ _ _ =>
    if (s.joined o).length = s.participants o scope then none else some (8, s.scopeRect o scope)
  | .message recv _ _ payload =>
    match s.messageCore o recv with
    | some c => if s.freePlace c || !(payload.isSome || s.earlierMessage o recv) then none else some (11, recv)
    | none => none
  | _ => none

/-- The bits of the classes bound to a unit. -/
def State.classBits (s : State) (r : SlotRef) (key : Nat) : Word :=
  BitVec.ofNat 64 (((List.range 8).filter fun c => !(s.boundCores r key c).isEmpty).foldl (fun n c => n + 2 ^ c) 0)

/-- REASON and OBJ of a waiting unit's entry (R301); none for a wait that is not listed. -/
def State.setterReason (s : State) (k : Nat) (u : Ctx) (w : Wait) : Option (Nat × Word) :=
  let phase : Word := BitVec.ofNat 64 u.phase
  match w with
  | .sem n _ => some (1, BitVec.ofNat 64 n)
  | .bar a .. => some (2, a)
  | .cnt a .. => some (3, a)
  | .sync a .. => some (4, a)
  | .quiet .. => some (5, phase)
  | .idleRound _ => some (6, phase)
  | .sleep none _ => some (7, s.classBits (refOfKey k) u.key)
  | .token regs =>
    let ops := regs.filterMap fun n => s.work.ops.find? fun o => decide (o.unit = u.key) && decide (o.token = n)
    let rs := ops.map s.opReason
    if rs.length = regs.length ∧ rs.all (·.isSome) then rs.headD none else none
  | .dequeFull => some (9, phase)
  | .segmentFull seg .. => if 4096 ≤ (s.segAt seg).length then some (10, BitVec.ofNat 64 seg) else none
  | .borrowRefused => some (12, phase)
  | _ => none

/-- A slot's entry. -/
def State.setterEntry (s : State) (k : Nat) : Option (Nat × Word) :=
  let sl := s.slotAt k
  match sl.unit, sl.mode with
  | some u, .waiting w _ => s.setterReason k u w
  | _, _ => none

/-- The bytes of an entry (R301). -/
def State.setterBytes (s : State) (k : Nat) (e : Nat × Word) : List Byte :=
  let uid := match (s.slotAt k).unit with
    | some u => u.uid.toNat
    | none => 0
  bytesOfNat (e.2.toNat * 2 ^ 64 + uid * 2 ^ 40 + kindOf (k / 16) * 2 ^ 34 + k % 16 * 2 ^ 30 + e.1) 16

/-! ## Hangs (R302, R303) -/

/-- The cores that hold a unit of a job. -/
def State.jobCores (s : State) (job : Nat) : List Nat :=
  ((s.fab.slots.filter fun e => match e.2.unit with
    | some u => decide (u.job = job)
    | none => false).map (·.1 / 16)).eraseDups

/-- A unit of a job is held in a spill image or in a swapped partition, to be resumed (R312). -/
def State.jobHeld (s : State) (job : Nat) : Bool :=
  (s.work.launches.any fun l => decide (l.id.job = job) && l.queue.any (·.image.isSome)) ||
    s.work.swapped.any fun i => i.slots.any fun e => match e.2.unit with
      | some u => decide (u.job = job)
      | none => false

/-- Something of a job is in flight: operations that do not wait for their setters, buffered stores, plane loads, placement
requests, moves, returns of weight, and requests of hosts and peers. -/
def State.jobBusy (s : State) (j : Job) : Bool :=
  let mine (n : Nat) : Bool := decide ((s.extentAt n).owner = j.tag) && decide ((s.extentAt n).state ≠ .unallocated)
  (s.work.ops.any fun o => decide (o.job = j.handle) && !o.dead && (s.opReason o).isNone) ||
    (s.fab.sbuf.any fun e => decide (e.who.tag = j.tag)) ||
    (s.fab.arrays.any fun e => j.tiles.contains (tileOf e.1) && !e.2.port.isEmpty) ||
    (s.store.requests.any fun r => mine r.extent) ||
    (s.store.extents.any fun e => decide (e.2.owner = j.tag) && decide (e.2.state = .moving)) ||
    (s.agenda.any fun e => match e.2 with
      | .rootReturn r => decide (r.phase.job = j.handle)
      | _ => false) ||
    s.store.inbound.any (fun e => decide (e.1 = j.tag)) || s.store.peerReqs.any fun q => decide (q.tag = j.tag)

/-- The first two conditions of R302, and no unit of the job held in an image (R312). -/
def State.jobStuck (s : State) (j : Job) : Bool :=
  let cores := s.jobCores j.handle
  !cores.isEmpty && !s.jobHeld j.handle && !s.jobBusy j &&
    s.fab.slots.all fun e => !cores.contains (e.1 / 16) || e.2.isEmpty || (s.setterEntry e.1).isSome

/-- The entries that a job has in the setter tables: the unit, and the ck of its wait. -/
def State.jobEntries (s : State) (job : Nat) : List (Nat × Nat) :=
  s.fab.slots.filterMap fun e => match e.2.unit, e.2.mode with
    | some u, .waiting _ since => if u.job = job ∧ (s.setterEntry e.1).isSome then some (u.key, since) else none
    | _, _ => none

/-- Whether an entry of a job's last hang has left its table. -/
def State.entryLeft (s : State) (j : Job) : Bool :=
  match j.hung with
  | some es => es.any fun e => !(s.jobEntries j.handle).contains e
  | none => false

/-- Watch every job: the ck in which its conditions begin to hold, and when they end. Once an entry of a declared hang has left its
table, another may be declared, counted from then (log entry 38). -/
def State.hangSweep (s : State) : State :=
  s.work.jobs.foldl (fun s j =>
    let left := s.entryLeft j
    let s := if left then s.modJob j.handle fun x => { x with hung := none, idleFrom := 0 } else s
    if s.jobStuck j then
      if j.idleFrom = 0 ∨ left = true then
        (s.modJob j.handle fun x => { x with idleFrom := s.ck + 1 }).schedule (s.ck + 4096) .hangDeclared
      else s
    else s.modJob j.handle fun x => { x with idleFrom := 0 }) s

/-- The hang message of a core (R334, R335): it replaces one that is still unread. -/
def State.hangMessage (s : State) (core : Nat) : State :=
  let zero := (s.setterEntry (16 * core)).getD (0, 0)
  let ks := ((List.range 15).map fun n => 16 * core + n + 1).filterMap fun k => (s.setterEntry k).map fun e => (k, e)
  let uid := match (s.slotAt (16 * core)).unit with
    | some u => u.uid
    | none => 0
  let payload := bytesOfNat zero.2.toNat 8 ++ bytesOfNat (15 + ks.length * 2 ^ 16 + zero.1 * 2 ^ 24) 8 ++
    ks.flatMap fun e => s.setterBytes e.1 e.2
  let m : Msg := ⟨7, uid, payload, none, msgHang⟩
  (s.setMsgs core ((s.msgsOf core).filter fun x => x.kind != msgHang)).queueTrapMsg core m

/-- Whether a core's context zero sleeps. -/
def State.zeroSleeps (s : State) (core : Nat) : Bool :=
  match (s.slotAt (16 * core)).mode with
  | .waiting (.sleep ..) _ => true
  | _ => false

/-- Firmware writes the record of a core's context zero for an escalated hang (R303, R337): the hang has parked no unit, so NONPARK is 1
(R332). -/
def State.hangRecord (s : State) (core : Nat) : State :=
  let r : SlotRef := ⟨core, 0⟩
  match s.unitAt r with
  | some u =>
    let w := s.writeRecord r u ⟨{ cause := 15, nonpark := true }, u.pc, u.pc⟩ (s.tvecOf core) none true
    w.1.putUnit r w.2
  | none => s

/-- Declare a job's hang (R303). -/
def State.declareHang (s : State) (j : Job) : State :=
  let cores := s.jobCores j.handle
  let sleeper := cores.any s.zeroSleeps
  let entries := ((s.fab.slots.map (·.1)).filter fun k => cores.contains (k / 16) && (s.setterEntry k).isSome).length
  let s := s.modJob j.handle fun x => { x with hung := some (s.jobEntries j.handle) }
  let t := cores.foldl (fun t c => t.hangMessage c) s
  if sleeper then t
  else ((cores.foldl State.hangRecord t).haltPartition j.tag).logEvent 9 10 0 entries 0 (some j.tag)

/-- HANG_DECLARED (R302): 4,096 ck have passed. -/
def execHangDeclared (s : State) : Host.Outcome State Fault Refusal :=
  .next (s.work.jobs.foldl (fun s j =>
    if j.idleFrom ≠ 0 ∧ j.hung.isNone ∧ j.idleFrom + 4095 ≤ s.ck ∧ s.jobStuck j then s.declareHang j else s) s)

end Sys2Proof.Machine
end

