-- ==== Sys2Proof/Machine/Extents.lean ====
section
/-!
DEFINITION. Extents and lines over time (R246, R249 to R251, R255, R387 to R394, R405): placement requests, eviction, moves, the
write-back of an L1 line, retention, soft errors, resealing and the sweep of a rekey; and how a mailbox channel takes
the result of its command (R401).
-/
namespace Sys2Proof.Machine

open Sys2Proof

/-! ## Channels (R400, R401) -/

def State.chan (s : State) (ch : Nat) : Channel := FMap.get Channel.fresh s.firm.chans ch
def State.setChan (s : State) (ch : Nat) (c : Channel) : State :=
  s.modFirm fun f => { f with chans := FMap.set Channel.fresh f.chans ch c }

/-- The command a channel works on has its status and reply; it completes at a time the manual does not promise. -/
def State.finish (s : State) (ch status : Nat) (reply : List Word) : State :=
  (s.setChan ch { s.chan ch with result := some status, reply := reply }).scheduleFree 1 (.commandComplete ch)

/-! ## Where extents lie (R405) -/

/-- Whether an extent lies in the bonded DRAM of a die, or is on its way there. -/
def Extent.onDie (e : Extent) (die : Nat) : Bool := decide (e.place = .dram die) || decide (e.target = .dram die)

/-- Whether an extent takes a backing slot of the tier. -/
def Extent.inTier (e : Extent) : Bool :=
  let cxl (p : Place) : Bool := match p with
    | .cxl _ => true
    | _ => false
  cxl e.place || cxl e.target

/-- Free extents of a die's bonded DRAM. -/
def State.freeOnDie (s : State) (die : Nat) : Nat :=
  Config.dramExtents - (s.store.extents.filter fun e => e.2.onDie die).length

/-- The lowest-numbered CXL port that is up, when the qualified capacity of the tier holds another extent (R410, R405). -/
def State.tierPort (s : State) : Option Nat :=
  if ((s.store.extents.filter fun e => e.2.inTier).length + 1) * 2 ^ 21 ≤ Config.tierBytes then
    (List.range 8).find? fun p => !s.firm.links.cxlDown.contains p
  else none

/-- Write back and discard every cached copy of an extent's lines, in L1s, L2 slices and instruction caches (R251). -/
def State.flushExtent (s : State) (n : Nat) : State :=
  let mine (line : Nat) : Bool := decide (extentOf (line * 128) = n)
  let s := s.writeBackWhere (fun x => mine x.line)
  let s := ((s.store.l2.map (·.line)).filter mine).foldl State.l2Evict s
  s.modFab fun f => { f with icache := f.icache.filter fun k => !mine (k % 2 ^ 50) }

/-- The operations that wait for an extent go on in this ck. -/
def State.releaseOps (s : State) (n : Nat) : State :=
  let waiting := s.work.ops.filter fun o => decide (o.waits = some n)
  let s := s.modWork fun w => { w with ops := w.ops.map fun o => if o.waits = some n then { o with waits := none } else o }
  waiting.foldl (fun s o => s.schedule s.ck o.event) s

/-- The buffered stores that wait for an extent go on in this ck. -/
def State.releaseStores (s : State) (n : Nat) : State :=
  let waiting := s.fab.sbuf.filter fun e => e.keys.any fun k => isGlobalKey k && decide (extentOf k = n)
  ((waiting.map StoreEntry.event).eraseDups).foldl (fun s i => s.schedule s.ck i) s

/-- The accesses that wait for an extent start again at step 4 of R130, in this ck (R250): slots, engines, plane loads, chunks and
buffered stores; inbound requests are looked at as every ck ends. -/
def State.releaseExtent (s : State) (n : Nat) : State :=
  let s := s.modStore fun m => { m with requests := m.requests.filter fun r => decide (r.extent ≠ n) }
  (((s.releaseOps n).releaseStores n).wakeArrays (·.isExtent n)).rejoinWhere fun _ w => w.isExtent n

/-- The object whose home a waiting unit is recorded at: its address, its key and its size. -/
def Wait.object (w : Wait) : Option (Word × Nat × Nat) :=
  match w with
  | .bar a loc .. => some (a, loc, 16)
  | .cnt a loc .. | .sync a loc _ => some (a, loc, 8)
  | _ => none

/-- The waits of barriers, counters and frames that lie in an extent take their no-extent traps, without another issue, when it is no
longer allocated (R59, R250). -/
def State.trapWaitersIn (s : State) (n : Nat) : State :=
  s.fab.slots.foldl (fun s e =>
    match e.2.mode, e.2.unit with
    | .waiting w _, some u =>
      match w.object with
      | some (a, loc, size) =>
        if isGlobalKey loc ∧ extentOf loc = n ∧ ¬ s.haltedTag u.tag then
          s.takeTrap (refOfKey e.1) u ⟨accTrap 8 a size 0 none, u.pc, u.pc⟩
        else s
      | none => s
    | _, _ => s) s

/-- An extent becomes fenced (R249, R251). -/
def State.fenceExtent (s : State) (n : Nat) : State :=
  let s := s.flushExtent n
  ((s.setExtent n { s.extentAt n with state := .fenced, target := .none }).releaseExtent n).trapWaitersIn n

/-- An extent moves (R251). -/
def State.startMove (s : State) (n : Nat) (target : Place) : State :=
  let s := s.flushExtent n
  s.setExtent n { s.extentAt n with state := .moving, target := target }

/-! ## Resealing (R393, R394) -/

/-- Whether the key of a tenant's previous period made a seal. -/
def Seal.isOld (x : Seal) (t : Tenant) : Bool :=
  decide (x.tag = t.tag) && decide (x.inst = t.inst) && decide ((x.period + 1) % 2 ^ 32 = t.period)

/-- A seal of the previous period, sealed again under a tenant's current one. -/
def Seal.renew (x : Seal) (t : Tenant) : Seal := if x.isOld t then { x with period := t.period } else x

/-- The sweep visits a line (R394): one whose PBIT is not that of the current period is opened and sealed again; one that fails to open
is left and logged (R389). -/
def State.resealLine (s : State) (t : Tenant) (line : Nat) : State :=
  let x := s.sealOf line
  if s.poisoned line ∨ x.period % 2 = t.period % 2 then s
  else
    let s := match s.l2Line line with
      | some y => s.wakeWay (16 * y.slice + y.way)
      | none => s
    let found := s.findLine line 1 ⟨0, some t.tag⟩
    let s := found.1
    if s.poisoned line then s
    else if x.isOld t ∧ x.code = (s.extentAt (extentOf (line * 128))).code then s.setSeal line (x.renew t)
    else s.logEvent 4 (s.lineErrors line).2 (line * 128) found.2.toNat 0 (some t.tag)

/-- Seal again every line of an extent that the previous period sealed (R394): those that are listed or hold errors one by one, the
others, which still lie as the extent was filled, at once. -/
def State.resealExtent (s : State) (n : Nat) (t : Tenant) : State :=
  let mine (line : Nat) : Bool := decide (extentOf (line * 128) = n)
  let words : FMap Nat := s.store.errors ++ s.store.l2errors
  let lines : List Nat := (s.store.seals.map Prod.fst ++ words.map fun (e : Nat × Nat) => e.1 / 16).filter mine
  let s := lines.eraseDups.foldl (fun (s : State) l => s.resealLine t l) s
  s.setExtent n { s.extentAt n with fill := (s.extentAt n).fill.renew t }

/-- RESEAL_COPY_ARRIVAL (R393): the home replaces the line only when its stored tag is the one that was opened. -/
def execResealCopyArrival (copy : ResealCopy) (s : State) : Host.Outcome State Fault Refusal :=
  .next (match s.tenant copy.tag with
    | none => s
    | some t =>
      let x := s.sealOf copy.line
      if x.period = copy.stamp ∧ x.renew t ≠ x ∧ ¬ s.poisoned copy.line then s.setSeal copy.line (x.renew t) else s)

/-- Whether a peer is home to an extent. -/
def Extent.onPeer (e : Extent) : Bool :=
  match e.place with
  | .peer _ => true
  | _ => false

/-- The next extent of a tenant from a number on. -/
def State.nextExtent (s : State) (tag n : Nat) : Option (Nat × Extent) :=
  s.store.extents.find? fun e => decide (n ≤ e.1) && decide (e.2.owner = tag) && decide (e.2.state ≠ .unallocated)

/-- The image of a waiting unit is sealed again. -/
def Launch.renewImages (t : Tenant) (l : Launch) : Launch :=
  { l with queue := l.queue.map fun p => { p with under := p.under.renew t } }

/-- The sweep ends: the tenant's spill and swap images are sealed again, and the tenant has one live period (R394). -/
def State.endSweep (s : State) (t : Tenant) : State :=
  let s := s.modWork fun w => { w with
    swapped := w.swapped.map fun i => { i with under := i.under.renew t }
    launches := w.launches.map (Launch.renewImages t) }
  (s.modTenant t.tag fun x => { x with sweep := none }).logEvent 12 10 0 t.period 0 (some t.tag)

/-- REKEY_SWEEP (R394): the sweep visits the tenant's next extent, or waits for it. It asks for an absent one for die 0, which the spec
does not name (log entry 58). A peer is home to its own lines and sweeps them, and the tenant's sweep is complete when every package's is
(R414). -/
def execRekeySweep (tag : Nat) (s : State) : Host.Outcome State Fault Refusal :=
  .next (match s.tenant tag with
    | none => s
    | some t =>
      match t.sweep with
      | none => s
      | some n =>
        match s.nextExtent tag n with
        | none => if s.ck < t.swept then s.schedule t.swept (.rekeySweep tag) else s.endSweep t
        | some (m, e) =>
          let again (s : State) : State := s.scheduleFree 1 (.rekeySweep tag)
          let go (s : State) : State := again (s.modTenant tag fun x => { x with sweep := some (m + 1) })
          if e.onPeer then go s else
          match e.state with
          | .present => go (s.resealExtent m t)
          | .absent => again ((s.modTenant tag fun x => { x with sweep := some m }).requestExtent m 0 true)
          | .moving => again (s.modTenant tag fun x => { x with sweep := some m })
          | .fenced | .unallocated => go s)

/-! ## Placement requests and eviction (R250, R405) -/

/-- The free extents of a die have fallen below the reserve. -/
def State.belowReserve (s : State) (die : Nat) : Bool := decide (s.freeOnDie die < Config.dramExtents / 64)

/-- Firmware evicts extents of a die while it is below its reserve; one eviction of a die is under way at a time. -/
def State.checkReserve (s : State) (die : Nat) : State :=
  if s.belowReserve die ∧ ¬ s.agenda.any (fun a => decide (a.2 = .extentEviction die)) then s.scheduleFree 1 (.extentEviction die) else s

/-- The seal that an owner's lines of an extent carry when it is filled with zeros. -/
def State.fillSeal (s : State) (e : Extent) : Seal := { s.dataSeal e.owner with code := e.code }

/-- A place behind a CXL port that is down. -/
def State.cutOff (s : State) (p : Place) : Bool :=
  match p with
  | .cxl port => s.firm.links.cxlDown.contains port
  | _ => false

/-- Bring an absent extent in: into the die of the first request, else into the tier; its lines are copied, or it is filled with
zeros. None when there is no room, or while the port of its backing slot is down. -/
def State.bringIn (s : State) (r : PlaceReq) : Option State :=
  let e := s.extentAt r.extent
  let place := if 0 < s.freeOnDie r.die then some (.dram r.die)
    else if e.inTier then some e.place
    else s.tierPort.map Place.cxl
  if s.cutOff e.place then none else place.map fun p =>
    let e := { e with state := .present, place := p, fill := if e.ever then e.fill else s.fillSeal e, ever := true, touched := s.ck }
    let s := s.setExtent r.extent e
    let s := match s.tenant e.owner with
      | some t => if t.sweep.isSome then s.resealExtent r.extent t else s
      | none => s
    (s.releaseExtent r.extent).checkReserve r.die

/-- The request served next: the oldest ordinary one, else the oldest of low priority. -/
def State.nextRequest (s : State) : Option PlaceReq :=
  (s.store.requests.find? fun r => !r.low).orElse fun _ => s.store.requests.head?

/-- PLACEMENT_REQUEST_SERVED (R250, R405). A request whose extent is no longer absent is dropped. -/
def execPlacementRequestServed (s : State) : Host.Outcome State Fault Refusal :=
  .next (match s.nextRequest with
    | none => s
    | some r =>
      if (s.extentAt r.extent).state = .absent then
        match s.bringIn r with
        | some s => s
        | none => s.scheduleFree 1 .placementRequestServed
      else s.modStore fun m => { m with requests := m.requests.filter fun x => decide (x.extent ≠ r.extent) })

/-- Whether a wait lies on an extent. -/
def State.waitedOn (s : State) (n : Nat) : Bool :=
  (s.fab.slots.any fun e => match e.2.mode with
    | .waiting (.extent m) _ => decide (m = n)
    | .waiting (.bar _ loc ..) _ | .waiting (.cnt _ loc ..) _ | .waiting (.sync _ loc _) _ =>
      isGlobalKey loc && decide (extentOf loc = n)
    | _ => false) || (s.work.ops.any fun o => decide (o.waits = some n)) ||
    s.fab.arrays.any fun e => e.2.portWait.any (·.isExtent n) || e.2.chunkWait.any (·.isExtent n)

/-- Whether firmware may evict an extent of a die (R405). -/
def State.evictable (s : State) (die n : Nat) (e : Extent) : Bool :=
  decide (e.state = .present) && decide (e.place = .dram die) && !s.waitedOn n &&
    (match s.tenant e.owner with
      | some t => decide (t.sweep ≠ some n)
      | none => true)

/-- The least recently accessed extent of a die that may be evicted. -/
def State.evictNext (s : State) (die : Nat) : Option Nat :=
  ((s.store.extents.filter fun e => s.evictable die e.1 e.2).foldl (fun (acc : Option (Nat × Nat)) e =>
    match acc with
    | some (_, t) => if e.2.touched < t then some (e.1, e.2.touched) else acc
    | none => some (e.1, e.2.touched)) none).map (·.1)

/-- EXTENT_EVICTION (R405): while the die is below its reserve. When no extent may be evicted or the tier has no free slot, firmware
looks again later. -/
def execExtentEviction (die : Nat) (s : State) : Host.Outcome State Fault Refusal :=
  .next (if s.belowReserve die then
      match s.tierPort, s.evictNext die with
      | some p, some n =>
        let s := s.flushExtent n
        (s.setExtent n { s.extentAt n with state := .absent, place := .cxl p }).checkReserve die
      | _, _ => s.checkReserve die
    else s)

/-- The channels whose COMPACT waits for the end of an extent's move. -/
def State.compacting (s : State) (n : Nat) : List Nat :=
  (s.firm.chans.filter fun e => match e.2.work with
    | some a => decide (a.code = 0x0F) && a.begun && decide (((a.quads.drop 1).headD 0).toNat = n)
    | none => false).map (·.1)

/-- EXTENT_MOVE_END (R251, R368): the extent is present at its target, and its waiters go on. While the port it lies behind is down the
move waits (R411); when the target's port is down the extent stays where it was, and the `COMPACT` answers 4, for which the spec names
no status (log entry 28). -/
def execExtentMoveEnd (extent : Nat) (s : State) : Host.Outcome State Fault Refusal :=
  .next (let e := s.extentAt extent
    if e.state = .moving ∧ e.target ≠ .none then
      if s.cutOff e.place then s.scheduleFree 1 (.extentMoveEnd extent)
      else if s.cutOff e.target then
        let s := s.setExtent extent { e with state := .present, target := .none }
        (s.compacting extent).foldl (fun s ch => s.finish ch 4 []) (s.releaseExtent extent)
      else
      let s := s.setExtent extent { e with state := .present, place := e.target, target := .none }
      let s := (s.compacting extent).foldl (fun s ch => s.finish ch 0 []) (s.releaseExtent extent)
      match e.target with
      | .dram die => s.checkReserve die
      | _ => s
    else s)

/-! ## Lines -/

/-- L1_WRITE_BACK (R253, R255): a tile's L1 evicts a dirty line. -/
def execL1WriteBack (tile line : Nat) (s : State) : Host.Outcome State Fault Refusal :=
  .next (match s.l1Copy (s.l1Of tile line) line with
    | some l => s.evictCopy l
    | none => s)

/-- RETENTION_ENTRY (R246, R388): a bank, or an L2 way of the 320 slices, that no access has reached for 65,536 ck enters retention in
461 ck. -/
def execRetentionEntry (bank : Nat) (s : State) : Host.Outcome State Fault Refusal :=
  .next (if bank < firstWay then
      match s.bankAt bank with
      | .awake last =>
        if last + 65536 ≤ s.ck then
          (s.setBank bank (.entering (s.ck + 461) false)).schedule (s.ck + 461) .retentionExitComplete
        else s
      | _ => s
    else
      let w := bank - firstWay
      match s.wayAt w with
      | .awake last =>
        if w < 5120 ∧ last + 65536 ≤ s.ck then
          (s.setWay w (.entering (s.ck + 461) false)).schedule (s.ck + 461) .retentionExitComplete
        else s
      | _ => s)

/-! ## Soft errors (R387, R390) -/

/-- Bits flip in an 8-byte word of a scratchpad or of backing memory; its code finds them later. -/
def State.flipBits (s : State) (word bits : Nat) : State := s.setErrors word (FMap.get 0 s.store.errors word + bits)

/-- Bits flip in a word of an L2 copy, if the L2 holds the line. -/
def State.flipL2 (s : State) (line word bits : Nat) : State :=
  let w := 16 * line + word % 16
  match s.l2Line line with
  | some _ => s.modStore fun m => { m with l2errors := FMap.set 0 m.l2errors w (FMap.get 0 m.l2errors w + bits) }
  | none => s

/-- An error in a copy that an L1 or an instruction cache holds: corrected, or the line is marked; `dirty` says that dirty bytes are lost
with the copy. The log has no SRC of its own for an instruction cache, and the model gives it the L1's (log entry 58). -/
def State.copyError (s : State) (line bits : Nat) (dirty : Bool) (tag : Option Nat) (drop : State → State) : State :=
  if bits ≤ 1 then s.logEvent 1 0 (line * 128) bits 0 tag
  else ((drop s).setPoison line).logEvent 2 0 (line * 128) dirty.toNat 0 tag

/-- An error in a tile's L1, if it holds the line. -/
def State.l1Error (s : State) (tile line bits : Nat) : State :=
  match s.l1Copy (s.l1Of tile line) line with
  | some l => s.copyError line bits (!l.dirty.isEmpty) (s.ownerOf tile) fun s =>
      s.modStore fun m => { m with l1 := removeFirst (fun x => decide (x = l)) m.l1 }
  | none => s

/-- An error in a tile's instruction cache, if it holds the line. -/
def State.codeError (s : State) (tile line bits : Nat) : State :=
  let key := icacheKey tile line
  if s.fab.icache.contains key then
    s.copyError line bits false (s.ownerOf tile) fun s => s.modFab fun f => { f with icache := NSet.erase f.icache key }
  else s

/-- An error in a weight plane: corrected, or its failure mark takes the poison cause. -/
def State.planeError (s : State) (core : Nat) (active : Bool) (bits : Nat) : State :=
  let which := if active then 0 else 1
  if bits ≤ 1 then s.logEvent 1 7 0 bits
  else
    (s.setPlane core which { s.planeAt core which with failc := some { cause := 11 } }).logEvent 2 7 0 0

/-- An error in a scalar register or a vector row of a unit: corrected, or the register is poisoned (R52, R390). -/
def State.registerError (s : State) (unit reg bits : Nat) (row : Bool) : State :=
  match s.findUnit unit with
  | none => s
  | some (_, _, u) =>
    if bits ≤ 1 then s.logEvent 1 6 0 bits u.uid.toNat (some u.tag)
    else
      (s.modUnit unit fun u => if row then u.setRow reg (u.row reg) 15 else { u with pois := NSet.insert u.pois reg }).logEvent
        11 6 0 reg u.uid.toNat (some u.tag)

/-- An error in a spill or swap image: corrected, or the seal of the image will fail its check (R344). -/
def State.imageError (s : State) (bits : Nat) (g : Work → Work) : State := if bits ≤ 1 then s.logEvent 1 8 0 bits else s.modWork g

/-- Mark the image of a unit. -/
def Launch.spoil (unit : Nat) (l : Launch) : Launch :=
  let mark (p : Pending) : Pending := match p.image with
    | some u => if u.key = unit then { p with bad := true } else p
    | none => p
  { l with queue := l.queue.map mark }

/-- Mark the image of a partition. -/
def SwapImage.spoil (pid : Nat) (i : SwapImage) : SwapImage := if i.pid = pid then { i with bad := true } else i

/-- SOFT_ERROR (R387). More bits than a code corrects are uncorrectable; `uncorr` makes an error so for both codes. -/
def execSoftError (err : SoftErr) (s : State) : Host.Outcome State Fault Refusal :=
  .next (let bits := if err.uncorr then 3 else err.bits
    match err.place with
    | .scratchWord tile word => s.flipBits (scratchKey tile 0 / 8 + word % 2 ^ 17) bits
    | .l2Line line word => s.flipL2 line word bits
    | .dramLine line word => s.flipBits (16 * line + word % 16) bits
    | .l1Line tile line => s.l1Error tile line bits
    | .icacheLine tile line => s.codeError tile line bits
    | .plane core active => s.planeError core active bits
    | .scalar unit reg => s.registerError unit reg bits false
    | .row unit reg => s.registerError unit reg bits true
    | .spillImage unit => s.imageError bits fun w => { w with launches := w.launches.map (Launch.spoil unit) }
    | .swapImage pid => s.imageError bits fun w => { w with swapped := w.swapped.map (SwapImage.spoil pid) }
    | .descBlock word => s.flipBits (descKey 0 / 8 + word % 2 ^ 13) bits)

end Sys2Proof.Machine
end

