-- ==== Sys2Proof/Machine/Links.lean ====
section
/-!
DEFINITION. The outside of the package (R275, R277, R378, R408 to R415, R422, R423): inbound requests, device-register reads, host,
CXL and carr links, peers, and the temperature.
-/
namespace Sys2Proof.Machine

open Sys2Proof

/-! ## Inbound requests (R277, R378, R408) -/

/-- A request from outside is answered. -/
def State.answer (s : State) (who status : Nat) (data : List Byte) : State :=
  s.modStore fun m => { m with answers := m.answers ++ [⟨who, status, data⟩] }

def reqWrites (q : InboundReq) : Bool := q.write.isSome
def reqBytes (q : InboundReq) : Nat :=
  match q.write with
  | some bs => bs.length
  | none => q.len

/-- A request is refused: a read is answered with a status; a write is discarded. -/
def State.refuse (s : State) (q : InboundReq) (status : Nat) : State := if reqWrites q then s else s.answer q.requester status []

/-- A request fails a check of R378, and the error log counts it. -/
def State.failInbound (s : State) (q : InboundReq) (tag : Option Nat) (check status : Nat) : State :=
  (s.logEvent 6 9 q.addr.toNat (q.requester % 65536 + check * 65536) 0 tag).refuse q status

/-- The windows that a request's requester, range and direction match (check 1). -/
def State.windowsFor (s : State) (q : InboundReq) : List InWindow :=
  s.firm.inWins.filter fun w => decide (w.req = q.requester) && decide (w.base ≤ q.addr.toNat) &&
    decide (q.addr.toNat + reqBytes q ≤ w.limit) && (if reqWrites q then w.wr else w.rd)

/-- The request arrived on a selective stream keyed by the window's tenant, or the window asks for none (check 2). -/
def State.ideOk (s : State) (q : InboundReq) (w : InWindow) : Bool :=
  !w.ide || (match q.ide with
    | some n => s.firm.ide.contains (w.tag, n)
    | none => false)

/-- The reach check with INB (check 3). -/
def State.inboundReach (s : State) (tag : Nat) (q : InboundReq) : Bool :=
  match s.tenant tag with
  | some t => t.reach.any fun r => r.inb && (if reqWrites q then r.wr else r.rd) && decide (r.base ≤ q.addr.toNat) &&
      decide (q.addr.toNat + reqBytes q ≤ r.limit)
  | none => false

/-- The lines of a request that are opened: every line of a read, and those a write covers in part. -/
def reqOpened (q : InboundReq) : List Nat :=
  let a := q.addr.toNat
  let lines := (List.range ((a + reqBytes q + 127) / 128 - a / 128)).map (a / 128 + ·)
  if reqWrites q then lines.filter fun l => decide (l * 128 < a) || decide (a + reqBytes q < l * 128 + 128) else lines

/-- Whom the port of die 0 accesses memory for. -/
def portWho (tag : Nat) : Who := ⟨0, 0, 0, 0, tag, 0⟩

/-- Open lines for the inbound port. -/
def State.openAll (s : State) (tag : Nat) : List Nat → Acc
  | [] => .ok s []
  | l :: rest =>
    match (s.writeBack l).openLine tag l 0 0 9 with
    | .ok s _ => State.openAll (s.l2Access tag l 0) tag rest
    | r => r

/-- Write bytes at the homes of their lines under a tenant's data-seal key; whole lines clear their marks. -/
def State.writeSealed (s : State) (tag : Nat) (keys : List Nat) (bs : List Byte) : State :=
  let lines := (keys.map (· / 128)).eraseDups
  let s := lines.foldl (fun s l => (s.writeBack l).l2Access tag l 0) s
  let s := s.putHome (portWho tag) keys bs
  lines.foldl (fun s l =>
    if decide ((keys.filter fun k => decide (k / 128 = l)).length = 128) then s.clearPoison l else s) s

/-- A write for a tenant from outside has been performed: the count of a hang of its jobs starts again (R302). -/
def State.packetOf (s : State) (tag : Nat) : State :=
  s.modWork fun w => { w with jobs := w.jobs.map fun j => if j.tag = tag then { j with idleFrom := 0 } else j }

/-- Checks 4 and 5 and the performance of a request that passed the others; none while it waits for an extent or a retained way. -/
def State.performInbound (s : State) (tag : Nat) (q : InboundReq) : State × Bool :=
  let keys := globalKeys q.addr (reqBytes q)
  match s.mayAccess (portWho tag) keys (reqWrites q) false .home with
  | .wait s _ => (s, false)
  | .fail s _ _ _ => (s.failInbound q (some tag) 4 2, true)
  | .ok s _ =>
    match s.openAll tag (reqOpened q) with
    | .wait s _ => (s, false)
    | .fail s _ _ _ => (s.failInbound q (some tag) 5 2, true)
    | .ok s _ =>
      match q.write with
      | some bs => ((s.writeSealed tag keys bs).packetOf tag, true)
      | none =>
        let s := (keys.map (· / 128)).eraseDups.foldl (fun s l => s.writeBack l) s
        (s.answer q.requester 0 (keys.map s.byteAt), true)

/-- Whether an earlier write of a requester waits, which a write without Relaxed Ordering stays behind (R277). -/
def blockedBehind (q : InboundReq) (waiting : List (Nat × InboundReq)) : Bool :=
  reqWrites q && !q.relaxed && waiting.any fun e => reqWrites e.2 && decide (e.2.requester = q.requester)

/-- Perform the waiting requests that may go on, oldest first; `still` holds the earlier ones that wait on. -/
def State.serveInbound (s : State) (still : List (Nat × InboundReq)) : List (Nat × InboundReq) → State
  | [] => s.modStore fun m => { m with inbound := still }
  | e :: rest =>
    if blockedBehind e.2 still then State.serveInbound s (still ++ [e]) rest
    else
      match s.performInbound e.1 e.2 with
      | (s, true) => State.serveInbound s still rest
      | (s, false) => State.serveInbound s (still ++ [e]) rest

def State.inboundSweep (s : State) : State := if s.store.inbound.isEmpty then s else s.serveInbound [] s.store.inbound

/-- INBOUND_REQUEST (R378, R408): the checks in order; a request that must wait is kept. -/
def execInboundRequest (req : InboundReq) (s : State) : Host.Outcome State Fault Refusal :=
  .next (if s.firm.links.hostDown.contains req.port then s
    else if req.addr.extractLsb' 56 8 ≠ 0 ∨ (req.addr.extractLsb' 54 2).toNat = 3 then s.refuse req 1
    else
      match s.windowsFor req with
      | [] => s.failInbound req none 1 1
      | ws =>
        match ws.find? (s.ideOk req) with
        | none => s.failInbound req none 2 1
        | some w =>
          if !s.inboundReach w.tag req then s.failInbound req (some w.tag) 3 2
          else if blockedBehind req s.store.inbound then
            s.modStore fun m => { m with inbound := m.inbound ++ [(w.tag, req)] }
          else
            match s.performInbound w.tag req with
            | (s, true) => s
            | (s, false) => s.modStore fun m => { m with inbound := m.inbound ++ [(w.tag, req)] })

/-! ## Device-register reads (R409) -/

/-- The lane of a vector load that the next part of its device read belongs to; 0 for a scalar load. -/
def devregLane (load : Nat) (dsts : List Nat) (got : Nat) : Nat :=
  if load = 9 then
    let n := (dsts.drop 2).headD 8 / 8
    (((dsts.drop 3).zipIdx.filter fun e => decide (e.1 = 0)).map (·.2)).getD (got / n) 0
  else 0

/-- The access size of a device read. -/
def devregSize (load : Nat) (dsts : List Nat) (parts : List (Word × Nat)) (got : Nat) : Nat :=
  if load = 9 then (dsts.drop 2).headD 8 / 8 else got + (parts.map (·.2)).sum

/-- A device read fails: a precise no-extent trap. -/
def State.failDevreg (s : State) (k : Nat) (u : Ctx) (addr : Word) (parts : List (Word × Nat)) (got load : Nat)
    (dsts : List Nat) : State :=
  let a := match parts with
    | p :: _ => p.1
    | [] => addr
  s.takeTrap (refOfKey k) u ⟨accTrap 8 a (devregSize load dsts parts got) (devregLane load dsts got) none, u.pc, u.pc⟩

/-- DEVREG_READ_COMPLETION (R409): data for the oldest outstanding part, or an error completion. The next part's read leaves then; that
the parts leave one by one is the model's choice (log entry 58). -/
def execDevregReadCompletion (unit : Nat) (data : Option (List Byte)) (s : State) : Host.Outcome State Fault Refusal :=
  .next (match s.findUnit unit with
    | none => s
    | some (k, sl, u) =>
      match sl.mode with
      | .waiting (.devreg addr parts got load dsts npc watch) _ =>
        match parts, data with
        | [], _ => s
        | _ :: _, none => s.failDevreg k u addr parts got.length load dsts
        | p :: rest, some bs =>
          let got := got ++ (bs ++ List.replicate p.2 0).take p.2
          if rest.isEmpty then
            let v := u.applyReply ⟨loadWrites load dsts got, npc, none⟩
            match watch with
            | none => s.complete k npc fun _ => v
            | some t => s.takeTrap (refOfKey k) v ⟨t, u.pc, npc⟩
          else
            (s.setSlot k { sl with mode := .waiting (.devreg addr rest got load dsts npc watch) s.ck }).deviceRead rest
      | _ => s)

/-- Fail every device read that satisfies a test of the ck its oldest part went out. -/
def State.failDevregs (s : State) (p : Nat → Bool) : State :=
  s.fab.slots.foldl (fun s e =>
    match e.2.mode, e.2.unit with
    | .waiting (.devreg addr parts got load dsts _ _) since, some u =>
      if p since then s.failDevreg e.1 u addr parts got.length load dsts else s
    | _, _ => s) s

/-- DEVREG_READ_TIMEOUT (R409): no completion within 50 ms. -/
def execDevregReadTimeout (s : State) : Host.Outcome State Fault Refusal :=
  .next (s.failDevregs fun since => decide (since + devregLimit ≤ s.ck))

/-- HOST_LINK_DOWN (R409, R415): inbound requests in flight on the port are discarded, and the device reads that left through it
trap. Reads leave through port 0, or through port 1 while port 0 is down. -/
def execHostLinkDown (port : Nat) (s : State) : Host.Outcome State Fault Refusal :=
  .next (if s.firm.links.hostDown.contains port then s
    else
      let reads := decide (port = 0) || s.firm.links.hostDown.contains 0
      let s := (s.modFirm fun f => { f with links := { f.links with hostDown := NSet.insert f.links.hostDown port } }).modStore fun m =>
        { m with inbound := m.inbound.filter fun e => decide (e.2.port ≠ port) }
      if reads then s.failDevregs fun _ => true else s)

/-- IDE_KM (R378): a selective IDE stream is programmed with a tenant's inbound key. -/
def execIdeKm (tag stream : Nat) (s : State) : Host.Outcome State Fault Refusal :=
  .next (if (s.tenant tag).isSome then
      s.modFirm fun f => { f with ide := (f.ide.filter fun e => decide (e.2 ≠ stream)) ++ [(tag, stream)] }
    else s)

/-! ## Extents behind links (R411, R412) -/

/-- The time within which a CXL port retrains, a route moves, and a peer is given up: 1 ms. -/
def linkLimit : Nat := 900000

/-- The extents at a place, by number. -/
def State.extentsAt (s : State) (p : Extent → Bool) : List Nat := (s.store.extents.filter fun e => p e.2).map (·.1)

/-- Present extents become moving, without a target, and come back as they were. -/
def State.suspend (s : State) (ns : List Nat) : State := ns.foldl (fun s n => s.startMove n .none) s
def State.restore (s : State) (ns : List Nat) : State :=
  ns.foldl (fun s n => (s.setExtent n { s.extentAt n with state := .present }).releaseExtent n) s

/-- Extents that a link has lost are fenced and logged, once each; a `COMPACT` of one finds it fenced (R368). -/
def State.loseExtents (s : State) (ns : List Nat) (src : Nat) : State :=
  ns.foldl (fun s n =>
    let t := (s.fenceExtent n).logEvent 2 src (n * 2 ^ 21) 0
    (s.compacting n).foldl (fun s ch => s.finish ch 0 []) t) s

def Extent.suspended (e : Extent) (p : Place) : Bool :=
  decide (e.state = .moving) && decide (e.target = .none) && decide (e.place = p)

/-- An extent that lies behind a place that is lost: one that is suspended or on its way elsewhere, or absent with its backing there. -/
def Extent.behind (e : Extent) (p : Place) : Bool :=
  (decide (e.state = .moving) || decide (e.state = .absent)) && decide (e.place = p)

/-- CXL_PORT_DOWN (R411). An extent that is on its way elsewhere is moving already. -/
def execCxlPortDown (port : Nat) (s : State) : Host.Outcome State Fault Refusal :=
  .next (if s.firm.links.cxlDown.contains port then s
    else
      let s := s.modFirm fun f => { f with links := { f.links with
        cxlDown := NSet.insert f.links.cxlDown port
        cxlTrain := FMap.set 0 f.links.cxlTrain port (s.ck + linkLimit) } }
      (s.suspend (s.extentsAt fun e => decide (e.state = .present) && decide (e.place = .cxl port))).schedule
        (s.ck + linkLimit) .cxlRetrainTimeout)

/-- CXL_PORT_RETRAINED (R411): within its time. -/
def execCxlPortRetrained (port : Nat) (s : State) : Host.Outcome State Fault Refusal :=
  .next (if FMap.get 0 s.firm.links.cxlTrain port = 0 then s
    else
      let s := s.modFirm fun f => { f with links := { f.links with
        cxlDown := NSet.erase f.links.cxlDown port
        cxlTrain := FMap.set 0 f.links.cxlTrain port 0 } }
      s.restore (s.extentsAt fun e => e.suspended (.cxl port)))

/-- CXL_RETRAIN_TIMEOUT (R411): the extents of the ports that have not retrained are fenced, absent ones that they back too. -/
def execCxlRetrainTimeout (s : State) : Host.Outcome State Fault Refusal :=
  .next ((s.firm.links.cxlTrain.filter fun e => decide (e.2 ≤ s.ck)).foldl (fun s e =>
    let s := s.modFirm fun f => { f with links := { f.links with cxlTrain := FMap.set 0 f.links.cxlTrain e.1 0 } }
    s.loseExtents (s.extentsAt fun x => x.behind (.cxl e.1)) 3) s)

/-! ## Carr links and peers (R275, R412, R413) -/

/-- The peers that extents lie on. -/
def State.peerPkgs (s : State) : List Nat :=
  (s.store.extents.filterMap fun e => match e.2.place with
    | .peer p => some p
    | _ => none).eraseDups

/-- The route to a peer with some links down; none when no route reaches it. -/
def routeTo (peer : Nat) (down : List Nat) : Option Nat := (Config.carrRoute peer down).filter fun l => !down.contains l

/-- A peer's extents wait for its route to move, or for it to be reached again (R412). -/
def State.rerouting (s : State) (peer : Nat) : State :=
  let s' := s.suspend (s.extentsAt fun e => decide (e.state = .present) && decide (e.place = .peer peer))
  if (routeTo peer s'.firm.links.carrDown).isSome then
    let ends := s'.ck + 1 + Config.latency s'.freeCtr % linkLimit
    ({ s' with freeCtr := s'.freeCtr + 1 }.modFirm fun f => { f with links := { f.links with
      carrMoving := FMap.set 0 f.links.carrMoving peer ends } }).schedule ends .carrRouteMoveEnd
  else
    let ends := s'.ck + linkLimit
    (s'.modFirm fun f => { f with links := { f.links with
      carrMoving := FMap.set 0 f.links.carrMoving peer 0
      unreach := FMap.set 0 f.links.unreach peer ends } }).schedule ends .peerUnreachableTimeout

/-- Firmware tries to train a failed link again (R411, R412): whether it does and when is left free. -/
def State.retrainCarr (s : State) (link : Nat) : State :=
  let t := { s with freeCtr := s.freeCtr + 1 }
  match Config.carrRetrain link s.freeCtr with
  | none => t
  | some n =>
    (t.modFirm fun f => { f with links := { f.links with carrTrain := FMap.set 0 f.links.carrTrain link (s.ck + 1 + n) } }).schedule
      (s.ck + 1 + n) .carrRouteMoveEnd

/-- CARR_LINK_FAILURE (R412): the traffic of the link moves to other routes; when it was the last way to a peer, firmware trains it
again. -/
def execCarrLinkFailure (link : Nat) (s : State) : Host.Outcome State Fault Refusal :=
  .next (let before := s.firm.links.carrDown
    if before.contains link then s
    else
      let s := s.modFirm fun f => { f with links := { f.links with carrDown := NSet.insert f.links.carrDown link } }
      let ps := s.peerPkgs.filter fun p => decide (routeTo p before = some link)
      let s := ps.foldl (fun s p => s.rerouting p) s
      if ps.any fun p => (routeTo p s.firm.links.carrDown).isNone then s.retrainCarr link else s)

/-- The links that are trained again are up, and a peer that a route reaches again within its time is no longer lost (R411, R412). -/
def State.carrUp (s : State) : State :=
  let up := (s.firm.links.carrTrain.filter fun e => decide (e.2 ≤ s.ck)).map (·.1)
  if up.isEmpty then s
  else
    let s := s.modFirm fun f => { f with links := { f.links with
      carrDown := f.links.carrDown.filter fun l => !up.contains l
      carrTrain := f.links.carrTrain.filter fun e => !up.contains e.1 } }
    let back := (s.firm.links.unreach.map (·.1)).filter fun p => (routeTo p s.firm.links.carrDown).isSome
    back.foldl (fun s p =>
      let s := s.modFirm fun f => { f with links := { f.links with unreach := FMap.set 0 f.links.unreach p 0 } }
      s.restore (s.extentsAt fun x => x.suspended (.peer p))) s

/-- CARR_ROUTE_MOVE_END (R412): the accesses that waited go on, and so do those to a peer that is reached again. -/
def execCarrRouteMoveEnd (s : State) : Host.Outcome State Fault Refusal :=
  .next ((s.firm.links.carrMoving.filter fun e => decide (e.2 ≤ s.ck)).foldl (fun s e =>
    let s := s.modFirm fun f => { f with links := { f.links with carrMoving := FMap.set 0 f.links.carrMoving e.1 0 } }
    s.restore (s.extentsAt fun x => x.suspended (.peer e.1))) s.carrUp)

/-- PEER_UNREACHABLE_TIMEOUT (R412): the extents of the peers that no route has reached are fenced, as R411 gives. -/
def execPeerUnreachableTimeout (s : State) : Host.Outcome State Fault Refusal :=
  .next ((s.firm.links.unreach.filter fun e => decide (e.2 ≤ s.ck)).foldl (fun s e =>
    let s := s.modFirm fun f => { f with links := { f.links with unreach := FMap.set 0 f.links.unreach e.1 0 } }
    s.loseExtents (s.extentsAt fun x => x.behind (.peer e.1)) 4) s)

/-- The bytes that a peer's request names, and whether it writes them. -/
def peerBytes (o : PeerOp) : Nat :=
  match o with
  | .read n => n
  | .write bs => bs.length
  | .amo fn ty _ _ => amoSize fn ty

def peerWrites (o : PeerOp) : Bool :=
  match o with
  | .read _ => false
  | _ => true

/-- Lines of a request that carry a poison mark once their errors are found: the home checks by ECC alone (R413). -/
def State.peerPoison (s : State) : List Nat → State × Bool
  | [] => (s, false)
  | l :: rest =>
    let s := (s.findLine l 1 Blame.none).1
    if s.poisoned l then (s, true) else State.peerPoison s rest

/-- A seal that no tenant of this package opens: that of a package whose tenant of the same tag derived its keys by itself (R413). -/
def foreignSeal (pkg : Nat) : Seal := ⟨16384 + pkg, 0, 0, false⟩

/-- The seal of a line that a peer writes (R413): the accessing package seals it, under keys that are the tenant's here when it is open on
both. -/
def State.peerSeal (s : State) (q : PeerReq) : Seal :=
  match s.tenant q.tag with
  | some t => if t.peers.contains q.pkg then s.dataSeal q.tag else foreignSeal q.pkg
  | none => foreignSeal q.pkg

/-- Write a peer's bytes: its lines carry the seal of the accessing package. -/
def State.peerWrite (s : State) (q : PeerReq) (keys : List Nat) (bs : List Byte) : State :=
  (cachedLines keys).foldl (fun t l => t.setSeal l (s.peerSeal q)) (s.writeSealed q.tag keys bs)

/-- Perform a peer's request at its home (R275, R413): the home stores the line as the accessing package sealed it and opens nothing;
an atomic reads and replaces its object. False while an extent is not present or a way is retained. -/
def State.performPeer (s : State) (q : PeerReq) : State × Bool :=
  let keys := globalKeys q.addr (peerBytes q.op)
  match s.mayAccess (portWho q.tag) keys (peerWrites q.op) false .home with
  | .wait s _ => (s, false)
  | .fail s _ _ _ => (s.answer q.pkg 2 [], true)
  | .ok s _ =>
    let lines := (keys.map (· / 128)).eraseDups
    let s := lines.foldl (fun s l => (s.writeBack l).l2Access q.tag l 0) (if peerWrites q.op then s.packetOf q.tag else s)
    match q.op with
    | .write bs => ((s.peerWrite q keys bs).answer q.pkg 0 [], true)
    | .read _ =>
      match s.peerPoison lines with
      | (s, true) => (s.answer q.pkg 2 [], true)
      | (s, false) => (s.answer q.pkg 0 (keys.map s.byteAt), true)
    | .amo fn ty x new =>
      match s.peerPoison lines with
      | (s, true) => (s.answer q.pkg 2 [], true)
      | (s, false) =>
        let old := keys.map s.byteAt
        let s := match (amoEffect fn ty 0 (natOfBytes old) x new).1 with
          | some v => s.peerWrite q keys (bytesOfNat v keys.length)
          | none => s
        (s.answer q.pkg 0 old, true)

/-- Perform the waiting requests of peers that may go on. -/
def State.servePeers (s : State) (still : List PeerReq) : List PeerReq → State
  | [] => s.modStore fun m => { m with peerReqs := still }
  | q :: rest =>
    match s.performPeer q with
    | (s, true) => State.servePeers s still rest
    | (s, false) => State.servePeers s (still ++ [q]) rest

def State.peerSweep (s : State) : State := if s.store.peerReqs.isEmpty then s else s.servePeers [] s.store.peerReqs

/-- CARR_LINK_REQUEST (R275). -/
def execCarrLinkRequest (req : PeerReq) (s : State) : Host.Outcome State Fault Refusal :=
  .next (match s.performPeer req with
    | (s, true) => s
    | (s, false) => s.modStore fun m => { m with peerReqs := m.peerReqs ++ [req] })

/-- PEER_KEY_REQUEST (R413): a peer that opens a tag which is open here takes KT and INST, and shares the tenant. -/
def execPeerKeyRequest (tag peer : Nat) (s : State) : Host.Outcome State Fault Refusal :=
  .next (match s.tenant tag with
    | some t =>
      (s.modTenant tag fun x => { x with peers := if x.peers.contains peer then x.peers else x.peers ++ [peer] }).answer peer 0
        (bytesOfNat t.inst 8)
    | none => s.answer peer 1 [])

/-! ## The rekey of a tenant on several packages (R414) -/

/-- The ck by which some packages have each reported over SPDM: as long after this one as the free values say. -/
def State.reportsOf (s : State) (peers : List Nat) : State × Nat :=
  peers.foldl (fun r _ => ({ r.1 with freeCtr := r.1.freeCtr + 1 }, max r.2 (s.ck + 1 + Config.latency r.1.freeCtr))) (s, s.ck + 1)

/-- REKEY_PREPARE (R414): the next period's keys are loaded as opening keys, in the place of those of the period before. -/
def execRekeyPrepare (tag : Nat) (s : State) : Host.Outcome State Fault Refusal :=
  .next (match s.tenant tag with
    | some t => if t.sweep.isSome then s else s.modTenant tag fun x => { x with prepared := true }
    | none => s)

/-- A tenant's period rises in every unit at once, the inbound port included: a stream keyed with the inbound key of the period before
is the tenant's no more (R372, R392). Its sweep starts (R394), and so do those of the peers on which it is open, which report their ends
(R414). -/
def State.raisePeriod (s : State) (tag : Nat) : State :=
  let s := s.modFirm fun f => { f with ide := f.ide.filter fun e => decide (e.1 ≠ tag) }
  let peers := match s.tenant tag with
    | some t => t.peers
    | none => []
  let r := s.reportsOf peers
  (r.1.modTenant tag fun x => { x with
    period := (x.period + 1) % 2 ^ 32
    prepared := false
    sweep := some 0
    swept := if peers.isEmpty then 0 else r.2 }).scheduleFree 1 (.rekeySweep tag)

/-- The channels whose command of a code names a tenant in its first quad and has begun. -/
def State.working (s : State) (code tag : Nat) : List Nat :=
  (s.firm.chans.filter fun e => match e.2.work with
    | some a => decide (a.code = code) && a.begun && decide ((a.quads.headD 0).toNat = tag) && e.2.result.isNone
    | none => false).map (·.1)

/-- REKEY_SWITCH (R414): the period rises, and the REKEY that waits for it completes. -/
def execRekeySwitch (tag : Nat) (s : State) : Host.Outcome State Fault Refusal :=
  .next (match s.tenant tag with
    | some t =>
      if t.prepared then
        let s := s.raisePeriod tag
        (s.working 0x0E tag).foldl (fun s ch => s.finish ch 0 [BitVec.ofNat 64 ((t.period + 1) % 2 ^ 32)]) s
      else s
    | none => s)

/-! ## Temperature (R422, R423) -/

/-- The hottest sensor of a reading, the lowest-numbered of several. -/
def hottest (rs : List (Nat × Nat)) : Nat :=
  (rs.foldl (fun (a : Nat × Nat) e => if a.1 < e.1 then e else a) (0, 0)).2

/-- The time from one reading of the sensors to the next: 100 µs (R422). -/
def samplePeriod : Nat := 90000

/-- The sensor that a trip names (R396): the hottest that was above 110 °C in the reading before too, if there is one, else the hottest
(log entry 61). -/
def tripSensor (before : List Nat) (rs : List (Nat × Nat)) : Nat :=
  let twice := rs.filter fun e => decide (110 < e.1) && before.contains e.2
  if twice.isEmpty then hottest rs else hottest twice

/-- THERMAL_SAMPLE (R422, R423): the warning flag, and the trip when the hottest sensor of two readings in a row is above 110 °C. What the
sensors show before the next reading is due is not read. -/
def execThermalSample (readings : List Nat) (s : State) : Host.Outcome State Fault Refusal :=
  .next (if s.ck < s.firm.thermal.due then s
    else
      let rs := (readings.take 64).zipIdx
      let before := s.firm.thermal.hot
      let hot := (rs.filter fun e => decide (110 < e.1)).map (·.2)
      let s := s.modFirm fun f => { f with thermal := ⟨hot, rs.any fun e => decide (95 < e.1), s.ck + samplePeriod⟩ }
      if hot.isEmpty || before.isEmpty then s
      else (s.firm.tenants.foldl (fun s t => s.haltPartition t.tag) s).logEvent 13 10 0 (tripSensor before rs))

end Sys2Proof.Machine
end

