-- ==== Sys2Proof/Machine/Power.lean ====
section
/-!
DEFINITION. Power and start-up (R397 to R399): the start-up sequence with its checks, the watchdog, failed starts and minimal mode.
-/
namespace Sys2Proof.Machine

open Sys2Proof

/-- The watchdog's time in ck: 2 s (R397). -/
def watchdogLimit : Nat := 1800000000

/-- The version floor of a boot image (R398). -/
def Boot.floor (b : Boot) (id : Nat) : Nat := FMap.get 0 b.floors id

/-- The reason an image is not accepted, 0 when it is: its digest, its ECDSA signature, its LMS signature, its version (R398). -/
def imageReason (b : Boot) (i : BootImage) : Nat :=
  if !i.digestOk then 9 else if !i.ecdsaOk then 2 else if !i.lmsOk then 3 else if i.version < b.floor i.id then 4 else 0

/-- Verify images in order; each accepted one raises its floor. The answer is the first failure's reason, or 0. -/
def verifyImages (b : Boot) : List BootImage → Boot × Nat
  | [] => (b, 0)
  | i :: rest =>
    match imageReason b i with
    | 0 => verifyImages { b with floors := FMap.set 0 b.floors i.id (max (b.floor i.id) i.version) } rest
    | r => (b, r)

/-- Steps 1 to 5 of R397: the reason of the first step that fails, or 0. -/
def startReason (b : Boot) (i : StartInput) : Boot × Nat :=
  if !i.romOk then (b, 6)
  else if !i.rootOk then (b, 1)
  else
    match verifyImages b (i.images ++ [i.config]) with
    | (b, 0) => (b, if i.config.malformed then 8 else if !i.dramOk then 5 else if !i.mgmtOk then 6 else 0)
    | r => r

/-- The links that training has left down (R397 step 4), of two host and eight CXL ports. -/
def linksAfter (i : StartInput) : Links where
  hostDown := (List.range 2).filter fun p => !i.hostUp.contains p
  hostTrain := i.hostTrain.zipIdx.foldl (fun m e => FMap.set fullTrain m e.2 e.1) []
  acs := i.acs
  cxlDown := (List.range 8).filter fun p => !i.cxlUp.contains p
  cxlTrain := []
  carrDown := i.carrDown.foldl NSet.insert []
  carrTrain := []
  carrMoving := []
  unreach := []

/-- The device with everything of a start-up cleared (R397, R399): what flash holds stays, and so does the memory of the host. -/
def State.cleared (s : State) (p : Power) (b : Boot) (l : Links) : State :=
  { State.reset with
    store := { Store.reset with hostMem := s.store.hostMem }
    firm := { Firm.reset with power := p, boot := b, links := l }
    freeCtr := s.freeCtr
    serial := s.serial }

/-- A start fails (R399): its reason is recorded, the package resets, and the third failure in a row enters minimal mode. -/
def State.failStart (s : State) (b : Boot) (reason : Nat) : State :=
  let n := b.counter + 1
  let b := { b with counter := n, reasons := (b.reasons ++ [reason]).drop (b.reasons.length + 1 - 3), kind := 2, started := none }
  s.cleared (if 3 ≤ n then .minimal else .starting) b Links.up

/-- A start with what it meets: it ends, in success or with a reason, or it is still under way when the watchdog's time ends; the images
that it has accepted have raised their floors (R398). -/
def State.start (s : State) (b : Boot) (i : StartInput) : State :=
  if watchdogLimit < i.ck then
    let t := s.cleared .starting { (startReason b i).1 with started := some 0 } Links.up
    t.schedule watchdogLimit .startUpWatchdog
  else
    match startReason b i with
    | (b, 0) => s.cleared .running { b with counter := 0, reasons := [], started := none } (linksAfter i)
    | (b, r) => s.failStart b r

/-- POWER_ON (R397, R399): a new window; its first start clears the counter. -/
def execPowerOn (start : StartInput) (s : State) : Host.Outcome State Fault Refusal :=
  .next (if s.firm.power = .off then s.start { s.firm.boot with counter := 0, reasons := [], kind := 0 } start else s)

/-- HOST_RESET (R397, R399): a reset by the host, of a start under way too, or the package's own reset after a failed start, which keeps
BOOT 2. In minimal mode the device returns to minimal mode. -/
def execHostReset (start : StartInput) (s : State) : Host.Outcome State Fault Refusal :=
  .next (match s.firm.power with
    | .off => s
    | .minimal => s.cleared .minimal s.firm.boot Links.up
    | .starting =>
      s.start { s.firm.boot with kind := if s.firm.boot.started.isSome then 1 else s.firm.boot.kind } start
    | .running => s.start { s.firm.boot with kind := 1 } start)

/-- POWER_OFF (R399): the window ends. -/
def execPowerOff (s : State) : Host.Outcome State Fault Refusal :=
  .next (s.cleared .off s.firm.boot Links.up)

/-- START_UP_WATCHDOG (R397): a start that is not complete within 2 s fails with reason 7. -/
def execStartUpWatchdog (s : State) : Host.Outcome State Fault Refusal :=
  .next (match s.firm.power, s.firm.boot.started with
    | .starting, some t => if t + watchdogLimit ≤ s.ck then s.failStart s.firm.boot 7 else s
    | _, _ => s)

end Sys2Proof.Machine
end

