-- ==== Sys2Proof/Machine/Mailbox.lean ====
section
/-!
DEFINITION. The mailbox (R400 to R402) and what the commands on tenants do: parameters, reach sets, grants, revocation (R365,
R366), closing a tenant, the RESYNC summary and the log (R395, R406).
-/
namespace Sys2Proof.Machine

open Sys2Proof

/-! ## Parameters (R403, R404) -/

/-- Quad i of a request. -/
def quad (qs : List Word) (i : Nat) : Word := (qs.drop i).headD 0
def quadN (qs : List Word) (i : Nat) : Nat := (quad qs i).toNat

/-- Every bit of a request outside its fields is zero; the fields are given as a mask for each quad. -/
def fits : List Word → List Word → Bool
  | _, [] => true
  | [], q :: qs => q == 0 && fits [] qs
  | m :: ms, q :: qs => q &&& ~~~m == 0 && fits ms qs

def maskTag : Word := 0x3FFF
def maskAll : Word := BitVec.allOnes 64
def mask32 : Word := 0xFFFFFFFF

/-- A range of a command: aligned, not empty, and global (R376). -/
def rangeOk (lo hi : Nat) : Bool := decide (lo % 128 = 0) && decide (hi % 128 = 0) && decide (lo < hi) && decide (hi ≤ 2 ^ 56)

/-- Write bytes to the memory of the host. -/
def State.toHost (s : State) (a : Nat) (bs : List Byte) : State :=
  s.modStore fun m => { m with hostMem := FMap.setMany 0 m.hostMem a bs }
def State.fromHost (s : State) (a n : Nat) : List Byte := FMap.getMany 0 s.store.hostMem a n

/-! ## Reach sets (R365, R376) -/

/-- A range with the bytes of [lo, hi) cut out. -/
def Range.cut (r : Range) (lo hi : Nat) : List Range :=
  if r.limit ≤ lo ∨ hi ≤ r.base then [r]
  else (if r.base < lo then [{ r with limit := lo }] else []) ++ (if hi < r.limit then [{ r with base := hi }] else [])

def cutReach (rs : List Range) (lo hi : Nat) : List Range := rs.flatMap fun r => r.cut lo hi

/-- Whether [base, base + n) meets [lo, hi). -/
def overlaps (base n lo hi : Nat) : Bool := decide (base < hi) && decide (lo < base + n)

/-! ## Revocation (R365) -/

/-- The buffers of an image, by index, that meet a range. -/
def Image.meets (i : Image) (lo hi : Nat) : List Nat :=
  (i.bufs.zipIdx.filter fun b => overlaps b.1.1.toNat b.1.2.1 lo hi).map (·.2)

/-- Step 2: every descriptor of a tenant's images whose buffer meets the range is replaced by an empty one. The buffer's placement
ends with its grant. -/
def State.emptyDescriptors (s : State) (tag lo hi : Nat) : State :=
  (s.store.images.filter fun i => decide (i.tag = tag)).foldl (fun s i =>
    (i.meets lo hi).foldl (fun s n => match i.bufs[n]? with
      | some b => s.modStore fun m => { m with mem := FMap.setMany 0 m.mem b.2.2.toNat (List.replicate 16 0) }
      | none => s) s) (s.modStore fun m => { m with images := m.images.map fun i =>
        if i.tag = tag then { i with ended := (i.ended ++ i.meets lo hi).eraseDups } else i })

/-- The image that a launch's kernel belongs to. -/
def State.imageOf (s : State) (l : Launch) (tag : Nat) : Option Image :=
  s.store.images.find? fun i => decide (i.tag = tag) && i.kernels.any fun k => decide (k.entry = l.desc.pc)

/-- An image holds a certificate for a buffer that meets the range. -/
def Image.certifies (i : Image) (lo hi : Nat) : Bool :=
  i.certs.any fun n => match i.bufs[n]? with
    | some b => overlaps b.1.toNat b.2.1 lo hi
    | none => false

/-- Step 3: the live launches that could reach the range without a check, and those whose argument ranges meet it. -/
def State.revokedLaunches (s : State) (tag lo hi : Nat) : List LaunchId :=
  (s.work.launches.filter fun l => decide (s.tagOfJob l.id.job = tag) && !l.state.ended &&
    ((match s.imageOf l tag with
      | some i => i.certifies lo hi
      | none => false) ||
      l.bounds.any fun e => isGlobalKey e.2.base.toNat &&
        overlaps e.2.base.toNat (e.2.limit - e.2.base).toNat lo hi)).map (·.id)

/-- The units of a tenant that run, wait or stand parked: those held in an image count as passed at once (step 5). -/
def State.liveUnits (s : State) (tag : Nat) : List (Nat × Nat) :=
  s.fab.slots.filterMap fun e => match e.2.unit with
    | some u => if u.tag = tag ∧ ¬ e.2.isTaken then some (e.1, u.key) else none
    | none => none

/-- Steps 1 to 4 of a revocation; the units that must pass are noted with the deadline. -/
def State.startRevoke (s : State) (t : Tenant) (lo hi stage ch : Nat) : State :=
  let s := s.modTenant t.tag fun x => { x with reach := cutReach x.reach lo hi }
  let s := s.emptyDescriptors t.tag lo hi
  let s := (s.revokedLaunches t.tag lo hi).foldl (fun s id => s.endWithJob id .cancel) s
  let s := s.modTenant t.tag fun x => { x with bgen := x.bgen + 1 }
  let us := s.liveUnits t.tag
  let s := us.foldl (fun s u => s.request u.1 .reload) s
  let r : Revocation := ⟨t.tag, lo, hi, stage, us.map (·.2), s.ck + t.deadline, some ch⟩
  (s.modFirm fun f => { f with revs := f.revs ++ [r] }).schedule (s.ck + t.deadline) .revokeDeadline

/-- REVOKE_DEADLINE (R365): the units that have not passed, in slots or in images, are ended with their launches, and logged. -/
def execRevokeDeadline (s : State) : Host.Outcome State Fault Refusal :=
  .next ((s.firm.revs.filter fun r => decide (r.deadline ≤ s.ck)).foldl (fun s r =>
    let late := r.units.filterMap s.ctxOf
    let s := late.foldl (fun s u => s.logEvent 10 10 0 0 u.uid.toNat (some r.tag)) s
    late.foldl (fun s u => s.endWithJob u.launchId .cancel) s) s)

/-- Zero the bytes of a range of whole lines: cached copies go, and the lines carry the seal their extent was filled under. -/
def State.zeroRange (s : State) (lo hi : Nat) : State :=
  let out (line : Nat) : Bool := decide (line < lo / 128) || decide (hi / 128 ≤ line)
  s.modStore fun m => { m with
    mem := FMap.clear m.mem lo hi
    seals := m.seals.filter fun e => out e.1
    poison := m.poison.filter out
    errors := m.errors.filter fun e => out (e.1 / 16)
    l2errors := m.l2errors.filter fun e => out (e.1 / 16)
    l1 := m.l1.filter fun l => out l.line
    l2 := m.l2.filter fun l => out l.line }

/-- Step 6: whole extents are fenced, zeroed and made unallocated; in others the bytes of the range are zeroed in place. Only
the tenant's own extents are touched. An image that has lost an extent is gone. -/
def State.scrubRange (s : State) (tag lo hi : Nat) : State :=
  let s := (s.store.extents.filter fun e => decide (e.2.owner = tag) && decide (e.2.state ≠ .unallocated) &&
      overlaps (e.1 * 2 ^ 21) (2 ^ 21) lo hi).foldl (fun s e =>
    let a := e.1 * 2 ^ 21
    if lo ≤ a ∧ a + 2 ^ 21 ≤ hi then ((s.fenceExtent e.1).zeroRange a (a + 2 ^ 21)).setExtent e.1 Extent.none
    else s.zeroRange (max lo a) (min hi (a + 2 ^ 21))) s
  let whole (i : Image) : Bool := (List.range i.count).all fun k => decide ((s.extentAt (i.first + k)).state ≠ .unallocated)
  s.modStore fun m => { m with images := m.images.filter fun i => decide (i.tag ≠ tag) || whole i }

/-- A revocation whose units have all passed or ended, and that nothing of the tenant holds up that has yet to reach the range: a
burst that passed its check (R377), or a buffered store (R385). -/
def State.revokeDone (s : State) (r : Revocation) : Bool :=
  r.units.all (fun key => (s.ctxOf key).isNone) &&
    !(s.store.inbound.any fun e => decide (e.1 = r.tag) && overlaps e.2.addr.toNat (reqBytes e.2) r.lo r.hi) &&
    !(s.work.ops.any fun o => decide (o.tag = r.tag) && !o.dead && o.passed.any fun x => overlaps x.1.toNat x.2.1 r.lo r.hi) &&
    !(s.fab.sbuf.any fun e => decide (e.who.tag = r.tag) && e.keys.any fun k => decide (r.lo ≤ k) && decide (k < r.hi))

/-! ## Closing a tenant (R403) -/

/-- Return the weight that some operations carry, each with the mark of its stop, or with another mark. -/
def State.returnOps (s : State) (mine : Op → Bool) (m : Mark) : State :=
  (s.work.ops.filter mine).foldl (fun s o => s.returnOp o (o.stop.getD m)) s

/-- Return the weight of the deque entries and queued messages of some cores. -/
def State.returnQueues (s : State) (mine : Nat → Bool) (m : Mark) : State :=
  let s := (s.fab.deques.filter fun e => mine e.1).foldl (fun s e =>
    e.2.foldl (fun s x => s.returnWeight ⟨x.job, x.phase⟩ x.k m 0) s) s
  (s.fab.msgs.filter fun e => mine e.1).foldl (fun s e => e.2.foldl (fun s x => match x.weight with
    | some (k, p) => s.returnWeight p k m 0
    | none => s) s) s

/-- Take the tasks of some jobs out of the package queue and off their way to it, with their weight returned; the segments they leave take
what waits for room (R300). -/
def State.dropTasks (s : State) (jobs : List Nat) (m : Mark) : State :=
  let mine (x : Task) : Bool := jobs.contains x.phase.job
  let s := ((s.work.segs.flatMap (·.2) ++ s.work.posts.map (·.task)).filter mine).foldl (fun s x => s.returnWeight x.phase x.k m 0) s
  let left := (s.work.segs.filter fun e => e.2.any mine).map (·.1)
  let s := s.modWork fun w => { w with
    segs := FMap.mapNonempty (fun ts => ts.filter fun x => !mine x) w.segs
    posts := w.posts.filter fun x => !mine x.task }
  left.foldl (fun s seg => s.scheduleFree 1 (.queueSegmentAccept seg)) s

/-- Erase what belongs to a tenant once its units are gone: every extent is scrubbed, its tiles are released, its keys go. The weight
that entries, messages, tasks and stopped copies still hold returns with the cancel mark (log entry 45). -/
def State.eraseTenant (s : State) (t : Tenant) : State :=
  let s := s.scrubRange t.tag 0 (2 ^ 56)
  let mine (tile : Nat) : Bool := t.tiles.contains tile && decide (s.ownerOf tile = some t.tag)
  let s := (s.returnOps (fun o => decide (o.tag = t.tag)) .cancel).returnQueues (fun c => mine (tileOf c)) .cancel
  let jobs := (s.work.jobs.filter fun j => decide (j.tag = t.tag)).map (·.handle)
  let s := s.dropTasks jobs .cancel
  let s := (s.work.swapped.filter fun i => decide (i.pid = t.pid)).foldl (fun s i => s.returnImage i .cancel) s
  let s := (t.tiles.filter mine).foldl State.emptyQueues s
  let s := s.setOwner (t.tiles.filter fun x => decide (s.ownerOf x = some t.tag)) none
  let s := s.modStore fun m => { m with images := m.images.filter fun i => decide (i.tag ≠ t.tag) }
  let s := s.setBuffer (s.fab.sbuf.filter fun e => decide (e.who.tag ≠ t.tag))
  let s := s.modWork fun w => { w with
    ops := w.ops.filter fun o => decide (o.tag ≠ t.tag)
    jobs := w.jobs.filter fun j => decide (j.tag ≠ t.tag)
    launches := w.launches.filter fun l => !jobs.contains l.id.job
    runs := w.runs.filter fun r => !jobs.contains r.job
    swapped := w.swapped.filter fun i => decide (i.pid ≠ t.pid)
    swaps := w.swaps.filter fun r => decide (r.pid ≠ t.pid) }
  s.modFirm fun f => { f with
    tenants := f.tenants.filter fun x => decide (x.tag ≠ t.tag)
    inWins := f.inWins.filter fun w => decide (w.tag ≠ t.tag)
    ide := f.ide.filter fun e => decide (e.1 ≠ t.tag) }

/-- The stage of a revocation that belongs to a `TENANT_CLOSE`. -/
def closeStage : Nat := 7

/-- A revocation completes (R365 step 6), and with it its command. -/
def State.endRevoke (s : State) (r : Revocation) : State :=
  let s := s.modFirm fun f => { f with revs := removeFirst (fun x => decide (x = r)) f.revs }
  let s := if r.stage = closeStage then (match s.tenant r.tag with
      | some t => s.eraseTenant t
      | none => s)
    else s.scrubRange r.tag r.lo r.hi
  match r.ch with
  | some ch => s.finish ch 0 []
  | none => s

def State.revokeSweep (s : State) : State := s.firm.revs.foldl (fun s r => if s.revokeDone r then s.endRevoke r else s) s

/-! ## Grants (R376, R403, R409) -/

/-- Every extent number of a range. -/
def extentRange (lo hi : Nat) : List Nat := (List.range ((hi - 1) / 2 ^ 21 + 1 - lo / 2 ^ 21)).map (lo / 2 ^ 21 + ·)

/-- Whether a range touches an extent that is never allocated: the first or the last of a quarter (R248). -/
def touchesEdge (lo hi : Nat) : Bool :=
  let a := lo / 2 ^ 21
  let b := (hi - 1) / 2 ^ 21
  [0, 1, 2, 3].any fun q => (decide (a ≤ q * 2 ^ 33) && decide (q * 2 ^ 33 ≤ b)) ||
    (decide (a ≤ q * 2 ^ 33 + 2 ^ 33 - 1) && decide (q * 2 ^ 33 + 2 ^ 33 - 1 ≤ b))

/-- The extents that bonded DRAM and the qualified tier hold. -/
def capacity : Nat := 4 * Config.dramExtents + Config.tierBytes / 2 ^ 21

/-- Allocate an extent of a range to a tenant: absent, or present for device registers (R409). An extent that is allocated on a peer where
the tenant is open too is placed there: the entry of the placement map names its home (R412; log entry 43). -/
def State.allocate (s : State) (t : Tenant) (n : Nat) (code : Bool) : State :=
  if (s.extentAt n).state = .unallocated then
    let dev := decide (n / 2 ^ 33 = 3)
    let e := { Extent.none with owner := t.tag, inst := t.inst, code := code, fill := ⟨t.tag, t.inst, t.period, code⟩ }
    if dev then s.setExtent n { e with state := .present }
    else if t.peers.isEmpty then s.setExtent n { e with state := .absent }
    else
      let home := (Config.peerHome n s.freeCtr).filter t.peers.contains
      { s with freeCtr := s.freeCtr + 1 }.setExtent n (match home with
        | some p => { e with state := .present, ever := true, place := .peer p }
        | none => { e with state := .absent })
  else s

/-- The extents of a range that are allocated. -/
def State.allocatedIn (s : State) (lo hi : Nat) : List (Nat × Extent) :=
  s.store.extents.filter fun e => decide (e.2.state ≠ .unallocated) && overlaps (e.1 * 2 ^ 21) (2 ^ 21) lo hi

/-- `GRANT`: the status and the state. -/
def State.grantRange (s : State) (t : Tenant) (r : Range) : State × Nat :=
  let old := s.allocatedIn r.base r.limit
  let new := (r.limit - 1) / 2 ^ 21 + 1 - r.base / 2 ^ 21 - old.length
  let memory := (s.store.extents.filter fun e => decide (e.1 / 2 ^ 33 ≠ 3)).length
  if old.any fun e => decide (e.2.owner ≠ t.tag) then (s, 3)
  else if r.base / 2 ^ 54 ≠ 3 ∧ capacity < memory + new then (s, 4)
  else
    let s := (extentRange r.base r.limit).foldl (fun s n => s.allocate t n false) s
    (s.modTenant t.tag fun x => { x with reach := x.reach ++ [r] }, 0)

/-! ## The log and the summary (R395, R406) -/

/-- The 32 bytes of a log entry. -/
def LogEntry.bytes (e : LogEntry) : List Byte :=
  bytesOfNat (e.cyc % 2 ^ 64 * 2 ^ 192 + e.addr % 2 ^ 64 * 2 ^ 128 + e.aux % 2 ^ 64 * 2 ^ 64 + e.uid % 2 ^ 24 * 2 ^ 40 +
    e.tag.getD 0 * 2 ^ 26 + e.tag.isSome.toNat * 2 ^ 25 + e.count * 2 ^ 16 + e.src * 2 ^ 8 + e.type) 32

/-- The STATE quad of a channel (R400). -/
def Channel.stateQuad (c : Channel) : Nat :=
  c.drop * 2 ^ 48 + c.status * 2 ^ 40 + c.seen.toNat * 2 ^ 33 + c.busy.toNat * 2 ^ 32 + c.doneSeq.toNat

/-- A request as it stands in a channel's payload, up to its last quad that is not 0 (R401). -/
def Channel.request (c : Channel) : List Word :=
  match c.payload.getLast? with
  | some e => (List.range (e.1 + 1)).map (FMap.get 0 c.payload)
  | none => []

/-- A byte of the BAR0 page of a host function (R400), `none` where the page holds nothing that the host reads. -/
def State.bar0 (s : State) (off : Nat) : Option Byte :=
  let c := s.chan (off / 0x1000)
  let at_ := off % 0x1000
  let pick (v : Nat) : Option Byte := some (BitVec.ofNat 8 (v / 256 ^ (at_ % 8)))
  if 0x8000 ≤ off then none
  else if 0x008 ≤ at_ ∧ at_ < 0x010 then pick c.stateQuad
  else if 0x100 ≤ at_ ∧ at_ < 0x800 then pick (FMap.get 0 c.payload ((at_ - 0x100) / 8)).toNat
  else if 0x800 ≤ at_ then pick ((c.reply.drop ((at_ - 0x800) / 8)).headD 0).toNat
  else none

/-- The 48 bytes of a root cell (R293). -/
def Phase.cell (p : Phase) : List Byte :=
  bytesOfNat (p.borrows * 2 ^ 288 + p.quiet.toNat * 2 ^ 264 + p.cancel.toNat * 2 ^ 263 + p.fault.toNat * 2 ^ 262 +
    p.depth * 2 ^ 256 + p.ret * 2 ^ 128 + p.exp) 48

/-- The three reason codes, oldest in the lowest byte (R406). -/
def Boot.reasonBits (b : Boot) : Nat := (b.reasons.zipIdx.map fun e => e.1 * 256 ^ e.2).sum

/-- The valid lines that were filled for a way class, in every slice (R258). -/
def State.occupancyOf (s : State) (cls : Nat) : Nat := (s.store.l2.filter fun x => decide (x.cls = cls)).length

/-- A tenant's record: TAG, INST, PERIOD, way class, occupancy, ranges used. -/
def State.tenantRecord (s : State) (t : Tenant) : List Byte :=
  bytesOfNat (t.tag + t.inst % 2 ^ 64 * 2 ^ 16 + t.period * 2 ^ 80 + t.cls * 2 ^ 112 + t.reach.length * 2 ^ 120 +
    s.occupancyOf t.cls * 2 ^ 128) 32

/-- A partition's record: PID, TAG, halted, and the origin and size of each rectangle in 26 bits. -/
def Tenant.partRecord (t : Tenant) : List Byte :=
  bytesOfNat (t.pid % 2 ^ 16 + t.tag * 2 ^ 16 + t.halted.toNat * 2 ^ 30 + ((t.rects.zipIdx.map fun e =>
    (e.1.x0 + e.1.y0 * 2 ^ 7 + (e.1.x1 - e.1.x0) * 2 ^ 13 + (e.1.y1 - e.1.y0) * 2 ^ 20) * 2 ^ (32 + 26 * e.2)).sum)) 32

/-- The completion counters of a job's launches and graphs (R314), a record for each: the handle, the level (1 for a launch, 2 for a
graph), and the count. That they follow the job's own record is the model's choice (log entry 59). -/
def State.counters (s : State) (j : Job) : List Byte :=
  let ls := s.work.launches.filter fun l => decide (l.id.job = j.handle) && decide (l.id.handle ≠ 1)
  let record (h level n : Nat) : List Byte := bytesOfNat (h % 2 ^ 32 + level * 2 ^ 32 + n % 2 ^ 64 * 2 ^ 64) 32
  (ls.flatMap fun l => record l.id.handle 1 l.count) ++
    ((ls.map (·.graph)).eraseDups.flatMap fun g => record g 2 (ls.filter fun l => decide (l.graph = g) && l.state.ended).length)

/-- A job's record: handle, PID, phases complete, and its launches Ready, Placed and Waiting at each priority. -/
def State.jobRecord (s : State) (j : Job) : List Byte :=
  let count (st : LaunchState) (p : Nat) : Nat := min 255 (s.work.launches.filter fun l => decide (l.id.job = j.handle) &&
    decide (l.id.handle ≠ 1) && decide (l.state = st) && decide (l.prio = p)).length
  let done := (s.work.phases.filter fun p => decide (p.id.job = j.handle) && !s.phaseLive p.id).length
  bytesOfNat (j.handle % 2 ^ 32 + j.pid % 2 ^ 16 * 2 ^ 32 + min 65535 done * 2 ^ 48 +
    ((List.range 8).map fun p => (count .ready p + count .placed p * 2 ^ 64 + count .waiting p * 2 ^ 128) * 2 ^ (64 + 8 * p)).sum) 32

/-- A place as a byte: 0 nowhere, 1 to 4 the dies, 16 and up the CXL ports, 64 and up the peers. -/
def Place.code (p : Place) : Nat :=
  match p with
  | .none => 0
  | .dram d => 1 + d
  | .cxl n => 16 + n
  | .peer n => 64 + n

/-- An extent's record: number, state, source and target. -/
def Extent.record (n : Nat) (e : Extent) : List Byte :=
  let st := match e.state with
    | .unallocated => 0
    | .present => 1
    | .absent => 2
    | .moving => 3
    | .fenced => 4
  bytesOfNat (n + st * 2 ^ 64 + Place.code e.place * 2 ^ 72 + Place.code e.target * 2 ^ 80) 32

/-- The RESYNC summary. An extent is fenced for a revocation within one step only, so none is counted as such in NMOVE. -/
def State.summary (s : State) : List Byte :=
  let f := s.firm
  let moving := s.store.extents.filter fun e => decide (e.2.state = .moving) || s.store.requests.any fun r => decide (r.extent = e.1)
  let open_ := s.work.phases.filter fun p => s.phaseLive p.id
  let header := bytesOfNat ((decide (f.power = .minimal)).toNat + f.maint.toNat * 2 ^ 64 + f.boot.kind * 2 ^ 72 +
    f.boot.reasonBits * 2 ^ 80 + s.ck % 2 ^ 64 * 2 ^ 128 + f.logHead % 2 ^ 64 * 2 ^ 192 + f.tenants.length * 2 ^ 256 +
    f.tenants.length * 2 ^ 288 + s.work.jobs.length * 2 ^ 320 + moving.length * 2 ^ 352) 64
  header ++ f.tenants.flatMap s.tenantRecord ++ f.tenants.flatMap Tenant.partRecord ++ (s.work.jobs.flatMap fun j => s.jobRecord j ++ s.counters j) ++
    (moving.flatMap fun e => e.2.record e.1) ++ open_.flatMap Phase.cell ++
    (List.range 2).flatMap fun _ => (List.range 8).flatMap fun c => bytesOfNat (s.chan c).stateQuad 8

/-- What `IDENT` reports: the head of the description block, MINIMAL and the reason codes, the thermal warning (R423), whether the host
forbids peer-to-peer writes (R409), the links that are down, the width and speed of the host ports (R408), and the six numeric
records. -/
def State.identity (s : State) : List Byte :=
  let bits (xs : List Nat) : Nat := (xs.map (2 ^ ·)).sum
  let f := s.firm
  (List.range 128).map descByte ++
    bytesOfNat ((decide (f.power = .minimal)).toNat + f.thermal.warn.toNat * 2 + f.links.acs.toNat * 4 + f.boot.reasonBits * 2 ^ 8 +
      bits f.links.hostDown % 256 * 2 ^ 32 + bits f.links.cxlDown % 256 * 2 ^ 40 + bits f.links.carrDown % 2 ^ 64 * 2 ^ 64) 16 ++
    bytesOfNat (((List.range 2).map fun p => FMap.get fullTrain f.links.hostTrain p % 2 ^ 16 * 2 ^ (16 * p)).sum) 8 ++
    numericRecords.flatMap fun r => bytesOfNat r 16

end Sys2Proof.Machine
end

