-- ==== Sys2Proof/Machine/Commands.lean ====
section
/-!
DEFINITION. The firmware commands (R403, R404): what each does once firmware begins it, the order of the mailbox (R402), and the
doorbell and completion of a channel (R401).
-/
namespace Sys2Proof.Machine

open Sys2Proof

/-- What beginning a command makes: the state, or a wait for an absent extent, after which it is begun again. -/
inductive Begun where
  | done (s : State)
  | again (s : State)
  deriving DecidableEq, Repr

/-! ## Tenants -/

/-- A rectangle of `TENANT_OPEN`. -/
def rectOf (q : Word) : Rect :=
  ⟨(q.extractLsb' 0 7).toNat, (q.extractLsb' 8 6).toNat, (q.extractLsb' 16 7).toNat, (q.extractLsb' 24 6).toNat⟩

def Rect.ok (r : Rect) : Bool := decide (r.x0 ≤ r.x1) && decide (r.y0 ≤ r.y1) && decide (r.y1 < 40)

def Rect.meets (a b : Rect) : Bool :=
  decide (a.x0 ≤ b.x1) && decide (b.x0 ≤ a.x1) && decide (a.y0 ≤ b.y1) && decide (b.y0 ≤ a.y1)

/-- No two rectangles of a list meet. -/
def disjointRects : List Rect → Bool
  | [] => true
  | r :: rs => !(rs.any r.meets) && disjointRects rs

/-- A `TENANT_CLOSE` of a tag is done but not complete yet: the tag is not free before it is (R402, R407). -/
def State.closing (s : State) (tag : Nat) : Bool :=
  s.firm.chans.any fun e => match e.2.work with
    | some a => a.code == 0x04 && decide (e.2.result = some 0) && decide (a.names = some tag)
    | none => false

/-- The first free tag from a number on, in a cycle of 16,384. -/
def State.freeTag (s : State) (start : Nat) : Option Nat :=
  ((List.range 16384).find? fun i => (s.tenant ((start + i) % 16384)).isNone && !s.closing ((start + i) % 16384)).map fun i =>
    (start + i) % 16384

/-- The first PID from a number on that no tenant has, looked for at most a number of times. -/
def State.freePid (s : State) : Nat → Nat → Nat
  | 0, pid => pid
  | n + 1, pid => if s.firm.tenants.any fun t => decide (t.pid = pid) then State.freePid s n (pid % 65535 + 1) else pid

/-- The peer of the space on which a tag is open, with the tenant's INST and PERIOD there (R413). -/
def State.peerOpen (s : State) (tag : Nat) : Option (Nat × Nat × Nat) :=
  (Config.peerTenant tag s.freeCtr).filter fun x => decide (x.1 ≠ Config.packageNumber.toNat) && decide (x.1 ≤ Config.packagesM1.toNat)

/-- `TENANT_OPEN` (R369, R370, R404). Which free tag is taken is not fixed. A tag that is open on a peer derives no new keys: the tenant
takes the peer's INST and PERIOD, and is open on both packages (R413, R414; log entry 43). -/
def State.tenantOpen (s : State) (ch : Nat) (qs : List Word) : State :=
  let n := quadN qs 0 % 16
  let masks := [0xFFFF070F, maskAll, maskAll] ++ (List.replicate (min n 8) (0x3F7F3F7F : Word))
  let rects := (List.range n).map fun i => rectOf (quad qs (3 + i))
  if !fits masks qs || n == 0 || decide (8 < n) || !rects.all Rect.ok || !disjointRects rects then s.finish ch 2 []
  else if (rects.flatMap Rect.tiles).any fun t => (s.ownerOf t).isSome then s.finish ch 5 []
  else
    match s.freeTag (Config.firstTag s.freeCtr) with
    | none => s.finish ch 4 []
    | some tag =>
      let cls := quadN qs 0 / 2 ^ 8 % 8
      let pid := s.freePid s.firm.tenants.length s.firm.nextPid
      let t : Tenant :=
        { tag := tag, inst := (s.peerOpen tag).elim s.firm.boot.inst (·.2.1), pid := pid, rects := rects,
          slice := if quadN qs 1 = 0 then 1800000 else quadN qs 1,
          deadline := if quadN qs 2 = 0 then 1800000 else quadN qs 2,
          cls := cls, period := (s.peerOpen tag).elim 0 (·.2.2), prepared := false, sweep := none, bgen := 0, reach := [], halted := false,
          peers := (s.peerOpen tag).toList.map (·.1), swept := 0 }
      let s := { s with freeCtr := s.freeCtr + 1 }.modFirm fun f => { f with
        tenants := f.tenants ++ [t]
        nextPid := pid % 65535 + 1
        wayMasks := FMap.set 0xFFFF f.wayMasks cls (quadN qs 0 / 2 ^ 16 % 2 ^ 16)
        boot := { f.boot with inst := f.boot.inst + 1 } }
      (s.setOwner t.tiles (some tag)).finish ch 0 [BitVec.ofNat 64 tag, BitVec.ofNat 64 t.inst, BitVec.ofNat 64 pid]

/-- The tenant that quad 0 names, once the request's other bits are checked; a failing check completes the command. -/
def State.withTenant (s : State) (ch : Nat) (masks qs : List Word) (ok : Bool) (rest : Tenant → State) : State :=
  if !fits masks qs || !ok then s.finish ch 2 []
  else
    match s.tenant (quadN qs 0) with
    | some t => rest t
    | none => s.finish ch 3 []

/-- `TENANT_CLOSE` (R403): every job is cancelled and every range revoked; the rest follows once the units are gone. -/
def State.tenantClose (s : State) (ch : Nat) (qs : List Word) : State :=
  s.withTenant ch [maskTag] qs true fun t =>
    let jobs := s.work.jobs.filter fun j => decide (j.tag = t.tag)
    let s := jobs.foldl (fun s j => s.cancelJob j.handle .cancel) s
    s.startRevoke t 0 (2 ^ 56) closeStage ch

/-- `GRANT` (R376, R403). -/
def State.grantCmd (s : State) (ch : Nat) (qs : List Word) : State :=
  let lo := quadN qs 1
  let hi := quadN qs 2
  s.withTenant ch [maskTag, maskAll, maskAll, 7] qs (rangeOk lo hi && !touchesEdge lo hi) fun t =>
    let f := quad qs 3
    if 64 ≤ t.reach.length then s.finish ch 2 []
    else
      let r := s.grantRange t ⟨lo, hi, f.getLsbD 0, f.getLsbD 1, f.getLsbD 2⟩
      r.1.finish ch r.2 []

/-- `REVOKE` (R365): it completes when its units have passed. -/
def State.revokeCmd (s : State) (ch : Nat) (qs : List Word) : State :=
  let lo := quadN qs 1
  let hi := quadN qs 2
  s.withTenant ch [maskTag, maskAll, maskAll] qs (rangeOk lo hi) fun t =>
    if 64 < (cutReach t.reach lo hi).length then s.finish ch 2 [] else s.startRevoke t lo hi 5 ch

/-- `REKEY` (R392, R414): refused while a sweep is under way, here or on a peer, or a package of the tenant cannot be reached. A tenant on
several packages is prepared first and switched when every package has reported; when each does is left free (log entry 43). -/
def State.rekeyCmd (s : State) (ch : Nat) (qs : List Word) : State :=
  s.withTenant ch [maskTag] qs true fun t =>
    if t.sweep.isSome ∨ t.prepared ∨ t.peers.any (fun p => (routeTo p s.firm.links.carrDown).isNone) then s.finish ch 5 []
    else if t.peers.isEmpty then (s.raisePeriod t.tag).finish ch 0 [BitVec.ofNat 64 ((t.period + 1) % 2 ^ 32)]
    else
      let r := s.reportsOf t.peers
      (r.1.modTenant t.tag fun x => { x with prepared := true }).schedule r.2 (.rekeySwitch t.tag)

/-- `COMPACT` (R368): an extent that is fenced or unallocated, or that holds nothing to move, is not moved. -/
def State.compactCmd (s : State) (ch : Nat) (qs : List Word) : Begun :=
  let n := quadN qs 1
  let code := quadN qs 2
  if !fits [maskTag, 0x7FFFFFFFF, 7] qs || decide (4 < code) then .done (s.finish ch 2 [])
  else
    match s.tenant (quadN qs 0) with
    | none => .done (s.finish ch 3 [])
    | some t =>
      let e := s.extentAt n
      let place := if code < 4 then (if 0 < s.freeOnDie code then some (Place.dram code) else none) else s.tierPort.map Place.cxl
      match e.state with
      | .fenced | .unallocated => .done (s.finish ch 0 [])
      | .moving => .again s
      | .absent | .present =>
        if e.owner ≠ t.tag then .done (s.finish ch 3 [])
        else if e.place = .none ∨ (code < 4 ∧ e.state = .present ∧ e.place = .dram code) then .done (s.finish ch 0 [])
        else
          match place with
          | none => .done (s.finish ch 4 [])
          | some p => .done ((s.startMove n p).scheduleFree 1 (.extentMoveEnd n))

/-- `INBOUND_OPEN` (R378): open a window, or close the one that quad 0 names. -/
def State.inboundOpenCmd (s : State) (ch : Nat) (qs : List Word) : State :=
  if (quad qs 1).getLsbD 63 then
    if !fits [0xFF, 1#64 <<< 63] qs then s.finish ch 2 []
    else if s.firm.inWins.any fun w => decide (w.num = quadN qs 0) then
      (s.modFirm fun f => { f with inWins := f.inWins.filter fun w => decide (w.num ≠ quadN qs 0) }).finish ch 0 []
    else s.finish ch 3 []
  else
    let lo := quadN qs 1
    let hi := quadN qs 2
    let f := quad qs 3
    let dir := (f.extractLsb' 16 2).toNat
    s.withTenant ch [maskTag, maskAll, maskAll, 0x7FFFF] qs (decide (lo < hi) && decide (hi ≤ 2 ^ 56) && decide (dir ≠ 0)) fun t =>
      let mine := (s.firm.inWins.filter fun w => decide (w.tag = t.tag)).length
      match (List.range 256).find? fun n => s.firm.inWins.all fun w => decide (w.num ≠ n) with
      | none => s.finish ch 4 []
      | some n =>
        if 16 ≤ mine then s.finish ch 4 []
        else
          let w : InWindow := ⟨n, t.tag, lo, hi, (f.extractLsb' 0 16).toNat, dir % 2 == 1, decide (2 ≤ dir), f.getLsbD 18⟩
          (s.modFirm fun g => { g with inWins := g.inWins ++ [w] }).finish ch 0 [BitVec.ofNat 64 n]

/-! ## Jobs (R315, R403) -/

/-- The descriptor of a job's standing launch on n tiles (R315); the job's own has the grid of its kernel (R116). -/
def Desc.standing (n : Nat) (pc : Word) : Desc where
  pc := pc
  nx := 1
  ny := 1
  dnx := 1
  dny := 1
  tw := min n 128
  th := (n - 1) / 128 + 1
  units := 1
  kind := 0
  part := .p16
  gang := false
  fuse := false
  den := false
  prio := 0
  depth := 63
  graph := 0
  phase := 0
  preds := []
  arga := 0
  cnta := 0
  spillb := 0
  spillsz := 0
  argn := 0

/-- A supervisor (R315): the unit of slot 0 of the core of a kind on the tile of a rank. -/
def supervisor (key : Nat) (d : Desc) (t : Tenant) (job rank kind : Nat) (args : List Word) (bounds : FMap Bound) : Ctx :=
  let geo := mkGeo (rank % 128) (rank / 128) d.tw d.th 1 0
  let u := Ctx.fresh key (alignPc d.pc) geo (BitVec.ofNat 24 (2 ^ 23 + 48 * rank + 16 * kind)) t.tag t.pid job 1 1 false
  { u with regs := FMap.setMany 0 [] 0 args, bounds := bounds }

/-- Place the supervisors of a job and set `tvec` on every core of its partition; a fenced core takes no unit. -/
def State.placeSupervisors (s : State) (t : Tenant) (job : Nat) (d : Desc) (rbase : Nat) (args : List Word)
    (bounds : FMap Bound) : State :=
  t.tiles.zipIdx.foldl (fun s e => [0, 1, 2].foldl (fun s kind =>
    let c := coreOf e.1 kind
    let s := s.modFab fun f => { f with tvec := FMap.set 0 f.tvec c (BitVec.ofNat 64 (rbase + 4096 * (3 * e.2 + kind))) }
    if s.fab.fenced.contains c then s
    else
      let s := s.setSlot (16 * c) ⟨.ready (s.ck + 1), none, some (supervisor s.serial d t job e.2 kind args bounds)⟩
      { s with serial := s.serial + 1 }) s) s

/-- Open a job: its record, its standing phase and launch, its supervisors. -/
def State.openJob (s : State) (t : Tenant) (image : Word) (k : Kernel) (rbase : Nat) (args : List Word)
    (bounds : FMap Bound) : State × Nat :=
  let h := s.work.nextJob
  let d := { Desc.standing t.tiles.length k.entry with nx := k.nx, ny := k.ny }
  let l : Launch :=
    { id := ⟨h, 1⟩, phase := 1, graph := 1, desc := d, prio := 0, args := args, bounds := bounds, state := .placed,
      entered := s.ck, order := 0, ticket := none, origin := t.tiles.head?, reserved := [], head := 0, queue := [], count := 0,
      total := 0, next := 0, holds := none, parent := none, sliceEnd := 0, taking := false, adding := false, reached := false }
  let j : Job := ⟨h, t.pid, t.tag, image, BitVec.ofNat 64 rbase, t.tiles, 2, 0, 0, none, 0⟩
  let s := s.modWork fun w => { w with
    nextJob := h + 1
    jobs := w.jobs ++ [j]
    launches := w.launches ++ [l]
    phases := w.phases ++ [⟨⟨h, 1⟩, 63, 0, 0, false, false, 0⟩] }
  (s.placeSupervisors t h d rbase args bounds, h)

/-- `JOB_OPEN` (R350, R403, R404). -/
def State.jobOpenCmd (s : State) (ch : Nat) (qs : List Word) : State :=
  let argn := quadN qs 4 % 16
  let rbase := quadN qs 3
  let args := (List.range argn).map fun i => quad qs (5 + i)
  if !fits ([0xFFFF, maskAll, 0xFF, maskAll, 0xF] ++ List.replicate (min argn 8) maskAll) qs || decide (8 < argn) ||
      decide (rbase % 4096 ≠ 0) then s.finish ch 2 []
  else
    match s.tenantOfPid (quadN qs 0) with
    | none => s.finish ch 3 []
    | some t =>
      match s.store.images.find? fun i => decide (i.base = quad qs 1) && decide (i.tag = t.tag) with
      | none => s.finish ch 3 []
      | some i =>
        let room := t.reach.any fun r => decide (r.base ≤ rbase) && decide (rbase + 12288 * t.tiles.length ≤ r.limit) && r.rd && r.wr
        match i.kernels[quadN qs 2]? with
        | none => s.finish ch 2 []
        | some k =>
          match s.checkArgs t.tag args k.bufs with
          | none => s.finish ch 2 []
          | some bounds =>
            if k.cls ≠ 2 ∨ ¬ room then s.finish ch 2 []
            else if (s.work.jobs.any fun j => decide (j.pid = t.pid)) ∨ s.swapping t.pid then s.finish ch 5 []
            else
              let r := s.openJob t i.base k rbase args bounds
              r.1.finish ch 0 [BitVec.ofNat 64 r.2]

/-- What a closed job has left in deques, message stores and the package queue, or on its way there, goes, and its weight returns with
the cancel mark, so that the job's phases complete (R315; log entry 45). -/
def State.dropLeft (s : State) (job : Nat) : State :=
  let carries (m : Msg) : Bool := match m.weight with
    | some (_, p) => decide (p.job = job)
    | none => false
  let sent (o : Op) : Bool := decide (o.job = job) && !o.kind.stoppable && o.weight.isSome
  let s := (s.dropTasks [job] .cancel).returnOps sent .cancel
  let s := s.modWork fun w => { w with ops := w.ops.filter fun o => !sent o }
  let s := (s.fab.deques.flatMap (·.2) ++ s.work.swapped.flatMap fun i => i.deques.flatMap (·.2)).foldl (fun s x =>
    if x.job = job then s.returnWeight ⟨x.job, x.phase⟩ x.k .cancel 0 else s) s
  let s := (s.fab.msgs.flatMap (·.2) ++ s.work.swapped.flatMap fun i => i.msgs.flatMap (·.2)).foldl (fun s x => match x.weight with
    | some (k, p) => if p.job = job then s.returnWeight p k .cancel 0 else s
    | none => s) s
  let deques (m : FMap (List DequeEntry)) := FMap.mapNonempty (fun xs => xs.filter fun x => decide (x.job ≠ job)) m
  let msgs (m : FMap (List Msg)) := FMap.mapNonempty (fun xs => xs.filter fun x => !carries x) m
  let s := s.modFab fun f => { f with deques := deques f.deques, msgs := msgs f.msgs }
  s.modWork fun w => { w with swapped := w.swapped.map fun i => { i with deques := deques i.deques, msgs := msgs i.msgs } }

/-- The end of a job whose units are gone (R315): what it left returns its weight, and what is complete of it goes. -/
def State.endJob (s : State) (job : Nat) : State :=
  (s.dropLeft job).modWork fun w => { w with
    jobs := w.jobs.filter fun x => decide (x.handle ≠ job)
    launches := w.launches.filter fun l => decide (l.id.job ≠ job)
    phases := w.phases.filter fun p => decide (p.id.job ≠ job) || !p.quiet
    runs := w.runs.filter fun r => decide (r.job ≠ job) }

/-- `JOB_CLOSE` (R315, R403): the job's launches are ended with the cancel mark; the job ends as the command completes. -/
def State.jobCloseCmd (s : State) (ch : Nat) (qs : List Word) : State :=
  if !fits [mask32, 1] qs then s.finish ch 2 []
  else
    match s.job (quadN qs 0) with
    | none => s.finish ch 3 []
    | some j =>
      let live := s.work.launches.any fun l => decide (l.id.job = j.handle) && decide (l.id.handle ≠ 1) && !l.state.ended
      if live ∧ quadN qs 1 = 0 then s.finish ch 5 [] else (s.cancelJob j.handle .cancel).finish ch 0 []

/-! ## Launches of the host (R316, R317, R403) -/

/-- Read global bytes for the host's `LAUNCH` under a tenant's keys, with the checks of `lnch`. Firmware reads at the home of a line: no
tile's L1 takes it (R370). -/
def State.hostRead (s : State) (tag : Nat) (a : Word) (n : Nat) : Acc :=
  let keys := globalKeys a n
  let who := portWho tag
  if !keys.all isGlobalKey || !s.inReach tag keys false then .fail s 7 0 none
  else
    match s.mayAccess who keys false false .home with
    | .ok s _ => s.readHome who keys.zipIdx
    | r => r

/-- `LAUNCH` of a descriptor. -/
def State.launchDesc (s : State) (ch : Nat) (j : Job) (a : Word) : Begun :=
  let bad (s : State) : Begun := .done (s.finish ch 2 [])
  if a.toNat % 128 ≠ 0 then bad s
  else
    match s.hostRead j.tag a 128 with
    | .wait s _ => .again s
    | .fail s _ _ _ => bad s
    | .ok s bs =>
      match s.checkDesc j (natOfBytes bs) with
      | none => bad s
      | some (d, k) =>
        if d.arga.extractLsb' 56 8 ≠ 0 then bad s
        else
          match (if d.argn = 0 then .ok s [] else s.hostRead j.tag d.arga (8 * d.argn)) with
          | .wait s _ => .again s
          | .fail s _ _ _ => bad s
          | .ok s bs =>
            match s.checkArgs j.tag (quadsOf d.argn bs) k.bufs with
            | none => bad s
            | some bounds =>
              let r := s.addLaunch j d (quadsOf d.argn bs) bounds none ch
              .done (r.1.finish ch 0 [BitVec.ofNat 64 r.2])

/-- The descriptor of an actor's launch in a period (R352): its kernel's shape, the run's phase and the period's graph. -/
def Kernel.desc (k : Kernel) (phase graph : Nat) (preds : List Nat) : Desc where
  pc := k.entry
  nx := k.nx
  ny := k.ny
  dnx := k.dnx
  dny := k.dny
  tw := k.tw
  th := k.th
  units := k.units
  kind := k.kind
  part := k.part
  gang := false
  fuse := false
  den := k.den
  prio := 0
  depth := if phase = 0 then 63 else 0
  graph := graph
  phase := phase
  preds := preds
  arga := 0
  cnta := 0
  spillb := 0
  spillsz := 0
  argn := 2

/-- The actors of an image in declaration order, with their kernel numbers. -/
def Image.actors (i : Image) : List (Nat × Kernel) := (i.kernels.zipIdx.filter fun e => decide (e.1.cls = 0)).map fun e => (e.2, e.1)

/-- Submit the launches of a period: each names its producers' launches (R352). `made` pairs kernel numbers with handles. -/
def State.submitActors (s : State) (job phase graph n order : Nat) (made : List (Nat × Nat)) :
    List (Nat × Kernel) → State × Nat × List (Nat × Nat)
  | [] => (s, phase, made)
  | (i, k) :: rest =>
    match s.job job with
    | none => (s, phase, made)
    | some j =>
      let preds := k.prods.filterMap fun p => (made.find? fun m => decide (m.1 = p)).map (·.2)
      let args := [BitVec.ofNat 64 k.q, BitVec.ofNat 64 n]
      let r := s.addLaunch j (k.desc phase graph preds) args [] none order
      let graph := if graph = 0 then r.2 else graph
      let phase := if phase = 0 then r.2 else phase
      State.submitActors r.1 job phase graph n order (made ++ [(i, r.2)]) rest

/-- `LAUNCH` of a run of periods (R352). -/
def State.launchRun (s : State) (ch : Nat) (j : Job) (image : Word) (nper : Nat) : State :=
  match s.store.images.find? fun i => decide (i.base = image) with
  | none => s.finish ch 2 []
  | some i =>
    if i.tag ≠ j.tag then s.finish ch 3 []
    else if i.actors.isEmpty || i.actors.any fun a => (originsIn j.tiles a.2.tw a.2.th).isEmpty then s.finish ch 2 []
    else
      let r := s.submitActors j.handle 0 0 0 ch [] i.actors
      let hs := r.2.2.map (·.2)
      let run : PeriodRun := ⟨r.1.serial, j.handle, image, if nper = 0 then none else some (nper - 1), 0, r.2.1, hs⟩
      let s := { r.1 with serial := r.1.serial + 1 }.modWork fun w => { w with runs := w.runs ++ [run] }
      s.finish ch 0 [BitVec.ofNat 64 (hs.headD 0)]

/-- PERIOD_SUBMIT (R352): once every launch of a period has retired, the next one is submitted, or the run ends. -/
def execPeriodSubmit (run : Nat) (s : State) : Host.Outcome State Fault Refusal :=
  .next (match s.work.runs.find? fun r => decide (r.id = run) with
    | none => s
    | some r =>
      let drop (s : State) : State := s.modWork fun w => { w with runs := w.runs.filter fun x => decide (x.id ≠ run) }
      let states := r.last.map (s.launchState r.job)
      if states.any (· = .cancelled) ∨ r.left = some 0 then drop s
      else if states.all (· = .retired) then
        match s.store.images.find? fun i => decide (i.base = r.image) with
        | none => drop s
        | some i =>
          let w := s.submitActors r.job r.phase 0 (r.period + 1) 0 [] i.actors
          w.1.modWork fun k => { k with runs := modifyFirst (fun x => decide (x.id = run)) (fun x => { x with
            left := x.left.map (· - 1), period := x.period + 1, last := w.2.2.map (·.2) }) k.runs }
      else s)

/-- `LAUNCH` (R403, R404). -/
def State.launchCmd (s : State) (ch : Nat) (qs : List Word) : Begun :=
  let period := (quad qs 1).getLsbD 63
  let a := quad qs 1 &&& ~~~(1#64 <<< 63)
  if !fits (if period then [mask32, maskAll, maskAll] else [mask32, maskAll]) qs then .done (s.finish ch 2 [])
  else
    match s.job (quadN qs 0) with
    | none => .done (s.finish ch 3 [])
    | some j => if period then .done (s.launchRun ch j a (quadN qs 2)) else s.launchDesc ch j a

/-- The job in which a level and a handle name a live target. -/
def State.targetJob (s : State) (level h : Nat) : Option Nat :=
  if level = 3 then (if (s.targets h 3 h).isEmpty then none else some h)
  else (s.work.jobs.find? fun j => s.targetLive j.handle level h).map (·.handle)

/-- `CANCEL` (R238, R403): the target is ended when this ck's halts and placements are settled; the command completes once it is. -/
def State.cancelMailbox (s : State) (ch : Nat) (qs : List Word) : State :=
  let level := quadN qs 0
  let h := quadN qs 1
  if !fits [3, mask32] qs || h == 0 then s.finish ch 2 []
  else
    match s.targetJob level h with
    | none => s.finish ch 3 []
    | some job => (s.askCancel job level h 0).finish ch 0 []

/-- `QUIESCE` (R403): it completes when the phase is quiet. -/
def State.quiesceCmd (s : State) (ch : Nat) (qs : List Word) : State :=
  if !fits [mask32, mask32] qs then s.finish ch 2 []
  else
    let p : PhaseId := ⟨quadN qs 0, quadN qs 1⟩
    match s.job p.job, s.phase p with
    | some _, some x => if x.quiet then s.finish ch 0 [s.phaseStatus p] else s
    | _, _ => s.finish ch 3 []

/-! ## Attestation, the log, reset and mode -/

/-- Bytes as quads. -/
def wordsOf (bs : List Byte) : List Word := quadsOf ((bs.length + 7) / 8) bs

/-- `ATTEST` (R364, R403): the record, the nonce, and a signature under the tenant's attestation key. -/
def State.attestCmd (s : State) (ch : Nat) (qs : List Word) : State :=
  s.withTenant ch ([maskTag] ++ List.replicate 7 maskAll) qs true fun t =>
    match s.store.images.find? fun i => decide (i.base = quad qs 1) && decide (i.tag = t.tag) with
    | none => s.finish ch 3 []
    | some i =>
      let msg := i.record ++ (List.range 6).flatMap fun k => bytesOfNat (quadN qs (2 + k)) 8
      s.finish ch 0 (wordsOf (msg ++ (Config.attestSign t.inst t.period msg).take 96))

/-- Write what a command reports to its host buffer, cut at the buffer's end; the reply gives the full length. -/
def State.report (s : State) (ch : Nat) (qs : List Word) (bs : List Byte) : State :=
  if !fits [maskAll, maskAll] qs then s.finish ch 2 []
  else (s.toHost (quadN qs 0) (bs.take (quadN qs 1))).finish ch 0 [BitVec.ofNat 64 bs.length]

/-- `LOG_READ` (R395): the oldest unread entries, and the lost-entry count. -/
def State.logReadCmd (s : State) (ch : Nat) (qs : List Word) : State :=
  if !fits [maskAll, maskAll] qs then s.finish ch 2 []
  else
    let es := s.firm.log.take (quadN qs 1)
    let s := s.toHost (quadN qs 0) (es.flatMap LogEntry.bytes)
    let s := s.modFirm fun f => { f with log := f.log.drop es.length, logHead := f.logHead + es.length }
    s.finish ch 0 [BitVec.ofNat 64 es.length, BitVec.ofNat 64 s.firm.logLost]

/-- End the units of a launch, wherever they are, with the fault mark; its completion counter counts them (R314). -/
def State.faultLaunch (s : State) (id : LaunchId) : State :=
  match s.launch id with
  | none => s
  | some l =>
    let begun := decide (l.state = .placed) || l.queue.any (·.image.isSome)
    let s := if begun then s.endPending l .fault else s
    let s := s.endSwapped id .fault
    let s := (s.slotsOf id).foldl (fun s k => s.endSlot k .fault) s
    match s.launch id with
    | some l => if !l.state.ended ∧ begun ∧ id.handle ≠ 1 ∧ l.count = l.total then s.retireLaunch l else s
    | none => s

/-- What a partition's tiles and cores hold is emptied, with the weight of it returned; the owner stays. -/
def State.resetTiles (s : State) (t : Tenant) : State :=
  let mine (tile : Nat) : Bool := t.tiles.contains tile
  let s := (s.returnOps (fun o => mine o.tile) .fault).returnQueues (fun c => mine (tileOf c)) .fault
  let s := s.modWork fun w => { w with ops := w.ops.filter fun o => !mine o.tile }
  let s := s.modFab fun f => { f with last := f.last.filter fun e => !mine (tileOf e.1) }
  t.tiles.foldl (fun s x => (s.emptyQueues x).scrubTile x) s

/-- What the image of a swapped-out partition holds is emptied, with the weight of it returned. -/
def State.resetImage (s : State) (i : SwapImage) : State :=
  (s.returnImage i .fault).modWork fun w => { w with swapped := w.swapped.map fun x =>
    if x.pid = i.pid then { x with
      mem := [], poison := [], windows := [], sems := [], planes := [], arrays := [], deques := [], msgs := [], lost := [], binds := [] }
    else x }

/-- `PART_RESET` (R337, R403, R423): refused while a sensor reads above 95 °C. What a swapped-out partition holds is in its image; its
tiles hold what is another tenant's. An exchange of the partition that its halt has stopped is given up. -/
def State.partResetCmd (s : State) (ch : Nat) (qs : List Word) : State :=
  if !fits [0xFFFF] qs then s.finish ch 2 []
  else
    match s.tenantOfPid (quadN qs 0) with
    | none => s.finish ch 3 []
    | some t =>
      if s.firm.thermal.warn then s.finish ch 5 []
      else
        let ids := (s.work.launches.filter fun l => decide (s.tagOfJob l.id.job = t.tag) && !l.state.ended).map (·.id)
        let s := ids.foldl (fun s id => s.faultLaunch id) s
        let s := match s.work.swapped.find? fun i => decide (i.pid = t.pid) with
          | some i => s.resetImage i
          | none => s.resetTiles t
        let s := (s.modTenant t.tag fun x => { x with halted := false }).modWork fun w => { w with
          swaps := w.swaps.filter fun r => decide (r.pid ≠ t.pid) }
        (s.schedule (s.ck + 1) (.launchPlacement t.pid)).finish ch 0 []

/-- `MAINT_MODE` (R403): entering is refused while a job is open. -/
def State.maintCmd (s : State) (ch : Nat) (qs : List Word) : State :=
  if !fits [1] qs then s.finish ch 2 []
  else if quadN qs 0 = 1 ∧ ¬ s.work.jobs.isEmpty then s.finish ch 5 []
  else (s.modFirm fun f => { f with maint := quadN qs 0 == 1 }).finish ch 0 []

end Sys2Proof.Machine
end

