-- ==== Sys2Proof/Machine/Tvas.lean ====
section
/-!
DEFINITION. tvas source lines (R95 to R101): numbers, registers, operands, modifiers, and the shortest form that encodes a
written instruction.
-/
namespace Sys2Proof.Tvas

open Sys2Proof Sys2Proof.Machine

/-- A piece of a source line. -/
abbrev Text := List Char

/-! ## Characters, numbers and names (R96, R97) -/

def isBlank (c : Char) : Bool := c == ' ' || c == '\t' || c == '\r'
def trimLeft : Text → Text
  | [] => []
  | c :: cs => if isBlank c then trimLeft cs else c :: cs
def trim (t : Text) : Text := (trimLeft (trimLeft t).reverse).reverse

/-- The pieces of a text between the occurrences of a character. -/
def splitAt (sep : Char) : Text → List Text
  | [] => [[]]
  | c :: cs =>
    if c = sep then [] :: splitAt sep cs
    else match splitAt sep cs with
      | [] => [[c]]
      | p :: ps => (c :: p) :: ps

/-- A line without its comment. -/
def uncomment : Text → Text
  | [] => []
  | ';' :: _ => []
  | '/' :: '/' :: _ => []
  | c :: cs => c :: uncomment cs

def isLower (c : Char) : Bool := decide ('a' ≤ c) && decide (c ≤ 'z')
def isLetter (c : Char) : Bool := isLower c || (decide ('A' ≤ c) && decide (c ≤ 'Z')) || c == '_'
def isDigit (c : Char) : Bool := decide ('0' ≤ c) && decide (c ≤ '9')
/-- A label or the name of a kernel or buffer: a letter or `_`, then letters, digits and `_`. -/
def isName : Text → Bool
  | [] => false
  | c :: cs => isLetter c && cs.all fun x => isLetter x || isDigit x

def digitOf (c : Char) : Nat :=
  if isDigit c then c.toNat - '0'.toNat
  else if isLower c then c.toNat - 'a'.toNat + 10
  else if isLetter c && c != '_' then c.toNat - 'A'.toNat + 10
  else 99

/-- Digits of a base; `_` stands only between two digits. `ready` says that the character before was a digit. -/
def digits (base acc : Nat) (ready : Bool) : Text → Option Nat
  | [] => if ready then some acc else none
  | '_' :: cs => if ready then digits base acc false cs else none
  | c :: cs => if digitOf c < base then digits base (base * acc + digitOf c) true cs else none

/-- A number without a sign: decimal, hexadecimal or binary. -/
def natOf : Text → Option Nat
  | '0' :: 'x' :: cs => digits 16 0 false cs
  | '0' :: 'b' :: cs => digits 2 0 false cs
  | cs => digits 10 0 false cs

def intOf : Text → Option Int
  | '-' :: cs => (natOf cs).map fun n => -(n : Int)
  | cs => (natOf cs).map fun n => (n : Int)

/-- A number in a range. -/
def natIn (lo hi : Nat) (t : Text) : Option Nat :=
  (natOf t).bind fun n => if lo ≤ n ∧ n ≤ hi then some n else none

/-- A register name: its letter, then its number in plain decimal. -/
def regOf (letter : Char) (t : Text) : Option (BitVec 8) :=
  match t with
  | c :: d :: ds =>
    if c = letter ∧ (d :: ds).all isDigit ∧ (d ≠ '0' ∨ ds = []) then
      ((natOf (d :: ds)).bind fun n => if n < 255 then some (BitVec.ofNat 8 n) else none)
    else none
  | _ => none

/-- An immediate: `#` and a number. -/
def hashInt : Text → Option Int
  | '#' :: cs => intOf cs
  | _ => none

def hashNat (hi : Nat) (t : Text) : Option Nat :=
  (hashInt t).bind fun n => if 0 ≤ n ∧ n ≤ (hi : Int) then some n.toNat else none

/-! ## Values of the floating directives (R99) -/

/-- The exponent of a decimal number: a sign that may be omitted, then decimal digits. -/
def exponentOf : Text → Option Int
  | '-' :: x => (digits 10 0 false x).map fun n => -(n : Int)
  | '+' :: x => (digits 10 0 false x).map fun n => (n : Int)
  | x => (digits 10 0 false x).map fun n => (n : Int)

/-- A decimal number with an optional point and exponent: its digits as one number, and the power of ten. The integer and the
fraction are each digits with `_` between two of them only (R97), and one of them may be empty beside a point. R99 does not say how
an exponent is written: DESIGN CHOICE, log 60, a lower-case `e` and a signed or unsigned decimal number. -/
def decimalOf (t : Text) : Option (Nat × Int) :=
  let parts := splitAt 'e' t
  let ex : Option Int := match parts with
    | [_] => some 0
    | [_, x] => exponentOf x
    | _ => none
  match splitAt '.' (parts.headD []), ex with
  | [i], some k => (digits 10 0 false i).map fun n => (n, k)
  | [i, f], some k =>
    let part (x : Text) : Option Nat := if x = [] then some 0 else digits 10 0 false x
    match part i, part f with
    | some n, some m =>
      let places := (f.filter isDigit).length
      if i = [] ∧ f = [] then none else some (n * 10 ^ places + m, k - (places : Int))
    | _, _ => none
  | _, _ => none

/-- The exact value of a decimal number, to more bits than any format holds, with a mark for what lies beyond them. -/
def decimalVal (neg : Bool) (n : Nat) (k : Int) : Val :=
  if n = 0 then .zero neg
  else if 0 ≤ k then .fin neg (n * 10 ^ k.toNat) 0 false
  else
    let d := 10 ^ (-k).toNat
    let sh := bitLen d + 200
    .fin neg (n * 2 ^ sh / d) (-(sh : Int)) (n * 2 ^ sh % d != 0)

/-- The bit pattern of a value operand in a format. -/
def floatOf (ty : Nat) (t : Text) : Option Nat :=
  let w := laneWidth ty
  match t with
  | '0' :: 'x' :: _ | '0' :: 'b' :: _ => (natOf t).bind fun n => if n < 2 ^ w then some n else none
  | _ =>
    if t = "inf".toList then some (roundVal ty (.inf false) 0).1
    else if t = "-inf".toList then some (roundVal ty (.inf true) 0).1
    else if t = "nan".toList ∨ t = "nar".toList then some (roundVal ty .nar 0).1
    else
      let (neg, u) := match t with
        | '-' :: u => (true, u)
        | u => (false, u)
      (decimalOf u).map fun e => (roundVal ty (decimalVal neg e.1 e.2) 0).1

/-! ## Operands (R86, R87, R95) -/

/-- The operand fields. -/
inductive Fld where
  | a
  | b
  | c
  | d
  | e
  deriving DecidableEq, Repr

/-- What an instruction is written with: a scalar, one that may be omitted at the end, or one that may be written `void`; a
row, a tile, a guard, a negated guard, a mask, a bound, a constant or a special register in an operand field; the immediate,
a buffer's name; a constant at a bit of IMM8, one that may be omitted, and a group size; a memory operand with a displacement
unit, an address with a displacement, and an address alone; a target, the guard of `bg`, the link register, the path set. -/
inductive Opnd where
  | s (f : Fld)
  | sTail (f : Fld)
  | sVoid (f : Fld)
  | v (f : Fld)
  | q (f : Fld)
  | g (f : Fld)
  | gNot (f : Fld)
  | m (f : Fld)
  | bd (f : Fld)
  | k (f : Fld)
  | sr (f : Fld)
  | imm
  | name
  | bits (lo : Nat)
  | bitsOpt (lo : Nat)
  | grp (lo : Nat)
  | mem (unit : Nat)
  | addr (f : Fld)
  | base (f : Fld)
  | target
  | guardSel
  | link
  | paths
  deriving DecidableEq, Repr

/-- A written instruction on its way to a form: its fields, the value of the immediate or of the displacement in bytes, the
displacement unit, whether it has a memory operand and an index, its target and its buffer. -/
structure Draft where
  f      : Fields := Fields.zero
  value  : Option Int := none
  unit   : Nat := 1
  mem    : Bool := false
  index  : Bool := false
  target : Option Text := none
  buffer : Option Text := none
  deriving DecidableEq, Repr

def Draft.set (x : Draft) (f : Fld) (v : BitVec 8) : Draft :=
  match f with
  | .a => { x with f := { x.f with a := v } }
  | .b => { x with f := { x.f with b := v } }
  | .c => { x with f := { x.f with c := v } }
  | .d => { x with f := { x.f with d := v } }
  | .e => { x with f := { x.f with e := v } }

/-- Add a number to IMM8 at a bit. -/
def Draft.addBits (x : Draft) (lo n : Nat) : Draft := { x with f := { x.f with imm := x.f.imm + BitVec.ofNat 22 (n * 2 ^ lo) } }

/-- The special registers by name (R91). -/
def specialNames : List String :=
  ["geo", "uid", "slot", "core", "tile", "tenant", "part", "cyc", "tvec", "trec", "feat", "mode", "bgen", "stat"]

/-- The path names (R92). -/
def pathNames : List String := ["core", "copy", "matrix", "coll", "inbound"]

def indexIn (names : List String) (t : Text) : Option Nat := names.findIdx? fun n => n.toList == t

/-- The terms of an address, each with whether it is subtracted. -/
def terms : Bool → Text → Text → List (Bool × Text)
  | neg, acc, [] => [(neg, trim acc.reverse)]
  | neg, acc, '+' :: cs => (neg, trim acc.reverse) :: terms false [] cs
  | neg, acc, '-' :: cs => (neg, trim acc.reverse) :: terms true [] cs
  | neg, acc, c :: cs => terms neg (c :: acc) cs

/-- What stands between square brackets. -/
def bracketed (t : Text) : Option Text :=
  match t with
  | '[' :: cs => match cs.reverse with
    | ']' :: rs => some rs.reverse
    | _ => none
  | _ => none

/-- An index term: its register and scale code. -/
def indexOf (t : Text) : Option (BitVec 8 × BitVec 4) :=
  match splitAt '*' t with
  | [r] => (regOf 's' (trim r)).map fun n => (n, 0)
  | [r, k] =>
    match regOf 's' (trim r), natOf (trim k) with
    | some n, some 1 => some (n, 0)
    | some n, some 2 => some (n, 1)
    | some n, some 4 => some (n, 2)
    | some n, some 8 => some (n, 3)
    | _, _ => none
  | _ => none

def dispOf (x : Bool × Text) : Option Int := (natOf x.2).map fun n => if x.1 then -(n : Int) else n

/-- A memory operand: base, index and displacement (R86). -/
def memOf (x : Draft) (unit : Nat) (t : Text) : Option Draft :=
  (bracketed t).bind fun u =>
    match terms false [] u with
    | (false, b) :: rest =>
      (regOf 's' b).bind fun n =>
        let x := { x.set .b n with mem := true, unit := unit, value := some 0 }
        let withIndex (i : BitVec 8 × BitVec 4) (x : Draft) : Draft :=
          { x.set .c i.1 with index := true, f := { (x.set .c i.1).f with fn := i.2 } }
        match rest with
        | [] => some x
        | [y] =>
          match (if y.1 then none else indexOf y.2), dispOf y with
          | some i, _ => some (withIndex i x)
          | none, some d => some { x with value := some d }
          | none, none => none
        | [y, z] =>
          match (if y.1 then none else indexOf y.2), dispOf z with
          | some i, some d => some { withIndex i x with value := some d }
          | _, _ => none
        | _ => none
    | _ => none

/-- An address register with a displacement in bytes. -/
def addrOf (x : Draft) (f : Fld) (t : Text) : Option Draft :=
  (bracketed t).bind fun u =>
    match terms false [] u with
    | [(false, b)] => (regOf 's' b).map fun n => { x.set f n with value := some 0 }
    | [(false, b), y] =>
      match regOf 's' b, dispOf y with
      | some n, some d => some { x.set f n with value := some d }
      | _, _ => none
    | _ => none

/-- The path names at the front of a list, as bits, with what follows them. -/
def pathsOf (acc : Nat) : List Text → Nat × List Text
  | [] => (acc, [])
  | t :: ts =>
    match indexIn pathNames t with
    | some n => if acc / 2 ^ n % 2 = 1 then (acc, t :: ts) else pathsOf (acc + 2 ^ n) ts
    | none => (acc, t :: ts)

/-- Match the next operands of an instruction. -/
def matchOp (x : Draft) (o : Opnd) (ts : List Text) : Option (Draft × List Text) :=
  let reg (c : Char) (f : Fld) : Option (Draft × List Text) :=
    match ts with
    | t :: rest => (regOf c t).map fun n => (x.set f n, rest)
    | [] => none
  match o with
  | .s f => reg 's' f
  | .v f => reg 'v' f
  | .q f => reg 'q' f
  | .g f => reg 'g' f
  | .m f => reg 'm' f
  | .bd f => reg 'b' f
  | .sTail f => match reg 's' f with
    | some r => some r
    | none => some (x.set f 0xFF, ts)
  | .sVoid f => match ts with
    | t :: rest => if t = "void".toList then some (x.set f 0xFF, rest) else reg 's' f
    | [] => none
  | .gNot f => match ts with
    | ('!' :: t) :: rest => (regOf 'g' t).map fun n => (x.set f n, rest)
    | _ => none
  | .k f => match ts with
    | t :: rest => (hashNat 254 t).map fun n => (x.set f (BitVec.ofNat 8 n), rest)
    | [] => none
  | .sr f => match ts with
    | t :: rest => (indexIn specialNames t).map fun n => (x.set f (BitVec.ofNat 8 n), rest)
    | [] => none
  | .imm => match ts with
    | t :: rest => (hashInt t).map fun n => ({ x with value := some n }, rest)
    | [] => none
  | .name => match ts with
    | ('#' :: t) :: rest => if isName t then some ({ x with buffer := some t }, rest) else none
    | _ => none
  | .bits lo => match ts with
    | t :: rest => (hashNat 255 t).bind fun n => if n * 2 ^ lo < 256 then some (x.addBits lo n, rest) else none
    | [] => none
  | .bitsOpt lo => match ts with
    | t :: rest => match hashNat 255 t with
      | some n => if n * 2 ^ lo < 256 then some (x.addBits lo n, rest) else none
      | none => some (x, ts)
    | [] => some (x, [])
  | .grp lo => match ts with
    | t :: rest => match hashNat 128 t with
      | some 32 => some (x, rest)
      | some 64 => some (x.addBits lo 1, rest)
      | some 128 => some (x.addBits lo 2, rest)
      | _ => none
    | [] => none
  | .mem unit => match ts with
    | t :: rest => (memOf x unit t).map fun y => (y, rest)
    | [] => none
  | .addr f => match ts with
    | t :: rest => (addrOf x f t).map fun y => (y, rest)
    | [] => none
  | .base f => match ts with
    | t :: rest => (bracketed t).bind fun u => (regOf 's' (trim u)).map fun n => (x.set f n, rest)
    | [] => none
  | .target => match ts with
    | t :: rest => if isName t then some ({ x with target := some t }, rest) else none
    | [] => none
  | .guardSel =>
    let put (neg : Bool) (t : Text) (rest : List Text) : Option (Draft × List Text) :=
      (regOf 'g' t).bind fun n =>
        if n.toNat < 8 then some ({ x with f := { x.f with ga := ⟨neg, n.setWidth 3⟩ } }, rest) else none
    match ts with
    | ('!' :: t) :: rest => put true t rest
    | t :: rest => put false t rest
    | [] => none
  | .link => some (x.set .b 31, ts)
  | .paths =>
    let r := pathsOf 0 ts
    some (x.addBits 0 r.1, r.2)

def matchOps (x : Draft) : List Opnd → List Text → Option (Draft × List Text)
  | [], ts => some (x, ts)
  | o :: os, ts => (matchOp x o ts).bind fun r => matchOps r.1 os r.2

/-! ## Mnemonics -/

/-- A way to write a mnemonic: its major and FN, the operation in IMM8, and its operands. -/
structure Row where
  op  : Nat
  fn  : Nat
  ops : List Opnd
  sub : Nat := 0
  deriving DecidableEq, Repr

def abc : List Opnd := [.s .a, .s .b, .s .c]
def vabc : List Opnd := [.v .a, .v .b, .v .c]
def vab : List Opnd := [.v .a, .v .b]

/-- Number the names of a list as the functions of a major with the same operands. -/
def numbered (op : Nat) (ops : List Opnd) (pre : String) (names : List String) : List (String × List Row) :=
  names.zipIdx.map fun e => (pre ++ e.1, [⟨op, e.2, ops, 0⟩])

/-- The conditions of `cmp` and of `vcmp` (R90). -/
def condNames : List String := ["eq", "ne", "lt", "le", "gt", "ge", "ltn", "len", "gtn", "gen"]
def vcondNames : List String := ["eq", "ne", "lt", "le", "gt", "ge", "un"]
/-- The operations of a reduction (R178). -/
def reduceNames : List String := ["add", "min", "max", "and", "or", "xor"]

def scalarRows : List (String × List Row) :=
  (["mulh", "mulhn", "div", "divn", "rem", "remn"].zipIdx.map fun e => (e.1, [⟨0x01, 3 + e.2, abc, 0⟩])) ++
  [("add", [⟨0x01, 0, abc, 0⟩, ⟨0x10, 0, [.s .a, .s .b, .imm], 0⟩]), ("sub", [⟨0x01, 1, abc, 0⟩]),
   ("mul", [⟨0x01, 2, abc, 0⟩, ⟨0x11, 0, [.s .a, .s .b, .imm], 0⟩]),
   ("and", [⟨0x01, 9, abc, 0⟩, ⟨0x12, 0, [.s .a, .s .b, .imm], 0⟩]),
   ("or", [⟨0x01, 10, abc, 0⟩, ⟨0x13, 0, [.s .a, .s .b, .imm], 0⟩]),
   ("xor", [⟨0x01, 11, abc, 0⟩, ⟨0x14, 0, [.s .a, .s .b, .imm], 0⟩]),
   ("andn", [⟨0x01, 12, abc, 0⟩]), ("orn", [⟨0x01, 13, abc, 0⟩]), ("clmul", [⟨0x01, 14, abc, 0⟩]),
   ("clmulh", [⟨0x01, 15, abc, 0⟩])] ++
  (["shl", "shr", "sar", "rol", "ror"].zipIdx.map fun e =>
    (e.1, [⟨0x02, e.2, abc, 0⟩, ⟨0x15 + e.2, 0, [.s .a, .s .b, .imm], 0⟩])) ++
  (["min", "max", "minn", "maxn"].zipIdx.map fun e => (e.1, [⟨0x02, 5 + e.2, abc, 0⟩])) ++
  numbered 0x03 [.s .a, .s .b] "" ["clz", "ctz", "popc", "bswap", "mov"] ++
  numbered 0x04 [.s .a, .s .b, .k .c, .k .d] "" ["bfx", "bfxs", "bfi"] ++
  [("sel", [⟨0x05, 0, [.s .a, .g .b, .s .c, .s .d], 0⟩, ⟨0x05, 0, [.s .a, .gNot .b, .s .d, .s .c], 0⟩])] ++
  (condNames.zipIdx.map fun e =>
    ("cmp." ++ e.1, [⟨0x06, e.2, [.g .a, .s .b, .s .c], 0⟩, ⟨0x07, e.2, [.g .a, .s .b, .imm], 0⟩])) ++
  numbered 0x08 [.g .a, .s .b, .s .c] "tst." ["z", "nz"] ++
  numbered 0x09 [.g .a, .g .b, .g .c] "gop." ["and", "or", "xor", "andn", "orn"] ++
  [("gop.not", [⟨0x09, 5, [.g .a, .g .b], 0⟩]), ("gop.set", [⟨0x09, 6, [.g .a], 0⟩]), ("gop.clr", [⟨0x09, 7, [.g .a], 0⟩]),
   ("li", [⟨0x1A, 0, [.s .a, .imm], 0⟩, ⟨0x1A, 0, [.s .a, .name], 0⟩]), ("lea", [⟨0x1B, 0, [.s .a, .mem 1], 0⟩])] ++
  numbered 0x1C [.s .a, .s .b] "cvta." ["g", "l", "s"] ++
  [("tsta", [⟨0x1D, 0, [.s .a, .s .b], 0⟩]), ("georng", [⟨0x1E, 0, abc, 0⟩])]

def controlRows : List (String × List Row) :=
  [("br", [⟨0x20, 0, [.target], 0⟩]), ("call", [⟨0x22, 2, [.s .b], 0⟩, ⟨0x21, 0, [.target], 0⟩]),
   ("jmp", [⟨0x22, 0, [.s .b], 0⟩]), ("ret", [⟨0x22, 1, [.s .b], 0⟩, ⟨0x22, 1, [.link], 0⟩]),
   ("bg", [⟨0x23, 0, [.guardSel, .target], 0⟩]), ("loop", [⟨0x24, 0, [.s .a, .target], 0⟩]),
   ("realign", [⟨0x25, 0, [.imm], 0⟩]), ("sleep", [⟨0x27, 0, [.imm], 0⟩])] ++
  numbered 0x26 [] "" ["nop", "safe", "halt", "yield"] ++
  [("rdsr", [⟨0x30, 0, [.s .a, .sr .b], 0⟩]), ("wrsr", [⟨0x31, 0, [.sr .a, .s .b], 0⟩]), ("trap", [⟨0x32, 0, [.imm], 0⟩]),
   ("tret", [⟨0x33, 0, [.k .b], 0⟩, ⟨0x33, 1, [.k .b, .s .c], 0⟩]), ("brk", [⟨0x34, 0, [.imm], 0⟩]),
   ("chk", [⟨0x35, 0, [.bd .a, .s .b, .imm], 0⟩]), ("bnd.ld", [⟨0x36, 0, [.bd .a, .s .b], 0⟩])]

def memoryRows : List (String × List Row) :=
  ([("i8", 1), ("n8", 1), ("i16", 2), ("n16", 2), ("i32", 4), ("n32", 4), ("i64", 8)].zipIdx.map fun e =>
    ("ld." ++ e.1.1, [⟨0x40 + e.2, 0, [.s .a, .mem e.1.2], 0⟩])) ++
  [("ld.n64", [⟨0x46, 0, [.s .a, .mem 8], 0⟩]), ("ld", [⟨0x46, 0, [.s .a, .mem 8], 0⟩]), ("st", [⟨0x4B, 0, [.s .a, .mem 8], 0⟩])] ++
  (["8", "16", "32", "64"].zipIdx.flatMap fun e =>
    ["i", "n"].map fun p => ("st." ++ p ++ e.1, [⟨0x48 + e.2, 0, [.s .a, .mem (2 ^ e.2)], 0⟩])) ++
  [("ldp", [⟨0x4C, 0, [.s .a, .s .d, .mem 16], 0⟩]),
   ("stp", [⟨0x4D, 0, [.s .a, .s .d, .mem 16], 0⟩]),
   ("pf", [⟨0x4E, 0, [.mem 1], 0⟩]), ("cln", [⟨0x4F, 0, [.addr .b], 0⟩]), ("inv", [⟨0x50, 0, [.addr .b], 0⟩])] ++
  (["add", "and", "or", "xor", "min", "max", "minn", "maxn", "swap"].zipIdx.map fun e =>
    ("amo." ++ e.1, [⟨0x51, e.2, [.sVoid .a, .addr .b, .s .c], 0⟩])) ++
  (["fadd", "fmin", "fmax", "xadd"].zipIdx.map fun e => ("amo." ++ e.1, [⟨0x51, 10 + e.2, [.sVoid .a, .addr .b, .s .c], 0⟩])) ++
  [("amo.cas", [⟨0x51, 9, [.sVoid .a, .addr .b, .s .c, .s .d], 0⟩]), ("amo.xrd", [⟨0x51, 14, [.s .a, .addr .b], 0⟩]),
   ("fence", [⟨0x52, 0, [], 0⟩]), ("fence.path", [⟨0x52, 1, [.paths], 0⟩]),
   ("bar.arrive", [⟨0x53, 0, [.s .a, .addr .b], 0⟩]), ("bar.wait", [⟨0x53, 1, [.s .a, .addr .b, .s .c], 0⟩]),
   ("bar.gen", [⟨0x53, 2, [.s .a, .addr .b], 0⟩]), ("sem.post", [⟨0x54, 0, [.k .c], 0⟩]), ("sem.wait", [⟨0x54, 1, [.k .c], 0⟩]),
   ("sem.try", [⟨0x54, 2, [.g .a, .k .c], 0⟩]), ("cnt.add", [⟨0x55, 0, [.addr .a, .s .b], 0⟩]),
   ("cnt.wait", [⟨0x55, 1, [.addr .a, .s .b], 0⟩]), ("cnt.rd", [⟨0x55, 2, [.s .a, .addr .b], 0⟩])]

def workRows : List (String × List Row) :=
  [("spawn", [⟨0x58, 0, [.target], 0⟩]), ("sync", [⟨0x59, 0, [], 0⟩]), ("done", [⟨0x59, 1, [], 0⟩]),
   ("post", [⟨0x59, 2, [.s .b], 0⟩]), ("grant", [⟨0x59, 3, [.s .a, .s .b], 0⟩]), ("quiet.wait", [⟨0x59, 4, [.s .a], 0⟩]),
   ("lnch", [⟨0x5A, 0, [.s .a, .s .b], 0⟩])] ++
  numbered 0x5B [.s .a, .s .b] "cancel." ["launch", "graph", "phase", "job"] ++
  [("ctx.start", [⟨0x5C, 0, abc, 0⟩]), ("ctx.reap", [⟨0x5C, 1, [.s .a, .k .b], 0⟩]), ("ctx.part", [⟨0x5C, 2, [.s .a, .k .b], 0⟩]),
   ("msg.bind", [⟨0x5D, 0, [.k .a], 0⟩]), ("msg.recv", [⟨0x5D, 1, [.s .a, .s .b, .k .c], 0⟩]),
   ("tok.test", [⟨0x5E, 0, [.g .a, .s .b], 0⟩]), ("tok.cancel", [⟨0x5E, 1, [.s .b], 0⟩])]

def vectorRows : List (String × List Row) :=
  [("vld", [⟨0x80, 0, [.v .a, .mem 256], 0⟩]), ("vst", [⟨0x81, 0, [.v .a, .mem 256], 0⟩]),
   ("vldg", [⟨0x82, 0, [.v .a, .base .b, .v .c], 0⟩]), ("vsct", [⟨0x83, 0, [.v .a, .base .b, .v .c], 0⟩]),
   ("vlds", [⟨0x84, 0, [.v .a, .mem 256, .s .d], 0⟩]), ("vsst", [⟨0x85, 0, [.v .a, .mem 256, .s .d], 0⟩]),
   ("vmov", [⟨0x86, 0, vab, 0⟩]), ("vbc", [⟨0x86, 1, [.v .a, .s .b], 0⟩]), ("vins", [⟨0x86, 2, [.v .a, .s .b, .s .c], 0⟩]),
   ("vext", [⟨0x86, 3, [.s .a, .v .b, .s .c], 0⟩])] ++
  numbered 0x87 vabc "" ["vadd", "vsub", "vmul"] ++
  (["vmin", "vmax", "vdiv"].zipIdx.map fun e => (e.1, [⟨0x87, 7 + e.2, vabc, 0⟩])) ++
  [("vfma", [⟨0x87, 3, vabc ++ [.v .d], 0⟩]), ("vfms", [⟨0x87, 4, vabc ++ [.v .d], 0⟩]), ("vneg", [⟨0x87, 5, vab, 0⟩]),
   ("vabs", [⟨0x87, 6, vab, 0⟩]), ("vsqrt", [⟨0x87, 10, vab, 0⟩]), ("vrcp", [⟨0x87, 11, vab, 0⟩]), ("vrsq", [⟨0x87, 12, vab, 0⟩])] ++
  numbered 0x88 vab "" ["vexp2", "vlog2", "vtanh", "vsig"] ++
  numbered 0x89 [.m .a, .v .b, .v .c] "vcmp." vcondNames ++
  [("vsel", [⟨0x8A, 0, [.v .a, .m .b, .v .c, .v .d], 0⟩])] ++
  numbered 0x8B vabc "" ["vand", "vor", "vxor", "vandn"] ++
  (["vshl", "vshr", "vsar"].zipIdx.map fun e =>
    (e.1, [⟨0x8B, 4 + e.2, vabc, 0⟩, ⟨0x8B, 4 + e.2, [.v .a, .v .b, .sTail .c, .bits 0], 0⟩])) ++
  [("vclmul", [⟨0x8B, 7, vabc, 0⟩]), ("vpopc", [⟨0x8B, 8, vab, 0⟩]), ("vclz", [⟨0x8B, 9, vab, 0⟩]),
   ("vperm", [⟨0x8C, 0, vabc, 0⟩]), ("vshuf", [⟨0x8C, 1, vabc ++ [.bits 0], 0⟩, ⟨0x8C, 1, vab ++ [.bits 0], 0⟩]),
   ("vrot", [⟨0x8C, 2, [.v .a, .v .b, .s .c], 0⟩, ⟨0x8C, 2, [.v .a, .v .b, .sTail .c, .bits 0], 0⟩])] ++
  (reduceNames.zipIdx.flatMap fun e =>
    [("vred." ++ e.1, [⟨0x8C, 3, [.s .a, .v .b], e.2⟩]), ("vscan." ++ e.1, [⟨0x8C, 4, vab, e.2⟩]),
     ("vxscan." ++ e.1, [⟨0x8C, 5, vab, e.2⟩])]) ++
  [("vtag", [⟨0x8D, 0, [.s .a, .v .b], 0⟩]), ("vretag", [⟨0x8D, 1, vab, 0⟩])] ++
  (["and", "or", "xor", "andn"].zipIdx.map fun e => ("mop." ++ e.1, [⟨0x8E, 0, [.m .a, .m .b, .m .c], e.2⟩])) ++
  [("mop.not", [⟨0x8E, 0, [.m .a, .m .b], 4⟩]), ("mop.set", [⟨0x8E, 0, [.m .a], 5⟩]), ("mop.clr", [⟨0x8E, 0, [.m .a], 6⟩]),
   ("mop.first", [⟨0x8E, 0, [.m .a, .s .b], 7⟩]), ("mop.tov", [⟨0x8E, 0, [.v .a, .m .b], 8⟩]),
   ("mop.fromv", [⟨0x8E, 0, [.m .a, .v .b], 9⟩]), ("mcnt", [⟨0x8E, 1, [.s .a, .m .b], 0⟩]),
   ("vcvt", [⟨0x90, 0, vab ++ [.bitsOpt 0], 0⟩]), ("vquant", [⟨0x90, 1, vabc ++ [.v .d, .grp 4, .bits 0], 0⟩]),
   ("vdeq", [⟨0x90, 2, vabc ++ [.v .d, .grp 4, .bits 0], 0⟩]), ("vpack", [⟨0x90, 3, vabc, 0⟩]),
   ("vunpk", [⟨0x90, 4, vab ++ [.bits 0], 0⟩])]

/-- The engine and matrix rows. The absent stride of `mwsc` and the discarded answer of `mclr` are written `void`, which the spec gives for
atomics alone: DESIGN CHOICE, log entry 60. -/
def engineRows : List (String × List Row) :=
  [("mwld", [⟨0xC0, 0, [.base .b, .sTail .c], 0⟩]), ("mwsc", [⟨0xC0, 1, [.base .b, .sVoid .c, .s .d, .grp 0, .bitsOpt 2], 0⟩]),
   ("mwsw", [⟨0xC0, 2, [], 0⟩]), ("mmac", [⟨0xC0, 3, [.q .a, .base .b, .sTail .c], 0⟩]),
   ("mmacz", [⟨0xC0, 4, [.q .a, .base .b, .sTail .c], 0⟩]), ("mclr", [⟨0xC0, 5, [.sVoid .a, .q .b], 0⟩]),
   ("mcsum", [⟨0xC0, 6, [.v .a, .bits 0], 0⟩]), ("ssm.cfg", [⟨0xC8, 0, [.s .a, .base .b], 0⟩]),
   ("ssm.run", [⟨0xC8, 1, [.s .a, .s .b], 0⟩]), ("ssm.st", [⟨0xC8, 2, [.base .b], 0⟩]), ("ssm.stat", [⟨0xC8, 3, [.s .a], 0⟩]),
   ("cp", [⟨0xE0, 0, abc ++ [.s .d, .sTail .e], 0⟩]), ("cp.slab", [⟨0xE0, 1, abc ++ [.s .d, .bitsOpt 0, .sTail .e], 0⟩]),
   ("cp.gth", [⟨0xE0, 2, abc ++ [.s .d, .bits 0, .sTail .e], 0⟩]), ("cp.sct", [⟨0xE0, 3, abc ++ [.s .d, .bits 0, .sTail .e], 0⟩]),
   ("cp.fill", [⟨0xE0, 4, abc ++ [.s .d, .sTail .e], 0⟩]), ("win.bind", [⟨0xE1, 0, [.k .a, .s .b, .s .c, .s .d], 0⟩]),
   ("win.mark", [⟨0xE1, 1, [.k .a], 0⟩]), ("win.drop", [⟨0xE1, 2, [.k .a], 0⟩]), ("win.q", [⟨0xE1, 3, [.s .a, .k .b], 0⟩])] ++
  (reduceNames.zipIdx.map fun e => ("coll.red." ++ e.1, [⟨0xE2, 0, abc ++ [.s .d], e.2⟩])) ++
  [("coll.bc", [⟨0xE2, 1, abc ++ [.s .d], 0⟩]), ("coll.ag", [⟨0xE2, 2, abc ++ [.s .d], 0⟩]),
   ("msg.send", [⟨0xE3, 0, abc ++ [.s .d], 0⟩]), ("smerge", [⟨0xE3, 1, abc ++ [.s .d, .s .e], 0⟩])]

/-- Every mnemonic with its function parts, and the ways to write it (R87, R89, R95). -/
def mnemonics : List (String × List Row) :=
  scalarRows ++ controlRows ++ memoryRows ++ workRows ++ vectorRows ++ engineRows

/-- The ways to write a mnemonic. -/
def rowsOf (name : Text) : List Row :=
  if name = [] then [] else (mnemonics.filter fun e => e.1.toList == name).flatMap (·.2)

/-! ## Modifiers (R80 to R85, R95) -/

/-- The type suffixes with their codes (R80). -/
def typeNames : List (String × Nat) :=
  [("i8", 1), ("i16", 2), ("i32", 3), ("i64", 4), ("f16", 5), ("f32", 6), ("f64", 7), ("tf8", 8), ("tf16", 9), ("tf32", 10),
   ("i4g", 11), ("i8g", 12), ("e64", 13), ("msk", 14), ("n8", 17), ("n16", 18), ("n32", 19), ("n64", 20)]

/-- The other modifiers: the field they set and its code. -/
inductive ModField where
  | rm
  | sat
  | hint
  | ord
  | scope
  | pz
  | weight
  | bytes
  deriving DecidableEq, Repr

def modNames : List (String × ModField × Nat) :=
  [("rne", .rm, 0), ("rz", .rm, 1), ("rp", .rm, 2), ("rm", .rm, 3), ("sat", .sat, 1), ("na", .hint, 1), ("by", .hint, 2),
   ("rlx", .ord, 0), ("acq", .ord, 1), ("rel", .ord, 2), ("ar", .ord, 3), ("sc", .ord, 4), ("tile", .scope, 1),
   ("clu", .scope, 2), ("die", .scope, 3), ("pkg", .scope, 4), ("sys", .scope, 5), ("pz", .pz, 1), ("wt", .weight, 1),
   ("cb", .bytes, 1)]

/-- The modifiers read so far: the fields, the type suffixes, and the fields that have been written. -/
structure Mods where
  f     : Fields := Fields.zero
  types : List Nat := []
  seen  : List ModField := []
  deriving DecidableEq, Repr

def Mods.put (x : Mods) (k : ModField) (n : Nat) : Mods :=
  let f := match k with
    | .rm => { x.f with rm := BitVec.ofNat 2 n }
    | .sat => { x.f with sat := true }
    | .hint => { x.f with hint := BitVec.ofNat 3 n }
    | .ord => { x.f with ord := BitVec.ofNat 3 n }
    | .scope => { x.f with scope := BitVec.ofNat 3 n }
    | .pz => { x.f with pz := true }
    | .weight => { x.f with imm := x.f.imm + 128 }
    | .bytes => { x.f with imm := x.f.imm + 64 }
  { x with f := f, seen := x.seen ++ [k] }

/-- Read the modifiers after a mnemonic; a field written twice and a third type suffix are errors. -/
def modsOf (x : Mods) : List Text → Option Mods
  | [] => some x
  | t :: ts =>
    match typeNames.find? fun e => e.1.toList == t with
    | some e => if x.types.length < 2 then modsOf { x with types := x.types ++ [e.2] } ts else none
    | none =>
      match modNames.find? fun e => e.1.toList == t with
      | some e => if x.seen.contains e.2.1 then none else modsOf (x.put e.2.1 e.2.2) ts
      | none => none

/-- The type suffixes in TY and ETAG; an unsigned second suffix of `vcvt` sets IMM8[7] (R80, R183). -/
def Mods.typed (x : Mods) (convert : Bool) : Fields :=
  match x.types with
  | t :: u :: _ =>
    { x.f with ty := BitVec.ofNat 5 t, etag := BitVec.ofNat 4 u, imm := if convert ∧ 16 < u then x.f.imm + 128 else x.f.imm }
  | [t] => { x.f with ty := BitVec.ofNat 5 t }
  | [] => x.f

/-! ## The shortest form (R87, R97) -/

/-- The majors whose immediate is unsigned (R89). -/
def unsignedImm (op : Nat) : Bool := [0x15, 0x16, 0x17, 0x18, 0x19, 0x25, 0x27, 0x32, 0x34, 0x35].contains op

/-- A number in a field of `w` bits, signed or unsigned. -/
def fieldOf (signed : Bool) (w : Nat) (q : Int) : Option (BitVec 22) :=
  let ok := if signed then decide (-(2 ^ (w - 1) : Int) ≤ q) && decide (q < 2 ^ (w - 1)) else decide (0 ≤ q) && decide (q < 2 ^ w)
  if ok then some (BitVec.ofNat 22 (q % 2 ^ w).toNat) else none

/-- The fields of a draft in a form, when its immediate fits there. -/
def Draft.inForm (x : Draft) (m : Major) (op : Nat) (form : Form) : Option Fields :=
  let f := { x.f with form := form, c := if x.mem && !x.index then (if form.isExt then 0xFF else 0) else x.f.c }
  let signed := !unsignedImm op
  if x.mem && x.index && !form.isExt then none
  else if x.buffer.isSome then (if form.hasLit then some f else none)
  else
    match x.value with
    | none => if form.hasLit then none else some f
    | some v =>
      if form.hasLit then
        (if (if signed then -(2 ^ 63 : Int) else 0) ≤ v ∧ v < 2 ^ 64 then some { f with lit := BitVec.ofInt 64 v } else none)
      else if v % (x.unit : Int) ≠ 0 then none
      else if form.isExt then (fieldOf signed 8 (v / (x.unit : Int))).map fun i => { f with imm := f.imm + i }
      else if m.fmt = .i ∨ m.fmt = .m then (fieldOf signed 10 (v / (x.unit : Int))).map fun i => { f with imm := f.imm + i }
      else if v = 0 then some f else none

/-- The instruction of a major with a field FN: FN chooses the mnemonic, or stands in the fields. -/
def instrWith (m : Major) (op fn : Nat) (f : Fields) : Option Instr :=
  if m.multi then instrOf op fn { f with fn := 0 } else instrOf op 0 { f with fn := f.fn ||| BitVec.ofNat 4 fn }

/-- A form of a draft as an instruction that some words spell. -/
def Draft.tryForm (x : Draft) (m : Major) (op fn : Nat) (guarded : Bool) (form : Form) : Option Instr :=
  if guarded && !form.isExt then none
  else ((x.inForm m op form).bind (instrWith m op fn)).bind fun i => if i.encodable then some i else none

/-- The first form, the shortest first, that encodes a draft. -/
def Draft.shortest (x : Draft) (op fn : Nat) (guarded : Bool) : Option Instr :=
  (majorOf op).bind fun m =>
    [Form.base, .baseLit, .ext, .extLit].findSome? fun form => x.tryForm m op fn guarded form

/-- Whether some partition accepts every field of an instruction (R101). -/
def someCheck (i : Instr) : Bool := [Part.p16, .p8, .p4].any fun p => checkFields p i = .ok

/-- The operands after an instruction's own: a lane mask, and a scope register (R95). -/
def trailing (f : Fields) : List Text → Option (Fields × Bool)
  | [] => some (f, false)
  | [t] =>
    match regOf 'm' t, regOf 's' t with
    | some n, _ => if n.toNat < 8 then some ({ f with lmask := n.setWidth 3 }, true) else none
    | none, some n => if f.scope = 0 then some ({ f with scope := 6, e := n }, false) else none
    | none, none => none
  | [t, u] =>
    match regOf 'm' t, regOf 's' u, regOf 's' t, regOf 'm' u with
    | some n, some k, _, _ | _, _, some k, some n =>
      if n.toNat < 8 ∧ f.scope = 0 then some ({ f with lmask := n.setWidth 3, scope := 6, e := k }, true) else none
    | _, _, _, _ => none
  | _ => none

/-- A written instruction: its words' fields with the offset or the buffer's address still 0, and the names of those. -/
structure Written where
  i      : Instr
  target : Option Text
  buffer : Option Text
  deriving DecidableEq, Repr

/-- A written instruction under one way to write its mnemonic. A modifier of code 0 (`.rlx`, `.rne`, `m0`) on an instruction that takes no
modifier of its field at all is an assembly error: R95's two sentences leave it open, DESIGN CHOICE, log entry 60. -/
def tryRow (r : Row) (ms : Mods) (guards : Option (GuardSel × GuardSel)) (ts : List Text) : Option Written :=
  let f0 := ms.typed (r.op == 0x90 && r.fn == 0)
  let f1 := match guards with
    | some g => { f0 with ga := g.1, gb := g.2 }
    | none => f0
  if ms.seen.contains .weight ∧ ¬ (r.op = 0xE0 ∨ (r.op = 0xE3 ∧ r.fn = 1)) then none
  else if ms.seen.contains .bytes ∧ r.op ≠ 0xE0 then none
  else
    (matchOps { f := f1 } r.ops ts).bind fun e =>
      (trailing (e.1.addBits 0 r.sub).f e.2).bind fun t =>
        ({ e.1 with f := t.1 }.shortest r.op r.fn guards.isSome).bind fun i =>
          let spec := opSpec i
          if (t.2 && !spec.lmask) || (ms.seen.contains .rm && spec.rmTys.isEmpty) ||
              (ms.seen.contains .ord && spec.ord == OrdClass.none) || !someCheck i then none
          else some ⟨i, e.1.target, e.1.buffer⟩

/-- The guards of a line, and what follows them. -/
def guardsOf (t : Text) : Option (Option (GuardSel × GuardSel) × Text) :=
  match t with
  | '(' :: cs =>
    let inside := cs.takeWhile (· != ')')
    let rest := cs.drop (inside.length + 1)
    let one (u : Text) : Option GuardSel :=
      let (neg, v) := match trim u with
        | '!' :: v => (true, v)
        | v => (false, v)
      (regOf 'g' v).bind fun n => if n.toNat < 8 then some ⟨neg, n.setWidth 3⟩ else none
    if inside.length = cs.length then none
    else
      match (splitAt ',' inside).map one with
      | [some a] => some (some (a, ⟨false, 0⟩), trim rest)
      | [some a, some b] => some (some (a, b), trim rest)
      | _ => none
  | _ => some (none, t)

/-- The operands of a line. -/
def operandsOf (t : Text) : List Text := if trim t = [] then [] else (splitAt ',' t).map trim

/-- The prefixes of dotted parts that may be a mnemonic, the longest first, each with the modifiers that follow. -/
def splitName (parts : List Text) : List (Text × List Text) :=
  [3, 2, 1].filterMap fun n =>
    if n ≤ parts.length then some ((['.'].intercalate (parts.take n)), parts.drop n) else none

/-- A written instruction (R95, R96). R96 lets every part be omitted and does not say what guards without a mnemonic do:
DESIGN CHOICE, log 60, such a line is an assembly error. -/
def instrOfLine (t : Text) : Option Written :=
  (guardsOf t).bind fun g =>
    let word := g.2.takeWhile fun c => !isBlank c
    let ts := operandsOf (g.2.drop word.length)
    match (splitName (splitAt '.' word)).find? fun e => !(rowsOf e.1).isEmpty with
    | none => none
    | some e => (modsOf {} e.2).bind fun ms => (rowsOf e.1).findSome? fun r => tryRow r ms g.1 ts

end Sys2Proof.Tvas
end

