-- ==== Sys2Proof/Machine/Module.lean ====
section
/-!
DEFINITION. Sedge modules (R98 to R101, R348, R349): the directives, the kernels and their items, and the checks of assembly.
-/
namespace Sys2Proof.Tvas

open Sys2Proof Sys2Proof.Machine

/-- A declared buffer (R348): its name, its bytes, whether it is local, and the argument register of an argument buffer. -/
structure Buffer where
  name  : Text
  bytes : Nat
  loc   : Bool
  arg   : Option Nat
  deriving DecidableEq, Repr

/-- What stands in a section of a kernel. -/
inductive Item where
  | ins (w : Written)
  | bytes (bs : List Byte)
  | align (n : Nat)
  deriving DecidableEq, Repr

/-- The sections (R98). -/
inductive Section where
  | code
  | data
  | rodata
  deriving DecidableEq, Repr

/-- A kernel as it is written (R98, R348): its class (0 actor, 1 launch kernel, 2 supervisor), the directives, the section that
is open, the items of each, and the labels with their section and the item they stand before. The spec does not say whether a
`.section` lasts past `.end`: DESIGN CHOICE, log 60, every kernel starts in its code section. -/
structure KernelSrc where
  name   : Text
  cls    : Nat := 1
  marked : Bool := false
  entry  : Option (Text × Nat) := none
  grid   : Option (Nat × Nat × Option (Nat × Nat × Nat)) := none
  dgrid  : Option (Nat × Nat) := none
  part   : Option Part := none
  needs  : Option (List Ext) := none
  rates  : List (Text × Bool × Nat) := []
  bounds : List (Nat × Text) := []
  sec    : Section := .code
  items  : List Item := []
  data   : List Item := []
  rodata : List Item := []
  labels : List (Text × Section × Nat) := []
  deriving DecidableEq, Repr

/-- A module as it is read: its buffers, kernels and declared version, and the kernel that is open. -/
structure Module where
  bufs    : List Buffer := []
  kernels : List KernelSrc := []
  version : Nat := 1
  opened  : Option KernelSrc := none
  deriving DecidableEq, Repr

/-! ## Lines -/

/-- The label of a line, and what follows it. -/
def labelOf (t : Text) : Option Text × Text :=
  let w := t.takeWhile fun c => isLetter c || isDigit c
  match t.drop w.length with
  | ':' :: rest => if isName w then (some w, trim rest) else (none, t)
  | _ => (none, t)

/-- The bytes of a list of integers of a width (R98). -/
def elements (w : Nat) (ts : List Text) : Option (List Byte) :=
  if ts = [] then none
  else ts.foldl (fun acc t =>
    match acc, intOf t with
    | some bs, some n =>
      if -(2 ^ (8 * w - 1) : Int) ≤ n ∧ n < 2 ^ (8 * w) then some (bs ++ bytesOfNat (n % 2 ^ (8 * w)).toNat w) else none
    | _, _ => none) (some [])

/-- The bytes of a list of floating values (R99). -/
def floatElements (ty : Nat) (ts : List Text) : Option (List Byte) :=
  if ts = [] then none
  else ts.foldl (fun acc t =>
    match acc, floatOf ty t with
    | some bs, some n => some (bs ++ bytesOfNat n (laneWidth ty / 8))
    | _, _ => none) (some [])

/-- The data a directive emits, if it is one that does. -/
def dataOf (name : String) (ts : List Text) : Option (Option (List Byte)) :=
  match name with
  | ".byte" => some (elements 1 ts)
  | ".half" => some (elements 2 ts)
  | ".word" => some (elements 4 ts)
  | ".quad" => some (elements 8 ts)
  | ".f16" => some (floatElements 5 ts)
  | ".f32" => some (floatElements 6 ts)
  | ".f64" => some (floatElements 7 ts)
  | ".tf8" => some (floatElements 8 ts)
  | ".tf16" => some (floatElements 9 ts)
  | ".tf32" => some (floatElements 10 ts)
  | ".space" => some (match ts with
    | [n] => (natOf n).map fun k => List.replicate k 0
    | _ => none)
  | _ => none

/-- The items of a section. -/
def KernelSrc.itemsOf (k : KernelSrc) : Section → List Item
  | .code => k.items
  | .data => k.data
  | .rodata => k.rodata

/-- Put an item at the current location. -/
def KernelSrc.emit (k : KernelSrc) (i : Item) : KernelSrc :=
  match k.sec with
  | .code => { k with items := k.items ++ [i] }
  | .data => { k with data := k.data ++ [i] }
  | .rodata => { k with rodata := k.rodata ++ [i] }

/-- A label names the place of the next item. -/
def KernelSrc.label (k : KernelSrc) (l : Text) : Option KernelSrc :=
  if k.labels.any fun e => e.1 == l then none
  else some { k with labels := k.labels ++ [(l, k.sec, (k.itemsOf k.sec).length)] }

def powerOf2 (lo hi n : Nat) : Bool := decide (lo ≤ n) && decide (n ≤ hi) && decide (2 ^ n.log2 = n)

def extNames : List (String × Ext) :=
  [("base", .base), ("xfer", .xfer), ("vec", .vec), ("conv", .conv), ("mat", .mat), ("ssm", .ssm)]

/-- A directive of a kernel (R98, R348); `none` is an assembly error. R98 allows at most one `.grid`, `.dgrid` and `.needs` and is
silent on `.part`: DESIGN CHOICE, log 60, a second one is an assembly error. -/
def KernelSrc.directive (k : KernelSrc) (name : String) (ts : List Text) : Option KernelSrc :=
  match dataOf name ts with
  | some (some bs) => some (k.emit (.bytes bs))
  | some none => none
  | none =>
    match name, ts with
    | ".actor", [] => if k.marked ∨ k.entry.isSome then none else some { k with cls := 0, marked := true }
    | ".actor", [t] =>
      if t ≠ "super".toList ∨ k.marked ∨ k.entry.isSome then none else some { k with cls := 2, marked := true }
    | ".entry", [l, t] =>
      match indexIn ["x", "f", "k"] t, k.entry with
      | some n, none => if isName l then some { k with entry := some (l, n) } else none
      | _, _ => none
    | ".grid", nx :: ny :: rest =>
      match natIn 1 65536 nx, natIn 1 65536 ny, rest, k.grid with
      | some x, some y, [], none => some { k with grid := some (x, y, none) }
      | some x, some y, [tw, th, u], none =>
        match natIn 1 128 tw, natIn 1 40 th, natIn 1 15 u with
        | some w, some h, some n => some { k with grid := some (x, y, some (w, h, n)) }
        | _, _, _ => none
      | _, _, _, _ => none
    | ".dgrid", [nx, ny] =>
      match natIn 1 65536 nx, natIn 1 65536 ny, k.dgrid with
      | some x, some y, none => some { k with dgrid := some (x, y) }
      | _, _, _ => none
    | ".part", [t] =>
      if k.part.isSome then none
      else match natOf t with
        | some 16 => some { k with part := some .p16 }
        | some 8 => some { k with part := some .p8 }
        | some 4 => some { k with part := some .p4 }
        | _ => none
    | ".needs", ts =>
      let es := ts.map fun t => (extNames.find? fun e => e.1.toList == t).map (·.2)
      if k.needs.isSome ∨ ts = [] ∨ es.any (·.isNone) then none else some { k with needs := some (es.filterMap id) }
    | ".rate", [b, d, n] =>
      match natIn 1 65535 n with
      | some c =>
        if d = "in".toList then some { k with rates := k.rates ++ [(b, false, c)] }
        else if d = "out".toList then some { k with rates := k.rates ++ [(b, true, c)] }
        else none
      | none => none
    | ".bound", [r, b] =>
      match regOf 'b' r with
      | some n =>
        if n.toNat < 8 ∧ ¬ k.bounds.any (fun e => e.1 == n.toNat || e.2 == b) then
          some { k with bounds := k.bounds ++ [(n.toNat, b)] }
        else none
      | none => none
    | ".section", [t] =>
      if t = "code".toList then some { k with sec := .code }
      else if t = "data".toList then some { k with sec := .data }
      else if t = "rodata".toList then some { k with sec := .rodata }
      else none
    | ".align", [t] => (natOf t).bind fun n => if powerOf2 4 4096 n then some (k.emit (.align n)) else none
    | _, _ => none

/-- A `.buffer` line (R348). -/
def bufferOf (ts : List Text) : Option Buffer :=
  let head : List Text → Option (Text × Nat × Bool)
    | [n, b, s] =>
      match natIn 1 (2 ^ 30) b with
      | some k => if ¬ isName n then none else if s = "g".toList then some (n, k, false)
        else if s = "l".toList then some (n, k, true) else none
      | none => none
    | _ => none
  match ts with
  | [n, b, s] => (head [n, b, s]).map fun e => ⟨e.1, e.2.1, e.2.2, none⟩
  | [n, b, s, r] =>
    match head [n, b, s], regOf 's' r with
    | some e, some k => if k.toNat ≤ 7 then some ⟨e.1, e.2.1, e.2.2, some k.toNat⟩ else none
    | _, _ => none
  | _ => none

/-- Take one line; `none` is an assembly error. R98 gives no place for `.section`, `.align`, `.space` and the data directives, nor
R96 for a label: DESIGN CHOICE, log 60, they stand in a kernel, and anywhere else they are assembly errors; so is a second kernel of one
name. -/
def Module.line (m : Module) (raw : Text) : Option Module :=
  let (label, t) := labelOf (trim (uncomment raw))
  let word := t.takeWhile fun c => !isBlank c
  let ts := operandsOf (t.drop word.length)
  match m.opened with
  | none =>
    if label.isSome then none
    else if t = [] then some m
    else if word = ".kernel".toList then
      match ts with
      | [n] =>
        if isName n ∧ ¬ m.kernels.any (fun k => k.name == n) then some { m with opened := some { name := n } } else none
      | _ => none
    else if word = ".buffer".toList then
      (bufferOf ts).bind fun b => if m.bufs.any fun x => x.name == b.name then none else some { m with bufs := m.bufs ++ [b] }
    else if word = ".version".toList then
      match ts with
      | [n] => (natOf n).bind fun v => if 1 ≤ v then some { m with version := max m.version v } else none
      | _ => none
    else none
  | some k =>
    (match label with
      | some l => k.label l
      | none => some k).bind fun (k : KernelSrc) =>
    if t = [] then some { m with opened := some k }
    else if word = ".end".toList then if ts = [] then some { m with kernels := m.kernels ++ [k], opened := none } else none
    else if word = ".version".toList then
      match ts with
      | [n] => (natOf n).bind fun v => if 1 ≤ v then some { m with version := max m.version v, opened := some k } else none
      | _ => none
    else if word.head? = some '.' then
      (k.directive (String.ofList word) ts).map fun k => { m with opened := some k }
    else (instrOfLine t).map fun w => { m with opened := some (k.emit (.ins w)) }

/-- Read a module from its source. -/
def readModule (src : List Byte) : Option Module :=
  let lines := splitAt '\n' (src.map fun b => Char.ofNat b.toNat)
  (lines.foldl (fun acc l => acc.bind fun (m : Module) => m.line l) (some ({} : Module))).bind fun (m : Module) =>
    if m.opened.isSome then none else some m

/-! ## Names and partitions -/

/-- An item with its names resolved: a target is the index of the item it names, or `none` in another kernel's code. -/
inductive Node where
  | ins (i : Instr) (target : Option Nat) (buf : Option Nat)
  | bytes (bs : List Byte)
  | align (n : Nat)
  deriving DecidableEq, Repr

/-- A kernel that has assembled: its code, in which a target in another kernel is `none`, and the bytes of its other sections, for
which the image has no place (R364). -/
structure Asm where
  src    : KernelSrc
  part   : Part
  entry  : Nat
  nodes  : List Node
  data   : List Byte
  rodata : List Byte
  deriving DecidableEq, Repr

/-- The item that a label of a section names. -/
def KernelSrc.labelAt (k : KernelSrc) (sec : Section) (l : Text) : Option Nat :=
  (k.labels.find? fun e => e.1 == l && e.2.1 == sec).map (·.2.2)

/-- Resolve an item's names; `none` is an assembly error. A target of code may lie in another kernel's code, which R354 refuses;
any other target lies in its own section. -/
def resolve (m : Module) (k : KernelSrc) (sec : Section) : Item → Option Node
  | .bytes bs => some (.bytes bs)
  | .align n => some (.align n)
  | .ins w =>
    let buf := w.buffer.map fun b => m.bufs.findIdx? fun x => x.name == b
    match w.target, buf with
    | none, none => some (.ins w.i none none)
    | none, some (some b) => some (.ins w.i none (some b))
    | some l, _ =>
      match k.labelAt sec l with
      | some n => some (.ins w.i (some n) none)
      | none =>
        if sec = .code ∧ m.kernels.any (fun x => (x.labelAt .code l).isSome) then some (.ins w.i none none) else none
    | _, some none => none

def Node.instr : Node → Option Instr
  | .ins i _ _ => some i
  | _ => none

/-- What a literal is to carry: nothing, a buffer's address, or the address of its descriptor. -/
inductive Lit where
  | none
  | addr (b : Nat)
  | desc (b : Nat)
  deriving DecidableEq, Repr

/-- A piece of a section: an instruction with its target and literal, data, padding, or the place where branches to an
item of the source land. -/
inductive Piece where
  | ins (i : Instr) (target : Option Nat) (lit : Lit)
  | bytes (bs : List Byte)
  | align (n : Nat)
  | place (k : Nat)
  deriving DecidableEq, Repr

/-- The majors whose operand is a target: `br`, `call`, `bg`, `loop` and `spawn`. -/
def hasTarget : Instr → Bool
  | .br _ | .call _ | .bg _ | .loop _ | .spawn _ => true
  | _ => false

/-! ## Layout -/

def padTo (off n : Nat) : Nat := (off + n - 1) / n * n - off

/-- The offset of every piece. -/
def offsets : Nat → List Piece → List Nat
  | _, [] => []
  | off, .ins i _ _ :: rest => off :: offsets (off + 4 * i.fields.form.words) rest
  | off, .bytes bs :: rest => off :: offsets (off + bs.length) rest
  | off, .align n :: rest => off :: offsets (off + padTo off n) rest
  | off, .place _ :: rest => off :: offsets off rest

def pieceSize (off : Nat) : Piece → Nat
  | .ins i _ _ => 4 * i.fields.form.words
  | .bytes bs => bs.length
  | .align n => padTo off n
  | .place _ => 0

def codeSize (ps : List Piece) : Nat := (ps.zip (offsets 0 ps)).foldl (fun _ e => e.2 + pieceSize e.2 e.1) 0

/-- Where branches to an item of the source land. -/
def placeOf (laid : List (Piece × Nat)) (k : Nat) : Nat :=
  ((laid.find? fun e => e.1 = .place k).map (·.2)).getD 0

/-- Change the fields of an instruction. -/
def withFields (i : Instr) (g : Fields → Fields) : Instr :=
  match i.codeOf with
  | some (op, fn, f) => (instrOf op fn (g f)).getD i
  | none => i

/-- Bits of a branch offset (R74). -/
def offsetBits : Instr → Nat
  | .bg _ => 18
  | .loop _ => 16
  | _ => 22

/-- An emitted instruction with its offset and literal; `none` when the offset to its target is no whole number of words or does
not fit its field (R97). -/
def finish (laid : List (Piece × Nat)) (addrs descs : List Nat) (off : Nat) (i : Instr) (t : Option Nat) (l : Lit) :
    Option Instr :=
  let i := match l with
    | .none => i
    | .addr b => withFields i fun f => { f with lit := BitVec.ofNat 64 (addrs.getD b 0) }
    | .desc b => withFields i fun f => { f with lit := BitVec.ofNat 64 (descs.getD b 0) }
  match t with
  | none => some i
  | some k =>
    let d : Int := (placeOf laid k : Int) - off
    if d % 4 ≠ 0 then none
    else (fieldOf true (offsetBits i) (d / 4)).map fun x => withFields i fun f => { f with imm := x }

/-- The bytes of a piece of the code section or of another one; an instruction lies at a multiple of 4 (R72). R100 pads code with
`nop` words and does not say what pads a place that is no multiple of 4 up to one: DESIGN CHOICE, log 60, zero bytes. -/
def pieceBytes (code : Bool) (laid : List (Piece × Nat)) (addrs descs : List Nat) (e : Piece × Nat) : Option (List Byte) :=
  match e.1 with
  | .ins i t l =>
    if e.2 % 4 ≠ 0 then none else (finish laid addrs descs e.2 i t l).map fun j => (encode j).flatMap bytesOfWord
  | .bytes bs => some bs
  | .align n =>
    let pad := padTo e.2 n
    some (if code then List.replicate (pad % 4) 0 ++ (List.replicate (pad / 4) (bytesOfWord 0x98)).flatten
      else List.replicate pad 0)
  | .place _ => some []

/-- A section as bytes; `none` when a branch offset does not fit or an instruction lies at no multiple of 4. -/
def sectionBytes (code : Bool) (ps : List Piece) (addrs descs : List Nat) : Option (List Byte) :=
  let laid := ps.zip (offsets 0 ps)
  laid.foldl (fun acc e => match acc, pieceBytes code laid addrs descs e with
    | some bs, some x => some (bs ++ x)
    | _, _ => none) (some [])

/-- The partition of a kernel (R353): the one it names, or the one with the most contexts whose share holds its registers.
`none` when an instruction's fields do not fit it (R101). -/
def choosePart (k : KernelSrc) (is : List Instr) : Option Part :=
  let fits (p : Part) : Bool := is.all fun i => checkFields p i = .ok
  match k.part with
  | some p => if fits p then some p else none
  | none => [Part.p16, .p8, .p4].find? fits

/-- The team shape of a kernel (R98): the grid, the tiles and the units. -/
def KernelSrc.shape (k : KernelSrc) : Nat × Nat × Nat × Nat × Nat :=
  match k.grid with
  | none => (1, 1, 1, 1, 1)
  | some (x, y, none) => (x, y, min x 8, min y 4, 1)
  | some (x, y, some (w, h, u)) => (x, y, w, h, u)

/-- The written items of a section as pieces, each behind its place. -/
def nodePieces (ns : List Node) : List Piece :=
  (ns.zipIdx.flatMap fun e =>
    [.place e.2, match e.1 with
      | .ins i t b => .ins i t (match b with
        | some n => .addr n
        | none => .none)
      | .bytes bs => .bytes bs
      | .align n => .align n]) ++ [.place ns.length]

/-- The items of a section with their names resolved, and its bytes as far as they are known: the addresses of buffers are 0. -/
def assembleSection (m : Module) (k : KernelSrc) (sec : Section) : Option (List Node × List Byte) :=
  let nodes := (k.itemsOf sec).map (resolve m k sec)
  if nodes.any (·.isNone) then none
  else
    let ns := nodes.filterMap id
    (sectionBytes (sec == .code) (nodePieces ns) [] []).map fun bs => (ns, bs)

/-- Assemble a kernel; `none` is an assembly error. An `.entry` label behind the last item of the code is one: R98 does not say, DESIGN
CHOICE, log entry 60. -/
def assembleKernel (m : Module) (k : KernelSrc) : Option Asm :=
  match assembleSection m k .code, assembleSection m k .data, assembleSection m k .rodata with
  | some (ns, _), some (ds, data), some (rs, rodata) =>
    let is := (ns ++ ds ++ rs).filterMap Node.instr
    match k.entry, choosePart k is with
    | some (l, _), some p =>
      match k.labelAt .code l with
      | some e =>
        let named (b : Text) : Bool := m.bufs.any fun x => x.name == b
        let extOk := match k.needs with
          | some es => is.all fun i => es.contains (opSpec i).ext
          | none => true
        if extOk && decide (k.shape.2.2.2.2 < p.contexts) && (k.rates.all fun r => named r.1) &&
            (k.bounds.all fun b => named b.2) && decide (e < ns.length) then
          some ⟨k, p, e, ns, data, rodata⟩
        else none
      | none => none
    | _, _ => none
  | _, _, _ => none

/-- The channels: the buffers that a `.rate` of an actor names. -/
def Module.isChannel (m : Module) (b : Text) : Bool := m.kernels.any fun k => k.cls == 0 && k.rates.any fun r => r.1 == b

/-- The actors that produce into a channel, or consume from it, with their rates. -/
def Module.ends (m : Module) (b : Text) (out : Bool) : List (Nat × Nat) :=
  (m.kernels.zipIdx.filter fun e => e.1.cls == 0).flatMap fun e =>
    (e.1.rates.filter fun r => r.1 == b && r.2.1 == out).map fun r => (e.2, r.2.2)

/-- The rules of R348 for a module: its size, its channels, and no actor names an argument buffer. -/
def Module.wellFormed (m : Module) : Bool :=
  let names (k : KernelSrc) (b : Buffer) : Bool := (k.rates.any fun r => r.1 == b.name) ||
    (k.bounds.any fun e => e.2 == b.name) || ((k.items ++ k.data ++ k.rodata).any fun i => match i with
      | .ins w => w.buffer == some b.name
      | _ => false)
  decide (m.kernels.length ≤ 64) && decide (m.bufs.length ≤ 256) &&
    m.bufs.all fun b =>
      (!m.isChannel b.name ||
        (!b.loc && b.arg.isNone && decide ((m.ends b.name true).length = 1) && decide ((m.ends b.name false).length = 1) &&
          (m.ends b.name true).map (·.1) != (m.ends b.name false).map (·.1))) &&
      (b.arg.isNone || m.kernels.all fun k => k.cls != 0 || !names k b)

/-- Assemble a module (R96 to R101, R348). -/
def assemble (src : List Byte) : Option (Module × List Asm) :=
  (readModule src).bind fun m =>
    let us := m.kernels.map (assembleKernel m)
    if m.wellFormed && us.all (·.isSome) then some (m, us.filterMap id) else none

end Sys2Proof.Tvas
end

