-- ==== Sys2Proof/Machine/Analysis.lean ====
section
/-!
DEFINITION. The check-or-elide rule (R354 to R358): the flow of a kernel's code, the abstract values of its scalars, the accesses
with their ranges, and the uses that fail admission.
-/
namespace Sys2Proof.Tvas

open Sys2Proof Sys2Proof.Machine

/-! ## Abstract values (R355) -/

/-- An abstract value: unknown, an interval, and a buffer's address plus a known or an unknown offset. -/
inductive AVal where
  | top
  | const (lo hi : Int)
  | buf (b : Nat) (lo hi : Int)
  | bufAny (b : Nat)
  deriving DecidableEq, Repr

/-- A bound above 2^62 in magnitude is not kept. -/
def small (n : Int) : Bool := decide (n.natAbs ≤ 2 ^ 62)
def mkConst (lo hi : Int) : AVal := if small lo && small hi then .const lo hi else .top
def mkBuf (b : Nat) (lo hi : Int) : AVal := if small lo && small hi then .buf b lo hi else .bufAny b

/-- How two values join where control flow merges. -/
def AVal.join (x y : AVal) : AVal :=
  match x, y with
  | .const a b, .const c d => .const (min a c) (max b d)
  | .buf i a b, .buf j c d => if i = j then .buf i (min a c) (max b d) else .top
  | .buf i _ _, .bufAny j | .bufAny i, .buf j _ _ | .bufAny i, .bufAny j => if i = j then .bufAny i else .top
  | _, _ => .top

/-- A value whose interval has not settled: its bounds leave every magnitude. -/
def AVal.widen : AVal → AVal
  | .buf b _ _ | .bufAny b => .bufAny b
  | _ => .top

/-- The values of s0 to s127. -/
abbrev Regs := List AVal

def getR (r : Regs) (n : Nat) : AVal := r.getD n .top
def allTop : Regs := List.replicate 128 .top
def joinRegs (x y : Regs) : Regs := List.zipWith AVal.join x y
def joinOpt : Option Regs → Option Regs → Option Regs
  | none, y => y
  | x, none => x
  | some x, some y => some (joinRegs x y)

def addV (x y : AVal) : AVal :=
  match x, y with
  | .const a b, .const c d => mkConst (a + c) (b + d)
  | .buf i a b, .const c d | .const c d, .buf i a b => mkBuf i (a + c) (b + d)
  | .buf i _ _, .top | .top, .buf i _ _ | .bufAny i, .const .. | .const .., .bufAny i | .bufAny i, .top | .top, .bufAny i => .bufAny i
  | _, _ => .top

def subV (x y : AVal) : AVal :=
  match x, y with
  | .const a b, .const c d => mkConst (a - d) (b - c)
  | .buf i a b, .const c d => mkBuf i (a - d) (b - c)
  | .buf i a b, .buf j c d => if i = j then mkConst (a - d) (b - c) else .top
  | .buf i _ _, .top | .bufAny i, .top | .bufAny i, .const .. => .bufAny i
  | _, _ => .top

/-- The least and the greatest of the corner products. -/
def mulV (x y : AVal) : AVal :=
  match x, y with
  | .const a b, .const c d =>
    mkConst (min (min (a * c) (a * d)) (min (b * c) (b * d))) (max (max (a * c) (a * d)) (max (b * c) (b * d)))
  | _, _ => .top

def shlV (x y : AVal) : AVal :=
  match y with
  | .const c d => if 0 ≤ c ∧ d ≤ 63 then mulV x (.const (2 ^ c.toNat) (2 ^ d.toNat)) else .top
  | _ => .top

def andV (x y : AVal) : AVal :=
  match x, y with
  | _, .const m n => if m = n ∧ 0 ≤ m then .const 0 m else (match x with
    | .const k l => if k = l ∧ 0 ≤ k then .const 0 k else .top
    | _ => .top)
  | .const m n, _ => if m = n ∧ 0 ≤ m then .const 0 m else .top
  | _, _ => .top

/-- The value an instruction gives the scalar it writes. -/
def valueOf (r : Regs) (i : Instr) (b : Option Nat) : AVal :=
  let reg (x : BitVec 8) : AVal := getR r x.toNat
  let imm (f : Fields) : AVal := mkConst (immSigned f).toInt (immSigned f).toInt
  match i with
  | .li f => match b with
    | some n => .buf n 0 0
    | none => imm f
  | .mov f => reg f.b
  | .add f => if f.ty = 0 then addV (reg f.b) (reg f.c) else .top
  | .addImm f => if f.ty = 0 then addV (reg f.b) (imm f) else .top
  | .sub f => if f.ty = 0 then subV (reg f.b) (reg f.c) else .top
  | .mul f => if f.ty = 0 then mulV (reg f.b) (reg f.c) else .top
  | .mulImm f => if f.ty = 0 then mulV (reg f.b) (imm f) else .top
  | .shl f => shlV (reg f.b) (reg f.c)
  | .shlImm f => shlV (reg f.b) (.const f.imm.toNat f.imm.toNat)
  | .andR f => andV (reg f.b) (reg f.c)
  | .andImm f => andV (reg f.b) (imm f)
  | .bfx f => mkConst 0 (2 ^ f.d.toNat - 1)
  | .ldN8 _ => .const 0 (2 ^ 8 - 1)
  | .ldN16 _ => .const 0 (2 ^ 16 - 1)
  | .ldN32 _ => .const 0 (2 ^ 32 - 1)
  | _ => .top

/-- Whether an instruction carries guards other than g0. -/
def isGuarded (i : Instr) : Bool :=
  let f := i.fields
  f.form.isExt && (f.ga != ⟨false, 0⟩ || f.gb != ⟨false, 0⟩)

/-- The values after an instruction. R355 gives what a guarded instruction writes the value of an unguarded one. DEDUCED. -/
def transfer (r : Regs) (i : Instr) (b : Option Nat) : Regs :=
  let v := valueOf r i b
  i.dests.foldl (fun r n => r.set n v) r

/-! ## Flow -/

/-- A kernel's code with its class and the indices that `post` may carry. -/
structure Code where
  nodes : List Node
  cls   : Nat
  posts : List Nat
  deriving DecidableEq, Repr

def Code.at (c : Code) (k : Nat) : Node := c.nodes.getD k (.bytes [])

/-- Where control goes from an item within its procedure: a call continues behind it. -/
def Code.next (c : Code) (k : Nat) : List Nat :=
  match c.at k with
  | .bytes _ => []
  | .align _ => [k + 1]
  | .ins i t _ =>
    let go := t.toList
    let on := [k + 1]
    match i with
    | .br _ => go
    | .bg _ | .loop _ | .spawn _ => go ++ on
    | .ret _ | .jmp _ | .done _ => if isGuarded i then on else []
    | .halt _ => if isGuarded i || c.cls == 2 then on else []
    | _ => on

/-- Where a call goes. -/
def Code.callee (c : Code) (k : Nat) : Option Nat :=
  match c.at k with
  | .ins (.call _) t _ => t
  | _ => none

/-- Everything that a relation reaches from a front. -/
def closeUnder (next : Nat → List Nat) : Nat → List Nat → List Nat → List Nat
  | 0, _, seen => seen
  | n + 1, front, seen =>
    let new := ((front.flatMap next).eraseDups).filter fun x => !seen.contains x
    if new.isEmpty then seen else closeUnder next n new (seen ++ new)

/-- The items that control reaches from one, calls included. -/
def Code.reach (c : Code) (k : Nat) : List Nat :=
  closeUnder (fun k => c.next k ++ (c.callee k).toList) (c.nodes.length + 1) [k] [k]

/-- The items of the procedure that starts at one. -/
def Code.proc (c : Code) (k : Nat) : List Nat := closeUnder c.next (c.nodes.length + 1) [k] [k]

/-- The procedures that a procedure calls. -/
def Code.calls (c : Code) (k : Nat) : List Nat := ((c.proc k).filterMap c.callee).eraseDups

/-- A call cycle: a procedure that its own calls reach. -/
def Code.cyclic (c : Code) : Bool :=
  ((List.range c.nodes.length).filterMap c.callee).eraseDups.any fun t =>
    (closeUnder c.calls (c.nodes.length + 1) (c.calls t) (c.calls t)).contains t

/-- A place of R338 in the code. -/
def isPlace : Instr → Bool
  | .safe _ | .barWait _ | .cntWait _ | .sync _ | .ssmRun _ => true
  | _ => false

/-- A backward `loop`, `br` or `bg`: its place, its target, and whether it is a `loop`. -/
def Code.backward (c : Code) (k : Nat) : Option (Nat × Bool) :=
  match c.at k with
  | .ins (.loop _) (some t) _ => if t ≤ k then some (t, true) else none
  | .ins (.br _) (some t) _ | .ins (.bg _) (some t) _ => if t ≤ k then some (t, false) else none
  | _ => none

/-- The items from one to another. -/
def span (lo hi : Nat) : List Nat := (List.range (hi + 1 - lo)).map (lo + ·)

/-- A backward branch whose loop holds no place of R338's table (R359). -/
def Code.needsSafe (c : Code) (k : Nat) : Bool :=
  match c.backward k with
  | some (t, _) => !((span t k).any fun j => match c.at j with
    | .ins i _ _ => isPlace i
    | _ => false)
  | none => false

/-! ## Loops (R356) -/

/-- The scalars an item writes. -/
def Code.writes (c : Code) (k : Nat) : List Nat :=
  match c.at k with
  | .ins i _ _ => i.dests
  | _ => []

/-- The scalars that code between two items may write: what its calls write counts, and every scalar does at a continuation
or a label that `post` may carry. -/
def Code.spanWrites (c : Code) (lo hi : Nat) : List Nat :=
  let body := span lo hi
  let called := (body.filterMap c.callee).flatMap c.reach
  let resumes := body.any fun k => c.posts.contains k || (match c.at k with
    | .ins (.spawn _) _ _ => true
    | _ => false)
  if resumes then List.range 128 else ((body ++ called).flatMap c.writes).eraseDups

/-- A backward branch as the analysis sees it: its place and target, the scalars its loop writes, and for a `loop` its counter
and the induction registers with their steps. -/
structure Back where
  src     : Nat
  tgt     : Nat
  isLoop  : Bool
  writes  : List Nat
  counter : Nat
  steps   : List (Nat × Int)
  deriving DecidableEq, Repr

/-- The step of a register that an item writes by `add r, r, #c`. -/
def stepAt (n : Node) (r : Nat) : Option Int :=
  match n with
  | .ins (.addImm f) _ _ =>
    if f.a.toNat = r ∧ f.b.toNat = r ∧ f.ty = 0 ∧ ¬ isGuarded (.addImm f) then some (immSigned f).toInt else none
  | _ => none

/-- Whether the body of a loop is entered only at its target. -/
def Code.entered (c : Code) (entries : List Nat) (lo hi : Nat) : Bool :=
  let inside (k : Nat) : Bool := decide (lo < k) && decide (k ≤ hi)
  !(entries.any inside) && (List.range c.nodes.length).all fun k =>
    (decide (lo ≤ k) && decide (k ≤ hi)) || !((c.next k ++ (c.callee k).toList).any inside)

/-- The induction registers of a loop. -/
def Code.stepsOf (c : Code) (entries : List Nat) (lo hi counter : Nat) : List (Nat × Int) :=
  let body := span lo hi
  let called := (body.filterMap c.callee).flatMap c.reach
  let writers (r : Nat) : List Nat := (body ++ called).filter fun k => (c.writes k).contains r
  let resumes := body.any fun k => c.posts.contains k || (match c.at k with
    | .ins (.spawn _) _ _ => true
    | _ => false)
  let inner (k : Nat) : Bool := (List.range c.nodes.length).any fun j => decide (j ≠ hi) && (match c.backward j with
    | some (t, _) => decide (lo ≤ t) && decide (j < hi) && decide (t ≤ k) && decide (k ≤ j)
    | none => false)
  if resumes || writers counter != [hi] || !c.entered entries lo hi then []
  else (List.range 128).filterMap fun r =>
    match writers r with
    | [k] => if lo ≤ k ∧ k ≤ hi ∧ ¬ inner k then (stepAt (c.at k) r).map fun s => (r, s) else none
    | _ => none

/-- The backward branches of a kernel's code. -/
def Code.backs (c : Code) (entries : List Nat) : List Back :=
  (List.range c.nodes.length).filterMap fun k =>
    (c.backward k).map fun e =>
      let counter := match c.at k with
        | .ins i _ _ => i.fields.a.toNat
        | _ => 0
      { src := k, tgt := e.1, isLoop := e.2, writes := c.spanWrites e.1 k, counter := counter,
        steps := if e.2 then c.stepsOf entries e.1 k counter else [] }

/-! ## The fixed point -/

/-- A value stepped m - 1 times from where it entered. -/
def AVal.hull (v : AVal) (d : Int) : AVal :=
  match v with
  | .const a b => mkConst (min a (a + d)) (max b (b + d))
  | .buf i a b => mkBuf i (min a (a + d)) (max b (b + d))
  | x => x

/-- The value of a register at an item: `got` joins what flows in, `outside` what flows in from outside a loop. Pass 0 brings the
entry value to a loop's target and each later pass the value of one walk round the loop; a register that the loop writes is
unknown when the second walk or a later one changes it (R356). A register that no loop of the item writes may change in every round of
the code, and is widened in a late one. DEDUCED, log 49. -/
def settleReg (backs : List Back) (outside : Back → Nat → AVal) (round pass n : Nat) (old got : AVal) : AVal :=
  let mine := backs.filter fun b => b.writes.contains n
  let late (limit : Nat) (w v : AVal) : AVal := if limit < pass ∧ old ≠ v then w else v
  if mine.any fun b => !b.isLoop then .top
  else if mine.isEmpty then (if 100 < round ∧ old ≠ got then (got.join old).widen else got)
  else
    let stepped := mine.findSome? fun b =>
      (b.steps.find? fun e => e.1 == n).bind fun e =>
        match outside b b.counter with
        | .const m m' => if m = m' ∧ 1 ≤ m then some ((outside b n).hull (e.2 * (m - 1))) else none
        | _ => none
    match stepped with
    | some v => if mine.all fun b => b.steps.any fun e => e.1 == n then v else late 1 .top v
    | none => late 1 .top got

/-- The flow of a kernel's code that the analysis walks. -/
structure Flow where
  code  : Code
  backs : List Back
  preds : List (List Nat)
  deriving DecidableEq, Repr

def flowOf (c : Code) (entries : List Nat) : Flow :=
  let n := c.nodes.length
  ⟨c, c.backs entries, (List.range n).map fun j => (List.range n).filter fun k => (c.next k).contains j⟩

/-- What flows from an item to another, from the values before it. `call` gives the values behind a call. -/
def Flow.out (fl : Flow) (call : Nat → Regs → Option Regs) (p j : Nat) (r : Regs) : Option Regs :=
  match fl.code.at p with
  | .ins (.spawn f) t b =>
    let child := transfer r (.spawn f) b
    let resumed := allTop.set 30 (getR r 30)
    let there := if t = some j then some child else none
    let here := if p + 1 = j then some resumed else none
    joinOpt there here
  | .ins (.call f) (some t) b => call t (transfer r (.call f) b)
  | .ins i _ b => some (transfer r i b)
  | _ => some r

/-- The values at an item, from the values the last pass has left. -/
def Flow.visit (fl : Flow) (call : Nat → Regs → Option Regs) (entry : Nat) (r0 : Regs) (round pass : Nat)
    (ins : List (Option Regs)) (j : Nat) : Option Regs :=
  let outer := fl.code.nodes.length
  let flows : List (Nat × Regs) := (fl.preds.getD j []).filterMap fun p =>
    ((ins.getD p none).bind fun r => fl.out call p j r).map fun r => (p, r)
  let flows := flows ++ (if j = entry then [(outer, r0)] else []) ++ (if fl.code.posts.contains j then [(outer, allTop)] else [])
  let joined (keep : Nat → Bool) : Option Regs :=
    (flows.filter fun e => keep e.1).foldl (fun acc e => joinOpt acc (some e.2)) none
  match joined fun _ => true with
  | none => none
  | some got =>
    let backs := fl.backs.filter fun b => b.tgt == j
    let outs := backs.map fun b => (b, joined fun p => !(decide (b.tgt ≤ p) && decide (p ≤ b.src)))
    let outside (b : Back) (n : Nat) : AVal := match (outs.find? fun e => e.1 == b).bind (·.2) with
      | some r => getR r n
      | none => .top
    let old := (ins.getD j none).getD got
    some ((List.range 128).map fun n => settleReg backs outside round pass n (getR old n) (getR got n))

/-- Passes, numbered from one on, until nothing changes. -/
def untilSame (f : Nat → List (Option Regs) → List (Option Regs)) : Nat → Nat → List (Option Regs) → List (Option Regs)
  | 0, _, ins => ins
  | n + 1, pass, ins =>
    let new := f pass ins
    if new = ins then ins else untilSame f n (pass + 1) new

/-- The end of the outermost loop at an item that ends by another. -/
def Flow.loopAt (fl : Flow) (j hi : Nat) : Option Nat :=
  fl.backs.foldl (fun acc b => if b.tgt = j ∧ b.src ≤ hi then some (max b.src (acc.getD 0)) else acc) none

/-- Forget the values at the items from one to another. -/
def forget (lo hi : Nat) (ins : List (Option Regs)) : List (Option Regs) := (span lo hi).foldl (fun ins j => ins.set j none) ins

/-- Walk the items from one to another in their order. A loop among them is settled at once, by its own passes, from the values it is
entered with: so in every pass of a loop those within it are analysed anew and first (R356). Loops nest at most as deep as the number. -/
def Flow.walk (fl : Flow) (round : Nat) (visit : Nat → List (Option Regs) → Nat → Option Regs) :
    Nat → Nat → Nat → List (Option Regs) → List (Option Regs)
  | 0, lo, hi, ins => (span lo hi).foldl (fun ins j => ins.set j (visit round ins j)) ins
  | d + 1, lo, hi, ins =>
    ((span lo hi).foldl (fun (acc : Nat × List (Option Regs)) j =>
      if j < acc.1 then acc
      else
        match fl.loopAt j hi with
        | some src =>
          (src + 1, untilSame (fun pass x => fl.walk round visit d (j + 1) src (x.set j (visit pass x j))) 300 0 (forget j src acc.2))
        | none => (j + 1, acc.2.set j (visit round acc.2 j))) (lo, ins)).2

/-- Rounds over the code until nothing changes. -/
def Flow.rounds (fl : Flow) (call : Nat → Regs → Option Regs) (entry : Nat) (r0 : Regs) (ins : List (Option Regs)) :
    List (Option Regs) :=
  untilSame (fun round => fl.walk round (fl.visit call entry r0 round) (fl.backs.length + 1) 0 (fl.code.nodes.length - 1)) 300 0 ins

/-- Analyse a procedure from its entry values: the values at every item it and its calls reach, and those it returns with.
Calls nest at most as deep as the first argument. -/
def Flow.analyse (fl : Flow) : Nat → Nat → Regs → List (Option Regs) × Option Regs
  | 0, _, _ => ([], none)
  | d + 1, entry, r0 =>
    let n := fl.code.nodes.length
    let ins := fl.rounds (fun t r => (fl.analyse d t r).2) entry r0 (List.replicate n none)
    let rets := (List.range n).filterMap fun k => match fl.code.at k with
      | .ins (.ret _) _ _ => ins.getD k none
      | _ => none
    let deeper := (List.range n).filterMap fun k =>
      match fl.code.at k, ins.getD k none with
      | .ins (.call f) (some t) b, some r => some (fl.analyse d t (transfer r (.call f) b)).1
      | _, _ => none
    (deeper.foldl (fun acc x => List.zipWith joinOpt acc x) ins, rets.foldl (fun acc r => joinOpt acc (some r)) none)

/-! ## Accesses and their ranges (R357) -/

/-- The byte range of an access: from base + index × scale + displacement, so many bytes. -/
structure Access where
  base  : Nat
  index : Option (Nat × Nat)
  disp  : Int
  len   : Nat
  deriving DecidableEq, Repr

/-- The access of a memory operand (R86). -/
def memAccess (f : Fields) (unit len : Nat) : Access :=
  ⟨f.b.toNat, if f.form.isExt && f.c != 0xFF then some (f.c.toNat, 2 ^ f.fn.toNat) else none, (dispBytes f unit).toInt, len⟩

/-- The access of an address register with a displacement in bytes. -/
def regAccess (r : BitVec 8) (f : Fields) (len : Nat) : Access := ⟨r.toNat, none, (dispBytes f 1).toInt, len⟩

/-- A stride operand: the packed stride, or a constant. -/
def strideVal (r : Regs) (x : BitVec 8) (packed : Nat) : Option Int :=
  if x = 0xFF then some packed
  else match getR r x.toNat with
    | .const a b => if a = b then some a else none
    | _ => none

/-- `n` pieces of `len` bytes, a stride apart. -/
def strided (a : Access) (n : Nat) (s : Int) (len : Nat) : Access :=
  if 0 ≤ s then { a with len := (n - 1) * s.toNat + len }
  else { a with disp := a.disp + ((n - 1 : Nat) : Int) * s, len := (n - 1) * (-s).toNat + len }

/-- Bytes of an atomic's object (R143 to R146). -/
def amoLen (i : Instr) (ty : Nat) : Nat :=
  match i with
  | .amoXadd _ | .amoXrd _ => 32
  | _ => if ty = 3 ∨ ty = 19 ∨ ty = 6 then 4 else 8

/-- The accesses of the core path and the matrix path that an instruction makes; `none` when a stride is not constant.
`ports` is how many portions the kernel's activation rows carry. -/
def accessesOf (ports : Nat) (r : Regs) (i : Instr) : Option (List Access) :=
  let alone (x : BitVec 8) (len : Nat) : Access := ⟨x.toNat, none, 0, len⟩
  match i with
  | .ldI8 f | .ldN8 f | .st8 f => some [memAccess f 1 1]
  | .ldI16 f | .ldN16 f | .st16 f => some [memAccess f 2 2]
  | .ldI32 f | .ldN32 f | .st32 f => some [memAccess f 4 4]
  | .ldI64 f | .st64 f => some [memAccess f 8 8]
  | .ldp f | .stp f => some [memAccess f 16 16]
  | .amoAdd f | .amoAnd f | .amoOr f | .amoXor f | .amoMin f | .amoMax f | .amoMinn f | .amoMaxn f | .amoSwap f | .amoCas f
  | .amoFadd f | .amoFmin f | .amoFmax f | .amoXadd f | .amoXrd f => some [regAccess f.b f (amoLen i f.ty.toNat)]
  | .barArrive f | .barWait f | .barGen f => some [regAccess f.b f 16]
  | .cntAdd f | .cntWait f => some [regAccess f.a f 8]
  | .cntRd f => some [regAccess f.b f 8]
  | .vld f | .vst f => some [memAccess f 256 256]
  | .vldg f | .vsct f =>
    let w := laneWidth (f.ty.toNat % 16)
    some [alone f.b (2 ^ w * (w / 8))]
  | .vlds f | .vsst f =>
    (strideVal r f.d 0).map fun s =>
      [strided (memAccess f 256 0) (lanesOf (f.ty.toNat % 16)) s (laneWidth (f.ty.toNat % 16) / 8)]
  | .mwld f =>
    (strideVal r f.c (colBytes f.ty.toNat)).map fun s => [strided (alone f.b 0) (matCols f.ty.toNat) s (colBytes f.ty.toNat)]
  | .mwsc f =>
    let n := if f.imm.toNat % 4 = 0 then 2 else 1
    (strideVal r f.c 256).map fun s => [strided (alone f.b 0) n s 256, alone f.d (128 * n)]
  | .mmac f | .mmacz f =>
    let row := actBytes f.ty.toNat + (if groupedTy f.ty.toNat then 4 * ports else 0)
    (strideVal r f.c row).map fun s => [strided (alone f.b 0) 16 s row]
  | .msgRecv f => some [alone f.b 256]
  | _ => some []

/-! ## Decisions (R358) -/

/-- What is decided about an access: left as written, refused with a code, elided with its proved interval, or checked. -/
inductive Decision where
  | plain
  | refuse
  | elide (b : Nat) (lo hi : Int)
  | check (b : Nat)
  deriving DecidableEq, Repr

/-- Whether addresses lie in the local, the shared or the description-block aperture (R111), addresses read as signed. -/
def confined (lo hi : Int) : Bool :=
  let inside (top size : Nat) : Bool :=
    let a : Int := (top * 2 ^ 56 : Nat) - 2 ^ 64
    decide (a ≤ lo) && decide (hi ≤ a + size)
  inside 0xF0 (2 ^ 20) || inside 0xF1 (2 ^ 25) || inside 0xF2 (2 ^ 16)

/-- The interval that an index adds, when it is known. -/
def indexVal (r : Regs) : Option (Nat × Nat) → Option (Int × Int)
  | none => some (0, 0)
  | some (n, k) => match getR r n with
    | .const a b => some (a * k, b * k)
    | _ => none

/-- Decide about one access; `sizes` are the bytes of the buffers. -/
def decideAccess (sizes : List Nat) (r : Regs) (a : Access) : Decision :=
  match getR r a.base, indexVal r a.index with
  | .const lo hi, some (i, j) => if confined (lo + i + a.disp) (hi + j + a.disp + a.len) then .plain else .refuse
  | .buf b lo hi, some (i, j) =>
    if 0 ≤ lo + i + a.disp ∧ hi + j + a.disp + a.len ≤ (sizes.getD b 0 : Nat) then .elide b (lo + i + a.disp) (hi + j + a.disp)
    else .check b
  | .buf b _ _, none | .bufAny b, _ => .check b
  | _, _ => .refuse

/-! ## What code may not do (R353, R354) -/

/-- Registers of every file that an operand names, as places: scalars from 0, guards from 128, masks from 136, rows from 144. -/
def Role.places (r : Role) (v : BitVec 8) (write : Bool) : List Nat :=
  let n := v.toNat
  match r, write with
  | .src, false | .fut, false | .tokS, false => [n]
  | .srcOpt, false | .dstOpt, true => if n = 0xFF then [] else [n]
  | .dst, true => [n]
  | .upd, _ => [n]
  | .guardS, false | .guardD, true => [128 + n]
  | .maskS, false | .maskD, true => [136 + n]
  | .rowR, false | .rowW, true => [144 + n]
  | .rowOpt, false => if n = 0xFF then [] else [144 + n]
  | .qtile, _ => (List.range 16).map fun i => 144 + 16 * n + i
  | _, _ => []

/-- The places an instruction reads or writes. -/
def places (write : Bool) (i : Instr) : List Nat :=
  let f := i.fields
  let s := opSpec i
  let tested := match i with
    | .bg _ => true
    | _ => f.form.isExt
  let guards := if tested then [128 + f.ga.idx.toNat, 128 + f.gb.idx.toNat] else []
  let mask := if f.lmask = 0 then [] else [136 + f.lmask.toNat]
  Role.places s.a f.a write ++
    (if s.mem then (if write then [] else memRegs f) else Role.places s.b f.b write ++ Role.places s.c f.c write) ++
    Role.places s.d f.d write ++
    (if f.scope = 6 then (if write then [] else [f.e.toNat]) else Role.places s.e f.e write) ++
    (if write then s.extraDst else s.extraSrc ++ guards ++ mask)

/-- An instruction names s28, s29, g7 or a bound register (R353). -/
def namesReserved (i : Instr) : Bool :=
  ((places false i ++ places true i).any fun n => n == 28 || n == 29 || n == 135)

/-- The admissible subset (R349, R354), by the kernel's class. -/
def allowedIn (cls : Nat) (i : Instr) : Bool :=
  let super := cls == 2
  (!super || (opSpec i).ext == .base) &&
    (match i with
    | .ctxStart _ | .ctxReap _ | .ctxPart _ | .tret _ | .tretRedirect _ => super
    | .lnch _ | .cancel _ => cls != 0
    | .wrsr f => f.a == 13 || (super && f.a == 8)
    | .chk _ | .bndLd _ | .jmp _ | .callReg _ => false
    | .ret f => f.b == 31
    | _ => true)

/-- Code 5 (R349, R354): an instruction that the class does not admit, a branch or a call out of the kernel, the literal of an
argument buffer, a call cycle, or control that reaches data from an entry. The items of `free` are Phollaiz's own. -/
def Code.outside (c : Code) (entries args free : List Nat) : Bool :=
  c.cyclic ||
    ((List.range c.nodes.length).any fun k => match c.at k with
      | .ins i t b => !(free.contains k || allowedIn c.cls i) || (hasTarget i && t.isNone) || b.any args.contains
      | _ => false) ||
    (entries.flatMap c.reach).any fun k => match c.nodes[k]? with
      | some (.bytes _) => true
      | _ => false

/-- The places whose values an instruction stores to memory: the data of a store, an atomic or a fill, and the frame register
that `spawn` pushes. -/
def storedPlaces (i : Instr) : List Nat :=
  match i with
  | .st8 f | .st16 f | .st32 f | .st64 f => [f.a.toNat]
  | .stp f => [f.a.toNat, f.d.toNat]
  | .amoAdd f | .amoAnd f | .amoOr f | .amoXor f | .amoMin f | .amoMax f | .amoMinn f | .amoMaxn f | .amoSwap f | .amoFadd f
  | .amoFmin f | .amoFmax f | .amoXadd f => [f.c.toNat]
  | .amoCas f => [f.c.toNat, f.d.toNat]
  | .cntAdd f => [f.b.toNat]
  | .vst f | .vsct f | .vsst f => [144 + f.a.toNat]
  | .cpFill f => [f.c.toNat]
  | .spawn _ => [30]
  | _ => []

/-- The place of the status word, and of `tvec`. -/
def statPlace : Nat := 400
def tvecPlace : Nat := 401

/-- An instruction that may set a numeric flag (R27): its result may be clamped, or it computes on lanes. -/
def flagging (i : Instr) : Bool :=
  i.fields.sat || (match i with
    | .vadd _ | .vsub _ | .vmul _ | .vfma _ | .vfms _ | .vneg _ | .vabs _ | .vmin _ | .vmax _ | .vdiv _ | .vsqrt _ | .vrcp _
    | .vrsq _ | .vexp2 _ | .vlog2 _ | .vtanh _ | .vsig _ | .vcmp _ | .vred _ | .vscan _ | .vxscan _ | .vcvt _ | .vquant _
    | .vdeq _ | .vpack _ | .vunpk _ | .mmac _ | .mmacz _ | .mclr _ => true
    | _ => false)

/-- The places that an instruction's values come from and go to, the status word and `tvec` with them; `mmacz` starts from
zeros. -/
def flowFrom (i : Instr) : List Nat :=
  ((places false i).filter fun n => match i with
    | .mmacz _ => decide (n < 144)
    | _ => true) ++ (match i with
    | .rdsr f => if f.b = 13 then [statPlace] else if f.b = 8 then [tvecPlace] else []
    | _ => [])
def flowTo (i : Instr) : List Nat :=
  places true i ++ (if flagging i then [statPlace] else []) ++ (match i with
    | .wrsr f => if f.a = 13 then [statPlace] else if f.a = 8 then [tvecPlace] else []
    | _ => [])

/-- A place whose old value an instruction replaces whole: guards may hold it back, a merging instruction leaves lanes of its row
(R161), and the flags are sticky. -/
def replaces (i : Instr) (n : Nat) : Bool :=
  let merges := match i with
    | .vins _ => true
    | _ => i.fields.lmask != 0
  (flowTo i).contains n && !isGuarded i && !(merges && decide (144 ≤ n) && decide (n < statPlace)) &&
    (decide (n ≠ statPlace) || (match i with
      | .wrsr _ => true
      | _ => false))

/-- The places that hold values derived from `tile`, `core` or `slot`: those read since the last safe point, and older ones. -/
structure Taint where
  fresh : List Nat := []
  stale : List Nat := []
  deriving DecidableEq, Repr

def Taint.join (x y : Taint) : Taint := ⟨(x.fresh ++ y.fresh).eraseDups, (x.stale ++ y.stale).eraseDups⟩
/-- A safe point makes every value an old one. -/
def Taint.age (x : Taint) : Taint := ⟨[], (x.stale ++ x.fresh).eraseDups⟩

/-- The taint behind an instruction. -/
def Taint.after (x : Taint) (i : Instr) : Taint :=
  let derived := (flowFrom i).any (fun n => x.fresh.contains n || x.stale.contains n) || (match i with
    | .rdsr f => f.b == 2 || f.b == 3 || f.b == 4
    | _ => false)
  let keep (l : List Nat) : List Nat := l.filter fun n => !replaces i n
  let y : Taint := ⟨(keep x.fresh ++ (if derived then flowTo i else [])).eraseDups, keep x.stale⟩
  if isPlace i then y.age else y

/-- An instruction uses a physical identity across a safe point, or stores one (R354). A place that may be issued again after it
was taken reads its operands again. -/
def Taint.bad (x : Taint) (i : Instr) : Bool :=
  let old := if isPlace i then x.stale ++ x.fresh else x.stale
  (flowFrom i).any old.contains || (storedPlaces i).any fun n => x.fresh.contains n || x.stale.contains n

/-- Taint over the whole code of a kernel: calls and returns join as branches do. -/
def Code.taintPass (c : Code) (ts : List (Option Taint)) : List (Option Taint) :=
  let returns := (List.range c.nodes.length).filter fun k => match c.at k with
    | .ins (.ret _) _ _ => true
    | _ => false
  (List.range c.nodes.length).foldl (fun ts k =>
    match ts.getD k none with
    | none => ts
    | some x =>
      let y := match c.at k with
        | .ins i _ _ => (if c.needsSafe k then x.age else x).after i
        | _ => x
      let send (y : Taint) (ts : List (Option Taint)) (j : Nat) : List (Option Taint) :=
        ts.set j (some (match ts.getD j none with
          | some z => z.join y
          | none => y))
      match c.at k with
      | .ins (.spawn _) t _ => send y.age (t.toList.foldl (send y) ts) (k + 1)
      | .ins (.call _) (some t) _ =>
        let ts := send y ts t
        (returns.filter fun r => (c.proc t).contains r).foldl (fun ts r => match ts.getD r none with
          | some z => send z ts (k + 1)
          | none => ts) ts
      | _ => (c.next k).foldl (send y) ts) ts

def Code.taintPasses (c : Code) : Nat → List (Option Taint) → List (Option Taint)
  | 0, ts => ts
  | n + 1, ts =>
    let new := c.taintPass ts
    if new = ts then ts else c.taintPasses n new

/-- Code 7: a physical identity kept across a safe point, or stored. -/
def Code.keepsIdentity (c : Code) (entry : Nat) : Bool :=
  let start := (c.posts ++ [entry]).foldl (fun ts k => ts.set k (some {})) (List.replicate c.nodes.length none)
  let ts := c.taintPasses (400 * (c.nodes.length + 1)) start
  (List.range c.nodes.length).any fun k =>
    match c.at k, ts.getD k none with
    | .ins i _ _, some x => (if c.needsSafe k then x.age else x).bad i
    | _, _ => false

end Sys2Proof.Tvas
end

