-- ==== Sys2Proof/Machine/Sealing.lean ====
section
/-!
DEFINITION. What Phollaiz makes of a module (R351, R353, R358 to R361): the schedule, the bound registers, the inserted checks, safe
points and reloads, the certificates, and the verifier.
-/
namespace Sys2Proof.Tvas

open Sys2Proof Sys2Proof.Machine

/-! ## The schedule (R351) -/

/-- A channel: its buffer, its producer and its consumer with their rates. -/
structure Channel where
  buf  : Nat
  prod : Nat
  p    : Nat
  cons : Nat
  c    : Nat
  deriving DecidableEq, Repr

def Module.channels (m : Module) : List Channel :=
  m.bufs.zipIdx.filterMap fun e =>
    match m.ends e.1.name true, m.ends e.1.name false with
    | [a], [b] => if m.isChannel e.1.name then some ⟨e.2, a.1, a.2, b.1, b.2⟩ else none
    | _, _ => none

/-- Spread a ratio over the channels of an actor's component, as fractions. -/
def spread (cs : List Channel) (qs : List (Option (Nat × Nat))) : List (Option (Nat × Nat)) :=
  cs.foldl (fun qs c =>
    match qs.getD c.prod none, qs.getD c.cons none with
    | some (n, d), none => qs.set c.cons (some (n * c.p / (n * c.p).gcd (d * c.c), d * c.c / (n * c.p).gcd (d * c.c)))
    | none, some (n, d) => qs.set c.prod (some (n * c.c / (n * c.c).gcd (d * c.p), d * c.p / (n * c.c).gcd (d * c.p)))
    | _, _ => qs) qs

def spreads (cs : List Channel) : Nat → List (Option (Nat × Nat)) → List (Option (Nat × Nat))
  | 0, qs => qs
  | n + 1, qs => spreads cs n (spread cs qs)

/-- The smallest vector of positive integers that satisfies every balance equation; 0 for a kernel that is no actor. -/
def Module.repetitions (m : Module) : Option (List Nat) :=
  let cs := m.channels
  let n := m.kernels.length
  let start : List Nat := m.kernels.map fun _ => 0
  let q := (List.range n).foldl (fun q k =>
    if q.getD k 0 ≠ 0 ∨ (m.kernels.map (·.cls)).getD k 1 ≠ 0 then q
    else
      let part := spreads cs n ((List.replicate n none).set k (some (1, 1)))
      let den := part.foldl (fun acc x => match x with
        | some (_, d) => acc.lcm d
        | none => acc) 1
      let nums := part.map fun x => match x with
        | some (a, d) => a * (den / d)
        | none => 0
      let g := nums.foldl Nat.gcd 0
      List.zipWith (fun a b => if b = 0 then a else b / g) q nums) start
  if cs.all fun c => q.getD c.prod 0 * c.p == q.getD c.cons 0 * c.c then some q else none

/-- The producers of an actor, in declaration order. -/
def Module.producers (m : Module) (k : Nat) : List Nat :=
  (List.range m.kernels.length).filter fun j => m.channels.any fun c => c.prod == j && c.cons == k

/-- The rules on the graph (R349, R351, R352): producers stand before their consumers, an actor has at most four, and only actors
have rates. -/
def Module.graphOk (m : Module) : Bool :=
  m.channels.all (fun c => decide (c.prod < c.cons)) &&
    ((List.range m.kernels.length).all fun k => decide ((m.producers k).length ≤ 4)) &&
    m.kernels.all fun k => k.cls == 0 || k.rates.isEmpty

/-- The bytes of every buffer: a channel holds one period. -/
def Module.sizes (m : Module) (q : List Nat) : List Nat :=
  m.bufs.zipIdx.map fun e =>
    match m.channels.find? fun c => c.buf == e.2 with
    | some c => (q.getD c.prod 0 * c.p * e.1.bytes + 127) / 128 * 128
    | none => e.1.bytes

/-! ## Placement (R364) -/

def up128 (n : Nat) : Nat := (n + 127) / 128 * 128

/-- The lowest place for some bytes in the ranges that avoids what is taken. -/
def placeIn (ranges taken : List (Nat × Nat)) (size : Nat) : Option Nat :=
  ranges.findSome? fun r =>
    let starts := up128 r.1 :: (taken.map fun t => up128 t.2)
    let ok (a : Nat) : Bool := decide (r.1 ≤ a) && decide (a + size ≤ r.2) &&
      taken.all fun t => decide (t.2 ≤ a) || decide (a + size ≤ t.1)
    (starts.filter ok).min?

/-- The address of every buffer; 0 for an argument buffer. -/
def Module.placeAll (m : Module) (sizes : List Nat) (ranges taken : List (Nat × Nat)) : Option (List Nat) :=
  ((m.bufs.zip sizes).foldl (fun acc e =>
    match acc with
    | none => none
    | some (as, off, taken) =>
      if e.1.arg.isSome then some (as ++ [0], off, taken)
      else if e.1.loc then
        if off + e.2 ≤ 2 ^ 20 then some (as ++ [0xF0 * 2 ^ 56 + off], up128 (off + e.2), taken) else none
      else (placeIn ranges taken e.2).map fun a => (as ++ [a], off, (a, a + e.2) :: taken))
    (some ([], 0, taken))).map (·.1)

/-! ## What is inserted (R358, R359) -/

/-- An inserted instruction, in its shortest form. -/
def inserted (op fn : Nat) (x : Draft) (guards : Option (GuardSel × GuardSel)) : Instr :=
  let f := match guards with
    | some g => { x.f with ga := g.1, gb := g.2 }
    | none => x.f
  (({ x with f := f }).shortest op fn guards.isSome).getD (.nop Fields.zero)

def guardsIn (i : Instr) : Option (GuardSel × GuardSel) := if isGuarded i then some (i.fields.ga, i.fields.gb) else none
def whenG7 : Option (GuardSel × GuardSel) := some (⟨false, 7⟩, ⟨false, 0⟩)

def regByte (n : Nat) : BitVec 8 := BitVec.ofNat 8 n

/-- `chk bK, sR, #n`. -/
def chkIns (k r n : Nat) (g : Option (GuardSel × GuardSel)) : Instr :=
  inserted 0x35 0 { f := { Fields.zero with a := regByte k, b := regByte r }, value := some n } g

/-- `lea s28` of the byte at a distance into an access's range. -/
def leaIns (a : Access) (d : Int) (g : Option (GuardSel × GuardSel)) : Instr :=
  let f := { Fields.zero with a := 28, b := regByte a.base }
  let f := match a.index with
    | some (n, k) => { f with c := regByte n, fn := BitVec.ofNat 4 k.log2 }
    | none => f
  inserted 0x1B 0 { f := f, value := some (BitVec.ofInt 64 (a.disp + d)).toInt, mem := true, index := a.index.isSome } g

/-- The check of an access against a bound register (R358). -/
def checkSeq (k : Nat) (a : Access) (i : Instr) : List Instr :=
  let g := guardsIn i
  let first (n : Nat) : List Instr :=
    if a.index.isNone ∧ a.disp = 0 then [chkIns k a.base n g] else [leaIns a 0 g, chkIns k 28 n g]
  if a.len ≤ (if g.isSome then 255 else 1023) then first a.len
  else first 1 ++ [leaIns a ((a.len : Int) - 1) g, chkIns k 28 1 g]

def rdsrBgen (r : Nat) : Instr := inserted 0x30 0 { f := { Fields.zero with a := regByte r, b := 12 } } none
def loadBound (g : Option (GuardSel × GuardSel)) (e : Nat × Nat) : List Piece :=
  [.ins (inserted 0x1A 0 { f := { Fields.zero with a := 28 }, buffer := some [] } g) none (.desc e.2),
   .ins (inserted 0x36 0 { f := { Fields.zero with a := regByte e.1, b := 28 } } g) none .none]

/-- The loads at a kernel's entry, and the reload sequence (R359); `bs` pairs the bound registers with their buffers. -/
def entrySeq (bs : List (Nat × Nat)) : List Piece := .ins (rdsrBgen 29) none .none :: bs.flatMap (loadBound none)
def reloadSeq (bs : List (Nat × Nat)) : List Piece :=
  [.ins (rdsrBgen 28) none .none, .ins (inserted 0x06 1 { f := { Fields.zero with a := 7, b := 28, c := 29 } } none) none .none,
   .ins (inserted 0x03 4 { f := { Fields.zero with a := 29, b := 28 } } whenG7) none .none] ++ bs.flatMap (loadBound whenG7)

/-- The instructions behind which a reload stands. -/
def reloads : Instr → Bool
  | .safe _ | .barWait _ | .cntWait _ | .sync _ | .spawn _ => true
  | _ => false

/-! ## The bound registers (R350, R353) -/

/-- The lowest bound register that nothing holds. -/
def freeBound (used : List Nat) : Option Nat := (List.range 8).find? fun n => !used.contains n

/-- Give a buffer its bound register: the one a `.bound` names, or the lowest free one. -/
def giveBound (fixed : List (Nat × Nat)) (acc : Option (List (Nat × Nat))) (b : Nat) : Option (List (Nat × Nat)) :=
  acc.bind fun got =>
    if got.any fun e => e.2 == b then some got
    else match fixed.find? fun e => e.2 == b with
      | some e => some (got ++ [e])
      | none => (freeBound (fixed.map (·.1) ++ got.map (·.1))).map fun n => got ++ [(n, b)]

/-- The buffers that are arguments. -/
def Module.argBuffers (m : Module) : List Nat := (m.bufs.zipIdx.filter fun e => e.1.arg.isSome).map (·.2)

/-- The bound registers of a kernel: argument buffers first, then the others by their first check. -/
def boundsOf (m : Module) (a : Asm) (checked : List Nat) : Option (List (Nat × Nat)) :=
  let fixed := a.src.bounds.filterMap fun e => (m.bufs.findIdx? fun b => b.name == e.2).map fun n => (e.1, n)
  let args := if a.src.cls = 0 then [] else m.argBuffers
  (args ++ checked).foldl (giveBound fixed) (some [])

/-! ## A kernel's analysis -/

/-- How many portions a kernel's activation rows carry: two when a scale load has groups of 32, or when the kernel has none. -/
def portsOf (ns : List Node) : Nat :=
  let gs := ns.filterMap fun n => match n with
    | .ins (.mwsc f) _ _ => some (f.imm.toNat % 4)
    | _ => none
  if gs.isEmpty || gs.contains 0 then 2 else 1

/-- The scalars at a kernel's entry (R355). -/
def entryRegs (m : Module) (a : Asm) (q : Nat) : Regs :=
  let zero : Regs := List.replicate 128 (.const 0 0)
  if a.src.cls = 0 then (zero.set 0 (.const q q)).set 1 (.const 0 (2 ^ 62))
  else
    let r := (List.range 8).foldl (fun r n => r.set n .top) zero
    (m.bufs.zipIdx).foldl (fun r e => match e.1.arg with
      | some n => r.set n (.buf e.2 0 0)
      | none => r) r

/-- The items that `post` may carry: every label in the code of a kernel that has a `post`. -/
def postsOf (a : Asm) : List Nat :=
  if a.nodes.any fun n => match n with
    | .ins (.post _) _ _ => true
    | _ => false
  then (a.src.labels.filterMap fun e => if e.2.1 = .code then some e.2.2 else none).eraseDups else []

def Asm.code (a : Asm) : Code := ⟨a.nodes, a.src.cls, postsOf a⟩

/-- The decisions at every item of some code; `none` for one with a stride that is not constant. -/
def decisions (sizes : List Nat) (c : Code) (entry : Nat) (r0 : Regs) : List (Option (List (Access × Decision))) :=
  let vals := ((flowOf c (entry :: c.posts)).analyse (c.nodes.length + 1) entry r0).1
  let ports := portsOf c.nodes
  (List.range c.nodes.length).map fun k =>
    match c.at k with
    | .ins i _ _ =>
      let r := (vals.getD k none).getD allTop
      (accessesOf ports r i).map fun as => as.map fun a => (a, decideAccess sizes r a)
    | _ => some []

/-- A certificate (R360) without its place: the buffer, the interval, and the bytes of the range. -/
structure Cert where
  buf : Nat
  lo  : Int
  hi  : Int
  len : Nat
  deriving DecidableEq, Repr

/-- The certificate that covers every elided range of an item, when one does: they lie in one buffer, and the longest of them
fits at the highest offset. -/
def certOf (sizes : List Nat) (ds : List (Access × Decision)) : Option Cert :=
  let es := ds.filterMap fun e => match e.2 with
    | .elide b lo hi => some (⟨b, lo, hi, e.1.len⟩ : Cert)
    | _ => none
  let open_ := ds.any fun e => match e.2 with
    | .check _ => true
    | _ => false
  match es with
  | [] => none
  | c :: rest =>
    let all := rest.foldl (fun (x : Cert) y => ⟨x.buf, min x.lo y.lo, max x.hi y.hi, max x.len y.len⟩) c
    if !open_ && rest.all (fun y => y.buf == c.buf) && decide (all.hi + all.len ≤ (sizes.getD c.buf 0 : Nat)) then some all else none

/-- The buffers that an item's checks use: every range that is neither left as written nor covered by the certificate. -/
def checksOf (sizes : List Nat) (ds : List (Access × Decision)) : List (Access × Nat) :=
  let covered := (certOf sizes ds).isSome
  ds.filterMap fun e => match e.2 with
    | .check b => some (e.1, b)
    | .elide b _ _ => if covered then none else some (e.1, b)
    | _ => none

/-- The bound registers that are loaded from descriptors, with their buffers: those of argument buffers are not. -/
def loadedOf (bs : List (Nat × Nat)) (args : List Nat) : List (Nat × Nat) :=
  (List.range 8).filterMap fun k => bs.find? fun e => e.1 == k && !args.contains e.2

/-- The bound register of a buffer. -/
def boundReg (bs : List (Nat × Nat)) (b : Nat) : Nat := ((bs.find? fun e => e.2 == b).map (·.1)).getD 8

/-- The checks of an item's accesses, in order. -/
def checkPieces (bs : List (Nat × Nat)) (i : Instr) (xs : List (Access × Nat)) : List Piece :=
  xs.flatMap fun e => (checkSeq (boundReg bs e.2) e.1 i).map fun j => .ins j none .none

/-- What is inserted before the written instruction of an item, behind the place where branches to it land. -/
def piecesBefore (sizes : List Nat) (c : Code) (ds : List (Option (List (Access × Decision)))) (bs load : List (Nat × Nat))
    (k : Nat) : List Piece :=
  (if c.posts.contains k then reloadSeq load else []) ++
    (match c.at k with
    | .ins i _ _ =>
      checkPieces bs i (checksOf sizes ((ds.getD k none).getD [])) ++
        (if c.needsSafe k then .ins (inserted 0x26 1 {} none) none .none :: reloadSeq load else [])
    | _ => [])

/-- Emit a kernel's code (R358, R359). -/
def emitKernel (sizes : List Nat) (a : Asm) (ds : List (Option (List (Access × Decision)))) (bs : List (Nat × Nat))
    (args : List Nat) : List Piece :=
  let c := a.code
  let load := loadedOf bs args
  ((List.range a.nodes.length).flatMap fun k =>
    (if k = a.entry then entrySeq load else []) ++ [.place k] ++ piecesBefore sizes c ds bs load k ++
    (match c.at k with
    | .bytes x => [.bytes x]
    | .align n => [.align n]
    | .ins i t b =>
      [.ins i t (match b with
        | some n => .addr n
        | none => .none)] ++ (if reloads i then reloadSeq load else []))) ++
    [.place a.nodes.length] ++ piecesBefore sizes c ds bs load a.nodes.length

/-- The offset of a kernel's entry: the loads before the entry label. -/
def entryOf (ps : List Piece) (bs : List (Nat × Nat)) (args : List Nat) (entry : Nat) : Nat :=
  let seq := entrySeq (loadedOf bs args)
  let at_ := (ps.findIdx? (· = .place entry)).getD 0
  (offsets 0 ps).getD (at_ - seq.length) 0

/-- The certificates of a kernel, each with the offset of the written instruction it is for. -/
def certsOf (sizes : List Nat) (a : Asm) (ds : List (Option (List (Access × Decision)))) (bs : List (Nat × Nat))
    (args : List Nat) (ps : List Piece) : List (Nat × Cert) :=
  let offs := offsets 0 ps
  (List.range ds.length).filterMap fun k =>
    (certOf sizes ((ds.getD k none).getD [])).map fun c =>
      let at_ := (ps.findIdx? (· = .place k)).getD 0 + 1 + (piecesBefore sizes a.code ds bs (loadedOf bs args) k).length
      (offs.getD at_ 0, c)

/-! ## The verifier (R361, R384) -/

/-- The emitted code as the verifier reads it: targets are indices of emitted pieces. -/
def emittedCode (ps : List Piece) (c : Code) : Code :=
  let real := ps.filter fun p => match p with
    | .place _ => false
    | _ => true
  let index (k : Nat) : Nat :=
    ((ps.takeWhile (· ≠ .place k)).filter fun p => match p with
      | .place _ => false
      | _ => true).length
  { nodes := real.map fun p => match p with
      | .ins i t l => .ins i (t.map index) (match l with
        | .addr b => some b
        | _ => none)
      | .bytes bs => .bytes bs
      | .align n => .align n
      | .place _ => .bytes []
    cls := c.cls
    posts := c.posts.map index }

/-- The pieces from an index on begin with a sequence. -/
def standsAt (ps : List Piece) (k : Nat) (seq : List Piece) : Bool := (ps.drop k).take seq.length = seq

/-- The pieces that lie in the code: places take no room. -/
def realPieces (ps : List Piece) : List Piece :=
  ps.filter fun p => match p with
    | .place _ => false
    | _ => true

/-- Emitted code as the verifier holds it: the code, its pieces with their offsets, its entry, and for every item its own
decisions and whether a certificate names it. -/
structure Checked where
  code  : Code
  real  : List Piece
  offs  : List Nat
  start : Nat
  ds    : List (Option (List (Access × Decision)))
  certs : List (Nat × Cert)
  deriving DecidableEq, Repr

/-- The certificates of an item. -/
def Checked.certsAt (v : Checked) (k : Nat) : List Cert := (v.certs.filter fun e => e.1 == v.offs.getD k 0).map (·.2)

/-- The checks that an item without a certificate needs. -/
def Checked.needs (v : Checked) (k : Nat) : List (Access × Nat) :=
  if (v.certsAt k).isEmpty then checksOf [] ((v.ds.getD k none).getD []) else []

/-- The sequence of R358 before an item. -/
def Checked.seqAt (v : Checked) (bs : List (Nat × Nat)) (k : Nat) : List Piece :=
  match v.code.at k with
  | .ins i _ _ => checkPieces bs i (v.needs k)
  | _ => []

/-- A place where R359 has the reload sequence stand: behind an instruction of its list, or at a label that `post` may carry. -/
def Checked.reloadDue (v : Checked) (k : Nat) : Bool :=
  v.code.posts.contains k || (decide (0 < k) && match v.code.at (k - 1) with
    | .ins i _ _ => reloads i
    | _ => false)

/-- The items that belong to the sequences of R358 and R359, each standing where its rule has it. -/
def Checked.inserted (v : Checked) (bs load : List (Nat × Nat)) : List Nat :=
  (List.range v.code.nodes.length).flatMap fun k =>
    (span (k - (v.seqAt bs k).length) k).filter (fun j => decide (j < k)) ++
      (if k == v.start && standsAt v.real k (entrySeq load) then span k (k + (entrySeq load).length - 1) else []) ++
      (if v.reloadDue k && standsAt v.real k (reloadSeq load) then span k (k + (reloadSeq load).length - 1) else [])

/-- A certificate covers the ranges of its access (R361, check 2). -/
def certHolds (sizes : List Nat) (c : Cert) (xs : List (Access × Decision)) : Bool :=
  xs.all fun x => match x.2 with
    | .elide b lo hi => b == c.buf && decide (0 ≤ c.lo) && decide (c.lo ≤ lo) && decide (hi ≤ c.hi) && decide (x.1.len ≤ c.len) &&
        decide (c.hi + c.len ≤ (sizes.getD b 0 : Nat))
    | .plain => true
    | _ => false

/-- The accesses of one item: proved by its one certificate, or preceded by their checks, into which no branch leads. -/
def Checked.accessOk (v : Checked) (sizes : List Nat) (bs : List (Nat × Nat)) (targets : List Nat) (k : Nat) : Bool :=
  match v.ds.getD k none with
  | none => false
  | some xs =>
    let seq := v.seqAt bs k
    xs.all (fun e => e.2 != Decision.refuse) &&
      (match v.certsAt k with
      | [] => standsAt v.real (k - seq.length) seq && decide (seq.length ≤ k) &&
          !(targets.any fun t => decide (k - seq.length < t) && decide (t ≤ k) && !seq.isEmpty)
      | [c] => certHolds sizes c xs
      | _ => false)

/-- Check emitted code (R361) from the code, the buffer table and the certificates alone: the analysis, the bound registers and the
labels that `post` may carry are computed anew. R354 holds of everything that is no sequence of R358 or R359, the call graph, the
share and the physical identities with it; every access has its certificate or its check; the sequences of R359 stand. -/
def verify (m : Module) (a : Asm) (sizes : List Nat) (q : Nat) (ps : List Piece) (certs : List (Nat × Cert)) : Bool :=
  let args := m.argBuffers
  let real := realPieces ps
  let code := emittedCode ps a.code
  let main := (emittedCode (ps.takeWhile (· ≠ .place a.entry)) a.code).nodes.length
  let loaded (start : Nat) : Checked :=
    ⟨code, real, offsets 0 real, start, decisions sizes code start (entryRegs m a q), certs⟩
  let first := loaded main
  let used := (List.range code.nodes.length).flatMap fun k => (first.needs k).map (·.2)
  match boundsOf m a used with
  | none => false
  | some bs =>
    let load := loadedOf bs args
    let v := loaded (main - (entrySeq load).length)
    let free := v.inserted bs load
    let targets := (List.range code.nodes.length).flatMap fun k => match code.at k with
      | .ins _ (some t) _ => [t]
      | _ => []
    !code.outside (code.posts ++ [v.start]) args free && !code.keepsIdentity v.start &&
      ((List.range code.nodes.length).all fun k => match code.at k with
        | .ins i _ _ => checkFields a.part i = .ok && v.accessOk sizes bs targets k &&
            (!reloads i || standsAt real (k + 1) (reloadSeq load)) && !code.needsSafe k
        | _ => true) &&
      standsAt real v.start (entrySeq load) && code.posts.all fun k => standsAt real k (reloadSeq load)

end Sys2Proof.Tvas
end

