-- ==== Sys2Proof/Machine/Sha.lean ====
section
/-!
DEFINITION. SHA-384 (FIPS 180-4), the digest that admission records and attestation signs (R364, R403).
-/
namespace Sys2Proof.Sha

open Sys2Proof

/-- The greatest number of at most `bits` bits whose `k`th power is not above `n`, found bit by bit from `found` on. -/
def rootFrom (k n : Nat) : Nat → Nat → Nat
  | 0, found => found
  | bits + 1, found => rootFrom k n bits (if (found + 2 ^ bits) ^ k ≤ n then found + 2 ^ bits else found)

/-- The first 64 bits of the fraction of the `k`th root of a number below 2^9. -/
def rootFraction (k p : Nat) : Word := BitVec.ofNat 64 (rootFrom k (p * 2 ^ (64 * k)) 70 0)

/-- The primes below 410, of which there are 80: FIPS 180-4 takes its constants from their roots. -/
def primes : List Nat := (List.range 410).filter fun n => decide (2 ≤ n) && (List.range 21).all fun d => d < 2 || n ≤ d || n % d != 0

/-- The round constants: the fractions of the cube roots of the first 80 primes. -/
def constants : List Word := primes.map (rootFraction 3)

/-- The initial chaining value of SHA-384: the fractions of the square roots of the ninth to the sixteenth prime. -/
def initial : List Word := ((primes.drop 8).take 8).map (rootFraction 2)

def bigSigma0 (x : Word) : Word := x.rotateRight 28 ^^^ x.rotateRight 34 ^^^ x.rotateRight 39
def bigSigma1 (x : Word) : Word := x.rotateRight 14 ^^^ x.rotateRight 18 ^^^ x.rotateRight 41
def smallSigma0 (x : Word) : Word := x.rotateRight 1 ^^^ x.rotateRight 8 ^^^ (x >>> 7)
def smallSigma1 (x : Word) : Word := x.rotateRight 19 ^^^ x.rotateRight 61 ^^^ (x >>> 6)

/-- The message schedule: the last 16 words of `w`, newest first, give the next one. -/
def schedule : Nat → List Word → List Word
  | 0, w => w.reverse
  | n + 1, w =>
    schedule n ((smallSigma1 (w.getD 1 0) + w.getD 6 0 + smallSigma0 (w.getD 14 0) + w.getD 15 0) :: w)

/-- One round on the eight working words. -/
def round (v : List Word) (kw : Word) : List Word :=
  match v with
  | [a, b, c, d, e, f, g, h] =>
    let t1 := h + bigSigma1 e + ((e &&& f) ^^^ (~~~e &&& g)) + kw
    let t2 := bigSigma0 a + ((a &&& b) ^^^ (a &&& c) ^^^ (b &&& c))
    [t1 + t2, a, b, c, d + t1, e, f, g]
  | v => v

/-- A big-endian word. -/
def wordOf (bs : List Byte) : Word := BitVec.ofNat 64 (bs.foldl (fun acc b => 256 * acc + b.toNat) 0)
/-- The bytes of a word, the most significant first. -/
def bytesOf (w : Word) : List Byte := (List.range 8).map fun i => w.extractLsb' (56 - 8 * i) 8

/-- Take a block of 128 bytes into the chaining value. -/
def block (h : List Word) (bs : List Byte) : List Word :=
  let w := (List.range 16).map fun i => wordOf ((bs.drop (8 * i)).take 8)
  let ws := schedule 64 w.reverse
  List.zipWith (· + ·) h ((List.zipWith (· + ·) constants ws).foldl round h)

def blocks : Nat → List Word → List Byte → List Word
  | 0, h, _ => h
  | n + 1, h, bs => blocks n (block h (bs.take 128)) (bs.drop 128)

/-- The message with its padding: a one bit, zeros, and its length in bits in 16 bytes. -/
def padded (m : List Byte) : List Byte :=
  m ++ [0x80] ++ List.replicate ((239 - m.length % 128) % 128) 0 ++ List.replicate 8 0 ++
    bytesOf (BitVec.ofNat 64 (8 * m.length))

/-- The SHA-384 digest of a message, 48 bytes. -/
def sha384 (m : List Byte) : List Byte :=
  ((blocks ((padded m).length / 128) initial (padded m)).flatMap bytesOf).take 48

end Sys2Proof.Sha
end

