-- ==== Sys2Proof/Machine/Admit.lean ====
section
/-!
DEFINITION. `MODULE_SUBMIT` (R348 to R364, R403): the outcomes of admission in order, the layout of a sealed image, and its
installation.
-/
namespace Sys2Proof.Tvas

open Sys2Proof Sys2Proof.Machine

/-! ## Admission (R362) -/

/-- A kernel that has passed: its source, its emitted code, its bound registers and its certificates. -/
structure Passed where
  asm    : Asm
  pieces : List Piece
  bounds : List (Nat × Nat)
  certs  : List (Nat × Cert)
  deriving DecidableEq, Repr

/-- A module that has passed every check of R362. -/
structure Plan where
  m       : Module
  q       : List Nat
  sizes   : List Nat
  addrs   : List Nat
  args    : List Nat
  kernels : List Passed
  deriving DecidableEq, Repr

/-- An instruction of a feature version above the device's: every instruction of the manual is of version 1 (R363). -/
def usedVersion : Nat := 1
def deviceVersion : Nat := 1

/-- What admission finds about one kernel: the decisions on its accesses, and its bound registers if eight are enough. -/
structure Found where
  ds     : List (Option (List (Access × Decision)))
  bounds : Option (List (Nat × Nat))
  deriving DecidableEq, Repr

def findIn (m : Module) (sizes : List Nat) (q : Nat) (a : Asm) : Found :=
  let ds := decisions sizes a.code a.entry (entryRegs m a q)
  let checked := ds.flatMap fun x => (checksOf sizes (x.getD [])).map (·.2)
  ⟨ds, boundsOf m a checked⟩

def Found.refuses (f : Found) : Bool := f.ds.any fun x => (x.getD []).any fun e => e.2 == Decision.refuse
def Found.unproved (f : Found) : Bool := f.ds.any (·.isNone) || f.bounds.isNone

/-- Admit a module: the code of the first failure in the order of R362 (a branch that no longer fits once code is inserted can only
be seen then, log 49), or the module with its code. `ranges` are the granted
ranges that may hold buffers, `taken` the buffers already there. -/
def admission (src : List Byte) (ranges taken : List (Nat × Nat)) : Except Nat Plan :=
  match assemble src with
  | none => .error 1
  | some (m, as) =>
    match m.repetitions with
    | none => .error 2
    | some q =>
      if !m.graphOk then .error 3
      else
        let sizes := m.sizes q
        match m.placeAll sizes ranges taken with
        | none => .error 4
        | some addrs =>
          if as.any fun a => a.code.outside (a.code.posts ++ [a.entry]) m.argBuffers [] then .error 5
          else
            let found := as.zipIdx.map fun e => (e.1, q.getD e.2 0, findIn m sizes (q.getD e.2 0) e.1)
            if found.any fun e => e.2.2.refuses then .error 6
            else if as.any fun a => a.code.keepsIdentity a.entry then .error 7
            else if found.any fun e => e.2.2.unproved then .error 8
            else if deviceVersion < usedVersion then .error 9
            else
              let args := m.argBuffers
              let reserved := as.any fun a => a.nodes.any fun n => match n with
                | .ins i _ _ => namesReserved i
                | _ => false
              let passed := found.map fun e =>
                let bs := e.2.2.bounds.getD []
                let ps := emitKernel sizes e.1 e.2.2.ds bs args
                ((⟨e.1, ps, bs, certsOf sizes e.1 e.2.2.ds bs args ps⟩ : Passed), e.2.1)
              if passed.any fun e => (sectionBytes true e.1.pieces addrs []).isNone then .error 1
              else if passed.any fun e => !verify m e.1.asm sizes e.2 e.1.pieces e.1.certs then .error 10
              else if reserved then .error 11
              else .ok ⟨m, q, sizes, addrs, args, passed.map (·.1)⟩

/-! ## The sealed image (R364) -/

/-- A field of a record: its lowest bit and its value; the record's bytes. -/
def record (n : Nat) (fields : List (Nat × Nat)) : List Byte := bytesOfNat ((fields.map fun e => e.2 * 2 ^ e.1).sum) n

def up4096 (n : Nat) : Nat := (n + 4095) / 4096 * 4096

def Plan.descOff (p : Plan) : Nat := 0x100 + 32 * p.kernels.length
def Plan.certOff (p : Plan) : Nat := p.descOff + 16 * p.m.bufs.length
def Plan.certs (p : Plan) : List (Nat × Nat × Cert) :=
  p.kernels.zipIdx.flatMap fun e => e.1.certs.map fun c => (e.2, c.1, c.2)
def Plan.argOff (p : Plan) : Nat := p.certOff + 32 * p.certs.length

/-- The argument-buffer records: kernel, argument register, buffer and bound register, in ascending kernel and register. -/
def Plan.argRecords (p : Plan) : List (Nat × Nat × Nat × Nat) :=
  p.kernels.zipIdx.flatMap fun e =>
    if e.1.asm.src.cls = 0 then []
    else (List.range 8).flatMap fun r =>
      (p.args.filter fun b => (p.m.bufs[b]?.bind (·.arg)) == some r).map fun b => (e.2, r, b, boundReg e.1.bounds b)

def Plan.codeOff (p : Plan) : Nat := up4096 (p.argOff + 16 * p.argRecords.length)

/-- The offset of each kernel's code, and the end of the last. -/
def Plan.codeOffs (p : Plan) : List Nat × Nat :=
  p.kernels.foldl (fun acc k =>
    let a := up4096 (max acc.2 p.codeOff)
    (acc.1 ++ [a], a + codeSize k.pieces)) ([], p.codeOff)

def Plan.attOff (p : Plan) : Nat := up128 p.codeOffs.2
/-- The bytes of the image in units of 4 KiB. -/
def Plan.imgLen (p : Plan) : Nat := up4096 (p.attOff + 128) / 4096

/-- The header. -/
def Plan.header (p : Plan) (tag : Nat) : List Byte :=
  record 64 [(0, p.imgLen), (40, p.argRecords.length), (50, p.kernels.length), (57, p.m.bufs.length), (66, p.certs.length),
    (98, p.m.version % 256), (106, usedVersion), (114, tag), (128, p.descOff), (192, p.certOff), (256, p.codeOff),
    (320, p.attOff), (384, if p.argRecords.isEmpty then 0 else p.argOff)] ++ List.replicate 192 0

def partCode : Part → Nat
  | .p16 => 0
  | .p8 => 1
  | .p4 => 2

/-- The record of a kernel: its entry is an offset in the image. -/
def Plan.kernelRecord (p : Plan) (n : Nat) (k : Passed) : List Byte :=
  let s := k.asm.src
  let g := s.shape
  let d := s.dgrid.getD (1, 1)
  record 32 [(0, p.codeOffs.1.getD n 0 + entryOf k.pieces k.bounds p.args k.asm.entry), (32, s.cls),
    (60, if s.cls = 2 then 0 else (s.entry.map (·.2)).getD 0), (62, partCode k.asm.part), (64, p.q.getD n 0),
    (152, g.2.2.1 - 1), (160, g.2.2.2.1 - 1), (168, g.2.2.2.2 - 1), (175, s.dgrid.isSome.toNat), (192, g.1 - 1), (208, g.2.1 - 1),
    (224, d.1 - 1), (240, d.2 - 1)]

/-- A descriptor (R128), a certificate (R360) and an argument-buffer record. -/
def Plan.descriptor (p : Plan) (n : Nat) : List Byte :=
  if p.args.contains n then List.replicate 16 0
  else bytesOfNat (p.addrs.getD n 0) 8 ++ bytesOfNat (p.addrs.getD n 0 + p.sizes.getD n 0) 8

def certRecord (e : Nat × Nat × Cert) : List Byte :=
  record 32 [(0, e.2.1), (32, e.1), (64, e.2.2.len), (104, e.2.2.buf), (128, e.2.2.lo.toNat), (192, e.2.2.hi.toNat)]

def Plan.argRecord (p : Plan) (e : Nat × Nat × Nat × Nat) : List Byte :=
  let b := p.m.bufs[e.2.2.1]?
  record 16 [(8, e.2.2.2), (16, e.2.1), (24, match b with
    | some x => x.loc.toNat
    | none => 0), (32, e.1), (64, p.sizes.getD e.2.2.1 0)]

/-- Fill up with zeros to a size. -/
def padBytes (n : Nat) (bs : List Byte) : List Byte := bs ++ List.replicate (n - bs.length) 0

/-- The image at a base address up to its attestation record. -/
def Plan.body (p : Plan) (tag base : Nat) : List Byte :=
  let descs := (List.range p.m.bufs.length).map fun n => base + p.descOff + 16 * n
  let head := p.header tag ++ (p.kernels.zipIdx.flatMap fun e => p.kernelRecord e.2 e.1) ++
    (List.range p.m.bufs.length).flatMap p.descriptor ++ p.certs.flatMap certRecord ++ p.argRecords.flatMap p.argRecord
  padBytes p.attOff ((p.kernels.zip p.codeOffs.1).foldl (fun acc e =>
    padBytes e.2 acc ++ (sectionBytes true e.1.pieces p.addrs descs).getD []) (padBytes p.codeOff head))

/-- The attestation record: the digests of the source and of the image, then DECLV, USEDV and VERSION in a byte each. -/
def attestation (src body : List Byte) (declv : Nat) : List Byte :=
  padBytes 128 (Sha.sha384 src ++ Sha.sha384 body ++
    [BitVec.ofNat 8 declv, BitVec.ofNat 8 usedVersion, BitVec.ofNat 8 deviceVersion])

/-- What the machine keeps of a sealed image. -/
def Plan.image (p : Plan) (tag base first count : Nat) (rec : List Byte) : Image where
  base := BitVec.ofNat 64 base
  tag := tag
  first := first
  count := count
  kernels := p.kernels.zipIdx.map fun e =>
    let s := e.1.asm.src
    let g := s.shape
    let d := s.dgrid.getD (1, 1)
    { entry := BitVec.ofNat 64 (base + p.codeOffs.1.getD e.2 0 + entryOf e.1.pieces e.1.bounds p.args e.1.asm.entry)
      cls := s.cls, nx := g.1, ny := g.2.1, dnx := d.1, dny := d.2, den := s.dgrid.isSome, tw := g.2.2.1, th := g.2.2.2.1
      units := g.2.2.2.2, kind := if s.cls = 2 then 0 else (s.entry.map (·.2)).getD 0, part := e.1.asm.part
      q := p.q.getD e.2 0, prods := p.m.producers e.2
      bufs := if s.cls = 0 then [] else p.args.map fun b =>
        let x := p.m.bufs[b]?
        ((x.bind (·.arg)).getD 0, (match x with
          | some y => y.loc.toNat
          | none => 0), p.sizes.getD b 0, boundReg e.1.bounds b) }
  bufs := (List.range p.m.bufs.length).map fun n =>
    (BitVec.ofNat 64 (p.addrs.getD n 0), if p.args.contains n then 0 else p.sizes.getD n 0,
      BitVec.ofNat 64 (base + p.descOff + 16 * n))
  certs := (p.certs.map fun e => e.2.2.buf).eraseDups
  record := rec
  ended := []

end Sys2Proof.Tvas

namespace Sys2Proof.Machine

open Sys2Proof

/-- The last extent number of the release-consistent quarter that may be allocated, less the first (R247, R248). -/
def codeExtents : Nat := 2 ^ 33 - 2

/-- A run of unallocated extents for an image: the first at or after a number, in a cycle through the quarter. -/
def State.freeRun (s : State) (start count : Nat) : Option Nat :=
  let used := (s.store.extents.filter fun e => decide (e.2.state ≠ .unallocated)).map (·.1)
  let from_ := start % codeExtents + 1
  let ok (a : Nat) : Bool := decide (1 ≤ a) && decide (a + count ≤ 2 ^ 33 - 1) &&
    used.all fun u => decide (u < a) || decide (a + count ≤ u)
  let starts := from_ :: 1 :: used.map (· + 1)
  match ((starts.filter fun a => ok a && decide (from_ ≤ a)).min?) with
  | some a => some a
  | none => (starts.filter ok).min?

/-- Where an image's extents lie: the bonded DRAM of the first die with room, else the tier. -/
def State.imagePlace (s : State) (count : Nat) : Option Place :=
  match [0, 1, 2, 3].find? fun d => decide (count ≤ s.freeOnDie d) with
  | some d => some (.dram d)
  | none => s.tierPort.map Place.cxl

/-- Install an admitted image: its extents hold sealed code of the tenant, present, with its bytes (R364). -/
def State.installImage (s : State) (t : Tenant) (i : Image) (place : Place) (bytes : List Byte) : State :=
  let s := (List.range i.count).foldl (fun s k =>
    let n := i.first + k
    s.setExtent n { Extent.none with state := .present, owner := t.tag, inst := t.inst, code := true, ever := true,
                                     place := place, fill := ⟨t.tag, t.inst, t.period, true⟩, touched := s.ck }) s
  s.modStore fun m => { m with
    mem := FMap.setMany 0 (FMap.clear m.mem (i.first * 2 ^ 21) ((i.first + i.count) * 2 ^ 21)) (i.first * 2 ^ 21) bytes
    images := m.images ++ [i] }

/-- Put a range into a list of ranges that neither meet nor touch: those it meets or touches become one with it. -/
def mergeRange (rs : List (Nat × Nat)) (r : Nat × Nat) : List (Nat × Nat) :=
  let near (x : Nat × Nat) : Bool := decide (x.1 ≤ r.2) && decide (r.1 ≤ x.2)
  let one := (rs.filter near).foldl (fun a x => (min a.1 x.1, max a.2 x.2)) r
  (rs.filter fun x => !near x) ++ [one]

/-- The ranges that `GRANT` gave a tenant, in which its buffers are placed (R364). -/
def Tenant.bufferRanges (t : Tenant) : List (Nat × Nat) := (t.reach.map fun r => (r.base, r.limit)).foldl mergeRange []

/-- The buffers of a tenant's images in global memory, as long as the grants that hold them live. -/
def State.placedBuffers (s : State) (tag : Nat) : List (Nat × Nat) :=
  (s.store.images.filter fun i => decide (i.tag = tag)).flatMap fun i =>
    (i.bufs.zipIdx.filter fun b => isGlobalKey b.1.1.toNat && decide (b.1.2.1 ≠ 0) && !i.ended.contains b.2).map fun b =>
      (b.1.1.toNat, b.1.1.toNat + b.1.2.1)

/-- Seal an admitted module into extents of the tenant, or complete with status 4 when none are left. -/
def State.sealModule (s : State) (ch : Nat) (t : Tenant) (src : List Byte) (p : Tvas.Plan) : State :=
  let count := (p.imgLen * 4096 + (2 ^ 21 - 1)) / 2 ^ 21
  let memory := (s.store.extents.filter fun e => decide (e.1 / 2 ^ 33 ≠ 3)).length
  match s.freeRun (Config.firstCodeExtent s.freeCtr) count, s.imagePlace count with
  | some first, some place =>
    if capacity < memory + count then s.finish ch 4 []
    else
      let base := first * 2 ^ 21
      let body := p.body t.tag base
      let rec_ := Tvas.attestation src body (p.m.version % 256)
      let i := p.image t.tag base first count rec_
      let s := { s with freeCtr := s.freeCtr + 1 }.installImage t i place (body ++ rec_)
      let s := match place with
        | .dram d => s.checkReserve d
        | _ => s
      s.finish ch 0 [i.base]
  | _, _ => s.finish ch 4 []

/-- `MODULE_SUBMIT` (R362, R403): the image's address, or status 7 with the code of the failure. -/
def State.moduleSubmit (s : State) (ch : Nat) (qs : List Word) : State :=
  s.withTenant ch [maskTag, maskAll, maskAll] qs true fun t =>
    let src := s.fromHost (quadN qs 1) (quadN qs 2)
    match Tvas.admission src t.bufferRanges (s.placedBuffers t.tag) with
    | .error code => s.finish ch 7 [BitVec.ofNat 64 code]
    | .ok p => s.sealModule ch t src p

end Sys2Proof.Machine
end

