-- ==== Sys2Proof/Machine/Firmware.lean ====
section
/-!
DEFINITION. The mailbox at work (R399, R401, R402, R407): which command a code names, the order in which firmware performs
commands, the doorbell, and the completion of a command.
-/
namespace Sys2Proof.Machine

open Sys2Proof

/-- Firmware performs a command (R403); a code above 16 bits stands for a DOOR whose upper bits are not zero, a parameter error. In
minimal mode only `IDENT` and `RESYNC` are served (R399). -/
def State.runCommand (s : State) (code ch : Nat) (qs : List Word) : Begun :=
  match code with
  | 0x01 => .done (s.report ch qs s.identity)
  | 0x02 => .done (s.report ch qs s.summary)
  | _ =>
    if s.firm.power = .minimal then .done (s.finish ch 6 [])
    else
      match code with
      | 0x03 => .done (s.tenantOpen ch qs)
      | 0x04 => .done (s.tenantClose ch qs)
      | 0x05 => .done (s.grantCmd ch qs)
      | 0x06 => .done (s.revokeCmd ch qs)
      | 0x07 => .done (s.moduleSubmit ch qs)
      | 0x08 => .done (s.jobOpenCmd ch qs)
      | 0x09 => .done (s.jobCloseCmd ch qs)
      | 0x0A => s.launchCmd ch qs
      | 0x0B => .done (s.cancelMailbox ch qs)
      | 0x0C => .done (s.quiesceCmd ch qs)
      | 0x0D => .done (s.attestCmd ch qs)
      | 0x0E => .done (s.rekeyCmd ch qs)
      | 0x0F => s.compactCmd ch qs
      | 0x10 => .done (s.inboundOpenCmd ch qs)
      | 0x11 => .done (s.logReadCmd ch qs)
      | 0x12 => .done (s.partResetCmd ch qs)
      | 0x13 => .done (s.maintCmd ch qs)
      | _ => .done (s.finish ch (if 2 ^ 16 ≤ code then 2 else 1) [])

/-! ## Mailbox order (R402, R407) -/

/-- What a command changes: a tenant, a partition, a job; every `REVOKE` also changes the one course of revocations (R366). -/
inductive Scope where
  | tenant (tag : Nat)
  | revocations
  | part (pid : Nat)
  | job (handle : Nat)
  deriving DecidableEq, Repr

/-- The jobs of a tenant and its partition. -/
def State.jobScopes (s : State) (tag : Nat) : List Scope :=
  (s.work.jobs.filter fun j => decide (j.tag = tag)).flatMap fun j => [.job j.handle, .part j.pid]

/-- What an accepted command changes. -/
def State.scopes (s : State) (a : Accepted) : List Scope :=
  match a.code, a.names with
  | 0x05, some t | 0x07, some t | 0x0E, some t | 0x0F, some t | 0x10, some t => [.tenant t]
  | 0x06, some t => [.tenant t, .revocations]
  | 0x08, _ | 0x12, _ => [.part (quadN a.quads 0)]
  | 0x09, some t | 0x0A, some t | 0x0B, some t => s.jobScopes t
  | _, _ => []

/-- The tenant that a command names, itself or through a partition, a job or an inbound window. -/
def State.commandTag (s : State) (code : Nat) (qs : List Word) : Option Nat :=
  let n := quadN qs 0
  let ofJob (h : Nat) : Option Nat := (s.job h).map (·.tag)
  match code with
  | 0x04 | 0x05 | 0x06 | 0x07 | 0x0D | 0x0E | 0x0F => some n
  | 0x10 => if (quad qs 1).getLsbD 63 then (s.firm.inWins.find? fun w => decide (w.num = n)).map (·.tag) else some n
  | 0x08 | 0x12 => (s.tenantOfPid n).map (·.tag)
  | 0x09 | 0x0A | 0x0C => ofJob n
  | 0x0B => (s.targetJob n (quadN qs 1)).bind ofJob
  | _ => none

/-- The extents that an accepted command may change, as a range of numbers. -/
def Accepted.span (a : Accepted) : Option (Nat × Nat) :=
  match a.code with
  | 0x05 | 0x06 => some (quadN a.quads 1 / 2 ^ 21, (quadN a.quads 2 + 2 ^ 21 - 1) / 2 ^ 21)
  | 0x0F => some (quadN a.quads 1, quadN a.quads 1 + 1)
  | _ => none

/-- Whether two commands may change one extent: their ranges meet, or one closes a tenant that owns an extent of the other's. -/
def State.shareExtents (s : State) (a b : Accepted) : Bool :=
  match a.span, b.span with
  | some x, some y => decide (x.1 < y.2) && decide (y.1 < x.2)
  | some x, none => b.code == 0x04 && s.store.extents.any fun e =>
      decide (e.2.owner = quadN b.quads 0) && decide (x.1 ≤ e.1) && decide (e.1 < x.2)
  | none, some y => a.code == 0x04 && s.store.extents.any fun e =>
      decide (e.2.owner = quadN a.quads 0) && decide (y.1 ≤ e.1) && decide (e.1 < y.2)
  | none, none => false

/-- Whether a command must wait for an earlier one that has not completed: they change one thing or one extent, or one of them
closes the tenant that the other names (a command that only waits or reads does not hold up the closing). A `REKEY` runs beside a `REVOKE`
or a `COMPACT` (R407). -/
def State.mustFollow (s : State) (a earlier : Accepted) : Bool :=
  let beside := a.code == 0x0E && (earlier.code == 0x06 || earlier.code == 0x0F)
  (!beside && (s.scopes a).any (fun x => (s.scopes earlier).contains x)) || s.shareExtents a earlier ||
    ((a.code == 0x04 || earlier.code == 0x04) && a.names.isSome && a.names == earlier.names &&
      earlier.code != 0x0C && earlier.code != 0x0D)

/-- Firmware begins the command of a channel, unless it waits for an earlier one. One whose tenant has been closed since it was accepted has
status 3 (R407). -/
def State.begin (s : State) (ch : Nat) : State :=
  let c := s.chan ch
  match c.work with
  | none => s
  | some a =>
    let earlier := s.firm.chans.filterMap fun e => match e.2.work with
      | some b => if b.order < a.order then some b else none
      | none => none
    if a.begun || earlier.any (s.mustFollow a) then s
    else
      let t := s.setChan ch { c with work := some { a with begun := true } }
      match (if a.closed then .done (t.finish ch 3 []) else t.runCommand a.code ch a.quads) with
      | .done s => s
      | .again s => s.setChan ch { s.chan ch with work := some a }

/-- The channels whose commands have not begun, in mailbox order. -/
def State.unbegun (s : State) : List Nat :=
  let ws := s.firm.chans.filterMap fun e => match e.2.work with
    | some a => if a.begun then none else some (a.order, e.1)
    | none => none
  (ws.mergeSort fun a b => decide (a.1 ≤ b.1)).map (·.2)

def State.beginWaiting (s : State) : State := s.unbegun.foldl State.begin s

/-! ## The doorbell and completion (R401) -/

/-- A channel with what the host writes before a doorbell, and the doorbell (R400): the payload keeps the quads that it does not write. -/
def Channel.written (c : Channel) (code : Nat) (cmd : Cmd) : Channel :=
  { c with
    door := BitVec.ofNat 64 (cmd.high.toNat * 2 ^ 48 + code % 2 ^ 16 * 2 ^ 32 + cmd.seq.toNat)
    payload := FMap.setMany 0 c.payload 0 (cmd.quads.take 224) }

/-- A write of DOOR submits the request payload as it stands. A device without power, or that is starting, takes none. -/
def State.doorbell (s : State) (code : Nat) (cmd : Cmd) : State :=
  let c := (s.chan cmd.ch).written code cmd
  if s.firm.power = .off ∨ s.firm.power = .starting ∨ 8 ≤ cmd.ch then s
  else if c.busy then s.setChan cmd.ch { c with drop := min 65535 (c.drop + 1) }
  else if c.seen ∧ cmd.seq = c.doneSeq then (s.setChan cmd.ch c).modFirm fun f => { f with msix := f.msix ++ [cmd.ch] }
  else
    let full := cmd.high.toNat * 2 ^ 16 + code % 2 ^ 16
    let a : Accepted := ⟨full, c.request, cmd.seq, s.firm.accepts, s.commandTag full c.request, false, false⟩
    ((s.setChan cmd.ch { c with busy := true, work := some a }).modFirm fun f => { f with accepts := f.accepts + 1 }).begin cmd.ch

/-- A unit that a `JOB_CLOSE`, a `CANCEL` or a `PART_RESET` ends is still in its multiply-accumulate (R199), or a cancel is still to take
effect: the command completes once its target is ended (R403). -/
def State.ending (s : State) (a : Accepted) : Bool :=
  (a.code == 0x09 || a.code == 0x0B || a.code == 0x12) && (s.work.late.any (·.isCancel) ||
    s.fab.slots.any fun e => e.2.holds fun u => u.doomed.isSome && decide (some u.tag = a.names))

/-- The commands that wait and name a tenant that a `TENANT_CLOSE` has closed (R407). -/
def State.markClosed (s : State) (tag : Option Nat) : State :=
  s.modFirm fun f => { f with chans := f.chans.map fun e => (e.1, match e.2.work with
    | some a => if !a.begun && decide (a.names = tag) then { e.2 with work := some { a with closed := true } } else e.2
    | none => e.2) }

/-- What a command does as it completes: a closed job ends, and the commands that name a closed tenant are marked. -/
def State.completing (s : State) (a : Accepted) (status : Nat) : State :=
  if status ≠ 0 then s
  else if a.code = 0x09 then s.endJob (quadN a.quads 0)
  else if a.code = 0x04 then s.markClosed a.names
  else s

/-- COMMAND_COMPLETE (R401): STATUS, DONESEQ, SEEN and BUSY change in one write, the channel's vector is sent, and the commands
that waited may begin. -/
def execCommandComplete (ch : Nat) (s : State) : Host.Outcome State Fault Refusal :=
  let c := s.chan ch
  .next (match c.work, c.result with
    | some a, some st =>
      if a.begun then
        if s.ending a then s.scheduleFree 1 (.commandComplete ch) else
        let s := (s.completing a st).setChan ch { c with busy := false, seen := true, doneSeq := a.seq, status := st, work := none, result := none }
        (s.modFirm fun f => { f with msix := f.msix ++ [ch] }).beginWaiting
      else s
    | _, _ => s)

/-! ## A doorbell for each command -/

/-- IDENT. -/
def execIdent (cmd : Cmd) (s : State) : Host.Outcome State Fault Refusal := .next (s.doorbell 0x01 cmd)
/-- RESYNC. -/
def execResync (cmd : Cmd) (s : State) : Host.Outcome State Fault Refusal := .next (s.doorbell 0x02 cmd)
/-- TENANT_OPEN. -/
def execTenantOpen (cmd : Cmd) (s : State) : Host.Outcome State Fault Refusal := .next (s.doorbell 0x03 cmd)
/-- TENANT_CLOSE. -/
def execTenantClose (cmd : Cmd) (s : State) : Host.Outcome State Fault Refusal := .next (s.doorbell 0x04 cmd)
/-- GRANT. -/
def execGrantRange (cmd : Cmd) (s : State) : Host.Outcome State Fault Refusal := .next (s.doorbell 0x05 cmd)
/-- REVOKE. -/
def execRevoke (cmd : Cmd) (s : State) : Host.Outcome State Fault Refusal := .next (s.doorbell 0x06 cmd)
/-- MODULE_SUBMIT. -/
def execModuleSubmit (cmd : Cmd) (s : State) : Host.Outcome State Fault Refusal := .next (s.doorbell 0x07 cmd)
/-- JOB_OPEN. -/
def execJobOpen (cmd : Cmd) (s : State) : Host.Outcome State Fault Refusal := .next (s.doorbell 0x08 cmd)
/-- JOB_CLOSE. -/
def execJobClose (cmd : Cmd) (s : State) : Host.Outcome State Fault Refusal := .next (s.doorbell 0x09 cmd)
/-- LAUNCH. -/
def execLaunch (cmd : Cmd) (s : State) : Host.Outcome State Fault Refusal := .next (s.doorbell 0x0A cmd)
/-- CANCEL. -/
def execCancelCmd (cmd : Cmd) (s : State) : Host.Outcome State Fault Refusal := .next (s.doorbell 0x0B cmd)
/-- QUIESCE. -/
def execQuiesce (cmd : Cmd) (s : State) : Host.Outcome State Fault Refusal := .next (s.doorbell 0x0C cmd)
/-- ATTEST. -/
def execAttest (cmd : Cmd) (s : State) : Host.Outcome State Fault Refusal := .next (s.doorbell 0x0D cmd)
/-- REKEY. -/
def execRekey (cmd : Cmd) (s : State) : Host.Outcome State Fault Refusal := .next (s.doorbell 0x0E cmd)
/-- COMPACT. -/
def execCompact (cmd : Cmd) (s : State) : Host.Outcome State Fault Refusal := .next (s.doorbell 0x0F cmd)
/-- INBOUND_OPEN. -/
def execInboundOpen (cmd : Cmd) (s : State) : Host.Outcome State Fault Refusal := .next (s.doorbell 0x10 cmd)
/-- LOG_READ. -/
def execLogRead (cmd : Cmd) (s : State) : Host.Outcome State Fault Refusal := .next (s.doorbell 0x11 cmd)
/-- PART_RESET. -/
def execPartReset (cmd : Cmd) (s : State) : Host.Outcome State Fault Refusal := .next (s.doorbell 0x12 cmd)
/-- MAINT_MODE. -/
def execMaintMode (cmd : Cmd) (s : State) : Host.Outcome State Fault Refusal := .next (s.doorbell 0x13 cmd)
/-- A CMD that R403 does not list. -/
def execUnknownCmd (code : Nat) (cmd : Cmd) (s : State) : Host.Outcome State Fault Refusal := .next (s.doorbell code cmd)

end Sys2Proof.Machine
end

