-- ==== Sys2Proof/Machine/Clock.lean ====
section
/-!
DEFINITION. What the next step is, and what each ck ends with. A step runs the instruction that a slot has fetched; or else the
instruction of a slot whose wait has ended; or else the first act that is due; or else it lets the next core issue that can; then
come the searches of idle workers and the requests of devices, what takes effect after the halts of the ck, and the launch unit; or
else the ck ends. Where no rule orders two of these, their order is the model's choice (log entry 2). The conditions that no single
act marks (a wait that other waits release, a safe point of a standing unit, a stuck job) are looked at as the ck ends.
-/
namespace Sys2Proof.Machine

open Sys2Proof

/-! ## Waits that end by what memory or other units hold -/

/-- The byte that a watching unit sees at a place: the one an L1 holds dirty, or the home's (R253, R142). -/
def State.seenByte (s : State) (k : Nat) : Byte :=
  let home := s.byteAt k
  if isGlobalKey k then
    match s.dirtyCopy (k / 128) with
    | some l => (FMap.get none l.dirty (k % 128)).getD home
    | none => home
  else home

def State.seen (s : State) (k n : Nat) : Nat := natOfBytes ((List.range n).map fun i => s.seenByte (k + i))

/-- A wait for a generation or a frame whose condition holds completes (R152, R232); a counter's waiters are woken by its additions
(R157). -/
def State.watchSweep (s : State) : State :=
  s.fab.slots.foldl (fun s e =>
    match e.2.mode with
    | .waiting (.bar _ loc g dst npc) _ =>
      let now : BitVec 32 := BitVec.ofNat 32 (s.seen loc 4)
      if now ≠ g then s.completeSafe e.1 npc (fun u => u.setReg dst (now.setWidth 64)) else s
    | .waiting (.sync _ loc npc) _ => if s.seen loc 8 = 0 then s.completeSafe e.1 npc id else s
    | _ => s) s

/-- A unit that waits to realign goes on when every laggard it met has reached or passed its address (R67). -/
def State.realignSweep (s : State) : State :=
  s.fab.slots.foldl (fun s e =>
    match e.2.mode, e.2.unit with
    | .waiting (.realign t units npc) since, some u =>
      if s.haltedTag u.tag then s else
      match units.filter fun v => !s.caughtUp u.pc v with
      | [] => s.complete e.1 npc id
      | left => s.setSlot e.1 { e.2 with mode := .waiting (.realign t left npc) since }
    | _, _ => s) s

/-- The additions that retired launches still have to make (R320). -/
def State.retireSweep (s : State) : State :=
  (s.work.launches.filter (·.adding)).foldl State.settleRetired s

/-- The choice between launches of a pre-emption is looked at again for every job whose units are being taken (R325). -/
def State.preemptSweep (s : State) : State :=
  s.work.jobs.foldl (fun s j =>
    if s.work.launches.any fun l => decide (l.id.job = j.handle) && l.taking then s.grantPreemption j else s) s

/-- The instructions of every core that wait for the planes and need not any more go on (R195, R199). -/
def State.planesSweep (s : State) : State := ((s.fab.slots.map (·.1 / 16)).eraseDups).foldl State.planesChanged s

/-- What the end of a ck settles. -/
def State.sweep (s : State) : State :=
  s.realignSweep.watchSweep.bankSweep.planesSweep.dequeSweep.doomedSweep.retireSweep.takeStanding.preemptSweep.placementSweep.revokeSweep.swapSweep.inboundSweep.peerSweep.beginWaiting.hangSweep

/-- The ck ends. -/
def State.advance (s : State) : State :=
  let t := s.sweep
  { t with ck := t.ck + 1, cursor := 0 }

/-! ## The next step -/

/-- Remove the first act of a kind that is due. -/
def takeDue (ck : Nat) (p : Instr → Bool) : List (Nat × Instr) → Option (Instr × List (Nat × Instr))
  | [] => none
  | e :: es => if e.1 ≤ ck ∧ p e.2 then some (e.2, es) else (takeDue ck p es).map fun r => (r.1, e :: r.2)

/-- The next core that can issue in this ck. -/
def State.nextCore (s : State) : Option Nat :=
  (s.fab.slots.find? fun e =>
    let r := refOfKey e.1
    decide (s.cursor ≤ r.core) && s.coreIssues r.core && decide (r.slot < (s.partOf (tileOf r.core)).contexts) && s.eligible r).map
      fun e => (refOfKey e.1).core

/-- What the next step does: an instruction, an event or a command with the state it acts on, or a state alone. -/
inductive Act where
  | run (i : Instr) (s : State)
  | idle (s : State)
  deriving DecidableEq, Repr

/-- What a core does in a ck has its place among the issues of the ck (R155): it comes before the issue of its core and those of the
cores behind it. -/
def State.coreNow (s : State) (core : Nat) : Bool :=
  match s.nextCore with
  | some d => decide (core ≤ d)
  | none => true

/-- A slot whose wait has ended in this ck and whose instruction goes on, the one that has waited longest first (R59). -/
def State.nextResuming (s : State) : Option (Nat × Slot × Instr) :=
  s.fab.slots.foldl (fun acc e =>
    match e.2.mode, e.2.unit.bind (·.running) with
    | .resuming since, some i =>
      if !s.coreIssues (e.1 / 16) || !s.coreNow (e.1 / 16) then acc
      else match acc with
        | some (k, sl, j) => match sl.mode with
          | .resuming t => if earlier (since, e.1) (t, k) then some (e.1, e.2, i) else some (k, sl, j)
          | _ => some (e.1, e.2, i)
        | none => some (e.1, e.2, i)
    | _, _ => acc) none

/-- The class of an act within its ck: what comes behind the issues and commands of the ck, which are a search by an idle worker,
behind its pushes and pops (R298), and a request of a device, behind the closing of its window (R415); the launch unit's work,
behind those and the cancels; and everything else. -/
inductive ActClass where
  | event
  | behind
  | launch
  deriving DecidableEq, Repr

def actClass : Instr → ActClass
  | .idleWorkerRound _ | .inboundRequest _ => .behind
  | .launchPlacement _ | .preemptionGrant => .launch
  | _ => .event

/-- An event comes before the issues of its ck; one that performs posts of a core's store buffer comes at that core's place among them
(R155). -/
def State.eventNow (s : State) (i : Instr) : Bool :=
  actClass i == .event && (match i with
    | .semPostPerformed c => s.coreNow c
    | .rootReturn r => s.fab.sbuf.all fun e => !(e.isSem && ofParty r e.who.unit e.launch) || s.coreNow e.who.core
    | _ => true)

/-- A slot whose instruction goes on: it runs; or the slot parks for an earlier store of its unit that has failed meanwhile (R136). -/
def State.goOn (s : State) (k : Nat) (sl : Slot) (i : Instr) : Act :=
  match sl.unit with
  | some u =>
    match u.failed with
    | some t => .idle (s.parkFailed (refOfKey k) u t)
    | none => .run i { s.setSlot k { sl with mode := .ready (s.ck + 1) } with issuing := some (refOfKey k) }
  | none => .idle s

/-- What comes behind the issues of a ck: the searches of idle workers and the requests of devices, the cancels and restarts, the launch unit, the end of the
ck. -/
def State.afterIssues (s : State) : Act :=
  match takeDue s.ck (fun i => actClass i == .behind) s.agenda with
  | some (i, rest) => .run i { s with agenda := rest }
  | none =>
    if s.work.late ≠ [] then .idle s.settleLate
    else
      match takeDue s.ck (fun i => actClass i == .launch) s.agenda with
      | some (i, rest) => .run i { s with agenda := rest }
      | none => .idle s.advance

def State.nextAct (s : State) : Act :=
  if s.issuing.isSome then
    match s.fetchIssuing with
    | .inl i => .run i s
    | .inr t => .idle t
  else
    match s.nextResuming with
    | some (k, sl, i) => s.goOn k sl i
    | none =>
      match takeDue s.ck s.eventNow s.agenda with
      | some (i, rest) => .run i { s with agenda := rest }
      | none =>
        match s.nextCore with
        | some c => .run (.barrelIssue c) { s with cursor := c + 1 }
        | none => s.afterIssues

/-- An input from outside: it is there from a ck on. -/
def State.withInput (s : State) (at_ : Nat) (i : Instr) : State := s.schedule at_ i

/-! ## An instruction placed for the next step -/

/-- The core kind whose extensions include an extension (R15, R63). -/
def hostKind (e : Ext) : Nat :=
  match e with
  | .xfer => 0
  | .conv => 1
  | .base | .vec | .mat | .ssm => 2

/-- The extension of the major in a first word. -/
def wordExt (w : IWord) : Ext :=
  match majorOf (w.extractLsb' 2 8).toNat with
  | some m => m.ext
  | none => .base

/-- The tenant a placed instruction runs for. -/
def Tenant.placed : Tenant where
  tag := 1
  inst := 1
  pid := 1
  rects := [⟨0, 0, 0, 0⟩]
  slice := 1800000
  deadline := 1800000
  cls := 0
  period := 0
  prepared := false
  sweep := none
  bgen := 0
  reach := []
  halted := false
  peers := []
  swept := 0

/-- The extent a placed instruction lies in, and its address: the second extent of the address space. -/
def placedExtent : Nat := 1
def placedPc : Word := 2 ^ 21

/-- Put the bytes of an instruction where the supervisor of tile 0 fetches, and let that slot issue: a tenant that owns the
tile, its job with its standing phase and launch, a sealed-code extent with the bytes, and the lines in the tile's
instruction cache. -/
def State.place (s : State) (bs : List Byte) : State :=
  let t := Tenant.placed
  let kind := hostKind (wordExt (BitVec.ofNat 32 (natOfBytes (bs.take 4))))
  let d := Desc.standing 1 placedPc
  let key := s.serial
  let s := { s with serial := s.serial + 1 }
  let s := s.modFirm fun f => { f with tenants := t :: f.tenants.filter fun x => decide (x.tag ≠ 1) }
  let s := s.modFab fun f => { f with
    owners := FMap.set none f.owners 0 (some 1)
    hold := FMap.set 0 f.hold 0 0
    fenced := f.fenced.filter (kind ≠ ·)
    icache := NSet.insert (NSet.insert f.icache (placedPc.toNat / 128)) (placedPc.toNat / 128 + 1) }
  let s := s.modWork fun w => { w with
    jobs := ⟨1, 1, 1, placedPc, 0, [0], 2, 0, 0, none, 0⟩ :: w.jobs.filter fun j => decide (j.handle ≠ 1)
    phases := ⟨⟨1, 1⟩, 63, 0, 0, false, false, 0⟩ :: w.phases.filter fun p => decide (p.id ≠ ⟨1, 1⟩)
    launches := { id := ⟨1, 1⟩, phase := 1, graph := 1, desc := d, prio := 0, args := [], bounds := [], state := .placed,
                  entered := s.ck, order := 0, ticket := none, origin := some 0, reserved := [], head := 0, queue := [], count := 0, total := 0, next := 0,
                  holds := none, parent := none, sliceEnd := 0, taking := false, adding := false, reached := false } ::
                w.launches.filter fun l => decide (l.id ≠ ⟨1, 1⟩) }
  let s := s.setExtent placedExtent { Extent.none with
    state := .present, owner := 1, inst := 1, code := true, ever := true, place := .dram 0, fill := ⟨1, 1, 0, true⟩ }
  let s := s.modStore fun m => { m with mem := FMap.setMany 0 m.mem placedPc.toNat bs }
  let s := s.setSlot (16 * kind) ⟨.ready s.ck, none, some (supervisor key d t 1 0 kind [] [])⟩
  { s with issuing := some ⟨kind, 0⟩ }

end Sys2Proof.Machine
end

