-- ==== Sys2Proof/Machine/Atomics.lean ====
section
/-!
DEFINITION. Atomics (R142 to R147), fences (R148, R149), barriers (R150 to R153), semaphores (R154, R155) and counters (R156,
R157).
-/
namespace Sys2Proof.Machine

open Sys2Proof

/-! ## Atomics -/

/-- A read-modify-write at home for a unit, after its buffered entries; `g` gives the new bytes, `rest` goes on from the old
ones. -/
def State.atHome (s : State) (e : Env) (u : Ctx) (a : Word) (keys : List Nat) (write : Bool)
    (g : List Byte → Option (List Byte)) (rest : State → List Byte → Res) : Res :=
  s.afterDrain u true fun s =>
    match s.performAtHome (s.who e.core u) keys write g with
    | .wait s w => .wait s u w
    | .fail s cause _ aux => .trap s (accTrap cause a keys.length 0 aux)
    | .ok s old => rest s old

/-- Whether an operation with a discarded result and this ordering is posted (R142, R156). -/
def posted (ord : Nat) : Bool := ord == 0 || ord == 2

/-- An atomic of a function (R142 to R146). -/
def amoInstr (i : Instr) (fn : Nat) (s : State) : Host.Outcome State Fault Refusal :=
  issueInstr i (fun e u s =>
    let ty := e.f.ty.toNat
    let n := amoSize fn ty
    let a := regAddr u e.f.b e.f
    let x := if fn = 14 then 0 else u.reg e.f.c.toNat
    let new := if fn = 9 then u.reg e.f.d.toNat else 0
    let discard := e.f.a == 0xFF
    match s.checkAccess u e a ⟨n, true, false, n⟩ with
    | .trap t => .trap s t
    | .ok keys =>
      let watch := watchTrap u n [(0, a)]
      if discard && posted e.f.ord.toNat then s.postEntry e u n (.amo fn ty a keys x new) watch
      else
        let effect (old : List Byte) := amoEffect fn ty e.f.rm.toNat (natOfBytes old) x new
        s.atHome e u a keys (fn != 14) (fun old => (effect old).1.map fun v => bytesOfNat v n) fun s old =>
          let r := effect old
          .reply s u ((if discard then [] else [.scalar e.f.a.toNat r.2.1]) ++ [.flags r.2.2]) watch) s

def execAmoAdd (f : Fields) (s : State) : Host.Outcome State Fault Refusal := amoInstr (.amoAdd f) 0 s
def execAmoAnd (f : Fields) (s : State) : Host.Outcome State Fault Refusal := amoInstr (.amoAnd f) 1 s
def execAmoOr (f : Fields) (s : State) : Host.Outcome State Fault Refusal := amoInstr (.amoOr f) 2 s
def execAmoXor (f : Fields) (s : State) : Host.Outcome State Fault Refusal := amoInstr (.amoXor f) 3 s
def execAmoMin (f : Fields) (s : State) : Host.Outcome State Fault Refusal := amoInstr (.amoMin f) 4 s
def execAmoMax (f : Fields) (s : State) : Host.Outcome State Fault Refusal := amoInstr (.amoMax f) 5 s
def execAmoMinn (f : Fields) (s : State) : Host.Outcome State Fault Refusal := amoInstr (.amoMinn f) 6 s
def execAmoMaxn (f : Fields) (s : State) : Host.Outcome State Fault Refusal := amoInstr (.amoMaxn f) 7 s
def execAmoSwap (f : Fields) (s : State) : Host.Outcome State Fault Refusal := amoInstr (.amoSwap f) 8 s
def execAmoCas (f : Fields) (s : State) : Host.Outcome State Fault Refusal := amoInstr (.amoCas f) 9 s
def execAmoFadd (f : Fields) (s : State) : Host.Outcome State Fault Refusal := amoInstr (.amoFadd f) 10 s
def execAmoFmin (f : Fields) (s : State) : Host.Outcome State Fault Refusal := amoInstr (.amoFmin f) 11 s
def execAmoFmax (f : Fields) (s : State) : Host.Outcome State Fault Refusal := amoInstr (.amoFmax f) 12 s
def execAmoXadd (f : Fields) (s : State) : Host.Outcome State Fault Refusal := amoInstr (.amoXadd f) 13 s
def execAmoXrd (f : Fields) (s : State) : Host.Outcome State Fault Refusal := amoInstr (.amoXrd f) 14 s

/-! ## Fences -/

/-- A fence (R148): the unit's buffered entries are performed unless it orders earlier reads alone. -/
def State.fenceRes (s : State) (e : Env) (u : Ctx) : Res :=
  match scopeTrap u e.f with
  | some t => .trap s t
  | none => s.afterDrain u (e.f.ord != 1 || s.rmwBuffered u.key) fun s => .reply s u [] none

def execFence (f : Fields) (s : State) : Host.Outcome State Fault Refusal :=
  issueInstr (.fence f) (fun e u s => s.fenceRes e u) s

/-- `fence.path` (R149): what it orders on the other paths is performed in the order of steps already. -/
def execFencePath (f : Fields) (s : State) : Host.Outcome State Fault Refusal :=
  issueInstr (.fencePath f) (fun e u s => s.fenceRes e u) s

/-! ## Barriers -/

/-- Fields of a barrier object: GEN, ARRIVED, EXPECT, USER (R150). -/
def barGenOf (old : List Byte) : BitVec 32 := BitVec.ofNat 32 (natOfBytes old)

/-- The object after an arrival (R151). -/
def barArrived (old : List Byte) : List Byte :=
  let x := natOfBytes old
  let g := x % 2 ^ 32
  let c := x / 2 ^ 32 % 2 ^ 32 + 1
  let ex := x / 2 ^ 64 % 2 ^ 32
  let top := x / 2 ^ 64 * 2 ^ 64
  if max ex 1 ≤ c then bytesOfNat (top + (g + 1) % 2 ^ 32) 16 else bytesOfNat (top + c * 2 ^ 32 + g) 16

/-- The access of a barrier instruction. -/
def barAcc (write : Bool) : AccKind := ⟨16, write, false, 16⟩

def execBarArrive (f : Fields) (s : State) : Host.Outcome State Fault Refusal :=
  issueInstr (.barArrive f) (fun e u s =>
    let a := regAddr u e.f.b e.f
    match s.checkAccess u e a (barAcc true) with
    | .trap t => .trap s t
    | .ok keys =>
      s.atHome e u a keys true (fun old => some (barArrived old)) fun s old =>
        .reply (s.wakeBarrier (keys.headD 0) (barGenOf (barArrived old))) u
          [.scalar e.f.a.toNat ((barGenOf old).setWidth 64)] none) s

def execBarWait (f : Fields) (s : State) : Host.Outcome State Fault Refusal :=
  issueInstr (.barWait f) (fun e u s =>
    let a := regAddr u e.f.b e.f
    match s.checkAccess u e a (barAcc false) with
    | .trap t => .trap s t
    | .ok keys =>
      s.atHome e u a keys false (fun _ => none) fun s old =>
        let g := barGenOf old
        if g ≠ (u.reg e.f.c.toNat).setWidth 32 then .reply s u [.scalar e.f.a.toNat (g.setWidth 64)] none
        else .wait s u (.bar a (keys.headD 0) g e.f.a.toNat e.npc)) s

def execBarGen (f : Fields) (s : State) : Host.Outcome State Fault Refusal :=
  issueInstr (.barGen f) (fun e u s =>
    let a := regAddr u e.f.b e.f
    match s.checkAccess u e a (barAcc false) with
    | .trap t => .trap s t
    | .ok keys =>
      s.atHome e u a keys false (fun _ => none) fun s old =>
        .reply s u [.scalar e.f.a.toNat ((barGenOf old).setWidth 64)] none) s

/-! ## Semaphores -/

def execSemPost (f : Fields) (s : State) : Host.Outcome State Fault Refusal :=
  issueInstr (.semPost f) (fun e u s => s.postEntry e u 0 (.sem e.f.c.toNat) none) s

def execSemWait (f : Fields) (s : State) : Host.Outcome State Fault Refusal :=
  issueInstr (.semWait f) (fun e u s =>
    let n := e.f.c.toNat
    let c := s.semAt e.tile n
    if c = 0 then .wait s u (.sem n e.npc) else .ok (s.setSem e.tile n (c - 1)) u) s

def execSemTry (f : Fields) (s : State) : Host.Outcome State Fault Refusal :=
  issueInstr (.semTry f) (fun e u s =>
    let n := e.f.c.toNat
    let c := s.semAt e.tile n
    if c = 0 then .ok s (u.setGuard e.f.a.toNat false)
    else .ok (s.setSem e.tile n (c - 1)) (u.setGuard e.f.a.toNat true)) s

/-! ## Counters -/

def cntAcc (write : Bool) : AccKind := ⟨8, write, false, 8⟩

def execCntAdd (f : Fields) (s : State) : Host.Outcome State Fault Refusal :=
  issueInstr (.cntAdd f) (fun e u s =>
    let a := regAddr u e.f.a e.f
    let x := u.reg e.f.b.toNat
    match s.checkAccess u e a (cntAcc true) with
    | .trap t => .trap s t
    | .ok keys =>
      if posted e.f.ord.toNat then s.postEntry e u 8 (.cntAdd a keys x) none
      else
        s.atHome e u a keys true (fun old => some (bytesOfNat (cntSum (natOfBytes old) x) 8)) fun s old =>
          .reply (s.wakeCounter (keys.headD 0) (cntSum (natOfBytes old) x)) u [] none) s

def execCntWait (f : Fields) (s : State) : Host.Outcome State Fault Refusal :=
  issueInstr (.cntWait f) (fun e u s =>
    let a := regAddr u e.f.a e.f
    let limit := u.reg e.f.b.toNat
    match s.checkAccess u e a (cntAcc false) with
    | .trap t => .trap s t
    | .ok keys =>
      s.atHome e u a keys false (fun _ => none) fun s old =>
        if limit.toNat ≤ natOfBytes old then .reply s u [] none
        else .wait s u (.cnt a (keys.headD 0) limit e.npc)) s

def execCntRd (f : Fields) (s : State) : Host.Outcome State Fault Refusal :=
  issueInstr (.cntRd f) (fun e u s =>
    let a := regAddr u e.f.b e.f
    match s.checkAccess u e a (cntAcc false) with
    | .trap t => .trap s t
    | .ok keys =>
      s.atHome e u a keys false (fun _ => none) fun s old =>
        .reply s u [.scalar e.f.a.toNat (BitVec.ofNat 64 (natOfBytes old))] none) s

end Sys2Proof.Machine
end

