-- ==== Sys2Proof/Machine/Conv.lean ====
section
/-!
DEFINITION. Conversions (R183 to R186, R44).
-/
namespace Sys2Proof.Machine

open Sys2Proof

/-! ## `vcvt` (R183) -/

/-- The source lane of destination lane i: widening takes part p, narrowing fills part p. -/
def cvtFrom (ls ld p i : Nat) : Option Nat :=
  if ld ≤ ls then some (p * ld + i) else if p * ls ≤ i ∧ i < p * ls + ls then some (i - p * ls) else none

def execVcvt (f : Fields) (s : State) : Host.Outcome State Fault Refusal :=
  vecInstr (.vcvt f)
    (fun f _ =>
      let t := tagOfTy f.ty.toNat
      dataNeeds f [f.etag.toNat] (rowB f) ++ mergeNeed f (decide (lanesOf f.etag.toNat < lanesOf t)) t)
    (fun e u =>
      let st := e.f.etag.toNat
      let sty := if e.f.imm.getLsbD 7 then st + 16 else st
      let t := tagOfTy e.f.ty.toNat
      let v := (u.row e.f.b.toNat).toNat
      let r := mergeLanes (u.row e.f.a.toNat) (laneWidth t) (lanesOf t) fun i =>
        if laneActive u e.f i then
          (cvtFrom (lanesOf st) (lanesOf t) (e.f.imm.toNat % 8) i).map fun j =>
            let x := decodeVal sty (laneAt v (laneWidth st) j)
            let q := roundVal e.f.ty.toNat x e.f.rm.toNat
            (q.1, sigFlags x ||| q.2)
        else none
      (u.setRow e.f.a.toNat r.1 (BitVec.ofNat 4 t)).setFlags r.2) s

/-! ## Grouped quantisation (R184, R185) -/

/-- num / den rounded to an integer in a mode, and whether that is inexact. -/
def roundRatio (num : Int) (den : Nat) (mode : Nat) : Int × Bool :=
  let q := num / (den : Int)
  let r := (num % (den : Int)).toNat
  if r = 0 then (q, false)
  else
    let up := match mode with
      | 0 => decide (den < 2 * r) || (decide (den = 2 * r) && q % 2 == 1)
      | 1 => decide (num < 0)
      | 2 => true
      | _ => false
    (if up then q + 1 else q, true)

/-- x / s as a numerator and a denominator, for a finite x and a finite non-zero s. -/
def ratio (x s : Val) : Int × Nat :=
  match s with
  | .fin neg m e _ =>
    let d := x.exp - e
    let n := x.scaled x.exp * (2 ^ d.toNat : Nat)
    (if neg then -n else n, m * 2 ^ (-d).toNat)
  | _ => (0, 1)

/-- The code of a value for a scale and a zero point of b bits, with its flags (R184). -/
def quantCode (b mode : Nat) (x s : Val) (z : Nat) : Nat × Flags :=
  let top : Nat := 2 ^ b - 1
  let bad := match s with
    | .fin .. => x.isNan || x.isNar
    | _ => true
  if bad then (z, flNV)
  else
    match x with
    | .inf neg => (if neg != s.sign then 0 else top, flSAT ||| flNX)
    | _ =>
      let n := ratio x s
      let q := roundRatio (n.1 + (z : Int) * n.2) n.2 mode
      let c := clampInt q.1 0 top
      (c.1.toNat, (if q.2 then flNX else 0) ||| c.2)

/-- The fields of a grouped conversion: b, the group size, the part, and the scale and zero point of a group. -/
def codeBits (tag : Nat) : Nat := if tag = 11 then 4 else 8
def groupSize (f : Fields) : Nat := 32 * 2 ^ (f.imm.toNat / 16 % 4)
def groupScale (u : Ctx) (f : Fields) (g : Nat) : Val := decodeIeee 5 (laneAt (u.row f.c.toNat).toNat 16 g)
def groupZero (u : Ctx) (f : Fields) (b g : Nat) : Nat := laneAt (u.row f.d.toNat).toNat 8 g % 2 ^ b
def groupNeeds (f : Fields) : List TagNeed := [⟨f.c.toNat, [5]⟩, ⟨f.d.toNat, [1]⟩]

def execVquant (f : Fields) (s : State) : Host.Outcome State Fault Refusal :=
  vecInstr (.vquant f)
    (fun f _ => dataNeeds f [f.etag.toNat] (rowB f) ++ groupNeeds f ++ mergeNeed f true f.ty.toNat)
    (fun e u =>
      let st := e.f.etag.toNat
      let b := codeBits e.f.ty.toNat
      let l := lanesOf st
      let lo := e.f.imm.toNat % 16 * l
      let v := (u.row e.f.b.toNat).toNat
      let r := mergeLanes (u.row e.f.a.toNat) b (groupCodes e.f.ty.toNat) fun c =>
        if lo ≤ c ∧ c < lo + l ∧ laneActive u e.f (c - lo) then
          let g := c / groupSize e.f
          some (quantCode b e.f.rm.toNat (decodeVal st (laneAt v (laneWidth st) (c - lo))) (groupScale u e.f g)
            (groupZero u e.f b g))
        else none
      (u.setRow e.f.a.toNat r.1 (BitVec.ofNat 4 e.f.ty.toNat)).setFlags r.2) s

/-- The value of a grouped element (R44), with NV for a signalling scale (R32). -/
def groupedVal (q z : Nat) (s : Val) : Val × Flags :=
  let d : Int := (q : Int) - z
  match s with
  | .fin neg m e up => (if d = 0 then .zero neg else .fin (decide (d < 0) != neg) (m * d.natAbs) e up, 0)
  | .zero neg => (.zero (decide (d < 0) != neg), 0)
  | _ => (.nan false, sigFlags s)

def execVdeq (f : Fields) (s : State) : Host.Outcome State Fault Refusal :=
  vecInstr (.vdeq f)
    (fun f _ => dataNeeds f [f.etag.toNat] (rowB f) ++ groupNeeds f ++ mergeNeed f false f.ty.toNat)
    (fun e u =>
      let t := e.f.ty.toNat
      let b := codeBits e.f.etag.toNat
      let v := (u.row e.f.b.toNat).toNat
      writeLanes u e.f t fun i =>
        let c := e.f.imm.toNat % 16 * lanesOf t + i
        let g := c / groupSize e.f
        let x := groupedVal (laneAt v b c) (groupZero u e.f b g) (groupScale u e.f g)
        let q := roundVal t x.1 e.f.rm.toNat
        (q.1, x.2 ||| q.2)) s

/-! ## Packing (R186) -/

/-- An element of width w read under the signedness of TY; grouped codes are unsigned. -/
def packRead (ty w p : Nat) : Int := if ty ≤ 4 then signed p w else (p : Int)

def execVpack (f : Fields) (s : State) : Host.Outcome State Fault Refusal :=
  vecInstr (.vpack f)
    (fun f _ => dataNeeds f [f.etag.toNat] (rowBC f) ++ mergeNeed f false (tagOfTy f.ty.toNat))
    (fun e u =>
      let ty := e.f.ty.toNat
      let t := tagOfTy ty
      let grouped := decide (t = 11)
      let st := e.f.etag.toNat
      let ls := lanesOf st
      let w := if grouped then 4 else laneWidth t
      let n := 2 * ls
      let x := (u.row e.f.b.toNat).toNat
      let y := (u.row e.f.c.toNat).toNat
      let r := mergeLanes (u.row e.f.a.toNat) w n fun i =>
        if laneActive u e.f (if grouped then i / 2 else i) then
          let p := if i < ls then laneAt x (laneWidth st) i else laneAt y (laneWidth st) (i - ls)
          let c := if grouped then clampInt (p : Int) 0 15
            else clampInt (packRead ty (laneWidth st) p) (intLo ty) (intHi ty)
          some (lowBits c.1 w, c.2)
        else none
      (u.setRow e.f.a.toNat r.1 (BitVec.ofNat 4 t)).setFlags r.2) s

def execVunpk (f : Fields) (s : State) : Host.Outcome State Fault Refusal :=
  vecInstr (.vunpk f)
    (fun f _ => dataNeeds f [f.etag.toNat] (rowB f) ++ mergeNeed f false (tagOfTy f.ty.toNat))
    (fun e u =>
      let ty := e.f.ty.toNat
      let t := tagOfTy ty
      let sw := if t = 12 then 4 else laneWidth e.f.etag.toNat
      let v := (u.row e.f.b.toNat).toNat
      writeLanes u e.f t fun i =>
        let p := laneAt v sw (e.f.imm.toNat % 2 * lanesOf t + i)
        (if t = 12 then p else lowBits (packRead ty sw p) (laneWidth t), 0)) s

end Sys2Proof.Machine
end

