-- ==== Sys2Proof/Machine/VectorMem.lean ====
section
/-!
DEFINITION. The vector memory instructions (R163 to R166).
-/
namespace Sys2Proof.Machine

open Sys2Proof

/-! ## Lanes and their addresses -/

/-- The lanes of a contiguous or strided access with their addresses; TY 0 has sixteen 16-byte pieces (R163, R164, R166). -/
def stridedLanes (u : Ctx) (f : Fields) (a stride : Word) : List (Nat × Word) :=
  if f.ty = 0 then (List.range 16).map fun i => (i, a + BitVec.ofNat 64 (16 * i))
  else
    ((List.range (lanesOf (tagOfTy f.ty.toNat))).filter (laneActive u f)).map fun i =>
      (i, a + BitVec.ofNat 64 i * stride)

/-- The bytes of a lane or piece. -/
def laneBytes (f : Fields) : Nat := if f.ty = 0 then 16 else laneWidth (tagOfTy f.ty.toNat) / 8

/-- The lanes of an indexed access: sB + ZeroExtend(Lane(vC, i)) × w/8 (R165). -/
def indexedLanes (u : Ctx) (f : Fields) : List (Nat × Word) :=
  let t := tagOfTy f.ty.toNat
  let w := laneWidth t
  let v := (u.row f.c.toNat).toNat
  ((List.range (lanesOf t)).filter (laneActive u f)).map fun i =>
    (i, u.reg f.b.toNat + BitVec.ofNat 64 (laneAt v w i * (w / 8)))

/-! ## Loads -/

/-- The lanes read so far: each with its value, or none for one that a device register will give. -/
inductive LaneRead where
  | ok (s : State) (lanes : List (Nat × Option Nat))
  | trap (s : State) (t : Trap)
  | wait (s : State) (w : Wait)
  deriving DecidableEq, Repr

/-- One lane of a vector load, checked on its own (R166). -/
def State.readLane (s : State) (e : Env) (u : Ctx) (n i : Nat) (a : Word) : LaneRead :=
  match s.checkAddr u e.tile a (plainAcc n false) with
  | .trap t => .trap s (accTrap t.cause a n i none)
  | .ok keys =>
    if keys.any isDevKey then
      match s.mayAccess (s.who e.core u) keys false false .home with
      | .wait s w => .wait s w
      | .fail s cause _ aux => .trap s (accTrap cause a n i aux)
      | .ok s _ => .ok s [(i, none)]
    else
      match s.performRead (s.who e.core u) keys e.f.hint.toNat with
      | .wait s w => .wait s w
      | .fail s cause _ aux => .trap s (accTrap cause a n i aux)
      | .ok s bs => .ok s [(i, some (natOfBytes ((keys.zip bs).map fun p =>
          (forwardByte u.key p.1 s.fab.sbuf).getD p.2)))]

/-- The lanes of a vector load in ascending order; the first that fails decides. -/
def State.readLanes (s : State) (e : Env) (u : Ctx) (n : Nat) : List (Nat × Word) → LaneRead
  | [] => .ok s []
  | (i, a) :: rest =>
    match s.readLane e u n i a with
    | .ok s one =>
      match State.readLanes s e u n rest with
      | .ok s more => .ok s (one ++ more)
      | r => r
    | r => r

/-- The keys of every lane that has them. -/
def State.laneKeys (s : State) (e : Env) (u : Ctx) (n : Nat) (ls : List (Nat × Word)) : List Nat :=
  ls.flatMap fun l => (s.keysOf u e.tile l.2 n).getD []

/-- The entries of `fillLanes`: what was read, and the old lanes of the destination elsewhere. -/
def fillEntries (u : Ctx) (f : Fields) (lanes : List (Nat × Option Nat)) : List Nat :=
  let w := 8 * laneBytes f
  (List.range (2048 / w)).map fun i =>
    match lanes.find? (·.1 = i) with
    | some (_, some v) => v + 1
    | some (_, none) => 0
    | none => laneAt (u.row f.a.toNat).toNat w i + 1

/-- A vector load of lanes into row vA (R163 to R166). -/
def State.vecLoad (s : State) (e : Env) (u : Ctx) (needs : List TagNeed) (ls : List (Nat × Word)) : Res :=
  let t := tagOfTy e.f.ty.toNat
  let n := laneBytes e.f
  match tagFault u (needs ++ mergeNeed e.f false t) with
  | some x => .trap s x
  | none =>
    match scopeTrap u e.f with
    | some x => .trap s x
    | none =>
      s.afterDrain u (s.loadDrains u e.f.ord.toNat (s.laneKeys e u n ls)) fun s =>
        match s.readLanes e u n ls with
        | .trap s x => .trap s x
        | .wait s w => .wait s u w
        | .ok s lanes =>
          let dsts := e.f.a.toNat :: t :: 8 * n :: fillEntries u e.f lanes
          let devs := ls.filter fun l => lanes.any fun r => decide (r.1 = l.1) && r.2.isNone
          match devs with
          | [] => .reply s u (loadWrites 9 dsts []) (watchTrap u n ls)
          | d :: _ =>
            let parts := devs.flatMap fun l => (alignedPieces n l.2 (List.replicate n 0)).map fun p => (p.1, p.2.length)
            .wait (s.deviceRead parts) u (.devreg d.2 parts [] 9 dsts e.npc (watchTrap u n ls))

def execVld (f : Fields) (s : State) : Host.Outcome State Fault Refusal :=
  issueInstr (.vld f) (fun e u s =>
    s.vecLoad e u [] (stridedLanes u e.f (effAddr u e.f 256) (BitVec.ofNat 64 (laneBytes e.f)))) s

def execVldg (f : Fields) (s : State) : Host.Outcome State Fault Refusal :=
  issueInstr (.vldg f) (fun e u s =>
    s.vecLoad e u [⟨e.f.c.toNat, [indexTag (laneWidth (tagOfTy e.f.ty.toNat))]⟩] (indexedLanes u e.f)) s

def execVlds (f : Fields) (s : State) : Host.Outcome State Fault Refusal :=
  issueInstr (.vlds f) (fun e u s =>
    s.vecLoad e u [] (stridedLanes u e.f (effAddr u e.f 256) (u.reg e.f.d.toNat))) s

/-! ## Stores -/

/-- The cells of a store: each byte with its lane, address and key. -/
structure StoreCell where
  lane : Nat
  addr : Word
  key  : Nat
  byte : Byte
  deriving DecidableEq, Repr

/-- Checks 1 to 3 of every active lane, and the cells; or the trap of the first that fails (R166). -/
def State.storeCells (s : State) (e : Env) (u : Ctx) (n : Nat) : List (Nat × Word) → Except Trap (List StoreCell)
  | [] => .ok []
  | (i, a) :: rest =>
    match s.checkAddr u e.tile a (plainAcc n true) with
    | .trap t => .error (accTrap t.cause a n i none)
    | .ok keys =>
      match State.storeCells s e u n rest with
      | .error t => .error t
      | .ok more =>
        let bs := bytesOfNat (laneAt (u.row e.f.a.toNat).toNat (8 * n) i) n
        .ok ((keys.zip bs).zipIdx.map (fun p => ⟨i, a + BitVec.ofNat 64 p.2, p.1.1, p.1.2⟩) ++ more)

/-- Pieces of a store, a new one wherever the place changes: the destination line of `vst`, the lane of the others. -/
def piecesBy (place : StoreCell → Nat) : List StoreCell → List Piece
  | [] => []
  | c :: rest =>
    match piecesBy place rest, rest with
    | p :: ps, d :: _ =>
      if place c = place d then ⟨c.lane, c.addr, (c.key, c.byte) :: p.cells⟩ :: ps
      else ⟨c.lane, c.addr, [(c.key, c.byte)]⟩ :: p :: ps
    | ps, _ => ⟨c.lane, c.addr, [(c.key, c.byte)]⟩ :: ps

/-- A vector store of the lanes of row vA (R163 to R166). -/
def State.vecStore (s : State) (e : Env) (u : Ctx) (needs : List TagNeed) (place : StoreCell → Nat)
    (ls : List (Nat × Word)) (lanes : Option (Nat × Nat) := none) : Res :=
  let n := laneBytes e.f
  let tags := if e.f.ty = 0 then anyTag else [tagOfTy e.f.ty.toNat]
  match tagFault u (dataNeeds e.f tags [e.f.a.toNat] ++ needs) with
  | some x => .trap s x
  | none =>
    match scopeTrap u e.f with
    | some x => .trap s x
    | none =>
      match s.storeCells e u n ls with
      | .error x => .trap s x
      | .ok cells =>
        if cells.isEmpty then .ok s u
        else s.postEntry e u n (.bytes (piecesBy place cells)) (watchTrap u n ls) lanes

/-- The bytes of one line stand together; a device register's lanes are written each on its own (R163, R131). -/
def byLine (c : StoreCell) : Nat := if isDevKey c.key then 2 ^ 60 + c.lane else c.addr.toNat / 128
def byLane (c : StoreCell) : Nat := c.lane

def execVst (f : Fields) (s : State) : Host.Outcome State Fault Refusal :=
  issueInstr (.vst f) (fun e u s =>
    let a := effAddr u e.f 256
    let n := laneBytes e.f
    s.vecStore e u [] byLine (stridedLanes u e.f a (BitVec.ofNat 64 n)) (some (n, a.toNat % n))) s

def execVsct (f : Fields) (s : State) : Host.Outcome State Fault Refusal :=
  issueInstr (.vsct f) (fun e u s =>
    s.vecStore e u [⟨e.f.c.toNat, [indexTag (laneWidth (tagOfTy e.f.ty.toNat))]⟩] byLane (indexedLanes u e.f)) s

def execVsst (f : Fields) (s : State) : Host.Outcome State Fault Refusal :=
  issueInstr (.vsst f) (fun e u s =>
    s.vecStore e u [] byLane (stridedLanes u e.f (effAddr u e.f 256) (u.reg e.f.d.toNat))) s

end Sys2Proof.Machine
end

