-- ==== Sys2Proof/Machine/Dispatch.lean ====
section
/-!
DEFINITION. The dispatch: one arm for each instruction, each a direct call of its meaning.
-/
namespace Sys2Proof.Machine

open Sys2Proof

/-- The effect of an instruction, an event or a command on the machine. -/
def exec (i : Instr) (s : State) : Host.Outcome State Fault Refusal :=
  match i with
  | .add f => Sys2Proof.Machine.execAdd f s
  | .sub f => Sys2Proof.Machine.execSub f s
  | .mul f => Sys2Proof.Machine.execMul f s
  | .mulh f => Sys2Proof.Machine.execMulh f s
  | .mulhn f => Sys2Proof.Machine.execMulhn f s
  | .div f => Sys2Proof.Machine.execDiv f s
  | .divn f => Sys2Proof.Machine.execDivn f s
  | .rem f => Sys2Proof.Machine.execRem f s
  | .remn f => Sys2Proof.Machine.execRemn f s
  | .andR f => Sys2Proof.Machine.execAndR f s
  | .orR f => Sys2Proof.Machine.execOrR f s
  | .xorR f => Sys2Proof.Machine.execXorR f s
  | .andn f => Sys2Proof.Machine.execAndn f s
  | .orn f => Sys2Proof.Machine.execOrn f s
  | .clmul f => Sys2Proof.Machine.execClmul f s
  | .clmulh f => Sys2Proof.Machine.execClmulh f s
  | .shl f => Sys2Proof.Machine.execShl f s
  | .shr f => Sys2Proof.Machine.execShr f s
  | .sar f => Sys2Proof.Machine.execSar f s
  | .rol f => Sys2Proof.Machine.execRol f s
  | .ror f => Sys2Proof.Machine.execRor f s
  | .minR f => Sys2Proof.Machine.execMinR f s
  | .maxR f => Sys2Proof.Machine.execMaxR f s
  | .minn f => Sys2Proof.Machine.execMinn f s
  | .maxn f => Sys2Proof.Machine.execMaxn f s
  | .clz f => Sys2Proof.Machine.execClz f s
  | .ctz f => Sys2Proof.Machine.execCtz f s
  | .popc f => Sys2Proof.Machine.execPopc f s
  | .bswap f => Sys2Proof.Machine.execBswap f s
  | .mov f => Sys2Proof.Machine.execMov f s
  | .bfx f => Sys2Proof.Machine.execBfx f s
  | .bfxs f => Sys2Proof.Machine.execBfxs f s
  | .bfi f => Sys2Proof.Machine.execBfi f s
  | .sel f => Sys2Proof.Machine.execSel f s
  | .cmp f => Sys2Proof.Machine.execCmp f s
  | .cmpImm f => Sys2Proof.Machine.execCmpImm f s
  | .tstZ f => Sys2Proof.Machine.execTstZ f s
  | .tstNz f => Sys2Proof.Machine.execTstNz f s
  | .gop f => Sys2Proof.Machine.execGop f s
  | .addImm f => Sys2Proof.Machine.execAddImm f s
  | .mulImm f => Sys2Proof.Machine.execMulImm f s
  | .andImm f => Sys2Proof.Machine.execAndImm f s
  | .orImm f => Sys2Proof.Machine.execOrImm f s
  | .xorImm f => Sys2Proof.Machine.execXorImm f s
  | .shlImm f => Sys2Proof.Machine.execShlImm f s
  | .shrImm f => Sys2Proof.Machine.execShrImm f s
  | .sarImm f => Sys2Proof.Machine.execSarImm f s
  | .rolImm f => Sys2Proof.Machine.execRolImm f s
  | .rorImm f => Sys2Proof.Machine.execRorImm f s
  | .li f => Sys2Proof.Machine.execLi f s
  | .lea f => Sys2Proof.Machine.execLea f s
  | .cvta f => Sys2Proof.Machine.execCvta f s
  | .tsta f => Sys2Proof.Machine.execTsta f s
  | .georng f => Sys2Proof.Machine.execGeorng f s
  | .br f => Sys2Proof.Machine.execBr f s
  | .call f => Sys2Proof.Machine.execCall f s
  | .jmp f => Sys2Proof.Machine.execJmp f s
  | .ret f => Sys2Proof.Machine.execRet f s
  | .callReg f => Sys2Proof.Machine.execCallReg f s
  | .bg f => Sys2Proof.Machine.execBg f s
  | .loop f => Sys2Proof.Machine.execLoop f s
  | .realign f => Sys2Proof.Machine.execRealign f s
  | .nop f => Sys2Proof.Machine.execNop f s
  | .safe f => Sys2Proof.Machine.execSafe f s
  | .halt f => Sys2Proof.Machine.execHalt f s
  | .yield f => Sys2Proof.Machine.execYield f s
  | .sleep f => Sys2Proof.Machine.execSleep f s
  | .rdsr f => Sys2Proof.Machine.execRdsr f s
  | .wrsr f => Sys2Proof.Machine.execWrsr f s
  | .trap f => Sys2Proof.Machine.execTrap f s
  | .tret f => Sys2Proof.Machine.execTret f s
  | .tretRedirect f => Sys2Proof.Machine.execTretRedirect f s
  | .brk f => Sys2Proof.Machine.execBrk f s
  | .chk f => Sys2Proof.Machine.execChk f s
  | .bndLd f => Sys2Proof.Machine.execBndLd f s
  | .ldI8 f => Sys2Proof.Machine.execLdI8 f s
  | .ldN8 f => Sys2Proof.Machine.execLdN8 f s
  | .ldI16 f => Sys2Proof.Machine.execLdI16 f s
  | .ldN16 f => Sys2Proof.Machine.execLdN16 f s
  | .ldI32 f => Sys2Proof.Machine.execLdI32 f s
  | .ldN32 f => Sys2Proof.Machine.execLdN32 f s
  | .ldI64 f => Sys2Proof.Machine.execLdI64 f s
  | .st8 f => Sys2Proof.Machine.execSt8 f s
  | .st16 f => Sys2Proof.Machine.execSt16 f s
  | .st32 f => Sys2Proof.Machine.execSt32 f s
  | .st64 f => Sys2Proof.Machine.execSt64 f s
  | .ldp f => Sys2Proof.Machine.execLdp f s
  | .stp f => Sys2Proof.Machine.execStp f s
  | .pf f => Sys2Proof.Machine.execPf f s
  | .cln f => Sys2Proof.Machine.execCln f s
  | .inv f => Sys2Proof.Machine.execInv f s
  | .amoAdd f => Sys2Proof.Machine.execAmoAdd f s
  | .amoAnd f => Sys2Proof.Machine.execAmoAnd f s
  | .amoOr f => Sys2Proof.Machine.execAmoOr f s
  | .amoXor f => Sys2Proof.Machine.execAmoXor f s
  | .amoMin f => Sys2Proof.Machine.execAmoMin f s
  | .amoMax f => Sys2Proof.Machine.execAmoMax f s
  | .amoMinn f => Sys2Proof.Machine.execAmoMinn f s
  | .amoMaxn f => Sys2Proof.Machine.execAmoMaxn f s
  | .amoSwap f => Sys2Proof.Machine.execAmoSwap f s
  | .amoCas f => Sys2Proof.Machine.execAmoCas f s
  | .amoFadd f => Sys2Proof.Machine.execAmoFadd f s
  | .amoFmin f => Sys2Proof.Machine.execAmoFmin f s
  | .amoFmax f => Sys2Proof.Machine.execAmoFmax f s
  | .amoXadd f => Sys2Proof.Machine.execAmoXadd f s
  | .amoXrd f => Sys2Proof.Machine.execAmoXrd f s
  | .fence f => Sys2Proof.Machine.execFence f s
  | .fencePath f => Sys2Proof.Machine.execFencePath f s
  | .barArrive f => Sys2Proof.Machine.execBarArrive f s
  | .barWait f => Sys2Proof.Machine.execBarWait f s
  | .barGen f => Sys2Proof.Machine.execBarGen f s
  | .semPost f => Sys2Proof.Machine.execSemPost f s
  | .semWait f => Sys2Proof.Machine.execSemWait f s
  | .semTry f => Sys2Proof.Machine.execSemTry f s
  | .cntAdd f => Sys2Proof.Machine.execCntAdd f s
  | .cntWait f => Sys2Proof.Machine.execCntWait f s
  | .cntRd f => Sys2Proof.Machine.execCntRd f s
  | .spawn f => Sys2Proof.Machine.execSpawn f s
  | .sync f => Sys2Proof.Machine.execSync f s
  | .done f => Sys2Proof.Machine.execDone f s
  | .post f => Sys2Proof.Machine.execPost f s
  | .grant f => Sys2Proof.Machine.execGrant f s
  | .quietWait f => Sys2Proof.Machine.execQuietWait f s
  | .lnch f => Sys2Proof.Machine.execLnch f s
  | .cancel f => Sys2Proof.Machine.execCancel f s
  | .ctxStart f => Sys2Proof.Machine.execCtxStart f s
  | .ctxReap f => Sys2Proof.Machine.execCtxReap f s
  | .ctxPart f => Sys2Proof.Machine.execCtxPart f s
  | .msgBind f => Sys2Proof.Machine.execMsgBind f s
  | .msgRecv f => Sys2Proof.Machine.execMsgRecv f s
  | .tokTest f => Sys2Proof.Machine.execTokTest f s
  | .tokCancel f => Sys2Proof.Machine.execTokCancel f s
  | .vld f => Sys2Proof.Machine.execVld f s
  | .vst f => Sys2Proof.Machine.execVst f s
  | .vldg f => Sys2Proof.Machine.execVldg f s
  | .vsct f => Sys2Proof.Machine.execVsct f s
  | .vlds f => Sys2Proof.Machine.execVlds f s
  | .vsst f => Sys2Proof.Machine.execVsst f s
  | .vmov f => Sys2Proof.Machine.execVmov f s
  | .vbc f => Sys2Proof.Machine.execVbc f s
  | .vins f => Sys2Proof.Machine.execVins f s
  | .vext f => Sys2Proof.Machine.execVext f s
  | .vadd f => Sys2Proof.Machine.execVadd f s
  | .vsub f => Sys2Proof.Machine.execVsub f s
  | .vmul f => Sys2Proof.Machine.execVmul f s
  | .vfma f => Sys2Proof.Machine.execVfma f s
  | .vfms f => Sys2Proof.Machine.execVfms f s
  | .vneg f => Sys2Proof.Machine.execVneg f s
  | .vabs f => Sys2Proof.Machine.execVabs f s
  | .vmin f => Sys2Proof.Machine.execVmin f s
  | .vmax f => Sys2Proof.Machine.execVmax f s
  | .vdiv f => Sys2Proof.Machine.execVdiv f s
  | .vsqrt f => Sys2Proof.Machine.execVsqrt f s
  | .vrcp f => Sys2Proof.Machine.execVrcp f s
  | .vrsq f => Sys2Proof.Machine.execVrsq f s
  | .vexp2 f => Sys2Proof.Machine.execVexp2 f s
  | .vlog2 f => Sys2Proof.Machine.execVlog2 f s
  | .vtanh f => Sys2Proof.Machine.execVtanh f s
  | .vsig f => Sys2Proof.Machine.execVsig f s
  | .vcmp f => Sys2Proof.Machine.execVcmp f s
  | .vsel f => Sys2Proof.Machine.execVsel f s
  | .vand f => Sys2Proof.Machine.execVand f s
  | .vor f => Sys2Proof.Machine.execVor f s
  | .vxor f => Sys2Proof.Machine.execVxor f s
  | .vandn f => Sys2Proof.Machine.execVandn f s
  | .vshl f => Sys2Proof.Machine.execVshl f s
  | .vshr f => Sys2Proof.Machine.execVshr f s
  | .vsar f => Sys2Proof.Machine.execVsar f s
  | .vclmul f => Sys2Proof.Machine.execVclmul f s
  | .vpopc f => Sys2Proof.Machine.execVpopc f s
  | .vclz f => Sys2Proof.Machine.execVclz f s
  | .vperm f => Sys2Proof.Machine.execVperm f s
  | .vshuf f => Sys2Proof.Machine.execVshuf f s
  | .vrot f => Sys2Proof.Machine.execVrot f s
  | .vred f => Sys2Proof.Machine.execVred f s
  | .vscan f => Sys2Proof.Machine.execVscan f s
  | .vxscan f => Sys2Proof.Machine.execVxscan f s
  | .vtag f => Sys2Proof.Machine.execVtag f s
  | .vretag f => Sys2Proof.Machine.execVretag f s
  | .mop f => Sys2Proof.Machine.execMop f s
  | .mcnt f => Sys2Proof.Machine.execMcnt f s
  | .vcvt f => Sys2Proof.Machine.execVcvt f s
  | .vquant f => Sys2Proof.Machine.execVquant f s
  | .vdeq f => Sys2Proof.Machine.execVdeq f s
  | .vpack f => Sys2Proof.Machine.execVpack f s
  | .vunpk f => Sys2Proof.Machine.execVunpk f s
  | .mwld f => Sys2Proof.Machine.execMwld f s
  | .mwsc f => Sys2Proof.Machine.execMwsc f s
  | .mwsw f => Sys2Proof.Machine.execMwsw f s
  | .mmac f => Sys2Proof.Machine.execMmac f s
  | .mmacz f => Sys2Proof.Machine.execMmacz f s
  | .mclr f => Sys2Proof.Machine.execMclr f s
  | .mcsum f => Sys2Proof.Machine.execMcsum f s
  | .ssmCfg f => Sys2Proof.Machine.execSsmCfg f s
  | .ssmRun f => Sys2Proof.Machine.execSsmRun f s
  | .ssmSt f => Sys2Proof.Machine.execSsmSt f s
  | .ssmStat f => Sys2Proof.Machine.execSsmStat f s
  | .cp f => Sys2Proof.Machine.execCp f s
  | .cpSlab f => Sys2Proof.Machine.execCpSlab f s
  | .cpGth f => Sys2Proof.Machine.execCpGth f s
  | .cpSct f => Sys2Proof.Machine.execCpSct f s
  | .cpFill f => Sys2Proof.Machine.execCpFill f s
  | .smerge f => Sys2Proof.Machine.execSmerge f s
  | .winBind f => Sys2Proof.Machine.execWinBind f s
  | .winMark f => Sys2Proof.Machine.execWinMark f s
  | .winDrop f => Sys2Proof.Machine.execWinDrop f s
  | .winQ f => Sys2Proof.Machine.execWinQ f s
  | .collRed f => Sys2Proof.Machine.execCollRed f s
  | .collBc f => Sys2Proof.Machine.execCollBc f s
  | .collAg f => Sys2Proof.Machine.execCollAg f s
  | .msgSend f => Sys2Proof.Machine.execMsgSend f s
  | .barrelIssue core => Sys2Proof.Machine.execBarrelIssue core s
  | .migrationTransferEnd unit => Sys2Proof.Machine.execMigrationTransferEnd unit s
  | .migrationQueueGrant tile => Sys2Proof.Machine.execMigrationQueueGrant tile s
  | .memoryReply unit => Sys2Proof.Machine.execMemoryReply unit s
  | .storeBufferEntryPerformed core => Sys2Proof.Machine.execStoreBufferEntryPerformed core s
  | .semPostPerformed core => Sys2Proof.Machine.execSemPostPerformed core s
  | .copyBurst op => Sys2Proof.Machine.execCopyBurst op s
  | .windowFillEnd op => Sys2Proof.Machine.execWindowFillEnd op s
  | .collectiveComplete op => Sys2Proof.Machine.execCollectiveComplete op s
  | .messageQueued op => Sys2Proof.Machine.execMessageQueued op s
  | .icacheFill fill => Sys2Proof.Machine.execIcacheFill fill s
  | .mmacWrite core => Sys2Proof.Machine.execMmacWrite core s
  | .planeLoadComplete core => Sys2Proof.Machine.execPlaneLoadComplete core s
  | .mwswTakesEffect core => Sys2Proof.Machine.execMwswTakesEffect core s
  | .ssmChunkCommit core => Sys2Proof.Machine.execSsmChunkCommit core s
  | .grantAnswer op => Sys2Proof.Machine.execGrantAnswer op s
  | .rootReturn ret => Sys2Proof.Machine.execRootReturn ret s
  | .rootBorrow unit => Sys2Proof.Machine.execRootBorrow unit s
  | .idleWorkerRound unit => Sys2Proof.Machine.execIdleWorkerRound unit s
  | .queueSegmentAccept seg => Sys2Proof.Machine.execQueueSegmentAccept seg s
  | .launchPlacement pid => Sys2Proof.Machine.execLaunchPlacement pid s
  | .spillComplete unit => Sys2Proof.Machine.execSpillComplete unit s
  | .unitResume unit => Sys2Proof.Machine.execUnitResume unit s
  | .partitionSwap pid => Sys2Proof.Machine.execPartitionSwap pid s
  | .extentEviction die => Sys2Proof.Machine.execExtentEviction die s
  | .extentMoveEnd extent => Sys2Proof.Machine.execExtentMoveEnd extent s
  | .resealCopyArrival copy => Sys2Proof.Machine.execResealCopyArrival copy s
  | .rekeySweep tag => Sys2Proof.Machine.execRekeySweep tag s
  | .periodSubmit run => Sys2Proof.Machine.execPeriodSubmit run s
  | .commandComplete ch => Sys2Proof.Machine.execCommandComplete ch s
  | .rekeyPrepare tag => Sys2Proof.Machine.execRekeyPrepare tag s
  | .rekeySwitch tag => Sys2Proof.Machine.execRekeySwitch tag s
  | .sleepTimeout => Sys2Proof.Machine.execSleepTimeout s
  | .realignTimeout => Sys2Proof.Machine.execRealignTimeout s
  | .revokeDeadline => Sys2Proof.Machine.execRevokeDeadline s
  | .swapDeadline => Sys2Proof.Machine.execSwapDeadline s
  | .cxlRetrainTimeout => Sys2Proof.Machine.execCxlRetrainTimeout s
  | .devregReadTimeout => Sys2Proof.Machine.execDevregReadTimeout s
  | .timeSliceExpiry => Sys2Proof.Machine.execTimeSliceExpiry s
  | .retentionExitComplete => Sys2Proof.Machine.execRetentionExitComplete s
  | .carrRouteMoveEnd => Sys2Proof.Machine.execCarrRouteMoveEnd s
  | .peerUnreachableTimeout => Sys2Proof.Machine.execPeerUnreachableTimeout s
  | .startUpWatchdog => Sys2Proof.Machine.execStartUpWatchdog s
  | .hangDeclared => Sys2Proof.Machine.execHangDeclared s
  | .preemptionGrant => Sys2Proof.Machine.execPreemptionGrant s
  | .placementRequestServed => Sys2Proof.Machine.execPlacementRequestServed s
  | .l1WriteBack tile line => Sys2Proof.Machine.execL1WriteBack tile line s
  | .retentionEntry bank => Sys2Proof.Machine.execRetentionEntry bank s
  | .softError err => Sys2Proof.Machine.execSoftError err s
  | .inboundRequest req => Sys2Proof.Machine.execInboundRequest req s
  | .devregReadCompletion unit data => Sys2Proof.Machine.execDevregReadCompletion unit data s
  | .cxlPortDown port => Sys2Proof.Machine.execCxlPortDown port s
  | .carrLinkFailure link => Sys2Proof.Machine.execCarrLinkFailure link s
  | .hostLinkDown port => Sys2Proof.Machine.execHostLinkDown port s
  | .thermalSample readings => Sys2Proof.Machine.execThermalSample readings s
  | .powerOn start => Sys2Proof.Machine.execPowerOn start s
  | .hostReset start => Sys2Proof.Machine.execHostReset start s
  | .powerOff => Sys2Proof.Machine.execPowerOff s
  | .ident cmd => Sys2Proof.Machine.execIdent cmd s
  | .resync cmd => Sys2Proof.Machine.execResync cmd s
  | .tenantOpen cmd => Sys2Proof.Machine.execTenantOpen cmd s
  | .tenantClose cmd => Sys2Proof.Machine.execTenantClose cmd s
  | .grantRange cmd => Sys2Proof.Machine.execGrantRange cmd s
  | .revoke cmd => Sys2Proof.Machine.execRevoke cmd s
  | .moduleSubmit cmd => Sys2Proof.Machine.execModuleSubmit cmd s
  | .jobOpen cmd => Sys2Proof.Machine.execJobOpen cmd s
  | .jobClose cmd => Sys2Proof.Machine.execJobClose cmd s
  | .launch cmd => Sys2Proof.Machine.execLaunch cmd s
  | .cancelCmd cmd => Sys2Proof.Machine.execCancelCmd cmd s
  | .quiesce cmd => Sys2Proof.Machine.execQuiesce cmd s
  | .attest cmd => Sys2Proof.Machine.execAttest cmd s
  | .rekey cmd => Sys2Proof.Machine.execRekey cmd s
  | .compact cmd => Sys2Proof.Machine.execCompact cmd s
  | .inboundOpen cmd => Sys2Proof.Machine.execInboundOpen cmd s
  | .logRead cmd => Sys2Proof.Machine.execLogRead cmd s
  | .partReset cmd => Sys2Proof.Machine.execPartReset cmd s
  | .maintMode cmd => Sys2Proof.Machine.execMaintMode cmd s
  | .unknownCmd code cmd => Sys2Proof.Machine.execUnknownCmd code cmd s
  | .cxlPortRetrained port => Sys2Proof.Machine.execCxlPortRetrained port s
  | .carrLinkRequest req => Sys2Proof.Machine.execCarrLinkRequest req s
  | .peerKeyRequest tag peer => Sys2Proof.Machine.execPeerKeyRequest tag peer s
  | .ideKm tag stream => Sys2Proof.Machine.execIdeKm tag stream s

end Sys2Proof.Machine
end

