-- ==== Sys2Proof/Machine/Step.lean ====
section
/-!
DEFINITION. One step of the machine, and the placing of an instruction for the next step.
-/
namespace Sys2Proof.Machine

open Sys2Proof

/-- One step. -/
def step (s : State) : Host.Outcome State Fault Refusal :=
  match s.nextAct with
  | .run i t => exec i t
  | .idle t => .next t

/-- The state in which the next step fetches and runs the instruction whose bits are `w`, numbered as the opcode table numbers
them; the bits above `nbits`, up to the longest instruction, are 0. -/
def State.withFetchWord (s : State) (nbits w : Nat) : State :=
  s.place ((wordsOfNat (w % 2 ^ nbits)).flatMap bytesOfWord)

end Sys2Proof.Machine
end

