-- ==== Sys2Proof/Safety.lean ====
section
/-!
DEFINITION. What counts as a safe run, in the terms the statements use. The machine of this spec never stops by itself: a
trap is a next state, and so is a parked unit. A run is safe when every step of it answers a next state, and a state is
sound when what the model's own fields name exists.
-/
namespace Sys2Proof.Machine

open Sys2Proof

/-- The memory of the package in its canonical form. -/
def Memory.wf (m : FMap Byte) : Bool := FMap.wf 0 m

/-- The slot whose instruction the next step runs, if any, is occupied. -/
def State.issuingOk (s : State) : Bool :=
  match s.issuing with
  | none => true
  | some r => (s.unitAt r).isSome

/-- A state that runs can be in: memories in canonical form, and the issuing slot occupied. -/
def State.sound (s : State) : Bool := Memory.wf s.store.mem && s.issuingOk

/-- `k` steps from a state all answer next states. -/
def Safe (s : State) (k : Nat) : Prop := ∃ t, Host.Core.run Sys2Proof.core k s = .next t

/-! ## An instruction that reaches its own effect (R93 steps 3 to 6, R61, R390) -/

/-- The unit `u` of slot `r` issues `i`, and nothing stops it before its own effect: its core lists the extension, its
fields pass, its guards hold, no destination is pending, no source it waits on is pending, and no source is poisoned. -/
structure Issues (s : State) (i : Instr) (r : SlotRef) (u : Ctx) : Prop where
  issuing : s.issuing = some r
  unit    : s.unitAt r = some u
  lists   : kindLists (kindOf r.core) (opSpec i).ext = true
  fields  : checkFields (s.partOf (tileOf r.core)) i = .ok
  guardA  : guardHolds u i.fields.ga = true
  guardB  : guardHolds u i.fields.gb = true
  free    : i.dests.all (fun n => !u.pend.contains n) = true
  ready   : i.waitSources.all (fun n => !u.pend.contains n) = true
  drained : (opSpec i).allTokens = true → u.pend = []
  clean   : i.sources.all (fun n => !u.pois.contains n) = true

/-- The state in which an instruction's own effect acts: no slot is issuing any more. -/
def State.begun (s : State) : State := { s with issuing := none }
/-- The state in which an instruction enters a store buffer: the entry has taken the next serial number. -/
def State.numbered (s : State) : State := { s.begun with serial := s.serial + 1 }
/-- The context in which it acts: a failed window it waited for is touched again, and no wait of its own is left. -/
def Ctx.begun (u : Ctx) : Ctx := { u with pass := [], running := none }
/-- The address of the next instruction. -/
def npcOf (i : Instr) (u : Ctx) : Word := nextPc u.pc i.fields
/-- Where the instruction acts. -/
def envOf (i : Instr) (r : SlotRef) (u : Ctx) : Env := ⟨r, i.fields, npcOf i u⟩
/-- An instruction completes: the slot holds the context `v` at the next instruction, and stays in the rotation. -/
def State.completes (s : State) (i : Instr) (r : SlotRef) (u v : Ctx) : State :=
  s.begun.putUnit r { v with pc := npcOf i u }

/-- An instruction's reply is on its way: the slot is out of the rotation until the reply delivers the register writes. -/
def State.replies (s : State) (i : Instr) (r : SlotRef) (u : Ctx) (ws : List RegWrite) (watch : Option Trap) : State :=
  (s.putMode r u.begun (.waiting (.reply ⟨ws, npcOf i u, watch⟩) s.ck)).scheduleFree 1 (.memoryReply u.key)
/-- An instruction leaves the rotation for a wait, the unit's PC still at it; it goes on when the wait ends, unless the wait's event
completes it (R59). -/
def State.awaits (s : State) (i : Instr) (r : SlotRef) (u : Ctx) (w : Wait) : State :=
  s.putMode r { u.begun with
    running := if w.again then some i else none
    pass := w.passed (match s.unitAt r with
    | some v => v.pass
    | none => []) } (.waiting w s.ck)
/-- An instruction traps at its own PC, with no effect of its own. -/
def State.trapsAt (s : State) (r : SlotRef) (u : Ctx) (t : Trap) : State := s.takeTrap r u.begun ⟨t, u.pc, u.pc⟩
/-- A completed instruction raises a trap after its effect, its PC still the one saved. -/
def State.trapsAfter (s : State) (i : Instr) (r : SlotRef) (u v : Ctx) (t : Trap) : State :=
  s.takeTrap r v ⟨t, u.pc, npcOf i u⟩

/-! ## Accesses that nothing delays -/

/-- A scratchpad byte that an access reaches at once: it lies in no window and in an awake bank, and its word holds no error
and no poison mark. -/
structure State.PlainKey (s : State) (k : Nat) : Prop where
  scratch : isScratchKey k = true
  free    : s.windowHit (keyTile k) (keyOff k) = none
  awake   : ∃ n, s.bankAt (bankOf k) = .awake n
  clean   : s.poisoned (k / 8) = false
  sound   : FMap.get 0 s.store.errors (k / 8) = 0

/-- What an instruction must do before its own access: nothing, or perform the unit's buffered stores. -/
def State.Drains (s : State) (unit : Nat) (need : Bool) (t : State) : Prop :=
  if need then s.drain unit = .ok t else t = s

/-- The bytes a unit reads, with those of its own buffered stores in place of what memory holds (R135). -/
def State.forwarded (s : State) (unit : Nat) (keys : List Nat) (bs : List Byte) : List Byte :=
  (keys.zip bs).map fun p => (forwardByte unit p.1 s.fab.sbuf).getD p.2

/-- A unit's frame counter has taken an addition (R232): frame 0 has none; another one's JN is changed at its home, and its waiters are
woken. -/
def State.Counted (s : State) (i : Instr) (r : SlotRef) (u : Ctx) (frame add : Word) (t : State) : Prop :=
  if frame = 0 then t = s
  else ∃ k keys y old, s.jnCheck (envOf i r u) u.begun frame true = .ok (k :: keys) ∧
    s.performAtHome (s.who r.core u) (k :: keys) true
      (fun b => some (bytesOfNat (BitVec.ofNat 64 (natOfBytes b) + add).toNat 8)) = .ok y old ∧
    t = y.wakeCounter k (BitVec.ofNat 64 (natOfBytes old) + add).toNat

/-! ## A request that the mailbox takes at once (R401, R402) -/

/-- The channel of a request is idle, the request is not a repetition, and no command is at work; the payload, with what the host has
written, holds the quads of the request and zeros behind them. -/
structure State.Takes (s : State) (cmd : Cmd) : Prop where
  power : s.firm.power = .running
  port  : cmd.ch < 8
  idle  : (s.chan cmd.ch).busy = false
  fresh : ¬ ((s.chan cmd.ch).seen = true ∧ cmd.seq = (s.chan cmd.ch).doneSeq)
  free  : ∀ e ∈ s.firm.chans, e.2.work = none
  plain : cmd.high = 0
  holds : ∀ i, quad ((s.chan cmd.ch).written 0 cmd).request i = quad cmd.quads i

/-- The state in which firmware performs a request it has just accepted: BUSY is set, and the channel works on the request. -/
def State.accepted (s : State) (code : Nat) (cmd : Cmd) : State :=
  let c := (s.chan cmd.ch).written code cmd
  (s.setChan cmd.ch { c with busy := true, work := some ⟨code, c.request, cmd.seq, s.firm.accepts, s.commandTag code c.request, false,
    true⟩ }).modFirm fun f => { f with
    accepts := f.accepts + 1 }

/-- The memory of a state is canonical, as every step leaves it. -/
def State.memoryOk (s : State) : Prop := Memory.wf s.store.mem = true

end Sys2Proof.Machine

namespace Sys2Proof

/-- The scalar instructions of R103 to R116 that name a destination register. -/
def Instr.writesScalar (i : Instr) : Bool :=
  match i with
  | .add _ | .sub _ | .mul _ | .mulh _ | .mulhn _ | .div _ | .divn _ | .rem _ | .remn _ | .andR _ | .orR _ | .xorR _ | .andn _
  | .orn _ | .clmul _ | .clmulh _ | .shl _ | .shr _ | .sar _ | .rol _ | .ror _ | .minR _ | .maxR _ | .minn _ | .maxn _ | .clz _
  | .ctz _ | .popc _ | .bswap _ | .bfx _ | .bfxs _ | .bfi _ | .sel _ | .addImm _ | .mulImm _ | .andImm _ | .orImm _ | .xorImm _
  | .shlImm _ | .shrImm _ | .sarImm _ | .rolImm _ | .rorImm _ | .li _ | .lea _ | .cvta _ | .tsta _ | .georng _ => true
  | _ => false

end Sys2Proof
end

