-- ==== Sys2Proof/WellFormed.lean ====
section
/-!
DEFINITION. The steps the spec gives a form. An instruction is well-formed in a partition when some words spell it (R72 to
R77) and its fields pass steps 4 and 5 of R93; an event or a command when what it names exists: a core or a tile of the
package (R11, R12), a bank (R246), a port (R408, R410), a link (R412), a mailbox channel and its 1,792-byte payload (R400).
-/
namespace Sys2Proof

def coreExists (n : Nat) : Bool := decide (n < Config.cores)
def tileExists (n : Nat) : Bool := decide (n < Config.tiles)
/-- A line of global addresses (R21). -/
def lineExists (n : Nat) : Bool := decide (n < 2 ^ 49)
/-- A mailbox command: one of the eight channels, and a payload that fits (R400). -/
def Cmd.fits (c : Cmd) : Bool := decide (c.ch < 8) && decide (c.quads.length ≤ 224)

/-- The place of a soft error exists (R387). -/
def Storage.exists_ : Storage → Bool
  | .scratchWord tile word => tileExists tile && decide (word < 2 ^ 17)
  | .l2Line line word | .dramLine line word => lineExists line && decide (word < 16)
  | .l1Line tile line | .icacheLine tile line => tileExists tile && lineExists line
  | .plane core _ => coreExists core && decide (core % 3 = 2)
  | .scalar _ reg => decide (reg < 128)
  | .row _ reg => decide (reg < 64)
  | .spillImage _ | .swapImage _ => true
  | .descBlock word => decide (word < 2 ^ 13)

/-- A request of a device: a requester ID of 16 bits, one of the two host ports, and bytes written or asked for (R378, R408). -/
def InboundReq.fits (r : InboundReq) : Bool :=
  decide (r.requester < 2 ^ 16) && decide (r.port < 2) && (match r.write with
    | some bs => decide (bs ≠ []) && decide (r.len = bs.length)
    | none => decide (0 < r.len))

/-- A request of a peer package (R243, R275): one of the 64 packages, and an object of whole bytes. -/
def PeerReq.fits (r : PeerReq) : Bool :=
  decide (r.pkg < 64) && (match r.op with
    | .read n => decide (0 < n)
    | .write bs => decide (bs ≠ [])
    | .amo fn _ _ _ => decide (fn ≤ 14))

/-- A well-formed step for a tile in partition `p`. -/
def Instr.wellFormed (p : Part) (i : Instr) : Bool :=
  match i.codeOf with
  | some _ => i.encodable && decide (checkFields p i = .ok)
  | none =>
    match i with
    | .barrelIssue c | .storeBufferEntryPerformed c | .semPostPerformed c => coreExists c
    | .mmacWrite c | .planeLoadComplete c | .mwswTakesEffect c | .ssmChunkCommit c => coreExists c && decide (c % 3 = 2)
    | .migrationQueueGrant t => tileExists t
    | .icacheFill f => lineExists f.line && f.tiles.all tileExists
    | .l1WriteBack o l => (tileExists o || (decide (10000 ≤ o) && decide (o < 10160))) && lineExists l
    | .retentionEntry b => decide (b < 16 * Config.tiles)
    | .softError e => e.place.exists_ && decide (0 < e.bits)
    | .inboundRequest r => r.fits
    | .cxlPortDown n | .cxlPortRetrained n => decide (n < 8)
    | .hostLinkDown n => decide (n < 2)
    | .thermalSample ts => decide (ts.length = 64)
    | .carrLinkRequest r => r.fits
    | .extentEviction d => decide (d < 4)
    | .commandComplete ch => decide (ch < 8)
    | .ident c | .resync c | .tenantOpen c | .tenantClose c | .grantRange c | .revoke c | .moduleSubmit c | .jobOpen c
    | .jobClose c | .launch c | .cancelCmd c | .quiesce c | .attest c | .rekey c | .compact c | .inboundOpen c | .logRead c
    | .partReset c | .maintMode c => c.fits
    | .unknownCmd code c => c.fits && decide (code < 2 ^ 16) && (code == 0 || decide (0x13 < code))
    | _ => true

end Sys2Proof
end

