-- ==== Sys2Proof/Certificates/Slice0/Obligations.lean ====
section
/-!
DEFINITION. The statements for the provers. `Issues s i r u` (Sys2Proof/Safety.lean) says that the unit `u` of slot `r` issues `i`
and that nothing stops it before its own effect; `s.completes i r u v` is the state in which it has completed with the
context `v`, the slot still in the rotation and its PC at the next instruction.
-/

open Sys2Proof Sys2Proof.Machine

/-! ## Scalar instructions -/

/-- R103: what each register-register instruction writes into sA from a = sB and b = sC. -/
def Obligations.ScalarRegisterResults : Prop :=
  ∀ (s : State) (r : SlotRef) (u : Ctx) (f : Fields),
    let a := u.reg f.b.toNat
    let b := u.reg f.c.toNat
    let n := b.toNat % 64
    let writes (i : Instr) (v : Word) : Prop :=
      Issues s i r u → exec i s = .next (s.completes i r u (u.begun.setReg f.a.toNat v))
    writes (.mulh f) (BitVec.ofInt 64 (a.toInt * b.toInt / 2 ^ 64)) ∧
    writes (.mulhn f) (BitVec.ofNat 64 (a.toNat * b.toNat / 2 ^ 64)) ∧
    writes (.div f) (if b = 0 then BitVec.allOnes 64 else BitVec.ofInt 64 (a.toInt.tdiv b.toInt)) ∧
    writes (.divn f) (if b = 0 then BitVec.allOnes 64 else BitVec.ofNat 64 (a.toNat / b.toNat)) ∧
    writes (.rem f) (if b = 0 then a else BitVec.ofInt 64 (a.toInt - a.toInt.tdiv b.toInt * b.toInt)) ∧
    writes (.remn f) (if b = 0 then a else BitVec.ofNat 64 (a.toNat - a.toNat / b.toNat * b.toNat)) ∧
    writes (.andR f) (a &&& b) ∧ writes (.orR f) (a ||| b) ∧ writes (.xorR f) (a ^^^ b) ∧
    writes (.andn f) (a &&& ~~~b) ∧ writes (.orn f) (a ||| ~~~b) ∧
    writes (.clmul f) (BitVec.ofNat 64 (clMul a.toNat b.toNat 64)) ∧
    writes (.clmulh f) (BitVec.ofNat 64 (clMul a.toNat b.toNat 64 / 2 ^ 64)) ∧
    writes (.shl f) (BitVec.ofNat 64 (a.toNat * 2 ^ n)) ∧
    writes (.shr f) (BitVec.ofNat 64 (a.toNat / 2 ^ n)) ∧
    writes (.sar f) (BitVec.ofInt 64 (a.toInt / 2 ^ n)) ∧
    writes (.rol f) (a.rotateLeft n) ∧ writes (.ror f) (a.rotateRight n) ∧
    writes (.minR f) (if a.toInt ≤ b.toInt then a else b) ∧
    writes (.maxR f) (if a.toInt ≤ b.toInt then b else a) ∧
    writes (.minn f) (if a.toNat ≤ b.toNat then a else b) ∧
    writes (.maxn f) (if a.toNat ≤ b.toNat then b else a)

/-- R103, R105, R106, R109, R110: the instructions with one source, the bit fields, `li`, `lea` and `sel`. A `mov` here has a
source that is not pending.

R103: the immediate majors. The logic immediates are signed; the shift distances are unsigned, from 0 to 63. -/
def Obligations.ScalarUnaryAndImmediateResults : Prop :=
  (∀ (s : State) (r : SlotRef) (u : Ctx) (f : Fields),
    let a := u.reg f.b.toNat
    let pos := f.c.toNat
    let len := f.d.toNat
    let writes (i : Instr) (v : Word) : Prop :=
      Issues s i r u → exec i s = .next (s.completes i r u (u.begun.setReg f.a.toNat v))
    writes (.clz f) (BitVec.ofNat 64 (clzNat a.toNat 64)) ∧
    writes (.ctz f) (BitVec.ofNat 64 (ctzNat a.toNat 64)) ∧
    writes (.popc f) (BitVec.ofNat 64 (popcNat a.toNat 64)) ∧
    writes (.bswap f) (BitVec.ofNat 64 (natOfBytes (bytesOfNat a.toNat 8).reverse)) ∧
    (u.pend.contains f.b.toNat = false → writes (.mov f) a) ∧
    writes (.bfx f) (BitVec.ofNat 64 (a.toNat / 2 ^ pos % 2 ^ len)) ∧
    writes (.bfxs f) (BitVec.ofInt 64 (signed (a.toNat / 2 ^ pos % 2 ^ len) len)) ∧
    writes (.bfi f) (statField (u.reg f.a.toNat) pos len a.toNat) ∧
    writes (.li f) (immSigned f) ∧
    writes (.lea f) (u.reg f.b.toNat + (if f.form.isExt && f.c != 0xFF then u.reg f.c.toNat <<< f.fn.toNat else 0) +
      (if f.form.hasLit then f.lit else immSigned f)) ∧
    writes (.sel f) (if u.guardOf f.b.toNat then u.reg f.c.toNat else u.reg f.d.toNat)) ∧
  (∀ (s : State) (r : SlotRef) (u : Ctx) (f : Fields),
    let a := u.reg f.b.toNat
    let n := (immUnsigned f).toNat
    let writes (i : Instr) (v : Word) : Prop :=
      Issues s i r u → exec i s = .next (s.completes i r u (u.begun.setReg f.a.toNat v)) ∧ n ≤ 63
    let writesI (i : Instr) (v : Word) : Prop :=
      Issues s i r u → exec i s = .next (s.completes i r u (u.begun.setReg f.a.toNat v))
    writesI (.andImm f) (a &&& immSigned f) ∧ writesI (.orImm f) (a ||| immSigned f) ∧
    writesI (.xorImm f) (a ^^^ immSigned f) ∧
    writes (.shlImm f) (BitVec.ofNat 64 (a.toNat * 2 ^ n)) ∧
    writes (.shrImm f) (BitVec.ofNat 64 (a.toNat / 2 ^ n)) ∧
    writes (.sarImm f) (BitVec.ofInt 64 (a.toInt / 2 ^ n)) ∧
    writes (.rolImm f) (a.rotateLeft n) ∧ writes (.rorImm f) (a.rotateRight n))

/-- R104: the typed forms of `add`, `sub` and `mul`, and R103 for TY 0. With t the exact result of the operands' low w bits,
read as the type reads them, and c its value clamped to the type's range under SAT, sA takes the low w bits of c, extended
as the type extends them, and SAT is set exactly when the clamp changed t. The extended forms accept TY 0, 1 to 4 and 17 to 20, and SAT only when TY is not 0,
with every scalar that the partition has (R17, R19). -/
def Obligations.TypedArithmeticResults : Prop :=
  ∀ (s : State) (r : SlotRef) (u : Ctx) (f : Fields),
    let x := u.reg f.b.toNat
    let ty := f.ty.toNat
    let w := laneWidth (ty % 16)
    let narrow (v : Word) : Int := if ty ≤ 4 then signed (v.toNat % 2 ^ w) w else ((v.toNat % 2 ^ w : Nat) : Int)
    let widen (c : Int) : Word := if ty ≤ 4 then BitVec.ofInt 64 (signed (lowBits c w) w) else BitVec.ofNat 64 (lowBits c w)
    let runs (i : Instr) (op : Int → Int → Int) (y : Word) : Prop :=
      Issues s i r u →
        let t := op (narrow x) (narrow y)
        let c := if f.sat then max (intLo ty) (min (intHi ty) t) else t
        exec i s = .next (s.completes i r u
          (if ty = 0 then u.begun.setReg f.a.toNat (BitVec.ofInt 64 (op x.toInt y.toInt))
           else (u.begun.setReg f.a.toNat (widen c)).setFlags (if c = t then 0 else flSAT)))
    runs (.add f) (· + ·) (u.reg f.c.toNat) ∧ runs (.sub f) (· - ·) (u.reg f.c.toNat) ∧
    runs (.mul f) (· * ·) (u.reg f.c.toNat) ∧ runs (.addImm f) (· + ·) (immSigned f) ∧
    runs (.mulImm f) (· * ·) (immSigned f) ∧
    (∀ p, ∀ i ∈ [Instr.add f, .sub f, .mul f, .addImm f, .mulImm f], checkFields p i = .ok →
      (ty ≤ 4 ∨ 17 ≤ ty ∧ ty ≤ 20) ∧ (f.sat = true → ty ≠ 0)) ∧
    (∀ (p : Part) (a b c : BitVec 8) (y : BitVec 5) (sat : Bool), a.toNat < p.scalars → b.toNat < p.scalars → c.toNat < p.scalars →
      (y.toNat ≤ 4 ∨ 17 ≤ y.toNat ∧ y.toNat ≤ 20) → (sat = true → y ≠ 0) →
      let e : Fields := { Fields.zero with form := .ext, a := a, b := b, c := c, ty := y, sat := sat }
      let n : Fields := { e with c := 0, imm := c.setWidth 22 }
      ∀ i ∈ [Instr.add e, .sub e, .mul e, .addImm n, .mulImm n], checkFields p i = .ok)

/-- R107, R108: the instructions that write one guard, and the operands `gop` accepts. -/
def Obligations.GuardResults : Prop :=
  ∀ (s : State) (r : SlotRef) (u : Ctx) (f : Fields),
    let a := u.reg f.b.toNat
    let b := u.reg f.c.toNat
    let cond (c : Word) : Bool := [a == c, a != c, decide (a.toInt < c.toInt), decide (a.toInt ≤ c.toInt),
      decide (c.toInt < a.toInt), decide (c.toInt ≤ a.toInt), decide (a.toNat < c.toNat), decide (a.toNat ≤ c.toNat),
      decide (c.toNat < a.toNat), decide (c.toNat ≤ a.toNat)].getD f.fn.toNat false
    let g := u.guardOf f.b.toNat
    let h := u.guardOf f.c.toNat
    let writes (i : Instr) (v : Bool) : Prop :=
      Issues s i r u → exec i s = .next (s.completes i r u (u.begun.setGuard f.a.toNat v))
    writes (.cmp f) (cond b) ∧ writes (.cmpImm f) (cond (immSigned f)) ∧ writes (.tstZ f) (a &&& b == 0) ∧
    writes (.tstNz f) (a &&& b != 0) ∧
    writes (.gop f) ([g && h, g || h, g != h, g && !h, g || !h, !g, true, false].getD f.fn.toNat false) ∧
    (∀ p, checkFields p (.gop f) = .ok → 1 ≤ f.a.toNat ∧ f.a.toNat ≤ 7 ∧ f.b.toNat ≤ 7 ∧ f.c.toNat ≤ 7 ∧ f.fn.toNat ≤ 7 ∧
      (f.fn = 5 → f.c = 0) ∧ (f.fn = 6 ∨ f.fn = 7 → f.b = 0 ∧ f.c = 0))

/-- R112, R113, R116: `tsta`, `cvta` and `georng`, by the aperture code of R111 and the unit's geometry. -/
def Obligations.AddressAndGeometryResults : Prop :=
  ∀ (s : State) (r : SlotRef) (u : Ctx) (f : Fields),
    let a := u.reg f.b.toNat
    let code := s.apertureOf u (tileOf r.core) a
    let own := u.ly % 4 * 8 + u.lx % 8
    let off := (a.extractLsb' 0 20).toNat
    let index := (a.extractLsb' 20 5).toNat
    let writes (i : Instr) (v : Word) : Prop :=
      Issues s i r u → exec i s = .next (s.completes i r u (u.begun.setReg f.a.toNat v))
    writes (.tsta f) (BitVec.ofNat 64 (code + (if code = 0 then 16 * (a.extractLsb' 54 2).toNat else 0))) ∧
    writes (.cvta f) (
      if f.fn = 0 then (if code = 0 then a else BitVec.allOnes 64)
      else if f.fn = 1 then
        (if code = 1 then a else if code = 2 ∧ index = own then BitVec.ofNat 64 (0xF0 * 2 ^ 56 + off)
         else BitVec.allOnes 64)
      else
        (if code = 2 then a else if code = 1 then BitVec.ofNat 64 (0xF1 * 2 ^ 56 + own * 2 ^ 20 + off)
         else BitVec.allOnes 64)) ∧
    (∀ l, s.launch u.launchId = some l →
      writes (.georng f) (georngValue u l.desc.nx l.desc.ny a (u.reg f.c.toNat)))

/-- R61: `mov` of a pending register moves its token: the destination becomes pending on the same operation, and the source is
no longer pending and reads 0. -/
def Obligations.MovMovesPendingToken : Prop :=
  ∀ (s : State) (r : SlotRef) (u : Ctx) (f : Fields),
    Issues s (.mov f) r u → FMap.wf 0 u.regs = true → u.pend.contains f.b.toNat = true → f.a ≠ f.b →
    ∃ t v, exec (.mov f) s = .next t ∧ t.unitAt r = some v ∧ v.pend.contains f.a.toNat = true ∧
      v.pend.contains f.b.toNat = false ∧ v.reg f.b.toNat = 0 ∧ v.pc = npcOf (.mov f) u ∧
      t.work.ops = s.work.ops.map (fun o =>
        if o.unit = u.key ∧ o.token = f.b.toNat ∧ ¬ o.dead then { o with token := f.a.toNat } else o)

/-- R102, R103, the frame of the scalar instructions: one scalar of the issuing unit with its poison mark, its PC and, for the typed
forms, the SAT flag are all that changes of the unit; every other scalar, guard, mask, row, bound, special register and flag of it
stays. Of the machine nothing changes but that slot: every other slot, tile and core, every byte of memory, and what stores, engines and
firmware hold stay as they were. -/
def Obligations.ScalarInstructionsChangeOneRegister : Prop :=
  ∀ (i : Instr) (s : State) (r : SlotRef) (u : Ctx), i.writesScalar = true → Issues s i r u →
    ∃ t v, exec i s = .next t ∧ t.slotAt r.key = { s.slotAt r.key with unit := some v } ∧
      v = { u.begun with regs := v.regs, pois := NSet.erase u.pois i.fields.a.toNat, pc := npcOf i u, stat := v.stat } ∧
      (∀ n, n ≠ i.fields.a.toNat → v.reg n = u.reg n) ∧ v.stat ||| 32 = u.stat ||| 32 ∧
      (∀ k, k ≠ r.key → t.slotAt k = s.slotAt k) ∧ (∀ k, t.byteAt k = s.byteAt k) ∧
      t = { s.begun with fab := { s.fab with slots := t.fab.slots } }

/-! ## Control and system instructions -/

/-- R117: where each control transfer goes. A transfer that is not taken continues at the next instruction; `call` writes the
address of the next instruction into s31, after a register target is read. -/
def Obligations.ControlTransferTargets : Prop :=
  ∀ (s : State) (r : SlotRef) (u : Ctx) (f : Fields),
    let npc (i : Instr) := npcOf i u
    let target (w : Nat) : Word := u.pc + BitVec.ofInt 64 (4 * (BitVec.ofNat w f.imm.toNat).toInt)
    let reg : Word := BitVec.ofNat 64 ((u.reg f.b.toNat).toNat / 4 * 4)
    let count := u.reg f.a.toNat - 1
    let goes (i : Instr) (v : Ctx) (pc : Word) : Prop :=
      Issues s i r u → exec i s = .next (s.begun.putUnit r { v with pc := pc })
    goes (.br f) u.begun (target 22) ∧
    goes (.call f) (u.begun.setReg 31 (npc (.call f))) (target 22) ∧
    goes (.jmp f) u.begun reg ∧ goes (.ret f) u.begun reg ∧
    goes (.callReg f) (u.begun.setReg 31 (npc (.callReg f))) reg ∧
    goes (.bg f) u.begun (target 18) ∧
    goes (.loop f) (u.begun.setReg f.a.toNat count) (if count = 0 then npc (.loop f) else target 16)

/-- R94, R117: an instruction whose guards do not hold completes with no effect: only the PC moves on. A `bg` whose guard does not
hold continues at the next instruction so. -/
def Obligations.FalseGuardHasNoEffect : Prop :=
  ∀ (i : Instr) (s : State) (r : SlotRef) (u : Ctx), i.codeOf.isSome → s.issuing = some r → s.unitAt r = some u →
    kindLists (kindOf r.core) (opSpec i).ext = true → checkFields (s.partOf (tileOf r.core)) i = .ok →
    (guardHolds u i.fields.ga && guardHolds u i.fields.gb) = false →
    exec i s = .next (s.completes i r u u.begun)

/-- R119 to R121, R67, R70: where `nop`, `safe`, `yield`, `sleep` and `realign` complete at once. `safe` counts as a passed safe point
for every revocation.

R70, R120, R121: `sleep` and `realign` otherwise leave the rotation until an arrival or until t ck have passed; `sleep` with a
timeout of 0 waits for an arrival alone.

R119: `halt` retires a unit that has no store in its core's buffer (`State.retireUnit` returns its weight, releases its bindings, empties its
slot and counts it). In
context zero, while another slot of the core is occupied, `halt` has no effect. -/
def Obligations.ProgressAndHaltComplete : Prop :=
  (∀ (s : State) (r : SlotRef) (u : Ctx) (f : Fields),
    let done (i : Instr) (cond : Prop) : Prop := Issues s i r u → cond → exec i s = .next (s.completes i r u u.begun)
    done (.nop f) True ∧
    done (.safe f) (u.pend ≠ []) ∧
    (Issues s (.safe f) r u → u.pend = [] → u.purposes = [] → s.planeBusy u.key = false →
      ∃ t v, exec (.safe f) s = .next t ∧ t.unitAt r = some v ∧ v.pc = npcOf (.safe f) u ∧ v.regs = u.regs ∧
        (∀ x ∈ t.firm.revs, u.key ∉ x.units) ∧ t.store = s.store ∧ t.work = s.work) ∧
    done (.yield f) (u.pend ≠ [] ∨ ∀ l, s.launch u.launchId = some l → ∀ p ∈ l.queue, p.slot ≠ none) ∧
    done (.sleep f) (u.arrival = true) ∧
    done (.realign f) ((immUnsigned f).toNat = 0 ∨ s.laggards r u.pc = [])) ∧
  (∀ (s : State) (r : SlotRef) (u : Ctx) (f : Fields),
    let t := (immUnsigned f).toNat
    (Issues s (.sleep f) r u → u.arrival = false →
      ∃ x, exec (.sleep f) s = .next x ∧
        (x.slotAt r.key).mode = .waiting (.sleep (if t = 0 then none else some (s.ck + t)) (npcOf (.sleep f) u)) s.ck ∧
        (t ≠ 0 → (s.ck + t, Instr.sleepTimeout) ∈ x.agenda)) ∧
    (Issues s (.realign f) r u → t ≠ 0 → s.laggards r u.pc ≠ [] →
      ∃ x, exec (.realign f) s = .next x ∧
        (x.slotAt r.key).mode = .waiting (.realign (s.ck + t) (s.laggards r u.pc) (npcOf (.realign f) u)) s.ck ∧
        (s.ck + t, Instr.realignTimeout) ∈ x.agenda)) ∧
  (∀ (s : State) (r : SlotRef) (u : Ctx) (f : Fields), Issues s (.halt f) r u → (∀ e ∈ s.fab.sbuf, e.who.unit ≠ u.key) →
    (¬ (r.slot = 0 ∧ s.othersOccupied r.core) → exec (.halt f) s = .next (s.begun.retireUnit r.key u.begun .none)) ∧
    (r.slot = 0 ∧ s.othersOccupied r.core → exec (.halt f) s = .next (s.completes (.halt f) r u u.begun)))

/-- R122, R123, R25, R328: what `rdsr` reads from every special register. -/
def Obligations.RdsrReadsEveryRegister : Prop :=
  ∀ (s : State) (r : SlotRef) (u : Ctx) (f : Fields), Issues s (.rdsr f) r u →
    let tile := tileOf r.core
    let x := tile % 128
    let y := tile / 128
    let reads (v : Word) : Prop := exec (.rdsr f) s = .next (s.completes (.rdsr f) r u (u.begun.setReg f.a.toNat v))
    match f.b.toNat with
    | 0 => reads u.geo
    | 1 => reads (u.uid.setWidth 64)
    | 2 => reads (BitVec.ofNat 64 (r.slot + (match s.partOf tile with
        | .p16 => 0
        | .p8 => 16
        | .p4 => 32)))
    | 3 => reads (BitVec.ofNat 64 (r.core % 3))
    | 4 => reads (BitVec.ofNat 64 (x + 2 ^ 8 * y + 2 ^ 16 * (y / 20 * 2 + x / 64) + 2 ^ 18 * (y % 20 / 4 * 8 + x % 64 / 8) +
        2 ^ 24 * (y % 4 * 8 + x % 8)))
    | 5 => reads (BitVec.ofNat 64 u.tag)
    | 6 => reads (BitVec.ofNat 64 u.pid)
    | 7 => reads (BitVec.ofNat 64 s.ck)
    | 8 => reads (s.tvecOf r.core)
    | 9 => reads u.trec
    | 10 => reads 0x13F
    | 11 => reads (if s.firm.maint then 1 else 0)
    | 12 => reads (match s.tenant u.tag with
        | some t => t.bgen.setWidth 64
        | none => 0)
    | 13 => reads u.stat
    | _ => False

/-- R122, R123, R328: `wrsr` writes the writable fields of `stat` from any slot, and `tvec` from context zero when the new area
lies in one range of the tenant's reach set with both rights; an area that does not raises an aperture trap and leaves `tvec`
unchanged; every other register raises an illegal-instruction trap. -/
def Obligations.WrsrWritesOnlyWhatItMay : Prop :=
  ∀ (s : State) (r : SlotRef) (u : Ctx) (f : Fields), Issues s (.wrsr f) r u →
    let v := u.reg f.b.toNat
    let base : Word := BitVec.ofNat 64 (v.toNat / 4096 * 4096)
    let inRange : Prop := ∃ t, s.tenant u.tag = some t ∧ ∃ g ∈ t.reach,
      g.base ≤ base.toNat ∧ base.toNat + 4096 ≤ g.limit ∧ g.rd = true ∧ g.wr = true
    (f.a = 13 → ∃ w, exec (.wrsr f) s = .next (s.completes (.wrsr f) r u { u.begun with stat := w }) ∧
      (∀ n, w.getLsbD n = if n ∈ [0, 1, 2, 3, 4, 5, 8, 9, 10, 11, 24] then v.getLsbD n else u.stat.getLsbD n)) ∧
    (f.a = 8 → r.slot = 0 → inRange →
      exec (.wrsr f) s = .next ((s.begun.modFab fun m => { m with tvec := FMap.set 0 m.tvec r.core base }).putUnit r
        { u.begun with pc := npcOf (.wrsr f) u })) ∧
    (f.a = 8 → r.slot = 0 → ¬ inRange →
      exec (.wrsr f) s = .next (s.begun.takeTrap r u.begun ⟨{ cause := 7, addr := base, aux := 4096 }, u.pc, u.pc⟩)) ∧
    ((f.a ≠ 13 ∧ f.a ≠ 8 ∨ f.a = 8 ∧ r.slot ≠ 0) → ∃ aux,
      exec (.wrsr f) s = .next (s.begun.takeTrap r u.begun ⟨{ cause := 1, aux := aux }, u.pc, u.pc⟩))

/-- R124: `trap` and `brk` take their trap with the code, the PC of the instruction and the next instruction as the resume
PC.

R126, R127: `chk` passes an access that lies within the bound register, computed exactly, and raises a range-check trap at itself
for any other. -/
def Obligations.ProgramTrapsAndChk : Prop :=
  (∀ (s : State) (r : SlotRef) (u : Ctx) (f : Fields),
    (Issues s (.trap f) r u → exec (.trap f) s = .next (s.begun.takeTrap r u.begun
      ⟨{ cause := 18, code := f.imm.toNat }, u.pc, npcOf (.trap f) u⟩)) ∧
    (Issues s (.brk f) r u → exec (.brk f) s = .next (s.begun.takeTrap r u.begun
      ⟨{ cause := 16, code := f.imm.toNat }, u.pc, npcOf (.brk f) u⟩))) ∧
  (∀ (s : State) (r : SlotRef) (u : Ctx) (f : Fields), Issues s (.chk f) r u →
    let a := u.reg f.b.toNat
    let n := f.imm.toNat
    let b := u.boundOf f.a.toNat
    (b.base.toNat ≤ a.toNat ∧ a.toNat + n ≤ b.limit.toNat → exec (.chk f) s = .next (s.completes (.chk f) r u u.begun)) ∧
    (¬ (b.base.toNat ≤ a.toNat ∧ a.toNat + n ≤ b.limit.toNat) →
      exec (.chk f) s = .next (s.begun.takeTrap r u.begun
        ⟨{ cause := 6, addr := a, aux := BitVec.ofNat 64 (f.a.toNat + n * 2 ^ 16) }, u.pc, u.pc⟩)))

/-- R330, R333: taking a parking trap in a slot other than context zero, while context zero has not been swapped out: the slot is
parked with its PC the resume PC, `trec` names the record at BASE + 256 × slot, SEQ counts it, and a message of class 7 with the
record's address stands last in the core's store. The message sets the arrival bit of context zero and ends its `sleep` (R70); no
register of any other unit, no other slot than context zero's and no other core's messages change.

R337: a parking trap of context zero halts its tenant's partition and is logged as TYPE 8 at the record area's base.
That SEQ already counts this record is the model's reading (log entry 11). -/
def Obligations.TakingATrapParksOrEscalates : Prop :=
  (∀ (s : State) (r : SlotRef) (u : Ctx) (t : TrapAt), r.slot ≠ 0 → r.slot < 16 → s.zeroTaken r.core = false →
    let addr := s.tvecOf r.core + BitVec.ofNat 64 (256 * r.slot)
    let x := s.takeTrap r u t
    ∃ v, x.unitAt r = some v ∧ (x.slotAt r.key).mode = .parked (.trap t.rpc) ∧ v.pc = t.rpc ∧ v.trec = addr ∧
      v.seq = u.seq + 1 ∧ x.lostOf r = s.lostOf r ∧ v.regs = u.regs ∧ v.rows = u.rows ∧ v.pend = u.pend ∧
      (∃ m ms, x.msgsOf r.core = ms ++ [m] ∧ m.cls = 7 ∧ m.uid = u.uid ∧ m.payload.take 8 = bytesOfNat addr.toNat 8) ∧
      (∀ c, c ≠ r.core → x.msgsOf c = s.msgsOf c) ∧
      (FMap.wf Slot.empty s.fab.slots = true →
        (∀ k, k ≠ r.key → (x.slotAt k).unit.map (·.regs) = (s.slotAt k).unit.map (·.regs)) ∧
        (∀ z, (s.slotAt (16 * r.core)).unit = some z → z.key ≠ u.key →
          (∀ k w, (s.slotAt k).unit = some w → w.key = z.key → k = 16 * r.core) →
          (∀ k, k ≠ r.key → k ≠ 16 * r.core → x.slotAt k = s.slotAt k) ∧
          (∃ y, (x.slotAt (16 * r.core)).unit = some y ∧ y.arrival = true ∧ { y with arrival := z.arrival, pc := z.pc } = z) ∧
          ((∀ due npc since, (s.slotAt (16 * r.core)).mode ≠ .waiting (.sleep due npc) since) →
            x.slotAt (16 * r.core) = { s.slotAt (16 * r.core) with unit := some { z with arrival := true } })) ∧
        ((s.slotAt (16 * r.core)).unit = none → ∀ k, k ≠ r.key → x.slotAt k = s.slotAt k)) ∧ x.ck = s.ck) ∧
  (∀ (s : State) (r : SlotRef) (u : Ctx) (t : TrapAt) (n : Tenant), r.slot = 0 → s.tenant u.tag = some n →
    let x := s.takeTrap r u t
    ∃ v e m, x.unitAt r = some v ∧ v.pc = t.rpc ∧ v.trec = s.tvecOf r.core ∧ x.tenant u.tag = some m ∧ m.halted = true ∧
      x.firm.log.getLast? = some e ∧ e.type = 8 ∧ e.addr = (s.tvecOf r.core).toNat)

/-- R93 steps 4 and 5: whatever the guards are, a field that the instruction does not accept raises an illegal-instruction trap, and an
ordering that it does not accept an illegal-ordering trap, at the instruction and with no effect of its own.

R61, R390: with its guards holding, an instruction with a pending destination raises a token-misuse trap that names it; one
that reads a pending register it waits on leaves the rotation until the token is written; one that reads a poisoned scalar raises
a poison trap.

R63: an instruction of an extension that its core does not list moves the unit before any effect: to the lowest empty slot of the
first usable core, in the order F, K, X, that lists it. The transfer ends 41 ck after the issue. -/
def Obligations.ChecksBeforeTheEffect : Prop :=
  (∀ (i : Instr) (s : State) (r : SlotRef) (u : Ctx), i.codeOf.isSome → s.issuing = some r → s.unitAt r = some u →
    kindLists (kindOf r.core) (opSpec i).ext = true →
    let trap (cause : Nat) : State := s.begun.takeTrap r u.begun ⟨{ cause := cause, aux := firstWord i }, u.pc, u.pc⟩
    (checkFields (s.partOf (tileOf r.core)) i = .illegal → exec i s = .next (trap 1)) ∧
    (checkFields (s.partOf (tileOf r.core)) i = .ordering → exec i s = .next (trap 2))) ∧
  (∀ (i : Instr) (s : State) (r : SlotRef) (u : Ctx), i.codeOf.isSome → s.issuing = some r → s.unitAt r = some u →
    kindLists (kindOf r.core) (opSpec i).ext = true → checkFields (s.partOf (tileOf r.core)) i = .ok →
    (guardHolds u i.fields.ga && guardHolds u i.fields.gb) = true →
    (∀ n, i.dests.find? (u.pend.contains ·) = some n →
      exec i s = .next (s.begun.takeTrap r u.begun ⟨{ cause := 13, aux := BitVec.ofNat 64 n }, u.pc, u.pc⟩)) ∧
    (i.dests.find? (u.pend.contains ·) = none → (opSpec i).allTokens = false →
      i.waitSources.filter (u.pend.contains ·) ≠ [] →
      exec i s = .next (s.begun.awaits i r u (.token (i.waitSources.filter (u.pend.contains ·))))) ∧
    (i.dests.find? (u.pend.contains ·) = none → i.waitSources.any (u.pend.contains ·) = false →
      ((opSpec i).allTokens && !u.pend.isEmpty) = false → i.sources.any (u.pois.contains ·) = true →
      exec i s = .next (s.begun.takeTrap r u.begun ⟨{ cause := 11, aux := 8 }, u.pc, u.pc⟩))) ∧
  (∀ (i : Instr) (s : State) (r : SlotRef) (u : Ctx) (c n : Nat), i.codeOf.isSome → s.issuing = some r → s.unitAt r = some u →
    kindLists (kindOf r.core) (opSpec i).ext = false → r.slot ≠ 0 →
    (s.usableCores r.core (opSpec i).ext).findSome? (fun c => (s.emptySlot c).map fun n => (c, n)) = some (c, n) →
    ∃ t, exec i s = .next t ∧ (t.slotAt (16 * c + n)).mode = .incoming r.key ∧
      (s.ck + 41, Instr.migrationTransferEnd u.key) ∈ t.agenda ∧ t.store = s.store ∧ t.work = s.work)

/-- R125, R136, R347: `tret` of context zero completes, and a slot that a delivered trap has parked is due to restart behind the cancels
of the ck; any other state of the named slot stays. From any other slot `tret` raises an illegal-instruction trap.

The restart makes the slot ready in the next ck, at the record's resume PC with its held stores entered again in order, or under FN 1
at sC with bits [1:0] cleared and its held stores discarded; the unit keeps its registers and pending tokens. Stores that are held
behind a trap which the unit has yet to take stay held under FN 0.
That `tret` leaves a slot alone which no delivered trap has parked is the model's reading (log entry 11). -/
def Obligations.TretResumesAParkedSlot : Prop :=
  ∀ (s : State) (r : SlotRef) (u : Ctx) (f : Fields),
    let k := 16 * r.core + f.b.toNat
    let back (i : Instr) (redirect : Option Word) : Prop := Issues s i r u → r.slot = 0 →
      (∀ rpc, (s.slotAt k).mode = .parked (.trap rpc) → exec i s = .next ((s.modWork fun w => { w with
        late := w.late ++ [.tret r.core f.b.toNat redirect] }).completes i r u u.begun)) ∧
      ((∀ rpc, (s.slotAt k).mode ≠ .parked (.trap rpc)) → exec i s = .next (s.completes i r u u.begun))
    let restarts (redirect : Option Word) : Prop := ∀ (t : State) (rpc : Word) (w : Ctx),
      (t.slotAt k).mode = .parked (.trap rpc) → (t.slotAt k).unit = some w →
        let x := t.actLate (.tret r.core f.b.toNat redirect)
        x.slotAt k = { t.slotAt k with
          mode := .ready (t.ck + 1)
          unit := some { w with pc := redirect.getD rpc, held := if redirect.isNone && w.trapsNext then w.held else [] } } ∧
        x.fab.sbuf = t.fab.sbuf ++ (if redirect.isNone && !w.trapsNext then w.held.map (·.moveTo r.core) else []) ∧
        (∀ n, n ≠ k → x.slotAt n = t.slotAt n) ∧ x.store = t.store
    let barred (i : Instr) : Prop := Issues s i r u → r.slot ≠ 0 →
      ∃ aux, exec i s = .next (s.begun.takeTrap r u.begun ⟨{ cause := 1, aux := aux }, u.pc, u.pc⟩)
    let goal : Word := BitVec.ofNat 64 ((u.reg f.c.toNat).toNat / 4 * 4)
    back (.tret f) none ∧ back (.tretRedirect f) (some goal) ∧ restarts none ∧ restarts (some goal) ∧
    barred (.tret f) ∧ barred (.tretRedirect f)

/-! ## Memory instructions -/

/-- R130 step 4, R133: reading scratchpad bytes that nothing delays gives the bytes that memory holds, and changes nothing but the
ck of the banks' last access.

R133, R253: a write of bytes to distinct scratchpad keys that nothing delays stores each byte at its key, and every other byte of
memory reads as before.

R142: a read-modify-write of scratchpad bytes that nothing delays answers the old bytes and stores what its function gives, or nothing;
every other byte reads as before. Each of the three is its banks' last access (R246), and changes nothing else the machine holds. -/
def Obligations.ScratchpadAccessesReadAndWrite : Prop :=
  let reached (s t : State) (keys : List Nat) : Prop := FMap.wf (.awake 0) s.store.banks = true → ∀ b,
    t.bankAt b = if b ∈ keys.map bankOf then .awake s.ck else s.bankAt b
  (∀ (s : State) (who : Who) (hint : Nat) (keys : List Nat), (∀ k ∈ keys, s.PlainKey k) →
    ∃ t, s.performRead who keys hint = .ok t (keys.map s.byteAt) ∧ (∀ k, t.byteAt k = s.byteAt k) ∧ reached s t keys ∧
      t = { s with store := { s.store with banks := t.store.banks } }) ∧
  (∀ (s : State) (who : Who) (hint : Nat) (keys : List Nat) (bs : List Byte), Memory.wf s.store.mem = true →
    (∀ k ∈ keys, s.PlainKey k) → keys.Nodup → keys.length = bs.length →
    ∃ t, s.performWrite who hint keys bs = .ok t [] ∧ keys.map t.byteAt = bs ∧
      (∀ k, k ∉ keys → t.byteAt k = s.byteAt k) ∧ Memory.wf t.store.mem = true ∧ reached s t keys ∧
      t = { s with store := { s.store with banks := t.store.banks, mem := t.store.mem } }) ∧
  (∀ (s : State) (who : Who) (keys : List Nat) (write : Bool) (g : List Byte → Option (List Byte)),
    Memory.wf s.store.mem = true → (∀ k ∈ keys, s.PlainKey k) → keys.Nodup →
    (∀ new, g (keys.map s.byteAt) = some new → keys.length = new.length) →
    ∃ t, s.performAtHome who keys write g = .ok t (keys.map s.byteAt) ∧
      keys.map t.byteAt = (g (keys.map s.byteAt)).getD (keys.map s.byteAt) ∧ (∀ k, k ∉ keys → t.byteAt k = s.byteAt k) ∧
      reached s t keys ∧ t = { s with store := { s.store with banks := t.store.banks, mem := t.store.mem } })

/-- R137, R139, R128: what each load writes. The bytes are those read at the effective address, with the unit's own buffered stores
forwarded; a load whose ordering or place asks for it has the unit's buffered stores performed first. The unit leaves the rotation until the reply; `bnd.ld` is
not watched.
That the bytes are read when the load issues is the model's reading (log entry 9). -/
def Obligations.LoadsReplyWithWhatTheyRead : Prop :=
  ∀ (s : State) (r : SlotRef) (u : Ctx) (f : Fields) (keys : List Nat) (x t : State) (bs : List Byte),
    let got := t.forwarded u.key keys bs
    let v := natOfBytes got
    let loads (i : Instr) (a : Word) (n : Nat) (ws : List RegWrite) (watch : Option Trap) : Prop :=
      Issues s i r u → scopeTrap u f = none → s.keysOf u (tileOf r.core) a n = some keys → keys.any isDevKey = false →
      s.begun.Drains u.key (s.loadDrains u f.ord.toNat keys) x → x.performRead (x.who r.core u) keys f.hint.toNat = .ok t bs →
      exec i s = .next (t.replies i r u ws watch)
    let scalar (i : Instr) (n : Nat) (w : Word) : Prop :=
      loads i (effAddr u f n) n [.scalar f.a.toNat w] (watchTrap u n [(0, effAddr u f n)])
    scalar (.ldI8 f) 1 (BitVec.ofInt 64 (signed v 8)) ∧ scalar (.ldN8 f) 1 (BitVec.ofNat 64 v) ∧
    scalar (.ldI16 f) 2 (BitVec.ofInt 64 (signed v 16)) ∧ scalar (.ldN16 f) 2 (BitVec.ofNat 64 v) ∧
    scalar (.ldI32 f) 4 (BitVec.ofInt 64 (signed v 32)) ∧ scalar (.ldN32 f) 4 (BitVec.ofNat 64 v) ∧
    scalar (.ldI64 f) 8 (BitVec.ofNat 64 v) ∧
    loads (.ldp f) (effAddr u f 16) 16
      [.scalar f.a.toNat (BitVec.ofNat 64 v), .scalar f.d.toNat (BitVec.ofNat 64 (v / 2 ^ 64))]
      (watchTrap u 16 [(0, effAddr u f 16)]) ∧
    loads (.bndLd f) (BitVec.ofNat 64 ((u.reg f.b.toNat).toNat / 16 * 16)) 16
      [.bound f.a.toNat ⟨BitVec.ofNat 64 v, BitVec.ofNat 64 (v / 2 ^ 64)⟩] none

/-- R59: a reply delivers its register writes, and the unit rejoins the rotation in the next ck at the next instruction; a watched
access then traps (R329). A slot of a halted partition is held as it stands (R337). -/
def Obligations.RepliesDeliverTheirWrites : Prop :=
  ∀ (s : State) (k : Nat) (sl : Slot) (u : Ctx) (rep : Reply) (since : Nat), s.findUnit u.key = some (k, sl, u) →
    s.slotAt k = sl → sl.mode = .waiting (.reply rep) since →
    (s.haltedTag u.tag = true → exec (.memoryReply u.key) s = .next s) ∧
    (s.haltedTag u.tag = false → rep.watch = none → ∃ t, exec (.memoryReply u.key) s = .next t ∧
      t.slotAt k = { sl with unit := some { u.applyReply rep with pc := rep.npc }, mode := .ready (s.ck + 1) } ∧
      t.store = s.store) ∧
    (∀ w, s.haltedTag u.tag = false → rep.watch = some w →
      exec (.memoryReply u.key) s = .next (s.takeTrap (refOfKey k) (u.applyReply rep) ⟨w, u.pc, rep.npc⟩))

/-- R135, R138, R139: a store whose checks pass enters the core's buffer with its keys and bytes, and completes; while the buffer holds
32 entries of the core it waits. No byte of memory changes until the entry is performed. A watched store traps after it.
That the entry holds the keys of its address is the model's reading (log entry 9). -/
def Obligations.StoresEnterTheBuffer : Prop :=
  ∀ (s : State) (r : SlotRef) (u : Ctx) (f : Fields) (keys : List Nat),
    let stores (i : Instr) (n : Nat) (bs : List Byte) : Prop :=
      let a := effAddr u f n
      let e : StoreEntry := ⟨s.serial, s.who r.core u, u.launchId, u.pc, n, none, f.hint.toNat, .bytes [⟨0, a, keys.zip bs⟩]⟩
      let t := s.numbered.enterBuffer e
      Issues s i r u → scopeTrap u f = none → s.keysOf u (tileOf r.core) a n = some keys → keys.any isDescKey = false →
      (s.buffered r.core < 32 → watchTrap u n [(0, a)] = none → exec i s = .next (t.completes i r u u.begun)) ∧
      (∀ w, s.buffered r.core < 32 → watchTrap u n [(0, a)] = some w →
        exec i s = .next (t.trapsAfter i r u u.begun w)) ∧
      (32 ≤ s.buffered r.core → exec i s = .next (s.begun.awaits i r u .bufferFull)) ∧
      (∀ k, t.byteAt k = s.byteAt k)
    let x := (u.reg f.a.toNat).toNat
    stores (.st8 f) 1 (bytesOfNat x 1) ∧ stores (.st16 f) 2 (bytesOfNat x 2) ∧ stores (.st32 f) 4 (bytesOfNat x 4) ∧
    stores (.st64 f) 8 (bytesOfNat x 8) ∧ stores (.stp f) 16 (bytesOfNat x 8 ++ bytesOfNat (u.reg f.d.toNat).toNat 8)

/-- R102, R135, the frame of the stores: the PC of the unit and the core's buffer, with the time at which the entry will be performed,
are all that changes. Every byte of memory, every register, flag and special register of the unit, every other slot, and what every other
part of the machine holds stay as they were; the bytes named by the entry are those of the effective address. -/
def Obligations.StoresChangeNoRegister : Prop :=
  ∀ (s : State) (r : SlotRef) (u : Ctx) (f : Fields) (keys : List Nat),
    let frame (i : Instr) (n : Nat) : Prop := Issues s i r u → scopeTrap u f = none →
      s.keysOf u (tileOf r.core) (effAddr u f n) n = some keys → keys.any isDescKey = false → s.buffered r.core < 32 →
      watchTrap u n [(0, effAddr u f n)] = none →
      ∃ t e p, exec i s = .next t ∧ t.unitAt r = some { u.begun with pc := npcOf i u } ∧
        (∀ k, k ≠ r.key → t.slotAt k = s.slotAt k) ∧ t.slotAt r.key = { s.slotAt r.key with unit := (t.slotAt r.key).unit } ∧
        t.fab = { s.fab with slots := t.fab.slots, sbuf := s.fab.sbuf ++ [e] } ∧
        e.kind = .bytes [p] ∧ p.cells.map (fun c => c.1) = keys ∧ e.who.unit = u.key ∧
        (∃ due, s.ck < due ∧ t = { s.numbered with fab := t.fab, agenda := s.agenda ++ [(due, e.event)], freeCtr := s.freeCtr + 1 })
    frame (.st8 f) 1 ∧ frame (.st16 f) 2 ∧ frame (.st32 f) 4 ∧ frame (.st64 f) 8 ∧ frame (.stp f) 16

/-- R130 steps 1 to 3: an access of a load or a store whose scope register is refused raises an illegal-scope trap; one that leaves its aperture
raises an aperture trap at its address with its size; a store to the description block raises an aperture trap. -/
def Obligations.AccessChecksTrapBeforeAnyEffect : Prop :=
  ∀ (s : State) (r : SlotRef) (u : Ctx) (f : Fields),
    let checked (i : Instr) (n : Nat) (write : Bool) : Prop :=
      let a := effAddr u f n
      let trap : State := s.begun.trapsAt r u { cause := 7, addr := a, aux := BitVec.ofNat 64 n }
      Issues s i r u →
      (∀ t, scopeTrap u f = some t → exec i s = .next (s.begun.trapsAt r u t)) ∧
      (scopeTrap u f = none → s.keysOf u (tileOf r.core) a n = none → exec i s = .next trap) ∧
      (∀ keys, scopeTrap u f = none → s.keysOf u (tileOf r.core) a n = some keys → write = true →
        keys.any isDescKey = true → exec i s = .next trap)
    checked (.ldI8 f) 1 false ∧ checked (.ldN8 f) 1 false ∧ checked (.ldI16 f) 2 false ∧ checked (.ldN16 f) 2 false ∧
    checked (.ldI32 f) 4 false ∧ checked (.ldN32 f) 4 false ∧ checked (.ldI64 f) 8 false ∧ checked (.ldp f) 16 false ∧
    checked (.st8 f) 1 true ∧ checked (.st16 f) 2 true ∧ checked (.st32 f) 4 true ∧ checked (.st64 f) 8 true ∧
    checked (.stp f) 16 true

/-- R135, R136, R155, R142, R156: the first entry of a core's buffer, of a unit with no earlier one, is performed where nothing delays it,
whatever other entries stand before and behind it. A store's bytes are written, lane by lane; an atomic writes what its function gives from
the old bytes, and a counter addition the sum, held at 2^64 - 1. Every other byte reads as before, and the entry alone leaves the buffer. A
posted semaphore count rises by one, held at 2^32 - 1, while no unit waits for it. -/
def Obligations.BufferedEntriesArePerformed : Prop :=
  ∀ (s : State) (c : Nat) (e : StoreEntry) (before after : List StoreEntry), Memory.wf s.store.mem = true →
    s.fab.sbuf = before ++ e :: after → e.who.core = c → (∀ x ∈ before, x.who.core ≠ c ∧ x.who.unit ≠ e.who.unit) →
    let gives (keys : List Nat) (new : List Byte) : Prop := (∀ k ∈ keys, s.PlainKey k) → keys.Nodup →
      ∃ t, exec (.storeBufferEntryPerformed c) s = .next t ∧ keys.map t.byteAt = new ∧
        (∀ k, k ∉ keys → t.byteAt k = s.byteAt k) ∧ t.fab.sbuf = before ++ after ∧ t.work = s.work ∧ t.ck = s.ck
    let old (keys : List Nat) : Nat := natOfBytes (keys.map s.byteAt)
    (∀ ps, e.kind = .bytes ps → gives (ps.flatMap fun p => p.cells.map (·.1)) (ps.flatMap fun p => p.cells.map (·.2))) ∧
    (∀ fn ty a keys x y, e.kind = .amo fn ty a keys x y → gives keys (match (amoEffect fn ty 0 (old keys) x y).1 with
      | some v => bytesOfNat v keys.length
      | none => keys.map s.byteAt)) ∧
    (∀ a keys (x : Word), e.kind = .cntAdd a keys x → keys.length = 8 →
      gives keys (bytesOfNat (min (old keys + x.toNat) (2 ^ 64 - 1)) 8)) ∧
    (∀ n, e.kind = .sem n → s.oldestWaiter (fun k w => decide (tileOf (k / 16) = e.who.tile) && (match w with
        | .sem m _ => decide (m = n)
        | _ => false)) = none → FMap.wf 0 s.fab.sems = true →
      ∃ t, exec (.semPostPerformed c) s = .next t ∧ t.fab.sbuf = before ++ after ∧ t.store = s.store ∧
        t.semAt e.who.tile n = (if s.semAt e.who.tile n = BitVec.allOnes 32 then BitVec.allOnes 32
          else s.semAt e.who.tile n + 1))

/-- R140, R141: `pf` completes and changes no register; `cln` and `inv` of a scratchpad line reply with nothing to write, and of
a line of global memory after the unit's buffered stores. The dirty bytes of the unit's L1 go to the line's home, which leaves a clean
copy under `cln` and none under `inv`; at a scope that reaches the host or a peer the L2's go to backing memory, and `inv` discards the
L2's copy.
That a clean copy holds what its home holds, and that a prefetch waits for nothing, is the model's reading (log entries 57 and 58). -/
def Obligations.PrefetchCleanAndInvalidateComplete : Prop :=
  ∀ (s : State) (r : SlotRef) (u : Ctx) (f : Fields),
    (Issues s (.pf f) r u → s.keyOf u (tileOf r.core) (effAddr u f 1) = none →
      exec (.pf f) s = .next (s.completes (.pf f) r u u.begun)) ∧
    (Issues s (.pf f) r u → ∃ t v, exec (.pf f) s = .next t ∧ t.unitAt r = some v ∧ v.pc = npcOf (.pf f) u ∧
      v.regs = u.regs ∧ v.rows = u.rows ∧ v.stat = u.stat) ∧
    (let a := BitVec.ofNat 64 ((u.reg f.b.toNat + dispBytes f 1).toNat / 128 * 128)
     let clean (i : Instr) (discard : Bool) : Prop := ∀ keys k, Issues s i r u → scopeTrap u f = none →
       s.keysOf u (tileOf r.core) a 128 = some (k :: keys) →
       let line := k / 128
       (isGlobalKey k = false → exec i s = .next (s.begun.replies i r u [] none)) ∧
       (∀ x y v, isGlobalKey k = true → isDevKey k = false → (s.extentAt (extentOf k)).state = .present →
         s.begun.drain u.key = .ok x →
         let own := x.l1Copy (x.l1Of (tileOf r.core) line) line
         let awake : Prop := x.waysAll (x.reachedWay (x.who r.core u).tag line 0).toList = .ok y v
         (own = none → scopeWide u f = false → exec i s = .next (x.replies i r u [] none)) ∧
         (∀ l, own = some l → l.dirty ≠ [] → scopeWide u f = false → awake →
           exec i s = .next ((if discard then y.evictCopy l else y.cleanCopy line).replies i r u [] none)) ∧
         (own = none → (x.l2Line line).isSome → scopeWide u f = true → awake →
           exec i s = .next ((if discard then y.l2Evict line else y.l2Clean line).replies i r u [] none)))
     clean (.cln f) false ∧ clean (.inv f) true)

/-- R142 to R146: what each atomic writes at its address and answers in sA, from the old bytes of its object. A discarded result
under no ordering or release alone enters the store buffer.
That a wanted result is taken when the atomic issues is the model's reading (log entry 9). -/
def Obligations.AtomicsReadModifyWrite : Prop :=
  ∀ (s : State) (r : SlotRef) (u : Ctx) (f : Fields) (keys : List Nat) (x t : State) (old : List Byte),
    let ty := f.ty.toNat
    let a := regAddr u f.b f
    let amo (i : Instr) (n : Nat) (y z : Word) (code : Nat) (new : Nat → Option Nat) (res : Nat → Word)
        (fl : Nat → Flags) : Prop :=
      Issues s i r u → scopeTrap u f = none → s.keysOf u (tileOf r.core) a n = some keys → keys.any isDescKey = false →
      keys.any isDevKey = false → a.toNat % n = 0 →
      (f.a = 0xFF → (f.ord = 0 ∨ f.ord = 2) → s.buffered r.core < 32 → watchTrap u n [(0, a)] = none → exec i s = .next
        ((s.numbered.enterBuffer ⟨s.serial, s.who r.core u, u.launchId, u.pc, n, none, f.hint.toNat,
          .amo code ty a keys y z⟩).completes i r u u.begun)) ∧
      (¬ (f.a = 0xFF ∧ (f.ord = 0 ∨ f.ord = 2)) → s.begun.drain u.key = .ok x →
        x.performAtHome (x.who r.core u) keys (code != 14)
          (fun b => (new (natOfBytes b)).map fun v => bytesOfNat v n) = .ok t old →
        exec i s = .next (t.replies i r u
          ((if f.a = 0xFF then [] else [.scalar f.a.toNat (res (natOfBytes old))]) ++ [.flags (fl (natOfBytes old))])
          (watchTrap u n [(0, a)])))
    let n := if ty = 3 ∨ ty = 19 ∨ ty = 6 then 4 else 8
    let w := 8 * n
    let y := u.reg f.c.toNat
    let yn := y.toNat % 2 ^ w
    let ys := signed yn w
    let plain (v : Nat) : Word := if ty = 3 then BitVec.ofInt 64 (signed v 32) else BitVec.ofNat 64 v
    let int (i : Instr) (code : Nat) (new : Nat → Nat) : Prop := amo i n y 0 code (fun o => some (new o)) plain fun _ => 0
    int (.amoAdd f) 0 (fun o => (o + yn) % 2 ^ w) ∧ int (.amoAnd f) 1 (· &&& yn) ∧ int (.amoOr f) 2 (· ||| yn) ∧
    int (.amoXor f) 3 (· ^^^ yn) ∧ int (.amoMin f) 4 (fun o => if ys < signed o w then yn else o) ∧
    int (.amoMax f) 5 (fun o => if signed o w < ys then yn else o) ∧ int (.amoMinn f) 6 (min · yn) ∧
    int (.amoMaxn f) 7 (max · yn) ∧ int (.amoSwap f) 8 (fun _ => yn) ∧
    amo (.amoCas f) n y (u.reg f.d.toNat) 9
      (fun o => if o = yn then some ((u.reg f.d.toNat).toNat % 2 ^ w) else none) plain (fun _ => 0) ∧
    amo (.amoFadd f) n y 0 10 (fun o => some (amoFloat 10 ty o yn).1) plain (fun o => (amoFloat 10 ty o yn).2) ∧
    amo (.amoFmin f) n y 0 11 (fun o => some (amoFloat 11 ty o yn).1) plain (fun o => (amoFloat 11 ty o yn).2) ∧
    amo (.amoFmax f) n y 0 12 (fun o => some (amoFloat 12 ty o yn).1) plain (fun o => (amoFloat 12 ty o yn).2) ∧
    amo (.amoXadd f) 32 y 0 13 (fun o => (amoEffect 13 ty f.rm.toNat o y 0).1)
      (fun o => (amoEffect 13 ty f.rm.toNat o y 0).2.1) (fun o => (amoEffect 13 ty f.rm.toNat o y 0).2.2) ∧
    amo (.amoXrd f) 32 0 0 14 (fun _ => none) (fun o => BitVec.ofNat 64 (roundVal ty (cellVal o) f.rm.toNat).1)
      (fun o => (roundVal ty (cellVal o) f.rm.toNat).2)

/-- R148, R149: a fence replies with nothing to write, after the unit's buffered entries unless it orders earlier reads
alone.

R154, R155: `sem.post` enters the buffer; `sem.wait` takes one from a count that is not 0, and waits for a post otherwise; `sem.try`
never waits and says in its guard whether it took one. -/
def Obligations.FencesAndSemaphores : Prop :=
  (∀ (s : State) (r : SlotRef) (u : Ctx) (f : Fields) (x : State),
    let fences (i : Instr) : Prop := Issues s i r u → scopeTrap u f = none →
      s.begun.Drains u.key (f.ord != 1 || s.rmwBuffered u.key) x → exec i s = .next (x.replies i r u [] none)
    fences (.fence f) ∧ fences (.fencePath f)) ∧
  (∀ (s : State) (r : SlotRef) (u : Ctx) (f : Fields),
    let n := f.c.toNat
    let tile := tileOf r.core
    let c := s.semAt tile n
    (Issues s (.semPost f) r u → s.buffered r.core < 32 → exec (.semPost f) s = .next
      ((s.numbered.enterBuffer ⟨s.serial, s.who r.core u, u.launchId, u.pc, 0, none, f.hint.toNat, .sem n⟩).completes (.semPost f) r u
        u.begun)) ∧
    (Issues s (.semWait f) r u → c ≠ 0 →
      exec (.semWait f) s = .next ((s.begun.setSem tile n (c - 1)).completes (.semWait f) r u u.begun)) ∧
    (Issues s (.semWait f) r u → c = 0 →
      exec (.semWait f) s = .next (s.begun.awaits (.semWait f) r u (.sem n (npcOf (.semWait f) u)))) ∧
    (Issues s (.semTry f) r u → c ≠ 0 → exec (.semTry f) s = .next
      ((s.begun.setSem tile n (c - 1)).completes (.semTry f) r u (u.begun.setGuard f.a.toNat true))) ∧
    (Issues s (.semTry f) r u → c = 0 → exec (.semTry f) s = .next
      (s.completes (.semTry f) r u (u.begun.setGuard f.a.toNat false))))

/-- R150 to R153, R156, R157: barriers and counters. An arrival answers the generation before it; the last one empties ARRIVED and
raises GEN. `bar.wait` waits while GEN equals sC. A counter's sum is held at 2^64 - 1; `cnt.wait` waits until the counter is at
least its limit.
That the object is read when the instruction issues is the model's reading (log entry 9). -/
def Obligations.BarriersAndCounters : Prop :=
  ∀ (s : State) (r : SlotRef) (u : Ctx) (f : Fields) (k : Nat) (keys : List Nat) (x t : State) (old : List Byte),
    let acts (i : Instr) (reg : BitVec 8) (n : Nat) (write : Bool) (new : Nat → Option Nat) (next : State) : Prop :=
      let a := regAddr u reg f
      Issues s i r u → scopeTrap u f = none → s.keysOf u (tileOf r.core) a n = some (k :: keys) →
      (k :: keys).any isDevKey = false → (write = true → (k :: keys).any isDescKey = false) → a.toNat % n = 0 →
      s.begun.drain u.key = .ok x →
      x.performAtHome (x.who r.core u) (k :: keys) write (fun b => (new (natOfBytes b)).map fun v => bytesOfNat v n) =
        .ok t old → exec i s = .next next
    let v := natOfBytes old
    let gen : Word := BitVec.ofNat 64 (v % 2 ^ 32)
    let arrived (o : Nat) : Nat :=
      let ex := o / 2 ^ 64 % 2 ^ 32
      let c := o / 2 ^ 32 % 2 ^ 32 + 1
      o / 2 ^ 64 * 2 ^ 64 + (if max ex 1 ≤ c then (o % 2 ^ 32 + 1) % 2 ^ 32 else c * 2 ^ 32 + o % 2 ^ 32)
    let y := u.reg f.b.toNat
    acts (.barArrive f) f.b 16 true (fun o => some (arrived o))
      ((t.wakeBarrier k (BitVec.ofNat 32 (arrived v))).replies (.barArrive f) r u [.scalar f.a.toNat gen] none) ∧
    ((u.reg f.c.toNat).toNat % 2 ^ 32 ≠ v % 2 ^ 32 → acts (.barWait f) f.b 16 false (fun _ => none)
      (t.replies (.barWait f) r u [.scalar f.a.toNat gen] none)) ∧
    ((u.reg f.c.toNat).toNat % 2 ^ 32 = v % 2 ^ 32 → acts (.barWait f) f.b 16 false (fun _ => none)
      (t.awaits (.barWait f) r u (.bar (regAddr u f.b f) k (BitVec.ofNat 32 v) f.a.toNat (npcOf (.barWait f) u)))) ∧
    acts (.barGen f) f.b 16 false (fun _ => none) (t.replies (.barGen f) r u [.scalar f.a.toNat gen] none) ∧
    (f.ord ≠ 0 → f.ord ≠ 2 → acts (.cntAdd f) f.a 8 true (fun o => some (min (o + y.toNat) (2 ^ 64 - 1)))
      ((t.wakeCounter k (min (v + y.toNat) (2 ^ 64 - 1))).replies (.cntAdd f) r u [] none)) ∧
    (Issues s (.cntAdd f) r u → scopeTrap u f = none → s.keysOf u (tileOf r.core) (regAddr u f.a f) 8 = some keys →
      keys.any isDevKey = false → keys.any isDescKey = false → (regAddr u f.a f).toNat % 8 = 0 → (f.ord = 0 ∨ f.ord = 2) →
      s.buffered r.core < 32 → exec (.cntAdd f) s = .next
      ((s.numbered.enterBuffer ⟨s.serial, s.who r.core u, u.launchId, u.pc, 8, none, f.hint.toNat,
        .cntAdd (regAddr u f.a f) keys y⟩).completes (.cntAdd f) r u u.begun)) ∧
    (y.toNat ≤ v → acts (.cntWait f) f.a 8 false (fun _ => none) (t.replies (.cntWait f) r u [] none)) ∧
    (v < y.toNat → acts (.cntWait f) f.a 8 false (fun _ => none)
      (t.awaits (.cntWait f) r u (.cnt (regAddr u f.a f) k y (npcOf (.cntWait f) u)))) ∧
    acts (.cntRd f) f.b 8 false (fun _ => none) (t.replies (.cntRd f) r u [.scalar f.a.toNat (BitVec.ofNat 64 v)] none)

/-! ## Vector instructions -/

/-- R160, R161, R168 to R170: the lane-wise arithmetic. A row with a tag that the instruction does not accept raises a format-tag mismatch trap;
otherwise each active lane takes its result, every other lane keeps its bits, the row takes the type's tag, and the flags of the active lanes
are set. Integer lanes take the low bits of the exact result, clamped to the type's range under SAT; other lanes round the result once, to nearest
even for E64. The divisions and the square roots have no integer type. -/
def Obligations.VectorArithmeticLanes : Prop :=
  ∀ (s : State) (r : SlotRef) (u : Ctx) (f : Fields),
    let ty := f.ty.toNat
    let t := tagOfTy ty
    let w := laneWidth t
    let n := lanesOf t
    let rm := if ty = 13 then 0 else f.rm.toNat
    let x (i : Nat) := laneAt (u.row f.b.toNat).toNat w i
    let y (i : Nat) := laneAt (u.row f.c.toNat).toNat w i
    let z (i : Nat) := laneAt (u.row f.d.toNat).toNat w i
    let rd (p : Nat) : Int := if ty ≤ 4 then signed p w else (p : Int)
    let lanewise (i : Instr) (rows : List Nat) (g : Nat → Nat × Flags) : Prop :=
      let needs := dataNeeds f [t] rows ++ mergeNeed f false t
      let lanes := (List.range n).map fun k => if laneActive u f k then g k else (laneAt (u.row f.a.toNat).toNat w k, 0)
      Issues s i r u →
      (tagFault u needs = none → exec i s = .next (s.completes i r u
        ((u.begun.setRow f.a.toNat (rowOfLanes w (lanes.map (·.1))) (BitVec.ofNat 4 t)).setFlags
          (lanes.foldl (fun acc p => acc ||| p.2) 0)))) ∧
      (∀ e, tagFault u needs = some e → exec i s = .next (s.begun.trapsAt r u e))
    let arith (i : Instr) (rows : List Nat) (sat : Bool) (int : Nat → Int) (val : Nat → Val × Flags) : Prop :=
      lanewise i rows fun k =>
        if isIntTy ty then
          let c := if sat then max (intLo ty) (min (intHi ty) (int k)) else int k
          (lowBits c w, if c = int k then 0 else flSAT)
        else
          let p := roundVal ty (val k).1 rm
          (p.1, (val k).2 ||| p.2)
    let v (p : Nat) : Val := decodeVal ty p
    let B := [f.b.toNat]
    let BC := [f.b.toNat, f.c.toNat]
    let BCD := [f.b.toNat, f.c.toNat, f.d.toNat]
    arith (.vadd f) BC f.sat (fun k => rd (x k) + rd (y k)) (fun k => addVal rm (v (x k)) (v (y k))) ∧
    arith (.vsub f) BC f.sat (fun k => rd (x k) - rd (y k)) (fun k => addVal rm (v (x k)) (flipVal (v (y k)))) ∧
    arith (.vmul f) BC f.sat (fun k => rd (x k) * rd (y k)) (fun k => mulVal (v (x k)) (v (y k))) ∧
    arith (.vfma f) BCD f.sat (fun k => rd (x k) * rd (y k) + rd (z k)) (fun k => fmaVal rm (v (x k)) (v (y k)) (v (z k))) ∧
    arith (.vfms f) BCD f.sat (fun k => rd (x k) * rd (y k) - rd (z k))
      (fun k => fmaVal rm (v (x k)) (v (y k)) (flipVal (v (z k)))) ∧
    arith (.vneg f) B f.sat (fun k => -rd (x k)) (fun k => ((v (x k)).neg, 0)) ∧
    arith (.vabs f) B f.sat (fun k => ((rd (x k)).natAbs : Int)) (fun k => ((v (x k)).abs, 0)) ∧
    arith (.vmin f) BC f.sat (fun k => min (rd (x k)) (rd (y k))) (fun k => minVal false (v (x k)) (v (y k))) ∧
    arith (.vmax f) BC f.sat (fun k => max (rd (x k)) (rd (y k))) (fun k => minVal true (v (x k)) (v (y k))) ∧
    (isIntTy ty = false →
      arith (.vdiv f) BC f.sat (fun _ => 0) (fun k => divVal (isTfTag ty) (v (x k)) (v (y k))) ∧
      arith (.vsqrt f) B f.sat (fun _ => 0) (fun k => sqrtVal (isTfTag ty) (v (x k))) ∧
      arith (.vrcp f) B f.sat (fun _ => 0) (fun k => divVal (isTfTag ty) (.fin false 1 0 false) (v (x k))) ∧
      arith (.vrsq f) B f.sat (fun _ => 0) (fun k => rsqrtVal (isTfTag ty) (v (x k))))

/-- R160, R161, R167, R171, R173 to R175: the special functions, the bit counts, the shifts, `vbc`, `vsel` and `vclmul`, lane by
lane. A shift distance is taken modulo the lane width, from the distance row or from IMM8 when there is none. -/
def Obligations.VectorFunctionAndBitLanes : Prop :=
  ∀ (s : State) (r : SlotRef) (u : Ctx) (f : Fields),
    let ty := f.ty.toNat
    let t := tagOfTy ty
    let w := laneWidth t
    let n := lanesOf t
    let rm := f.rm.toNat
    let x (i : Nat) := laneAt (u.row f.b.toNat).toNat w i
    let y (i : Nat) := laneAt (u.row f.c.toNat).toNat w i
    let z (i : Nat) := laneAt (u.row f.d.toNat).toNat w i
    let special (g : Val → Val × Flags) (p : Nat) : Nat × Flags :=
      let v := g (decodeVal ty p)
      let q := roundVal ty v.1 rm
      (q.1, v.2 ||| q.2)
    let shifts := if f.c = 0xFF then [f.b.toNat] else [f.b.toNat, f.c.toNat]
    let by_ (k : Nat) := (if f.c = 0xFF then f.imm.toNat else y k) % w
    let lanewise (i : Instr) (rows : List Nat) (g : Nat → Nat × Flags) : Prop :=
      let needs := dataNeeds f [t] rows ++ mergeNeed f false t
      let lanes := (List.range n).map fun k => if laneActive u f k then g k else (laneAt (u.row f.a.toNat).toNat w k, 0)
      Issues s i r u → tagFault u needs = none → exec i s = .next (s.completes i r u
        ((u.begun.setRow f.a.toNat (rowOfLanes w (lanes.map (·.1))) (BitVec.ofNat 4 t)).setFlags
          (lanes.foldl (fun acc p => acc ||| p.2) 0)))
    lanewise (.vexp2 f) [f.b.toNat] (fun k => exp2Lane ty (x k)) ∧
    lanewise (.vlog2 f) [f.b.toNat] (fun k => special (log2Val (isTfTag ty)) (x k)) ∧
    lanewise (.vtanh f) [f.b.toNat] (fun k => special tanhVal (x k)) ∧
    lanewise (.vsig f) [f.b.toNat] (fun k => special sigmoidVal (x k)) ∧
    lanewise (.vpopc f) [f.b.toNat] (fun k => (popcNat (x k) w, 0)) ∧
    lanewise (.vclz f) [f.b.toNat] (fun k => (clzNat (x k) w, 0)) ∧
    lanewise (.vshl f) shifts (fun k => (x k * 2 ^ by_ k % 2 ^ w, 0)) ∧
    lanewise (.vshr f) shifts (fun k => (x k / 2 ^ by_ k, 0)) ∧
    lanewise (.vsar f) shifts (fun k => (lowBits (signed (x k) w / 2 ^ by_ k) w, 0)) ∧
    lanewise (.vclmul f) [f.b.toNat, f.c.toNat]
      (fun k => (clMul (x (k / 2 * 2)) (y (k / 2 * 2)) w / 2 ^ (w * (k % 2)) % 2 ^ w, 0)) ∧
    lanewise (.vbc f) [] (fun _ => ((u.reg f.b.toNat).toNat % 2 ^ w, 0)) ∧
    lanewise (.vsel f) [f.c.toNat, f.d.toNat] (fun k => (if (u.maskOf f.b.toNat).getLsbD k then y k else z k, 0))

/-- R167, R174, R180 to R182: the instructions that move whole rows, tags and masks. Without a mask the logic functions and `vmov` act on all
2,048 bits; `vretag` to MSK needs a row whose upper bits are 0. -/
def Obligations.RowTagAndMaskResults : Prop :=
  ∀ (s : State) (r : SlotRef) (u : Ctx) (f : Fields),
    let b := f.b.toNat
    let t := tagOfTy f.ty.toNat
    let x := u.row b
    let y := u.row f.c.toNat
    let done (i : Instr) (needs : List TagNeed) (v : Ctx) : Prop :=
      Issues s i r u → tagFault u needs = none → exec i s = .next (s.completes i r u v)
    let logic (i : Instr) (g : Row → Row → Row) : Prop :=
      let lanes := (List.range (lanesOf t)).map fun k =>
        if laneActive u f k then laneAt (g x y).toNat (laneWidth t) k else laneAt (u.row f.a.toNat).toNat (laneWidth t) k
      done i (dataNeeds f anyTag [b, f.c.toNat] ++ mergeNeed f false 0)
        (u.begun.setRow f.a.toNat (if f.lmask = 0 then g x y else rowOfLanes (laneWidth t) lanes) 0)
    let m := u.maskOf b
    let n := u.maskOf f.c.toNat
    let mask (op : BitVec 22) (v : Mask) : Prop := f.imm = op → done (.mop f) [] (u.begun.setMask f.a.toNat v)
    logic (.vand f) (· &&& ·) ∧ logic (.vor f) (· ||| ·) ∧ logic (.vxor f) (· ^^^ ·) ∧
    logic (.vandn f) (fun p q => p &&& ~~~q) ∧
    (f.lmask = 0 → done (.vmov f) (dataNeeds f anyTag [b]) (u.begun.setRow f.a.toNat x (u.tagOf b))) ∧
    (f.lmask ≠ 0 →
      let tag := (u.tagOf b).toNat
      let lw := if tag = 14 then 1 else laneWidth tag
      let lanes := (List.range (if tag = 14 then 256 else lanesOf tag)).map fun k =>
        if laneActive u f k then laneAt x.toNat lw k else laneAt (u.row f.a.toNat).toNat lw k
      done (.vmov f) (dataNeeds f (anyTag.drop 1) [b] ++ mergeNeed f false tag)
        (u.begun.setRow f.a.toNat (rowOfLanes lw lanes) (u.tagOf b))) ∧
    done (.vtag f) [] (u.begun.setReg f.a.toNat ((u.tagOf b).setWidth 64)) ∧
    (f.ty ≠ 14 ∨ x.extractLsb' 256 1792 = 0 →
      done (.vretag f) (dataNeeds f anyTag [b]) (u.begun.setRow f.a.toNat x (BitVec.ofNat 4 t))) ∧
    mask 0 (m &&& n) ∧ mask 1 (m ||| n) ∧ mask 2 (m ^^^ n) ∧ mask 3 (m &&& ~~~n) ∧ mask 4 (~~~m) ∧
    mask 5 (BitVec.allOnes 256) ∧ mask 6 0 ∧ mask 7 (BitVec.ofNat 256 (2 ^ min (u.reg b).toNat 256 - 1)) ∧
    (f.imm = 8 → done (.mop f) [] (u.begun.setRow f.a.toNat (m.setWidth 2048) 14)) ∧
    (f.imm = 9 → done (.mop f) [⟨b, [14]⟩] (u.begun.setMask f.a.toNat (x.setWidth 256))) ∧
    done (.mcnt f) []
      (u.begun.setReg f.a.toNat (BitVec.ofNat 64 (popcNat m.toNat 256 + ctzNat m.toNat 256 * 2 ^ 16)))

/-- R160, R167, R172, R178, R179: inserts, extracts, compares, reductions and scans. `vins` and `vext` fault on a lane beyond the row; `vext` faults
on an inactive lane unless PZ gives it 0. A reduction combines the active lanes in the fixed binary tree; a scan runs from lane 0 up. Both take a
NaN lane as the canonical quiet one, NV set for a signalling one (R32). -/
def Obligations.LaneMoveCompareAndReduce : Prop :=
  ∀ (s : State) (r : SlotRef) (u : Ctx) (f : Fields),
    let ty := f.ty.toNat
    let t := tagOfTy ty
    let w := laneWidth t
    let L := lanesOf t
    let n := (u.reg f.c.toNat).toNat
    let x (i : Nat) := laneAt (u.row f.b.toNat).toNat w i
    let y (i : Nat) := laneAt (u.row f.c.toNat).toNat w i
    let old (i : Nat) := laneAt (u.row f.a.toNat).toNat w i
    let done (i : Instr) (needs : List TagNeed) (v : Ctx) : Prop :=
      Issues s i r u → tagFault u needs = none → exec i s = .next (s.completes i r u v)
    let faults (i : Instr) (needs : List TagNeed) : Prop :=
      Issues s i r u → tagFault u needs = none →
      exec i s = .next (s.begun.trapsAt r u { cause := 5, aux := BitVec.ofNat 64 (n % 512), mask := u.maskOf f.lmask.toNat })
    let data (rows : List Nat) := dataNeeds f [t] rows
    let c := combine f.imm.toNat ty f.rm.toNat f.sat
    let scan (ex : Bool) := scanLanes c ex (identityOf f.imm.toNat ty) none
      ((List.range L).map fun i => (laneActive u f i, canonLane t (x i), old i))
    let cmp (i : Nat) : Bool × Flags := if laneActive u f i then cmpLane f.fn.toNat ty (x i) (y i) else (false, 0)
    let red := reduceTree c 8 ((List.range L).map fun i =>
      if laneActive u f i then (some (canonLane t (x i)).1, (canonLane t (x i)).2) else (none, (0 : Flags)))
    (n < L → laneActive u f n = true → done (.vins f) (mergeNeed f true t) (u.begun.setRow f.a.toNat
      (rowOfLanes w ((List.range L).map fun i => if i = n then (u.reg f.b.toNat).toNat % 2 ^ w else old i)) (BitVec.ofNat 4 t))) ∧
    (n < L → laneActive u f n = false → done (.vins f) (mergeNeed f true t) u.begun) ∧
    (L ≤ n → faults (.vins f) (mergeNeed f true t)) ∧
    (n < L → laneActive u f n = true → done (.vext f) (data [f.b.toNat])
      (u.begun.setReg f.a.toNat (if 1 ≤ ty ∧ ty ≤ 4 then BitVec.ofInt 64 (signed (x n) w) else BitVec.ofNat 64 (x n)))) ∧
    (n < L → laneActive u f n = false → f.pz = true →
      done (.vext f) (data [f.b.toNat]) (u.begun.setReg f.a.toNat 0)) ∧
    (L ≤ n ∨ (laneActive u f n = false ∧ f.pz = false) → faults (.vext f) (data [f.b.toNat])) ∧
    done (.vcmp f) (data [f.b.toNat, f.c.toNat])
      ((u.begun.setMask f.a.toNat (maskOfBits L fun i => (cmp i).1)).setFlags
        ((List.range L).foldl (fun acc i => acc ||| (cmp i).2) 0)) ∧
    (∀ p, red.1 = some p → done (.vred f) (data [f.b.toNat]) ((u.begun.setReg f.a.toNat
      (if 1 ≤ ty ∧ ty ≤ 4 then BitVec.ofInt 64 (signed p w) else BitVec.ofNat 64 p)).setFlags red.2)) ∧
    (red.1 = none → done (.vred f) (data [f.b.toNat]) ((u.begun.setReg f.a.toNat 0).setFlags red.2)) ∧
    done (.vscan f) (data [f.b.toNat] ++ mergeNeed f false t)
      ((u.begun.setRow f.a.toNat (rowOfLanes w (scan false).1) (BitVec.ofNat 4 t)).setFlags (scan false).2) ∧
    done (.vxscan f) (data [f.b.toNat] ++ mergeNeed f false t)
      ((u.begun.setRow f.a.toNat (rowOfLanes w (scan true).1) (BitVec.ofNat 4 t)).setFlags (scan true).2)

/-- R176, R177: `vperm`, `vshuf` and `vrot` take each active lane from the lane their rule names. An active lane whose source is inactive faults,
the lowest first, unless PZ gives it 0. -/
def Obligations.PermutesMoveLanes : Prop :=
  ∀ (s : State) (r : SlotRef) (u : Ctx) (f : Fields),
    let t := tagOfTy f.ty.toNat
    let w := laneWidth t
    let L := lanesOf t
    let moves (i : Instr) (rows : List Nat) (more : List TagNeed) (src : Nat → Nat × Nat) : Prop :=
      let needs := dataNeeds f [t] rows ++ more ++ mergeNeed f false t
      let bad (k : Nat) : Bool := laneActive u f k && !laneActive u f (src k).2
      Issues s i r u → tagFault u needs = none →
      (f.pz = true ∨ (List.range L).find? bad = none →
        exec i s = .next (s.completes i r u
          ((u.begun.setRow f.a.toNat (rowOfLanes w ((List.range L).map fun k =>
              if laneActive u f k then (if laneActive u f (src k).2 then laneAt (u.row (src k).1).toNat w (src k).2 else 0)
              else laneAt (u.row f.a.toNat).toNat w k)) (BitVec.ofNat 4 t)).setFlags 0))) ∧
      (∀ n, f.pz = false → (List.range L).find? bad = some n → exec i s = .next (s.begun.trapsAt r u
        { cause := 5, aux := BitVec.ofNat 64 (n % 512), mask := u.maskOf f.lmask.toNat }))
    let l := lanesOf f.ty.toNat
    let code := f.imm.toNat
    let shuf (i : Nat) : Bool × Nat :=
      if code = 0 then (i % 2 == 1, i / 2) else if code = 1 then (i % 2 == 1, l / 2 + i / 2)
      else if code = 2 then (decide (l / 2 ≤ i), 2 * (i % (l / 2)))
      else if code = 3 then (decide (l / 2 ≤ i), 2 * (i % (l / 2)) + 1)
      else if code = 4 then (false, if i % 2 = 0 then i + 1 else i - 1) else (false, l - 1 - i)
    moves (.vperm f) [f.b.toNat] [⟨f.c.toNat, [indexTag (laneWidth f.ty.toNat)]⟩]
      (fun k => (f.b.toNat, laneAt (u.row f.c.toNat).toNat (laneWidth f.ty.toNat) k % l)) ∧
    moves (.vshuf f) (if code ≤ 3 then [f.b.toNat, f.c.toNat] else [f.b.toNat]) []
      (fun k => (if (shuf k).1 then f.c.toNat else f.b.toNat, (shuf k).2)) ∧
    moves (.vrot f) [f.b.toNat] []
      (fun k => (f.b.toNat, (k + (if f.c = 0xFF then code else (u.reg f.c.toNat).toNat)) % l))

/-- R183 to R186: the conversions. A widening `vcvt` reads part p of its source and a narrowing one fills part p of its result; `vquant` fills its part
of the codes, and `vdeq` reads its part, each group under its own scale and zero point; `vpack` saturates two rows into one, and `vunpk`
extends one half of a row. -/
def Obligations.ConversionsConvertLanes : Prop :=
  ∀ (s : State) (r : SlotRef) (u : Ctx) (f : Fields),
    let ty := f.ty.toNat
    let t := tagOfTy ty
    let st := f.etag.toNat
    let sw := laneWidth st
    let ls := lanesOf st
    let imm := f.imm.toNat
    let x (i : Nat) := laneAt (u.row f.b.toNat).toNat sw i
    let converts (i : Instr) (rows : List Nat) (needs : List TagNeed) (w n : Nat) (g : Nat → Option (Nat × Flags)) : Prop :=
      let lanes := (List.range n).map fun k => (g k).getD (laneAt (u.row f.a.toNat).toNat w k, 0)
      Issues s i r u → tagFault u (dataNeeds f [st] rows ++ needs) = none →
      exec i s = .next (s.completes i r u
        ((u.begun.setRow f.a.toNat (rowOfLanes w (lanes.map (·.1))) (BitVec.ofNat 4 t)).setFlags
          (lanes.foldl (fun acc p => acc ||| p.2) 0)))
    let groups : List TagNeed := [⟨f.c.toNat, [5]⟩, ⟨f.d.toNat, [1]⟩]
    let scale (b c : Nat) : Val × Nat :=
      let g := c / (32 * 2 ^ (imm / 16 % 4))
      (decodeIeee 5 (laneAt (u.row f.c.toNat).toNat 16 g), laneAt (u.row f.d.toNat).toNat 8 g % 2 ^ b)
    let qb := if ty = 11 then 4 else 8
    let db := if st = 11 then 4 else 8
    let rd (w p : Nat) : Int := if ty ≤ 4 then signed p w else (p : Int)
    converts (.vcvt f) [f.b.toNat] (mergeNeed f (decide (ls < lanesOf t)) t) (laneWidth t) (lanesOf t) (fun i =>
      if laneActive u f i then
        (if lanesOf t ≤ ls then some (imm % 8 * lanesOf t + i)
          else if imm % 8 * ls ≤ i ∧ i < imm % 8 * ls + ls then some (i - imm % 8 * ls) else none).map fun j =>
          let v := decodeVal (if f.imm.getLsbD 7 then st + 16 else st) (x j)
          let q := roundVal ty v f.rm.toNat
          (q.1, sigFlags v ||| q.2)
      else none) ∧
    converts (.vquant f) [f.b.toNat] (groups ++ mergeNeed f true ty) qb (groupCodes ty) (fun c =>
      let lo := imm % 16 * ls
      if lo ≤ c ∧ c < lo + ls ∧ laneActive u f (c - lo) = true then
        some (quantCode qb f.rm.toNat (decodeVal st (x (c - lo))) (scale qb c).1 (scale qb c).2)
      else none) ∧
    converts (.vdeq f) [f.b.toNat] (groups ++ mergeNeed f false ty) (laneWidth ty) (lanesOf ty) (fun i =>
      if laneActive u f i then
        let c := imm % 16 * lanesOf ty + i
        let v := groupedVal (laneAt (u.row f.b.toNat).toNat db c) (scale db c).2 (scale db c).1
        let q := roundVal ty v.1 f.rm.toNat
        some (q.1, v.2 ||| q.2)
      else none) ∧
    converts (.vpack f) [f.b.toNat, f.c.toNat] (mergeNeed f false t) (if t = 11 then 4 else laneWidth t) (2 * ls) (fun i =>
      if laneActive u f (if t = 11 then i / 2 else i) then
        let p := if i < ls then x i else laneAt (u.row f.c.toNat).toNat sw (i - ls)
        let c := if t = 11 then clampInt (p : Int) 0 15 else clampInt (rd sw p) (intLo ty) (intHi ty)
        some (lowBits c.1 (if t = 11 then 4 else laneWidth t), c.2)
      else none) ∧
    converts (.vunpk f) [f.b.toNat] (mergeNeed f false t) (laneWidth t) (lanesOf t) (fun i =>
      if laneActive u f i then
        let w := if t = 12 then 4 else sw
        let p := laneAt (u.row f.b.toNat).toNat w (imm % 2 * lanesOf t + i)
        some (if t = 12 then p else lowBits (rd w p) (laneWidth t), 0)
      else none)

/-- R163 to R166: vector loads. TY 0 moves sixteen 16-byte pieces; any other type moves the active lanes, a contiguous load's at the lane size, a strided
load's at sD, an indexed load's at its index times the lane size. The lanes are read in ascending order, each with the unit's own buffered stores
forwarded, and the reply writes them into the row, whose other lanes keep their bits.

R163 to R166: vector stores put the bytes of their active lanes into the core's buffer, in ascending lane order; a store with no active lane
completes. The pieces of the entry hold exactly those bytes. No byte of memory changes until the entry is performed.
That the lanes are read when the load issues, and that a failing lane leaves the row alone, is the model's reading (log entries 9 and 56). -/
def Obligations.VectorLoadsAndStores : Prop :=
  (∀ (s : State) (r : SlotRef) (u : Ctx) (f : Fields) (x t : State) (got : List (Nat × Nat)),
    let tag := tagOfTy f.ty.toNat
    let n := if f.ty = 0 then 16 else laneWidth tag / 8
    let active := (List.range (lanesOf tag)).filter (laneActive u f)
    let stepped (a stride : Word) : List (Nat × Word) :=
      if f.ty = 0 then (List.range 16).map fun i => (i, a + BitVec.ofNat 64 (16 * i))
      else active.map fun i => (i, a + BitVec.ofNat 64 i * stride)
    let indexed := active.map fun i =>
      (i, u.reg f.b.toNat + BitVec.ofNat 64 (laneAt (u.row f.c.toNat).toNat (laneWidth tag) i * (laneWidth tag / 8)))
    let row := rowOfLanes (8 * n) ((List.range (2048 / (8 * n))).map fun i =>
      ((got.find? (·.1 = i)).map (·.2)).getD (laneAt (u.row f.a.toNat).toNat (8 * n) i))
    let loads (i : Instr) (needs : List TagNeed) (ls : List (Nat × Word)) : Prop :=
      Issues s i r u → tagFault u (needs ++ mergeNeed f false tag) = none → scopeTrap u f = none →
      s.begun.Drains u.key (s.loadDrains u f.ord.toNat (s.laneKeys (envOf i r u) u n ls)) x →
      x.readLanes (envOf i r u) u.begun n ls = .ok t (got.map fun g => (g.1, some g.2)) →
      exec i s = .next (t.replies i r u [.row f.a.toNat row (BitVec.ofNat 4 tag)] (watchTrap u n ls))
    loads (.vld f) [] (stepped (effAddr u f 256) (BitVec.ofNat 64 n)) ∧
    loads (.vlds f) [] (stepped (effAddr u f 256) (u.reg f.d.toNat)) ∧
    loads (.vldg f) [⟨f.c.toNat, [indexTag (laneWidth tag)]⟩] indexed ∧
    (∀ (e : Env) (k i : Nat) (a : Word) (keys : List Nat) (y z : State) (bs : List Byte),
      y.keysOf u e.tile a k = some keys → keys.any isDevKey = false → y.performRead (y.who e.core u) keys e.f.hint.toNat = .ok z bs →
      y.readLane e u k i a = .ok z [(i, some (natOfBytes (z.forwarded u.key keys bs)))])) ∧
  (∀ (s : State) (r : SlotRef) (u : Ctx) (f : Fields) (cells : List StoreCell),
    let tag := tagOfTy f.ty.toNat
    let n := if f.ty = 0 then 16 else laneWidth tag / 8
    let active := (List.range (lanesOf tag)).filter (laneActive u f)
    let stepped (a stride : Word) : List (Nat × Word) :=
      if f.ty = 0 then (List.range 16).map fun i => (i, a + BitVec.ofNat 64 (16 * i))
      else active.map fun i => (i, a + BitVec.ofNat 64 i * stride)
    let indexed := active.map fun i =>
      (i, u.reg f.b.toNat + BitVec.ofNat 64 (laneAt (u.row f.c.toNat).toNat (laneWidth tag) i * (laneWidth tag / 8)))
    let stores (i : Instr) (needs : List TagNeed) (place : StoreCell → Nat) (ls : List (Nat × Word)) (lanes : Option (Nat × Nat)) :
        Prop :=
      let t := s.numbered.enterBuffer
        ⟨s.serial, s.who r.core u, u.launchId, u.pc, n, lanes, f.hint.toNat, .bytes (piecesBy place cells)⟩
      Issues s i r u →
      tagFault u (dataNeeds f (if f.ty = 0 then anyTag else [tag]) [f.a.toNat] ++ needs) = none → scopeTrap u f = none →
      s.begun.storeCells (envOf i r u) u.begun n ls = .ok cells →
      (cells = [] → exec i s = .next (s.completes i r u u.begun)) ∧
      (cells ≠ [] → s.buffered r.core < 32 → watchTrap u n ls = none → exec i s = .next (t.completes i r u u.begun)) ∧
      t.store = s.store ∧ (piecesBy place cells).flatMap (fun p => p.cells) = cells.map (fun c => (c.key, c.byte))
    stores (.vst f) [] byLine (stepped (effAddr u f 256) (BitVec.ofNat 64 n)) (some (n, (effAddr u f 256).toNat % n)) ∧
    stores (.vsst f) [] byLane (stepped (effAddr u f 256) (u.reg f.d.toNat)) none ∧
    stores (.vsct f) [⟨f.c.toNat, [indexTag (laneWidth tag)]⟩] byLane indexed none)

/-! ## Matrix and state-space instructions -/

/-- R189, R191, R193 to R195: plane loads are posted to the core's load port after the unit's own stores, with the keys of every column, scale
word and sum; `mwsw` waits in the port until it takes effect.

R200, R201: `mclr` clears a tile, whose rows take the tag of TY, its carry and its saturation mark, and no other, and answers what it found; `mcsum` writes the sums of a plane's codes, or the
sums that `mwsc` loaded. -/
def Obligations.PlaneAndTileInstructions : Prop :=
  (∀ (s : State) (r : SlotRef) (u : Ctx) (f : Fields) (parts : List (List Nat)) (x : State),
    let ty := f.ty.toNat
    let base := u.reg f.b.toNat
    let stride (packed : Nat) : Word := if f.c = 0xFF then BitVec.ofNat 64 packed else u.reg f.c.toNat
    let bits := if ty = 11 then 4 else if ty = 9 then 16 else if ty = 10 then 32 else 8
    let columns := (List.range (if ty = 8 ∨ ty = 10 then 32 else 64)).map fun c =>
      (base + BitVec.ofNat 64 c * stride (8 * bits), 8 * bits)
    let g := 32 * 2 ^ (f.imm.toNat % 4)
    let at_ := (List.range (if g = 32 then 2 else 1)).flatMap fun j => (List.range 64).map fun c => (j, c)
    let words := at_.map (fun p => (base + BitVec.ofNat 64 p.1 * stride 256 + BitVec.ofNat 64 (4 * p.2), 4)) ++
      at_.map (fun p => (u.reg f.d.toNat + BitVec.ofNat 64 (2 * (64 * p.1 + p.2)), 2))
    (Issues s (.mwld f) r u → s.begun.matPieces u.begun (tileOf r.core) columns = .ok parts → s.begun.drain u.key = .ok x →
      exec (.mwld f) s =
        .next ((x.postLoad r.core (x.issuedAt r.key) ⟨s.who r.core u, false, ty, 0, 0, parts⟩).putUnit r { u.begun with pc := npcOf (.mwld f) u })) ∧
    (Issues s (.mwsc f) r u → s.begun.matPieces u.begun (tileOf r.core) words = .ok parts → s.begun.drain u.key = .ok x →
      exec (.mwsc f) s = .next ((x.postLoad r.core (x.issuedAt r.key)
        ⟨s.who r.core u, true, ty, g, f.imm.toNat / 4 % 2, parts⟩).putUnit r { u.begun with pc := npcOf (.mwsc f) u })) ∧
    (Issues s (.mwsw f) r u → exec (.mwsw f) s = .next
      ((s.begun.postPort r.core (.swap u.key (s.issuedAt r.key))).awaits (.mwsw f) r u (.swapPlanes (npcOf (.mwsw f) u))))) ∧
  (∀ (s : State) (r : SlotRef) (u : Ctx) (f : Fields),
    let q := f.b.toNat
    let found : Word := BitVec.ofNat 64 ((if u.tileSat.contains q then 1 else 0) + (if u.carryOf q = [] then 0 else 2))
    let p := s.planeAt r.core (if f.imm.getLsbD 1 then 0 else 1)
    let n := if p.g = 32 then 32 else 64
    let parts := if p.g = 32 then 2 else 1
    (Issues s (.mclr f) r u → ∃ v, exec (.mclr f) s = .next (s.completes (.mclr f) r u v) ∧
      (FMap.wf 0 u.rows = true → ∀ i, i < 16 → v.row (16 * q + i) = 0) ∧
      (FMap.wf 0 u.tags = true → ∀ i, i < 16 → v.tagOf (16 * q + i) = BitVec.ofNat 4 f.ty.toNat) ∧
      (∀ n, n < 16 * q ∨ 16 * q + 16 ≤ n → v.row n = u.row n ∧ v.tagOf n = u.tagOf n) ∧
      v.tileSat.contains q = false ∧ (∀ n, n ≠ q → v.tileSat.contains n = u.tileSat.contains n ∧ v.carryOf n = u.carryOf n) ∧
      (∀ n, n ≠ f.a.toNat → v.reg n = u.reg n) ∧
      (FMap.wf [] u.carries = true → v.carryOf q = []) ∧ (FMap.wf 0 u.regs = true → f.a ≠ 0xFF → v.reg f.a.toNat = found) ∧
      (f.a = 0xFF → v.regs = u.regs) ∧ v.guards = u.guards ∧ v.masks = u.masks ∧ v.stat = u.stat) ∧
    (Issues s (.mcsum f) r u → s.planesWait r.key (.mcsum f) = false → (p.wfmt = 11 ∨ p.wfmt = 12) →
      (f.imm.getLsbD 0 = true → p.g ≠ 0 → p.failc = none → exec (.mcsum f) s = .next (s.completes (.mcsum f) r u
        (u.begun.setRow f.a.toNat (rowOfLanes 16 ((List.range 128).map fun i => if i / 64 < parts then
          (((p.column (i % 64)).drop (n * (i / 64))).take n).sum else 0)) 2))) ∧
      (f.imm.getLsbD 0 = false → p.sf = true → p.fails = none → exec (.mcsum f) s = .next (s.completes (.mcsum f) r u
        (u.begun.setRow f.a.toNat (rowOfLanes 16 ((List.range 128).map fun i => if i / 64 < parts then
          (FMap.get 0 p.sums i).toNat else 0)) 2)))))

/-- R193, R195, R199: the load at the head of the port fills the shadow plane; a swap whose turn it is exchanges the planes and lets its own unit go
on, and the multiply-accumulate of a core that was issued first writes its tile (a slot of a halted partition is held, R337).

R208, R209: the end of a chunk commits it: the outputs, the boundary state and TDONE are written, the unit's flags are set, and the run then ends, hands
the engine over or starts its next chunk (`State.afterCommit`). A block that is refused by now ends the run with its code.
That a chunk is computed from the block read before it, that a line which fails writes nothing, and that the flags add up, is the model's reading (log entries 13 and 35). -/
def Obligations.ArrayAndStateSpaceEvents : Prop :=
  (∀ (s : State) (c : Nat),
    (∀ (l : PlaneLoad) (n : Nat) (rest : List PortEntry) (t : State) (bs : List Byte) (data : List (List Byte)),
      (s.arrayAt c).port = .load l n :: rest → s.readParts l.who l.parts = (.ok t bs, data) →
      exec (.planeLoadComplete c) s = .next ((t.setPlane c 1 ((t.planeAt c 1).fill l data)).advancePort c)) ∧
    (∀ (rest : List PortEntry) (k at_ : Nat) (u : Ctx) (npc : Word) (n : Nat),
      (s.arrayAt c).port = .swap u.key at_ :: rest → (s.arrayAt c).lastE < s.ck → s.heldEarlier c at_ usesPlanes = false →
      s.haltedTag u.tag = false → FMap.wf Plane.empty s.fab.planes = true →
      s.findUnit u.key = some (k, s.slotAt k, u) → (s.slotAt k).unit = some u →
      (s.slotAt k).mode = .waiting (.swapPlanes npc) n →
      swapTrap (s.planeAt c 1) = none →
      ∃ t, exec (.mwswTakesEffect c) s = .next t ∧ t.planeAt c 0 = s.planeAt c 1 ∧
        (t.planeAt c 1).codes = (s.planeAt c 0).codes ∧
        t.slotAt k = { s.slotAt k with unit := some { u with pc := npc }, mode := .ready (s.ck + 1) }) ∧
    (∀ (k : Nat) (u : Ctx) (rep : Reply) (n : Nat), (s.slotAt k).unit = some u → u.doomed = none → s.haltedTag u.tag = false →
      s.nextMmac c = some (k, s.slotAt k) → (s.slotAt k).mode = .waiting (.mmac rep) n →
      ∃ t, exec (.mmacWrite c) s = .next t ∧ t.store = s.store ∧
        t.slotAt k = { s.slotAt k with unit := some { u.applyReply rep with pc := rep.npc }, mode := .ready (s.ck + 1) })) ∧
  (∀ (s : State) (c k : Nat) (sl : Slot) (u : Ctx) (limit dst since : Nat) (npc p : Word) (t : State) (bs : List Byte),
    (s.arrayAt c).holder = some u.key → s.findUnit u.key = some (k, sl, u) →
    sl.mode = .waiting (.ssmRun limit dst npc) since → u.ssmPtr = some p → s.haltedTag u.tag = false →
    let b := ssmBlock bs
    let ends (v : Word) : Prop := exec (.ssmChunkCommit c) s = .next ((t.complete k npc fun w => w.setReg dst v).freeEngine c)
    (∀ d, (s.arrayAt c).block ≠ [] → s.ssmChunk c u p (ssmBlock (s.arrayAt c).block) (s.arrayAt c).h0 = .ok d →
      exec (.ssmChunkCommit c) s = .next ((d.state.modUnit u.key fun v => { v.setFlags d.flags with pass := [] }).afterCommit
        c k p limit dst npc d)) ∧
    ((s.arrayAt c).block = [] → s.blockRead c u p 128 128 = .ok t bs →
      (ssmCheck p b ≠ 0 → ends (BitVec.ofNat 64 (2 ^ 63 + ssmCheck p b))) ∧
      (ssmCheck p b = 0 → b.tdone = b.t → ends (BitVec.ofNat 64 b.tdone)) ∧
      (∀ y hs, ssmCheck p b = 0 → b.tdone ≠ b.t →
        t.blockRead c u (if b.tdone = 0 then b.ha else b.wa) (4 * b.n * b.p) 4 = .ok y hs →
        exec (.ssmChunkCommit c) s = .next ((y.modUnit u.key fun v => { v with pass := [] }).startChunk c bs hs))))

/-- R196 to R199: `mmac` and `mmacz` that need not wait for the planes (`State.planesWait`: no swap and no multiply-accumulate of the core that was
issued before it still waits) and whose checks pass read sixteen activation rows and occupy the array; the tile is written no earlier than 23 ck
after the issue and 7 ck after the last stream ck. A failing check traps. -/
def Obligations.MultiplyAccumulateOccupiesTheArray : Prop :=
  ∀ (s : State) (r : SlotRef) (u : Ctx) (f : Fields) (x t : State) (acts : List Nat),
    let ty := f.ty.toNat
    let q := f.a.toNat
    let p := s.planeAt r.core 0
    let bytes := 8 * (if ty = 9 then 16 else if ty = 10 then 32 else 8) +
      (if ty = 11 ∨ ty = 12 then 4 * (if p.g = 32 then 2 else 1) else 0)
    let rows := (List.range 16).map fun i =>
      u.reg f.b.toNat + BitVec.ofNat 64 i * (if f.c = 0xFF then BitVec.ofNat 64 bytes else u.reg f.c.toNat)
    let ck := if ty = 11 then 8 else if ty = 9 then 64 else if ty = 10 then 128 else 16
    let mac (i : Instr) (zero : Bool) : Prop :=
      Issues s i r u → s.planesWait r.key i = false →
      (∀ e, macTrap p u ty q zero = some e → exec i s = .next (s.begun.trapsAt r u e)) ∧
      (macTrap p u ty q zero = none → s.begun.drain u.key = .ok x →
        x.readActs (envOf i r u) u.begun bytes rows = .ok (t, acts) →
        ∃ last written, max (t.ck + 1) ((s.arrayAt r.core).lastE + 1) + ck - 1 = last ∧ max (t.ck + 23) (last + 7) = written ∧
          exec i s = .next (((t.setArray r.core { t.arrayAt r.core with lastE := last }).schedule written
            (.mmacWrite r.core)).awaits i r u (.mmac ⟨macWrites p q (macRows p u q zero acts), npcOf i u, none⟩)))
    mac (.mmac f) false ∧ mac (.mmacz f) true

/-- R197: the INT8 lane of a multiply-accumulate is the accumulator plus the exact sum of products, clamped to 32 bits, with SAT and the tile's
saturation mark exactly when the clamp changed it. -/
def Obligations.IntegerMacIsExactThenClamped : Prop :=
  ∀ (acc : Nat) (xs ys : List Nat), xs.length = ys.length →
    let sum := signed acc 32 + ((xs.zip ys).map fun p => signed p.1 8 * signed p.2 8).sum
    let c := max (-(2 ^ 31)) (min (2 ^ 31 - 1) sum)
    macPlain 1 acc (dotProduct (xs.map (matValue 1)) (ys.map (matValue 1))) =
      (lowBits c 32, if c = sum then 0 else flSAT, decide (c ≠ sum))

/-- R203, R204, R208, R210: `ssm.cfg` answers the check code of the block and keeps the pointer when it is 0; `ssm.run` runs no chunk of a finished or refused
block, and otherwise starts one, from the state read at its start, when the engine is free, or waits for it; `ssm.st` stores the state, rounded,
or does nothing to a block that is refused; `ssm.stat` answers the quad of TDONE; without a pointer the answer is the code 1. -/
def Obligations.StateSpaceInstructions : Prop :=
  ∀ (s : State) (r : SlotRef) (u : Ctx) (f : Fields) (x t : State) (bs : List Byte),
    let b := ssmBlock bs
    let code (k : Nat) : Word := BitVec.ofNat 64 (2 ^ 63 + k)
    let reads (p : Word) : Prop := s.begun.drain u.key = .ok x ∧ x.blockRead r.core u.begun p 128 128 = .ok t bs
    let a := t.arrayAt r.core
    (Issues s (.ssmCfg f) r u → reads (u.reg f.b.toNat) →
      let k := ssmCheck (u.reg f.b.toNat) b
      exec (.ssmCfg f) s = .next (t.replies (.ssmCfg f) r
        (if k = 0 then { u with ssmPtr := some (u.reg f.b.toNat) } else u) [.scalar f.a.toNat (BitVec.ofNat 64 k)] none)) ∧
    (Issues s (.ssmRun f) r u → u.ssmPtr = none →
      exec (.ssmRun f) s = .next (s.completes (.ssmRun f) r u (u.begun.setReg f.a.toNat (code 1)))) ∧
    (∀ p, Issues s (.ssmRun f) r u → u.ssmPtr = some p → reads p →
      (ssmCheck p b ≠ 0 →
        exec (.ssmRun f) s =
          .next ((t.leaveLine r.core u.key).replies (.ssmRun f) r u [.scalar f.a.toNat (code (ssmCheck p b))] none)) ∧
      (ssmCheck p b = 0 → b.tdone = b.t →
        exec (.ssmRun f) s =
          .next ((t.leaveLine r.core u.key).replies (.ssmRun f) r u [.scalar f.a.toNat (BitVec.ofNat 64 b.tdone)] none)) ∧
      (∀ y hs, ssmCheck p b = 0 → b.tdone ≠ b.t → a.holder = none → a.waiters = [] →
        (b.matrix = true → t.planesWait r.key (.ssmRun f) = false) →
        t.blockRead r.core u.begun (if b.tdone = 0 then b.ha else b.wa) (4 * b.n * b.p) 4 = .ok y hs →
        exec (.ssmRun f) s = .next (((y.setArray r.core { y.arrayAt r.core with holder := some u.key, waiters := [], ran := 0 }).startChunk
          r.core bs hs).awaits (.ssmRun f) r u (.ssmRun (u.reg f.b.toNat).toNat f.a.toNat (npcOf (.ssmRun f) u)))) ∧
      (∀ o, ssmCheck p b = 0 → b.tdone ≠ b.t → a.holder = some o → a.waiters.contains u.key = false →
        exec (.ssmRun f) s = .next ((t.setArray r.core { a with waiters := a.waiters ++ [u.key] }).awaits (.ssmRun f) r u .ssmEngine))) ∧
    (Issues s (.ssmSt f) r u → u.ssmPtr = none → exec (.ssmSt f) s = .next (s.completes (.ssmSt f) r u u.begun)) ∧
    (∀ p, Issues s (.ssmSt f) r u → u.ssmPtr = some p → reads p → ssmCheck p b ≠ 0 →
      exec (.ssmSt f) s = .next (t.replies (.ssmSt f) r u [] none)) ∧
    (∀ p y z hs, Issues s (.ssmSt f) r u → u.ssmPtr = some p → reads p → ssmCheck p b = 0 →
      t.blockRead r.core u.begun (if b.tdone = 0 then b.ha else b.wa) (4 * b.n * b.p) 4 = .ok y hs →
      let w := laneWidth f.ty.toNat / 8
      let vs := (elements 4 (b.n * b.p) hs).map fun h =>
        ((roundVal f.ty.toNat (decodeIeee 6 h) 0).1, sigFlags (decodeIeee 6 h) ||| (roundVal f.ty.toNat (decodeIeee 6 h) 0).2)
      y.blockWrite r.core u.begun (u.reg f.b.toNat) (vs.flatMap fun v => bytesOfNat v.1 w) w = .ok z [] →
      exec (.ssmSt f) s = .next (z.replies (.ssmSt f) r u [.flags (vs.foldl (fun acc v => acc ||| v.2) 0)] none)) ∧
    (Issues s (.ssmStat f) r u → u.ssmPtr = none →
      exec (.ssmStat f) s = .next (s.completes (.ssmStat f) r u (u.begun.setReg f.a.toNat (code 1)))) ∧
    (∀ p, Issues s (.ssmStat f) r u → u.ssmPtr = some p → s.begun.drain u.key = .ok x →
      x.blockRead r.core u.begun (p + 72) 8 8 = .ok t bs →
      exec (.ssmStat f) s = .next (t.replies (.ssmStat f) r u [.scalar f.a.toNat (BitVec.ofNat 64 (natOfBytes bs))] none))

/-! ## Engines, windows and messages -/

/-- R214 to R221: where the copies and `smerge` start. With a counter operand that passes its check, or none, and parameters in range, the destination
becomes pending on a new operation that has moved no byte yet; with bit 7 of IMM8 the unit splits its weight with it. A length of 0 or
a parameter out of range writes the token at once.
When the first burst falls due is a free value (log entry 3). -/
def Obligations.CopiesStartAnOperation : Prop :=
  ∀ (s : State) (r : SlotRef) (u : Ctx) (f : Fields),
    let a := u.reg f.b.toNat
    let b := u.reg f.c.toNat
    let c := u.reg f.d.toNat
    let n := u.reg f.e.toNat
    let counts : Prop := f.e = 0xFF ∨ ∃ keys, s.checkAddr u (tileOf r.core) n ⟨8, true, false, 8⟩ = .ok keys
    let starts (i : Instr) (kind : OpKind) (counter : Option Word) : Prop :=
      (f.imm.getLsbD 7 = false ∨ s.mustBorrow u = false) → ∃ t v o, exec i s = .next t ∧ t.unitAt r = some v ∧ v.pc = npcOf i u ∧
        v.pend = NSet.insert u.pend f.a.toNat ∧ v.regs = u.regs ∧ v.rows = u.rows ∧ t.work.ops = s.work.ops ++ [o] ∧
        o.kind = kind ∧ o.id = s.serial ∧ o.unit = u.key ∧ o.token = f.a.toNat ∧ o.done = 0 ∧ o.counter = counter ∧
        o.weight.isSome = f.imm.getLsbD 7 ∧ o.stop = none ∧ o.dead = false ∧ t.store = s.store ∧
        ∃ due, s.ck < due ∧ (due, Instr.copyBurst o.id) ∈ t.agenda
    let ends (i : Instr) (v : Word) : Prop := exec i s = .next (s.completes i r u (u.begun.setReg f.a.toNat v))
    let counter := if f.e = 0xFF then none else some n
    let bad : Word := BitVec.ofNat 64 (2 ^ 63 + 7)
    let sized (i : Instr) (kind : OpKind) : Prop := Issues s i r u → counts →
      (c = 0 → ends i 0) ∧ (2 ^ 40 ≤ c.toNat → ends i bad) ∧ (c ≠ 0 → c.toNat < 2 ^ 40 → starts i kind counter)
    let elements (i : Instr) (scatter : Bool) : Prop := Issues s i r u → counts →
      (12 < f.imm.toNat % 16 → ends i bad) ∧
      (f.imm.toNat % 16 ≤ 12 → starts i (.gather scatter a b c (f.imm.toNat % 16) none 0) counter)
    let x0 := (c.extractLsb' 32 3).toNat
    let y0 := (c.extractLsb' 36 2).toNat
    let x1 := (c.extractLsb' 40 3).toNat
    let y1 := (c.extractLsb' 44 2).toNat
    let code := s.apertureOf u (tileOf r.core) a
    sized (.cp f) (.copy a b c.toNat) ∧ sized (.cpFill f) (.fill a c.toNat b) ∧ elements (.cpGth f) false ∧
    elements (.cpSct f) true ∧
    (Issues s (.cpSlab f) r u → counts →
      (code ≠ 1 → code ≠ 2 → exec (.cpSlab f) s = .next (s.begun.trapsAt r u { cause := 7, addr := a, aux := 0 })) ∧
      ((code = 1 ∨ code = 2) → slabOk c = false → ends (.cpSlab f) bad) ∧
      ((code = 1 ∨ code = 2) → slabOk c = true → starts (.cpSlab f) (.slab (a.extractLsb' 0 20).toNat b (f.imm.getLsbD 0)
        ((c.extractLsb' 48 16).toNat + 1) (c.extractLsb' 0 21).toNat x0 y0 x1 y1) counter)) ∧
    (Issues s (.smerge f) r u → (n = 0 → ends (.smerge f) 0) ∧
      (n ≠ 0 → starts (.smerge f) (.merge a b c (n.extractLsb' 0 32).toNat (n.extractLsb' 32 32).toNat f.ty.toNat 0 0 [])
        none))

/-- R216, R222, R225, R235: what the events of an operation do. A stopped operation ends with the error token of code 1; a burst writes its
bytes and the operation goes on; the last byte ends it with its count; a failing access ends it with its code. A grant's answer is written before its token. A window fill without a
failure makes its window PRESENT, or ABSENT again under its mark, and lets every waiter through; a failed one makes it ABSENT with its code.

R228 to R231: collectives and messages take effect. Participants whose operands differ, or a length out of range, end with code 7;
otherwise the collective is performed (`State.collective`). A message with its payload read is queued behind those of its core while a place is free.
What a failing burst leaves, and the steps of a collective, are the model's reading (log entries 46 and 55). -/
def Obligations.EngineEvents : Prop :=
  (∀ (s : State) (o : Op), s.findOp o.id = some o →
    let err (code : Nat) : Word := BitVec.ofNat 64 (2 ^ 63 + o.done % 2 ^ 40 * 2 ^ 16 + code)
    (o.dead = true → exec (.copyBurst o.id) s = .next s) ∧
    (o.dead = false →
      (∀ m, o.stop = some m → exec (.copyBurst o.id) s = .next (s.endOp o (err 1) m)) ∧
      (o.stop = none →
        (∀ t p d bs z, s.nextBurst o = .write t p d bs → t.engineWrite o d bs = .ok z [] →
          exec (.copyBurst o.id) s = .next (z.afterBurst { p with done := o.done + bs.length })) ∧
        (∀ t n, s.nextBurst o = .finished t n → o.counter = none → (∀ w, o.kind ≠ .window w) →
          exec (.copyBurst o.id) s = .next (t.endOp o (BitVec.ofNat 64 n) .none)) ∧
        (∀ t n a, s.nextBurst o = .fail t n a → n ≠ 2 → (∀ w, o.kind ≠ .window w) →
          exec (.copyBurst o.id) s = .next (t.endOp o (err n) .none)) ∧
        (∀ t x, s.nextBurst o = .stall t x → exec (.copyBurst o.id) s = .next (t.stallOp o x))) ∧
      (∀ a c z, o.kind = .grant a c → (s.ctxOf o.unit).isSome = true → s.engineWrite o a (bytesOfNat c.toNat 8) = .ok z [] →
        exec (.grantAnswer o.id) s = .next (z.endOp o 8 .none)) ∧
      (∀ w, o.kind = .window w →
        let x := s.windowAt o.tile w
        let d := s.dropOp o.id
        let p := (d.setWindow o.tile w { x with state := 3, mark := false }).performWaiting o.tile w
        (o.code = 0 → exec (.windowFillEnd o.id) s = .next ((p.setWindow o.tile w
          { x with state := if x.mark then 1 else 3, mark := false }).releaseWindow o.tile w true)) ∧
        (o.code ≠ 0 → exec (.windowFillEnd o.id) s = .next ((d.setWindow o.tile w
          { x with state := 1, code := o.code }).releaseWindow o.tile w false))))) ∧
  (∀ (s : State) (o : Op), s.findOp o.id = some o → o.dead = false →
    (∀ fn op ty sc dst src len n, o.kind = .coll fn op ty sc dst src len n →
      let ops := s.joined o
      let differ := ops.any fun x => decide (x.kind.collKey ≠ o.kind.collKey)
      (differ = true ∨ collLenOk fn len = false →
        exec (.collectiveComplete o.id) s = .next (ops.foldl (fun s p => s.endOp p (BitVec.ofNat 64 (2 ^ 63 + 7)) .none) s)) ∧
      (differ = false → collLenOk fn len = true →
        exec (.collectiveComplete o.id) s = .next (s.collective o fn op ty len ops))) ∧
    (∀ recv src len bs core t, o.kind = .message recv src len (some bs) → s.earlierMessage o recv = false →
      s.drainUpto o.unit o.id = .ok t → t.heldBefore o.unit o.id = false → t.messageCore o recv = some core →
      let cls := (recv.extractLsb' 18 3).toNat
      let m : Msg := ⟨cls, o.uid, bs, o.weight.map fun k => (k, ⟨o.job, o.phase⟩), 0⟩
      (t.freePlace core = true → exec (.messageQueued o.id) s = .next
        (((t.setMsgs core (t.msgsOf core ++ [m])).arrive core cls).endOp { o with weight := none }
          (BitVec.ofNat 64 bs.length) .none)) ∧
      (t.freePlace core = false → exec (.messageQueued o.id) s = .next (t.scheduleFree 1 (.messageQueued o.id)))))

/-- R222 to R227: `tok.test` says whether a token is there; `tok.cancel` stops the operation of a pending register; the window
instructions bind, mark, drop and report a window of the tile.

R228: a collective's operation joins those at its scope under the next number of that scope; it is performed once every
participant has issued. -/
def Obligations.TokensWindowsAndCollectives : Prop :=
  (∀ (s : State) (r : SlotRef) (u : Ctx) (f : Fields),
    let tile := tileOf r.core
    let w := f.a.toNat
    let x := s.windowAt tile w
    let y := s.windowAt tile f.b.toNat
    let b := u.reg f.b.toNat
    let g := u.reg f.c.toNat
    let n := (u.reg f.d.toNat).toNat
    let lbase := (b.toNat % 2 ^ 20) / 128 * 128
    let len := (n + 127) / 128 * 128
    let done (i : Instr) (t : State) (v : Ctx) : Prop := exec i s = .next (t.completes i r u v)
    (Issues s (.tokTest f) r u → done (.tokTest f) s.begun (u.begun.setGuard w !(u.pend.contains f.b.toNat))) ∧
    (Issues s (.tokCancel f) r u → u.pend.contains f.b.toNat = false → done (.tokCancel f) s.begun u.begun) ∧
    (Issues s (.tokCancel f) r u → u.pend.contains f.b.toNat = true →
      let hit (o : Op) : Bool := o.kind.stoppable && (decide (o.unit = u.key) && decide (o.token = f.b.toNat))
      let stop (o : Op) : Op := if hit o = true then { o with stop := some .none, waits := none } else o
      let stopped := { s.begun with work := { s.work with ops := s.work.ops.map stop } }
      done (.tokCancel f) ((s.work.ops.filter fun o => hit o && o.waits.isSome).foldl
        (fun t o => t.scheduleFree 1 (.copyBurst o.id)) stopped) u.begun) ∧
    (Issues s (.winBind f) r u → s.apertureOf u tile b = 1 → s.apertureOf u tile g = 0 → lbase + len ≤ 2 ^ 20 →
      (n = 0 → done (.winBind f) (s.begun.unbindWindow tile w) u.begun) ∧
      (n ≠ 0 → done (.winBind f)
        (s.begun.bindWindow tile w lbase len (BitVec.ofNat 64 (g.toNat / 128 * 128))) u.begun)) ∧
    (Issues s (.winMark f) r u →
      (x.state = 3 ∨ x.code ≠ 0 → done (.winMark f) (s.begun.setWindow tile w { x with state := 1, code := 0 }) u.begun) ∧
      (x.state = 2 → x.code = 0 → done (.winMark f) (s.begun.setWindow tile w { x with mark := true }) u.begun) ∧
      (x.state ≠ 3 → x.code = 0 → x.state ≠ 2 → done (.winMark f) s.begun u.begun)) ∧
    (Issues s (.winDrop f) r u → done (.winDrop f) (s.begun.unbindWindow tile w) u.begun) ∧
    (Issues s (.winQ f) r u → done (.winQ f) s.begun (u.begun.setReg w (BitVec.ofNat 64
      (y.code * 256 + y.mark.toNat * 8 + (if y.code = 0 then 0 else 4) + y.state))))) ∧
  (∀ (s : State) (r : SlotRef) (u : Ctx) (f : Fields),
    let tile := tileOf r.core
    let scope := if f.scope = 6 then 6 * 2 ^ 40 + (u.reg f.e.toNat).toNat % 2 ^ 32 else if f.scope = 1 then 2 ^ 40 + tile
      else if f.scope = 2 then 2 * 2 ^ 40 + pcluOf tile else if f.scope = 3 then 3 * 2 ^ 40 + dieOf tile else 4 * 2 ^ 40
    let n := FMap.get 0 u.colls scope
    let coll (i : Instr) (fn : Nat) : Prop := Issues s i r u → scopeTrap u f = none → s.findOp s.serial = none →
      ∃ t v o, exec i s = .next t ∧ t.unitAt r = some v ∧ v.pc = npcOf i u ∧ v.pend = NSet.insert u.pend f.a.toNat ∧
        v.colls = FMap.set 0 u.colls scope (n + 1) ∧ v.regs = u.regs ∧ t.work.ops = s.work.ops ++ [o] ∧
        o.kind = .coll fn (f.imm.toNat % 8) f.ty.toNat scope (u.reg f.b.toNat) (u.reg f.c.toNat) (u.reg f.d.toNat).toNat n ∧
        o.token = f.a.toNat ∧ o.unit = u.key ∧ o.weight = none ∧ t.store = s.store ∧
        (({ s.begun with work := { s.work with ops := s.work.ops ++ [o] } }.joined o).length =
            { s.begun with work := { s.work with ops := s.work.ops ++ [o] } }.participants o scope →
          ∃ due, s.ck < due ∧ (due, Instr.collectiveComplete o.id) ∈ t.agenda)
    coll (.collRed f) 0 ∧ coll (.collBc f) 1 ∧ coll (.collAg f) 2)

/-- R68, R69, R230, R231: `msg.send` starts the transit of a message or writes its token at once; `msg.bind` binds a class of 0 to 6 to the unit; `msg.recv`
answers that nothing is bound, that nothing is queued, or takes the oldest message. -/
def Obligations.MessageInstructions : Prop :=
  ∀ (s : State) (r : SlotRef) (u : Ctx) (f : Fields),
    let b := u.reg f.b.toNat
    let len := (u.reg f.d.toNat).toNat
    let ok := messageOk u b len &&
      (s.teamTile u (tileOf r.core) (b.extractLsb' 0 7).toNat (b.extractLsb' 8 6).toNat).isSome
    let c := f.a.toNat
    let cls := f.c.toNat
    let cores := s.boundCores r u.key cls
    let back (m : Msg) (t : State) : State := match m.weight with
      | some (k, p) => t.returnWeight p k .none 0
      | none => t
    (Issues s (.msgSend f) r u → ok = false → exec (.msgSend f) s =
      .next (s.completes (.msgSend f) r u (u.begun.setReg c (BitVec.ofNat 64 (2 ^ 63 + 7))))) ∧
    (Issues s (.msgSend f) r u → ok = true → s.mustBorrow u = false → ∃ t v o, exec (.msgSend f) s = .next t ∧
      t.unitAt r = some v ∧ v.pc = npcOf (.msgSend f) u ∧ v.pend = NSet.insert u.pend c ∧ v.regs = u.regs ∧
      t.work.ops = s.work.ops ++ [o] ∧ o.kind = .message b (u.reg f.c.toNat) len none ∧ o.token = c ∧
      o.weight.isSome = true ∧ t.store = s.store ∧ ∃ due, s.ck < due ∧ (due, Instr.messageQueued o.id) ∈ t.agenda) ∧
    (Issues s (.msgBind f) r u → c < 7 → exec (.msgBind f) s = .next
      ((s.begun.modFab fun m => { m with binds := FMap.set none m.binds (8 * r.core + c) (some u.key) }).completes (.msgBind f)
        r u (if (s.msgsOf r.core).any (fun m => decide (m.cls = c)) then { u.begun with arrival := true } else u.begun))) ∧
    (s.issuing = some r → s.unitAt r = some u → 7 ≤ c →
      exec (.msgBind f) s = .next (s.begun.trapsAt r u { cause := 1, aux := firstWord (.msgBind f) })) ∧
    (Issues s (.msgRecv f) r u →
      (cores = [] → exec (.msgRecv f) s =
        .next (s.completes (.msgRecv f) r u (u.begun.setReg c 0x8000000000000001))) ∧
      (cores ≠ [] → (∀ k ∈ cores, s.queued k cls = false) → exec (.msgRecv f) s =
        .next (s.completes (.msgRecv f) r u (u.begun.setReg c 0x8000000000000000))) ∧
      (∀ core m, cores.find? (fun k => s.queued k cls) = some core →
        (s.msgsOf core).find? (fun m => decide (m.cls = cls)) = some m → m.payload = [] →
        let t := back m (s.begun.setMsgs core (removeFirst (fun m => decide (m.cls = cls)) (s.msgsOf core)))
        exec (.msgRecv f) s = .next (t.replies (.msgRecv f) r (if t.anyQueued r u.key then u else { u with arrival := false })
          [.scalar c (BitVec.ofNat 64 (m.uid.toNat * 2 ^ 16))] none)) ∧
      (∀ core m keys x t, cores.find? (fun k => s.queued k cls) = some core →
        (s.msgsOf core).find? (fun m => decide (m.cls = cls)) = some m → m.payload ≠ [] →
        s.checkAddr u (tileOf r.core) b (plainAcc m.payload.length true) = .ok keys → s.begun.drain u.key = .ok x →
        x.performWrite (x.who r.core u) 0 keys m.payload = .ok t [] →
        let y := back m (t.setMsgs core (removeFirst (fun m => decide (m.cls = cls)) (t.msgsOf core)))
        exec (.msgRecv f) s = .next (y.replies (.msgRecv f) r (if y.anyQueued r u.key then u else { u with arrival := false })
          [.scalar c (BitVec.ofNat 64 (m.payload.length + m.uid.toNat * 2 ^ 16))] none)))

/-! ## Tasks, launches and contexts -/

/-- R232, R297, R298: `spawn` counts its frame up, splits the weight, pushes the continuation and goes on at its target; `sync` waits until the
frame's count is 0; `done` counts down, returns the weight and goes on with the unit's youngest continuation, or becomes an idle worker.
That the count is changed before the weight is split is the model's reading (log entry 44). -/
def Obligations.TaskInstructions : Prop :=
  ∀ (s : State) (r : SlotRef) (u : Ctx) (f : Fields) (x y t : State),
    let a := u.reg 30
    let allowed (i : Instr) : Prop := a = 0 ∨ ∃ keys, s.begun.jnCheck (envOf i r u) u.begun a true = .ok keys
    let w := t.split u.begun
    let e := t.returnOwn u.begun .none
    let pops (b : State) (v : Ctx) : Prop :=
      (∀ z d, b.popEntry r.core v = .ok z d → exec (.done f) s = .next (z.putUnit r
        { ({ v with popping := false }.setReg 30 d.frame).setWeight (some d.k) with pc := BitVec.ofNat 64 (d.pc.toNat / 4 * 4) })) ∧
      (∀ z q, b.popEntry r.core v = .wait z q → exec (.done f) s = .next (z.awaits (.done f) r { v with popping := true } q)) ∧
      (b.popEntry r.core v = .none → ∃ z p, exec (.done f) s = .next z ∧ z.unitAt r = some p ∧ p.idle = true ∧
        p.pc = npcOf (.done f) u ∧ p.backoff = 256 ∧
        (z.slotAt r.key).mode = .waiting (.idleRound (b.ck + 1)) b.ck ∧ (b.ck + 1, Instr.idleWorkerRound u.key) ∈ z.agenda)
    (Issues s (.spawn f) r u → allowed (.spawn f) → s.mustBorrow u = false → s.begun.makeRoom r.core = .ok y →
      y.drain u.key = .ok x → x.Counted (.spawn f) r u a 1 t →
      exec (.spawn f) s = .next ((w.1.pushEntry r.core w.2.1 (npcOf (.spawn f) u) w.2.2).putUnit r
        { w.2.1 with pc := u.pc + BitVec.ofInt 64 (4 * (BitVec.ofNat 22 f.imm.toNat).toInt) })) ∧
    (Issues s (.sync f) r u → a = 0 → exec (.sync f) s = .next (s.completes (.sync f) r u u.begun)) ∧
    (∀ k keys old, Issues s (.sync f) r u → a ≠ 0 → s.begun.jnCheck (envOf (.sync f) r u) u.begun a false = .ok (k :: keys) →
      s.begun.drain u.key = .ok x → x.performAtHome (x.who r.core u) (k :: keys) false (fun _ => none) = .ok t old →
      (natOfBytes old = 0 → exec (.sync f) s = .next (t.replies (.sync f) r u [] none)) ∧
      (natOfBytes old ≠ 0 → exec (.sync f) s = .next (t.awaits (.sync f) r u (.sync a k (npcOf (.sync f) u))))) ∧
    (Issues s (.done f) r u → u.popping = false → allowed (.done f) → s.begun.drain u.key = .ok x →
      x.Counted (.done f) r u a (-1) t → pops e.1 e.2) ∧
    (Issues s (.done f) r u → u.popping = true → pops s.begun u.begun)

/-- R233, R235, R236: `post` counts the task's frame up, splits the weight and waits for its queue segment; `quiet.wait` returns the unit's own
weight and waits for its phase, or reports a quiet one; `grant` hands out the next coordinate of the launch's distributor grid once. -/
def Obligations.WorkInstructions : Prop :=
  ∀ (s : State) (r : SlotRef) (u : Ctx) (f : Fields) (x y t : State) (keys : List Nat) (bs : List Byte),
    let a := u.reg f.b.toNat
    let v := natOfBytes (y.forwarded u.key keys bs)
    let frame : Word := BitVec.ofNat 64 (v / 2 ^ 64)
    let seg := segmentOf (BitVec.ofNat 64 (v / 2 ^ 128))
    let w := t.split u.begun
    let g : Word := BitVec.ofNat 64 (a.toNat / 8 * 8)
    let code := s.apertureOf u (tileOf r.core) g
    (Issues s (.post f) r u → s.begun.checkAddr u.begun (tileOf r.core) a (plainAcc 32 false) = .ok keys →
      s.inReach (s.who r.core u).tag keys false = true → s.begun.performRead (s.who r.core u) keys f.hint.toNat = .ok y bs →
      (frame = 0 ∨ ∃ ks, y.jnCheck (envOf (.post f) r u) u.begun frame true = .ok ks) → y.mustBorrow u = false →
      y.drain u.key = .ok x → x.Counted (.post f) r u frame 1 t →
      exec (.post f) s = .next ((w.1.scheduleFree 1 (.queueSegmentAccept seg)).awaits (.post f) r w.2.1
        (.segmentFull seg ⟨u.phaseId, w.2.2, frame, BitVec.ofNat 64 (v % 2 ^ 64 / 4 * 4)⟩ (npcOf (.post f) u)))) ∧
    (Issues s (.quietWait f) r u → u.weight = none →
      (s.phaseQuiet u.phaseId = true → exec (.quietWait f) s =
        .next (s.completes (.quietWait f) r u (u.begun.setReg f.a.toNat (s.phaseStatus u.phaseId)))) ∧
      (s.phaseQuiet u.phaseId = false → exec (.quietWait f) s =
        .next (s.begun.awaits (.quietWait f) r u (.quiet f.a.toNat (npcOf (.quietWait f) u))))) ∧
    (∀ k, Issues s (.quietWait f) r u → u.weight = some k → exec (.quietWait f) s =
      .next ((s.begun.returnWeight u.phaseId k .none u.key).awaits (.quietWait f) r (u.setWeight none)
        (.quiet f.a.toNat (npcOf (.quietWait f) u)))) ∧
    (Issues s (.grant f) r u → (code = 1 ∨ code = 2) → ∃ z p o, exec (.grant f) s = .next z ∧ z.unitAt r = some p ∧
      p.pc = npcOf (.grant f) u ∧ p.pend = NSet.insert u.pend f.a.toNat ∧ p.regs = u.regs ∧
      z.work.ops = s.work.ops ++ [o] ∧ o.token = f.a.toNat ∧ z.store = s.store ∧
      (∃ due, s.ck < due ∧ (due, Instr.grantAnswer o.id) ∈ z.agenda) ∧
      (∀ l, s.launch u.launchId = some l →
        (l.desc.den = true → l.next < l.desc.dnx * l.desc.dny →
          o.kind = .grant g (BitVec.ofNat 64 (l.next / l.desc.dnx * 2 ^ 32 + l.next % l.desc.dnx)) ∧
            ∃ m, z.launch u.launchId = some m ∧ m.next = l.next + 1) ∧
        (l.desc.den = false ∨ l.desc.dnx * l.desc.dny ≤ l.next → o.kind = .grant g (BitVec.allOnes 64))))

/-- R237, R238, R317: `lnch` answers the error token of code 7 for a descriptor that is not aligned or fails its checks, and otherwise makes the launch and answers
its handle; `cancel` answers 1 when it names nothing that is live, and otherwise 0: the launches it names end once the halts of its ck are settled.
The number of a handle is the model's choice (log entry 31). -/
def Obligations.LaunchAndCancel : Prop :=
  ∀ (s : State) (r : SlotRef) (u : Ctx) (f : Fields) (x y z : State) (desc argb : List Byte) (j : Job),
    let a := u.reg f.b.toNat
    let reads (s t : State) (a : Word) (n : Nat) (v : List Byte) : Prop := ∃ keys bs,
      s.checkAddr u.begun (tileOf r.core) a (plainAcc n false) = .ok keys ∧ s.inReach (s.who r.core u).tag keys false = true ∧
      s.performRead (s.who r.core u) keys f.hint.toNat = .ok t bs ∧ v = t.forwarded u.key keys bs
    let refused : Prop := exec (.lnch f) s =
      .next (y.putUnit r { u.begun.setReg f.a.toNat (BitVec.ofNat 64 (2 ^ 63 + 7)) with pc := npcOf (.lnch f) u })
    let level := f.fn.toNat
    let h := (u.reg f.b.toNat).toNat
    let target := if h = 0 then s.ownTarget u level else h
    (Issues s (.lnch f) r u → s.begun.drain u.key = .ok x → reads x y a 128 desc → y.job u.job = some j →
      (a.toNat % 128 ≠ 0 → refused) ∧
      (a.toNat % 128 = 0 → y.apertureOf u (tileOf r.core) a ≠ 3 →
        (y.checkDesc j (natOfBytes desc) = none → refused) ∧
        (∀ d k bounds, y.checkDesc j (natOfBytes desc) = some (d, k) →
          (if d.argn = 0 then z = y ∧ argb = [] else reads y z d.arga (8 * d.argn) argb) →
          z.checkArgs j.tag (quadsOf d.argn argb) k.bufs = some bounds → z.mustBorrow u = false →
          let w := z.split u.begun
          let l := w.1.addLaunch j d (quadsOf d.argn argb) bounds (some (w.2.2, u.phaseId)) (w.1.issuerOrder r u)
          exec (.lnch f) s = .next (l.1.putUnit r
            { w.2.1.setReg f.a.toNat (BitVec.ofNat 64 l.2) with pc := npcOf (.lnch f) u })))) ∧
    (Issues s (.cancel f) r u → s.targetLive u.job level target = false →
      exec (.cancel f) s = .next (s.completes (.cancel f) r u (u.begun.setReg f.a.toNat 1))) ∧
    (Issues s (.cancel f) r u → s.targetLive u.job level target = true →
      exec (.cancel f) s = .next ((s.begun.askCancel u.job level target u.key).completes (.cancel f) r u
        (u.begun.setReg f.a.toNat 0))) ∧
    (∀ job, s.work.late = [.cancel job level target u.key] →
      let e := (s.modWork fun w => { w with late := [] }).endTargets (s.targets job level target) .cancel
        ((s.findUnit u.key).map (·.1))
      s.settleLate = e.schedule (e.ck + 1) (.launchPlacement (e.pidOf (e.tagOfJob job))))

/-- R71, R239 to R241: what context zero does to its core. `ctx.start` places a unit in the lowest empty slot and answers its number, or answers that none is free or that
the PC lies outside the tenant's sealed code; `ctx.reap` ends the unit of a slot; `ctx.part` changes the partition of a quiescent tile. From any other slot
they are illegal.
What an empty slot is, what counts as a copy of the tile, and what `ctx.reap` ends, is the model's reading (log entries 14, 38 and 47). -/
def Obligations.ContextZeroControlsItsCore : Prop :=
  ∀ (s : State) (r : SlotRef) (u : Ctx) (f : Fields),
    let pc := u.reg f.b.toNat
    let tile := tileOf r.core
    let k := 16 * r.core + f.b.toNat
    let q := s.quiescence tile
    let n := f.b.toNat
    let p : Part := if n = 16 then .p16 else if n = 8 then .p8 else .p4
    let answers (i : Instr) (t : State) (v : Word) : Prop := exec i s = .next (t.completes i r u (u.begun.setReg f.a.toNat v))
    let barred (i : Instr) : Prop := Issues s i r u → r.slot ≠ 0 →
      ∃ aux, exec i s = .next (s.begun.trapsAt r u { cause := 1, aux := aux })
    (Issues s (.ctxStart f) r u → r.slot = 0 →
      (s.placeSlot r.core = none → answers (.ctxStart f) s.begun 0x8000000000000001) ∧
      (∀ m, s.placeSlot r.core = some m → s.inOwnCode tile pc = false → answers (.ctxStart f) s.begun 0x8000000000000002) ∧
      (∀ m, s.placeSlot r.core = some m → s.inOwnCode tile pc = true → m ≠ 0 → m < 16 → ∃ t v, exec (.ctxStart f) s = .next t ∧
        t.unitAt ⟨r.core, m⟩ = some v ∧ (t.slotAt (16 * r.core + m)).mode = .ready (s.ck + 1) ∧ v.started = true ∧
        v.pc = BitVec.ofNat 64 (pc.toNat / 4 * 4) ∧ v.reg 0 = u.reg f.c.toNat ∧ v.tag = u.tag ∧ v.job = u.job ∧
        (∃ w, t.unitAt r = some w ∧ w.pc = npcOf (.ctxStart f) u ∧ (FMap.wf 0 u.regs = true → w.reg f.a.toNat = BitVec.ofNat 64 m) ∧
          ∀ n, n ≠ f.a.toNat → w.reg n = u.reg n) ∧ t.store = s.store)) ∧
    (Issues s (.ctxReap f) r u → r.slot = 0 →
      (s.slotAt k = Slot.empty → answers (.ctxReap f) s.begun 1) ∧
      ((s.slotAt k).unit.isSome = true →
        exec (.ctxReap f) s = .next ((s.begun.endSlot k .cancel).putUnit r
          { u.begun.setReg f.a.toNat 0 with pc := npcOf (.ctxReap f) u }))) ∧
    (Issues s (.ctxPart f) r u → r.slot = 0 →
      (q ≠ 0 → answers (.ctxPart f) s.begun (BitVec.ofNat 64 q)) ∧
      (q = 0 → n ≠ 16 → n ≠ 8 → n ≠ 4 → answers (.ctxPart f) s.begun 4) ∧
      (q = 0 → (n = 16 ∨ n = 8 ∨ n = 4) → exec (.ctxPart f) s = .next ((s.begun.repartition tile p).putUnit r
        { (if f.a.toNat < p.scalars then (u.begun.trim p).setReg f.a.toNat 0 else u.begun.trim p) with
          pc := npcOf (.ctxPart f) u }))) ∧
    barred (.ctxStart f) ∧ barred (.ctxReap f) ∧ barred (.ctxPart f) ∧
    (∀ p, checkFields p (.ctxPart f) = .ok → n ≤ 63)


/-! ## Events of the machine -/

/-- R55, R56, R59, R63, R64, R66, R67, R70: a core that has an eligible slot issues from it; the fills of an instruction cache install their line; a transfer ends
with its unit in the target slot, and the unit's buffered stores with it; a tile's migration queue is served; the timers of `sleep` and `realign` let their units go on.
That a fetch which must wait is no issue is the model's reading (log entry 33). -/
def Obligations.BarrelEvents : Prop :=
  ∀ (s : State),
    (∀ c, s.pickSlot c = none → exec (.barrelIssue c) s = .next s) ∧
    (∀ c n u, s.pickSlot c = some n → s.unitAt ⟨c, n⟩ = some u → u.failed = none → u.deferred = none → s.fetchWaits ⟨c, n⟩ u = none →
      ∃ t, exec (.barrelIssue c) s = .next t ∧ t.issuing = some ⟨c, n⟩ ∧ t.unitAt ⟨c, n⟩ = some u ∧ t.store = s.store ∧
        (t.slotAt (16 * c + n)).issued = some s.ck) ∧
    (∀ c n u w, s.pickSlot c = some n → s.unitAt ⟨c, n⟩ = some u → u.failed = some w →
      exec (.barrelIssue c) s =
        .next { s.takeTrap ⟨c, n⟩ { u with failed := none, running := none } { w with rpc := u.pc } with cursor := c }) ∧
    (∀ c n u t, s.pickSlot c = some n → s.unitAt ⟨c, n⟩ = some u → u.failed = none → u.deferred = none → s.fetchWaits ⟨c, n⟩ u = some t →
      exec (.barrelIssue c) s = .next { t with cursor := c }) ∧
    (∀ fill tile x, let y := (s.findLine fill.line 1 ⟨0, s.ownerOf tile⟩ (if fill.demand then 2 else 3)).1
      fill.uncorr = false → fill.tiles = [tile] → (y.extentAt (extentOf (fill.line * 128))).state = .present →
      y.openHome ⟨tile, coreOf tile 0, 0, 0, (y.ownerOf tile).getD 0, 0⟩ fill.line 0 0 = .ok x [] →
      ∃ t, exec (.icacheFill fill) s = .next t ∧ t.fab.icache.contains (icacheKey tile fill.line) = true ∧ t.store = x.store) ∧
    (∀ k m since sl u, FMap.wf Slot.empty s.fab.slots = true → s.findUnit u.key = some (k, sl, u) → s.slotAt k = sl →
      sl.mode = .migrating m since → sl.unit = some u → (s.slotAt m).unit = none → k ≠ m → s.haltedTag u.tag = false →
      ∃ t, exec (.migrationTransferEnd u.key) s = .next t ∧ t.slotAt m = ⟨.ready s.ck, none, some u⟩ ∧ (t.slotAt k).unit = none ∧
        t.store = s.store ∧ ∀ e ∈ t.fab.sbuf, e.who.unit = u.key → e.who.core = m / 16) ∧
    (∀ tile, s.haltedTile tile = true → exec (.migrationQueueGrant tile) s = .next s) ∧
    (∀ tile, s.nextGrant tile = none → s.migrationCycle tile = none → exec (.migrationQueueGrant tile) s = .next s) ∧
    (∀ tile k c n u, s.haltedTile tile = false → s.nextGrant tile = some (k, c, n) → (s.slotAt k).unit = some u →
      exec (.migrationQueueGrant tile) s = .next ((s.startMigration (refOfKey k) u c n).serveQueue tile 47)) ∧
    (∀ (k : Nat) (sl : Slot) (u : Ctx) (n since : Nat) (npc : Word), s.fab.slots = [(k, sl)] → sl.unit = some u → n ≤ s.ck →
      s.haltedTag u.tag = false →
      let done : Slot := { sl with unit := some { u with pc := npc }, mode := .ready (s.ck + 1) }
      (sl.mode = .waiting (.sleep (some n) npc) since → exec .sleepTimeout s = .next (s.setSlot k done)) ∧
      (∀ us, sl.mode = .waiting (.realign n us npc) since → exec .realignTimeout s = .next (s.setSlot k done)))

/-- R233, R293, R294, R299, R300, R338: a root counts a return and is quiet when its units are all back; a borrow takes a fresh half; an idle worker's round is a safe point, at which it retires in a quiet
phase, takes the work it finds, or waits twice as long; a queue segment with room takes the oldest post that waits for it.
That a round of an idle worker is one step is the model's choice (log entry 45). -/
def Obligations.TaskEvents : Prop :=
  ∀ (s t : State),
    (∀ ret : WeightReturn,
      let mine := s.fab.sbuf.filter fun e => ofParty ret e.who.unit e.launch && decide (e.num < ret.upto)
      let x := t.modPhase ret.phase fun p => { p with ret := p.ret + 2 ^ (p.depth - ret.exp), fault := p.fault || ret.mark == .fault,
                                                      cancel := p.cancel || ret.mark == .cancel }
      (s.drainList mine = .blocked t ∨ s.drainList mine = .ok t ∧ t.writesLeft ret = true →
        exec (.rootReturn ret) s = .next (t.scheduleFree 1 (.rootReturn ret))) ∧
      (s.drainList mine = .ok t → t.writesLeft ret = false → x.phaseQuiet ret.phase = false → exec (.rootReturn ret) s = .next x) ∧
      (s.drainList mine = .ok t → t.writesLeft ret = false → x.phaseQuiet ret.phase = true →
        exec (.rootReturn ret) s = .next ((x.quietNow ret.phase).quiesced ret.phase))) ∧
    (∀ k sl u since p, s.findUnit u.key = some (k, sl, u) → s.slotAt k = sl → sl.mode = .waiting .borrow since → s.haltedTag u.tag = false →
      s.phase u.phaseId = some p → p.exp + 2 ^ (p.depth - 1) ≤ 2 ^ 128 - 1 → ∃ y, exec (.rootBorrow u.key) s = .next y ∧
        y.slotAt k = { sl with unit := some (u.setWeight (some 1)), mode := match u.running with
          | some _ => .resuming since
          | none => .ready (s.ck + 1) } ∧
        y.phase u.phaseId = some { p with ret := p.ret + 1, exp := p.exp + 2 ^ (p.depth - 1),
                                          borrows := min (2 ^ 32 - 1) (p.borrows + 1) }) ∧
    (∀ k sl u n since, s.findUnit u.key = some (k, sl, u) → sl.mode = .waiting (.idleRound n) since →
      let p := if s.ck < n ∨ ¬ s.safeNow u then (s, u) else s.passSafe u
      let found := p.1.findWork (k / 16) p.2
      let acts : Prop := n ≤ s.ck ∧ p.1.haltedTag p.2.tag = false
      (s.ck < n → exec (.idleWorkerRound u.key) s = .next s) ∧
      (p.1.ck = s.ck → n ≤ s.ck → p.1.haltedTag p.2.tag = true → exec (.idleWorkerRound u.key) s = .next p.1) ∧
      (p.1.ck = s.ck → acts → p.1.phaseQuiet p.2.phaseId = true →
        exec (.idleWorkerRound u.key) s = .next (p.1.retireUnit k { p.2 with idle := false } .none)) ∧
      (∀ x pc frame w, p.1.ck = s.ck → acts → p.1.phaseQuiet p.2.phaseId = false → found = .work x pc frame w →
        exec (.idleWorkerRound u.key) s = .next (x.setSlot k { x.slotAt k with
          unit := some (p.2.takeWork pc frame w), mode := .ready (x.ck + 1) })) ∧
      (∀ x, p.1.ck = s.ck → acts → p.1.phaseQuiet p.2.phaseId = false → found = .wait x →
        exec (.idleWorkerRound u.key) s = .next ((x.setSlot k { sl with
          unit := some p.2, mode := .waiting (.idleRound (x.ck + 1)) since }).schedule (x.ck + 1) (.idleWorkerRound u.key))) ∧
      (∀ x, p.1.ck = s.ck → acts → p.1.phaseQuiet p.2.phaseId = false → found = .none x →
        exec (.idleWorkerRound u.key) s = .next ((x.setSlot k { sl with
          unit := some { p.2 with backoff := min 4096 (2 * p.2.backoff) },
          mode := .waiting (.idleRound (x.ck + p.2.backoff)) since }).schedule (x.ck + p.2.backoff)
            (.idleWorkerRound u.key)))) ∧
    (∀ seg, 4096 ≤ (s.segAt seg).length → exec (.queueSegmentAccept seg) s = .next s) ∧
    (∀ seg k sl task npc since, (s.segAt seg).length < 4096 → sl.mode = .waiting (.segmentFull seg task npc) since →
      s.oldestWaiter (fun _ w => match w with
        | .segmentFull x _ _ => decide (x = seg)
        | _ => false) = some (k, sl) →
      (∀ q, s.oldestPost seg = some q → earlier (q.since, q.slot) (since, k) = false) →
      let y := s.complete k npc id
      exec (.queueSegmentAccept seg) s = .next ((y.setSeg seg (y.segAt seg ++ [task])).wakeIdle task.phase)) ∧
    (∀ seg q, (s.segAt seg).length < 4096 → s.oldestPost seg = some q → q.seg = seg →
      s.oldestWaiter (fun _ w => match w with
        | .segmentFull x _ _ => decide (x = seg)
        | _ => false) = none →
      let y := s.modWork fun w => { w with posts := removeFirst (fun x => decide (x = q)) w.posts }
      exec (.queueSegmentAccept seg) s = .next ((y.setSeg seg (y.segAt seg ++ [q.task])).wakeIdle q.task.phase))

/-- R321 to R327, R338 to R347, R352, R404: launches are placed for a partition that runs; a unit taken from its slot waits with its launch and its slot is free; a restored unit goes on, or ends its
launch with the fault mark when its image is bad; a slice starts again when no rival waits; a period follows a retired one; a partition's exchange starts, and is made when its time
has come; a unit that has not been taken by the deadline ends; a hang is declared; a gathering gang reserves the slots of a tile as they are free, or, where an older gang of its job
holds one, releases all and is Ready again with its ticket.
How a gang gathers, and the steps of a placement, of a slice's end and of an exchange, are the model's choice (log entries 14, 38 and 39). -/
def Obligations.LaunchAndSwapEvents : Prop :=
  ∀ (s : State),
    (∀ pid j t, s.work.jobs.find? (fun j => decide (j.pid = pid)) = some j → s.swapping pid = false → s.tenant j.tag = some t →
      t.halted = false → exec (.launchPlacement pid) s = .next (s.decideJob j)) ∧
    (∀ pid, s.work.jobs.find? (fun j => decide (j.pid = pid)) = none → exec (.launchPlacement pid) s = .next s) ∧
    (∀ j t, s.work.jobs = [j] → s.swapping j.pid = false → s.tenant j.tag = some t → t.halted = false →
      exec .preemptionGrant s = .next (s.grantPreemption j)) ∧
    (∀ k sl u rpc, s.findUnit u.key = some (k, sl, u) → sl.mode = .parked (.taken rpc) → s.haltedTag u.tag = false →
      let p : Pending := ⟨u.ly * u.tw + u.lx, u.lslot, some (u.setPurposes []), rpc, k / 16, none, s.dataSeal u.tag, false⟩
      exec (.spillComplete u.key) s = .next (((((s.modLaunch u.launchId fun l => { l with queue := l.queue ++ [p] }).freeSlot k
        u.tag).settleTaking u.launchId).schedule (s.ck + 1) (.launchPlacement (s.pidOf u.tag))))) ∧
    (∀ unit id p u k, s.restoringUnit unit = some (id, p, u, k) → s.haltedTag u.tag = false →
      (p.bad = true ∨ s.opens u.tag p.under false = false → exec (.unitResume unit) s =
        .next ((s.logEvent 7 8 u.key 0 u.uid.toNat (some u.tag)).endLaunch id .fault none)) ∧
      (p.bad = false → s.opens u.tag p.under false = true →
        let x := s.modLaunch id fun l => { l with queue := removeFirst (fun q => decide (q = p)) l.queue }
        let w := if tileOf p.core = tileOf (k / 16) then u else u.setStatBit 24 true
        let v := match x.launch id with
          | some l => if l.taking then w.setPurposes [.preempt] else w
          | none => w
        exec (.unitResume unit) s = .next ((x.setSlot k { Slot.empty with unit := some v }).resumeUnit k v p.rpc))) ∧
    (∀ l j t, s.work.launches = [l] → l.id.handle ≠ 1 → l.state = .placed → l.sliceEnd ≠ 0 → l.sliceEnd < s.ck → s.work.swaps = [] →
      s.work.swapped = [] → s.job l.id.job = some j → s.tenant j.tag = some t → t.halted = false → ∃ x y, exec .timeSliceExpiry s = .next x ∧
        x.launch l.id = some y ∧ y.sliceEnd = l.sliceEnd + t.slice ∧ y.taking = l.taking ∧ x.fab = s.fab ∧
        (l.sliceEnd + t.slice + 1, Instr.timeSliceExpiry) ∈ x.agenda) ∧
    (∀ run r, s.work.runs.find? (fun r => decide (r.id = run)) = some r → r.left = some 0 →
      ∃ x, exec (.periodSubmit run) s = .next x ∧ (∀ q ∈ x.work.runs, q.id ≠ run) ∧ x.work.launches = s.work.launches) ∧
    (∀ run r i, s.work.runs.find? (fun r => decide (r.id = run)) = some r → r.left ≠ some 0 →
      (∀ h ∈ r.last, s.launchState r.job h = .retired) → s.store.images.find? (fun i => decide (i.base = r.image)) = some i →
      let w := s.submitActors r.job r.phase 0 (r.period + 1) 0 [] i.actors
      exec (.periodSubmit run) s = .next (w.1.modWork fun k => { k with
        runs := modifyFirst (fun x => decide (x.id = run)) (fun x => { x with
          left := x.left.map (· - 1), period := x.period + 1, last := w.2.2.map (·.2) }) k.runs })) ∧
    (∀ pid t, s.tenantOfPid pid = some t → t.halted = true → exec (.partitionSwap pid) s = .next s) ∧
    (∀ pid t, s.tenantOfPid pid = some t → t.halted = false →
      (s.work.swaps.find? (fun r => decide (r.pid = pid)) = none → exec (.partitionSwap pid) s = .next (s.startSwap t)) ∧
      (∀ r n, s.work.swaps.find? (fun r => decide (r.pid = pid)) = some r → r.until_ = some n → n ≤ s.ck →
        exec (.partitionSwap pid) s = .next (s.exchangeImages t))) ∧
    (∀ r t, s.work.swaps = [r] → r.until_ = none → s.tenantOfPid r.pid = some t → t.halted = false →
      r.deadline ≤ s.ck →
      (s.endUntaken t).fab.slots = [] → exec .swapDeadline s = .next (s.endUntaken t)) ∧
    (∀ j, s.work.jobs = [j] → j.idleFrom ≠ 0 → j.hung = none → j.idleFrom + 4095 ≤ s.ck → s.jobStuck j = true →
      exec .hangDeclared s = .next (s.declareHang j)) ∧
    (∀ l o rank, s.launch l.id = some l →
      let c := coreOf (l.desc.tileAt o rank) l.desc.kind
      let ks := ((s.freeSlots c) ++ (s.emptySlots c).filter fun n => s.slotReserved (16 * c + n)).map (16 * c + ·)
      let mine := (ks.filter fun k => !l.reserved.contains k).take (l.need rank - l.heldOn o rank)
      let rivals := s.holders l mine
      s.partOf (l.desc.tileAt o rank) = l.desc.part →
      ((∃ x ∈ rivals, x.ticket.getD 0 < l.ticket.getD 0) → ∃ y, (s.gatherTile l o rank).launch l.id = some y ∧ y.state = .ready ∧
        y.reserved = [] ∧ y.ticket = l.ticket ∧ y.entered = s.ck + 1) ∧
      (rivals = [] → ∃ y, (s.gatherTile l o rank).launch l.id = some y ∧ y.state = l.state ∧
        y.reserved = l.reserved ++ mine))

/-- R246, R249 to R253, R365, R375, R387 to R394, R414: the events of memory. A bank that nothing has touched for 65,536 ck, or an L2 way, enters retention; a bank is awake again 576 ck after an access; an
extent moves between the package and the tier; dirty bytes reach their home; old seals are renewed; soft errors stay until they are found; an expired revocation ends the units that have not passed a safe
point.
When a soft error is found, that an extent is brought in or evicted in one step, and when a compaction waits, is the model's choice (log entries 20, 21 and 28). -/
def Obligations.MemoryEvents : Prop :=
  ∀ (s : State),
    (∀ b last, b < firstWay → s.bankAt b = .awake last → (last + 65536 ≤ s.ck → exec (.retentionEntry b) s =
        .next ((s.setBank b (.entering (s.ck + 461) false)).schedule (s.ck + 461) .retentionExitComplete)) ∧
      (s.ck < last + 65536 → exec (.retentionEntry b) s = .next s)) ∧
    (∀ w last, w < 5120 → s.wayAt w = .awake last → last + 65536 ≤ s.ck → exec (.retentionEntry (firstWay + w)) s =
      .next ((s.setWay w (.entering (s.ck + 461) false)).schedule (s.ck + 461) .retentionExitComplete)) ∧
    (∀ b n, s.store.banks = [(b, .exiting n)] → s.store.ways = [] → n ≤ s.ck → s.store.errors = [] → ∃ t, exec .retentionExitComplete s = .next t ∧
      t.bankAt b = .awake s.ck ∧ ∀ k, t.byteAt k = s.byteAt k) ∧
    (∀ b n wanted, s.store.banks = [(b, .entering n wanted)] → s.store.ways = [] → n ≤ s.ck → s.store.errors = [] →
      ∃ t, exec .retentionExitComplete s = .next t ∧ t.bankAt b = (if wanted then .exiting (s.ck + 576) else .retained) ∧ ∀ k, t.byteAt k = s.byteAt k) ∧
    (∀ die p n, s.belowReserve die = true → s.tierPort = some p → s.evictNext die = some n →
      exec (.extentEviction die) s = .next (((s.flushExtent n).setExtent n
        { (s.flushExtent n).extentAt n with state := .absent, place := .cxl p }).checkReserve die)) ∧
    (∀ die, s.belowReserve die = true → s.tierPort = none ∨ s.evictNext die = none →
      exec (.extentEviction die) s = .next (s.checkReserve die)) ∧
    (∀ die, s.belowReserve die = false → exec (.extentEviction die) s = .next s) ∧
    (∀ n p, let e := s.extentAt n
      e.state = .moving → e.target = .cxl p → s.cutOff e.place = false → s.cutOff (.cxl p) = false → s.compacting n = [] →
      exec (.extentMoveEnd n) s =
        .next ((s.setExtent n { e with state := .present, place := .cxl p, target := .none }).releaseExtent n)) ∧
    (∀ r t, s.nextRequest = some r → (s.extentAt r.extent).state = .absent → s.bringIn r = some t →
      exec .placementRequestServed s = .next t) ∧
    (s.nextRequest = none → exec .placementRequestServed s = .next s) ∧
    (∀ tile line l, s.l1Copy (s.l1Of tile line) line = some l → exec (.l1WriteBack tile line) s = .next (s.evictCopy l)) ∧
    (∀ tile line, s.l1Copy (s.l1Of tile line) line = none → exec (.l1WriteBack tile line) s = .next s) ∧
    (∀ (copy : ResealCopy) t, s.tenant copy.tag = some t →
      let x := s.sealOf copy.line
      (x.period = copy.stamp → x.renew t ≠ x → s.poisoned copy.line = false →
        exec (.resealCopyArrival copy) s = .next (s.setSeal copy.line (x.renew t))) ∧
      (x.period ≠ copy.stamp → exec (.resealCopyArrival copy) s = .next s)) ∧
    (∀ tag t n, s.tenant tag = some t → t.sweep = some n →
      (s.nextExtent tag n = none → t.swept ≤ s.ck → exec (.rekeySweep tag) s = .next (s.endSweep t)) ∧
      (s.nextExtent tag n = none → s.ck < t.swept → exec (.rekeySweep tag) s = .next (s.schedule t.swept (.rekeySweep tag))) ∧
      (∀ m e, s.nextExtent tag n = some (m, e) → e.onPeer = true → exec (.rekeySweep tag) s =
        .next ((s.modTenant tag fun x => { x with sweep := some (m + 1) }).scheduleFree 1 (.rekeySweep tag))) ∧
      (∀ m e, s.nextExtent tag n = some (m, e) → e.onPeer = false → e.state = .present → exec (.rekeySweep tag) s =
        .next (((s.resealExtent m t).modTenant tag fun x => { x with sweep := some (m + 1) }).scheduleFree 1 (.rekeySweep tag))) ∧
      (∀ m e, s.nextExtent tag n = some (m, e) → e.onPeer = false → e.state = .absent → exec (.rekeySweep tag) s =
        .next (((s.modTenant tag fun x => { x with sweep := some m }).requestExtent m 0 true).scheduleFree 1 (.rekeySweep tag)))) ∧
    (∀ tile word bits, word < 2 ^ 17 → let k := scratchKey tile 0 / 8 + word
      exec (.softError ⟨.scratchWord tile word, bits, false⟩) s = .next (s.setErrors k (FMap.get 0 s.store.errors k + bits))) ∧
    (∀ line word bits, word < 16 → let k := 16 * line + word
      exec (.softError ⟨.dramLine line word, bits, true⟩) s = .next (s.setErrors k (FMap.get 0 s.store.errors k + 3))) ∧
    (∀ r key u, s.firm.revs = [r] → r.deadline ≤ s.ck → r.units = [key] → s.ctxOf key = some u →
      exec .revokeDeadline s = .next ((s.logEvent 10 10 0 0 u.uid.toNat (some r.tag)).endWithJob u.launchId .cancel))

/-- R275, R277, R378, R392, R397 to R399, R408 to R415, R422, R423: links, devices and power. A CXL port that goes down suspends what lies
behind it and is given its time to retrain; what is not back by then is lost; traffic moves off a failed carr link, and a peer that nothing reaches is
given up; an inbound request meets its checks in order; a device-register read goes on part by part and completes, or traps; a peer's request is
performed or kept; a rekey is prepared and switched, which drops the streams keyed before it; a reading above 110 °C after one above 110 °C halts every
partition and logs the hottest sensor that both name; power and reset start the machine again. An event that meets nothing to act on changes nothing.
What is lost behind a port, that start-up is one step, what peers do, and which sensor the trip looks at, is the model's reading (log entries 22, 23, 43, 54, 58 and 61). -/
def Obligations.LinkAndPowerEvents : Prop :=
  ∀ (s : State),
    let links (x : State) (g : Links → Links) : State := x.modFirm fun f => { f with links := g f.links }
    (∀ p, s.firm.links.cxlDown.contains p = false → ∃ t, exec (.cxlPortDown p) s = .next t ∧
      t.firm.links.cxlDown = NSet.insert s.firm.links.cxlDown p ∧ (s.ck + linkLimit, Instr.cxlRetrainTimeout) ∈ t.agenda ∧
      (s.store.l1 = [] → t.store.mem = s.store.mem)) ∧
    (∀ p, s.firm.links.cxlDown.contains p = true → exec (.cxlPortDown p) s = .next s) ∧
    ((∀ e ∈ s.firm.links.cxlTrain, s.ck < e.2) → exec .cxlRetrainTimeout s = .next s) ∧
    (∀ p n, s.firm.links.cxlTrain = [(p, n)] → n ≤ s.ck → ∃ x : State, x.firm.links.cxlTrain = [] ∧ x.store = s.store ∧
      exec .cxlRetrainTimeout s = .next (x.loseExtents (x.extentsAt fun e => e.behind (.cxl p)) 3)) ∧
    (∀ p, FMap.get 0 s.firm.links.cxlTrain p = 0 → exec (.cxlPortRetrained p) s = .next s) ∧
    (∀ p, FMap.get 0 s.firm.links.cxlTrain p ≠ 0 →
      let x := links s fun l => { l with cxlDown := NSet.erase l.cxlDown p, cxlTrain := FMap.set 0 l.cxlTrain p 0 }
      x.firm.links.cxlDown.contains p = false ∧
      exec (.cxlPortRetrained p) s = .next (x.restore (x.extentsAt fun e => e.suspended (.cxl p)))) ∧
    (∀ l, s.firm.links.carrDown.contains l = true → exec (.carrLinkFailure l) s = .next s) ∧
    (∀ l, s.firm.links.carrDown.contains l = false → ∃ t, exec (.carrLinkFailure l) s = .next t ∧
      t.firm.links.carrDown = NSet.insert s.firm.links.carrDown l ∧
      ((s.peerPkgs.filter fun p => decide (routeTo p s.firm.links.carrDown = some l)) = [] → t.store = s.store)) ∧
    ((∀ e ∈ s.firm.links.carrMoving, s.ck < e.2) → (∀ e ∈ s.firm.links.carrTrain, s.ck < e.2) →
      exec .carrRouteMoveEnd s = .next s) ∧
    (∀ p n, s.firm.links.carrMoving = [(p, n)] → n ≤ s.ck → (∀ e ∈ s.firm.links.carrTrain, s.ck < e.2) →
      ∃ x : State, x.firm.links.carrMoving = [] ∧ x.store = s.store ∧
      exec .carrRouteMoveEnd s = .next (x.restore (x.extentsAt fun e => e.suspended (.peer p)))) ∧
    (∀ l n, s.firm.links.carrTrain = [(l, n)] → n ≤ s.ck → s.firm.links.carrMoving = [] → ∃ t, exec .carrRouteMoveEnd s = .next t ∧
      t.firm.links.carrTrain = [] ∧ t.firm.links.carrDown = s.firm.links.carrDown.filter (· ≠ l)) ∧
    ((∀ e ∈ s.firm.links.unreach, s.ck < e.2) → exec .peerUnreachableTimeout s = .next s) ∧
    (∀ p n, s.firm.links.unreach = [(p, n)] → n ≤ s.ck → ∃ x : State, x.firm.links.unreach = [] ∧ x.store = s.store ∧
      exec .peerUnreachableTimeout s = .next (x.loseExtents (x.extentsAt fun e => e.behind (.peer p)) 4)) ∧
    (∀ p, let x := (links s fun l => { l with hostDown := NSet.insert l.hostDown p }).modStore fun m =>
        { m with inbound := m.inbound.filter fun e => decide (e.2.port ≠ p) }
      (s.firm.links.hostDown.contains p = true → exec (.hostLinkDown p) s = .next s) ∧
      (s.firm.links.hostDown.contains p = false → p = 0 ∨ s.firm.links.hostDown.contains 0 = true →
        exec (.hostLinkDown p) s = .next (x.failDevregs fun _ => true)) ∧
      (s.firm.links.hostDown.contains p = false → p ≠ 0 → s.firm.links.hostDown.contains 0 = false →
        exec (.hostLinkDown p) s = .next x)) ∧
    (∀ req : InboundReq,
      (s.firm.links.hostDown.contains req.port = true → exec (.inboundRequest req) s = .next s) ∧
      (s.firm.links.hostDown.contains req.port = false →
        (req.addr.extractLsb' 56 8 ≠ 0 ∨ (req.addr.extractLsb' 54 2).toNat = 3 → exec (.inboundRequest req) s = .next (s.refuse req 1)) ∧
        (req.addr.extractLsb' 56 8 = 0 → (req.addr.extractLsb' 54 2).toNat ≠ 3 →
          (s.windowsFor req = [] → exec (.inboundRequest req) s = .next (s.failInbound req none 1 1)) ∧
          (s.windowsFor req ≠ [] → (∀ w ∈ s.windowsFor req, s.ideOk req w = false) →
            exec (.inboundRequest req) s = .next (s.failInbound req none 2 1)) ∧
          (∀ w t, (s.windowsFor req).find? (s.ideOk req) = some w →
            let kept (x : State) : State := x.modStore fun m => { m with inbound := m.inbound ++ [(w.tag, req)] }
            (s.inboundReach w.tag req = false → exec (.inboundRequest req) s = .next (s.failInbound req (some w.tag) 3 2)) ∧
            (s.inboundReach w.tag req = true → blockedBehind req s.store.inbound = true →
              exec (.inboundRequest req) s = .next (kept s)) ∧
            (s.inboundReach w.tag req = true → blockedBehind req s.store.inbound = false →
              (s.performInbound w.tag req = (t, true) → exec (.inboundRequest req) s = .next t) ∧
              (s.performInbound w.tag req = (t, false) → exec (.inboundRequest req) s = .next (kept t))))))) ∧
    (∀ k sl u addr p rest got load dsts npc watch since (bs : List Byte), s.findUnit u.key = some (k, sl, u) →
      sl.mode = .waiting (.devreg addr (p :: rest) got load dsts npc watch) since → bs.length = p.2 →
      (exec (.devregReadCompletion u.key none) s = .next (s.failDevreg k u addr (p :: rest) got.length load dsts)) ∧
      (rest = [] → watch = none → exec (.devregReadCompletion u.key (some bs)) s =
        .next (s.complete k npc fun _ => u.applyReply ⟨loadWrites load dsts (got ++ bs), npc, none⟩)) ∧
      (∀ x, rest = [] → watch = some x → exec (.devregReadCompletion u.key (some bs)) s =
        .next (s.takeTrap (refOfKey k) (u.applyReply ⟨loadWrites load dsts (got ++ bs), npc, none⟩) ⟨x, u.pc, npc⟩)) ∧
      (rest ≠ [] → exec (.devregReadCompletion u.key (some bs)) s = .next ((s.setSlot k { sl with
        mode := .waiting (.devreg addr rest (got ++ bs) load dsts npc watch) s.ck }).deviceRead rest))) ∧
    (∀ q t, (s.performPeer q = (t, true) → exec (.carrLinkRequest q) s = .next t) ∧
      (s.performPeer q = (t, false) → exec (.carrLinkRequest q) s =
        .next (t.modStore fun m => { m with peerReqs := m.peerReqs ++ [q] }))) ∧
    (∀ tag m, s.tenant tag = some m →
      (∀ peer, ∃ t x, exec (.peerKeyRequest tag peer) s = .next t ∧ t.tenant tag = some x ∧ peer ∈ x.peers ∧ x.inst = m.inst ∧
        t.store.answers = s.store.answers ++ [⟨peer, 0, bytesOfNat m.inst 8⟩]) ∧
      (∀ stream, ∃ t, exec (.ideKm tag stream) s = .next t ∧ (tag, stream) ∈ t.firm.ide ∧
        (∀ e ∈ t.firm.ide, e.2 = stream → e.1 = tag) ∧ t.store = s.store) ∧
      (m.sweep.isSome = true → exec (.rekeyPrepare tag) s = .next s) ∧
      (m.sweep = none → ∃ t x, exec (.rekeyPrepare tag) s = .next t ∧ t.tenant tag = some x ∧ x.prepared = true ∧
        x.period = m.period) ∧
      (m.prepared = false → exec (.rekeySwitch tag) s = .next s) ∧
      (m.prepared = true → ∃ t x, exec (.rekeySwitch tag) s = .next t ∧ t.tenant tag = some x ∧ x.prepared = false ∧
        x.period = (m.period + 1) % 2 ^ 32 ∧ x.sweep = some 0 ∧ ∀ e ∈ t.firm.ide, e.1 ≠ tag)) ∧
    (∀ tag n, s.tenant tag = none → exec (.peerKeyRequest tag n) s = .next (s.answer n 1 []) ∧ exec (.ideKm tag n) s = .next s ∧
      exec (.rekeyPrepare tag) s = .next s ∧ exec (.rekeySwitch tag) s = .next s) ∧
    exec .devregReadTimeout s = .next (s.failDevregs fun since => decide (since + 45000000 ≤ s.ck)) ∧
    (∀ readings : List Nat, s.ck < s.firm.thermal.due → exec (.thermalSample readings) s = .next s) ∧
    (∀ readings : List Nat, s.firm.thermal.due ≤ s.ck → let rs := readings.take 64
      (s.firm.thermal.hot = [] ∨ (∀ n ∈ rs, n ≤ 110) → exec (.thermalSample readings) s = .next (s.modFirm fun f => { f with
        thermal := ⟨(rs.zipIdx.filter fun e => decide (110 < e.1)).map (·.2), rs.any fun n => decide (95 < n), s.ck + 90000⟩ })) ∧
      (s.firm.thermal.hot ≠ [] → (∃ n ∈ rs, 110 < n) → ∃ t e, exec (.thermalSample readings) s = .next t ∧
        t.firm.log.getLast? = some e ∧ e.type = 13 ∧
        (∀ i n, rs[i]? = some n → 110 < n → i ∈ s.firm.thermal.hot → (∀ l, s.firm.log.getLast? = some l → l.type ≠ 13) →
          (∀ j m, rs[j]? = some m → 110 < m → j ∈ s.firm.thermal.hot → m ≤ n ∧ (m = n → i ≤ j)) → e.aux = i) ∧
        ∀ tag, (s.tenant tag).isSome = true → ∃ m, t.tenant tag = some m ∧ m.halted = true)) ∧
    (∀ start,
      let b := s.firm.boot
      (s.firm.power = .off → exec (.powerOn start) s = .next (s.start { b with counter := 0, reasons := [], kind := 0 } start)) ∧
      (s.firm.power ≠ .off → exec (.powerOn start) s = .next s) ∧
      (s.firm.power = .running → exec (.hostReset start) s = .next (s.start { b with kind := 1 } start)) ∧
      (s.firm.power = .starting → exec (.hostReset start) s =
        .next (s.start { b with kind := if b.started.isSome then 1 else b.kind } start)) ∧
      (s.firm.power = .minimal → exec (.hostReset start) s = .next (s.cleared .minimal b Links.up)) ∧
      (s.firm.power = .off → exec (.hostReset start) s = .next s)) ∧
    exec .powerOff s = .next (s.cleared .off s.firm.boot Links.up) ∧
    (∀ n, s.firm.power = .starting → s.firm.boot.started = some n →
      (n + watchdogLimit ≤ s.ck → exec .startUpWatchdog s = .next (s.failStart s.firm.boot 7)) ∧
      (s.ck < n + watchdogLimit → exec .startUpWatchdog s = .next s)) ∧
    (s.firm.power ≠ .starting ∨ s.firm.boot.started = none → exec .startUpWatchdog s = .next s)

/-- R403, R404: what firmware makes of each request it takes: the tenant, job or window that a command opens, the reply it has ready, and the
status of a request that names something absent; a request that is refused leaves its target alone.
Some statuses, the number INST, the log after `LOG_READ`, and the readings of `COMPACT` and `PART_RESET` are the model's (log entries 24, 25, 27, 28 and 29). -/
def Obligations.FirmwareCommandsTakeEffect : Prop :=
  ∀ (s : State) (cmd : Cmd), s.Takes cmd →
    let q := quadN cmd.quads
    let a := fun code => s.accepted code cmd
    (fits [maskAll, maskAll] cmd.quads = true →
      exec (.ident cmd) s = .next (((a 0x01).toHost (q 0) ((a 0x01).identity.take (q 1))).finish cmd.ch 0
        [BitVec.ofNat 64 (a 0x01).identity.length]) ∧
      exec (.resync cmd) s = .next (((a 0x02).toHost (q 0) ((a 0x02).summary.take (q 1))).finish cmd.ch 0
        [BitVec.ofNat 64 (a 0x02).summary.length]) ∧
      ∃ t, exec (.logRead cmd) s = .next t ∧ t.firm.log = s.firm.log.drop (q 1) ∧
        (t.chan cmd.ch).result = some 0 ∧
        (t.chan cmd.ch).reply = [BitVec.ofNat 64 (min (q 1) s.firm.log.length), BitVec.ofNat 64 s.firm.logLost]) ∧
    (∀ tag r, cmd.quads = [1, 0, 0, r] → (rectOf r).ok = true → (0x3F7F3F7F : Word) ||| r = 0x3F7F3F7F →
      (∀ x ∈ (rectOf r).tiles, s.ownerOf x = none) → s.freeTag (Config.firstTag s.freeCtr) = some tag →
      ∃ t m, exec (.tenantOpen cmd) s = .next t ∧ t.tenant tag = some m ∧ m.rects = [rectOf r] ∧
        (m.inst, m.period, m.peers) = (match s.peerOpen tag with
          | none => (s.firm.boot.inst, 0, [])
          | some (p, i, k) => (i, k, [p])) ∧ m.reach = [] ∧ m.halted = false ∧ (∀ x ∈ (rectOf r).tiles, t.ownerOf x = some tag) ∧
        t.firm.boot.inst = s.firm.boot.inst + 1 ∧ (t.chan cmd.ch).result = some 0 ∧
        (t.chan cmd.ch).reply = [BitVec.ofNat 64 tag, BitVec.ofNat 64 m.inst, BitVec.ofNat 64 m.pid]) ∧
    (∀ n lo hi f, cmd.quads = [n, lo, hi, f] → n.toNat < 2 ^ 14 → s.tenant n.toNat = none → f.toNat < 8 →
      rangeOk lo.toNat hi.toNat = true → touchesEdge lo.toNat hi.toNat = false →
      exec (.grantRange cmd) s = .next ((a 0x05).finish cmd.ch 3 [])) ∧
    (∀ n lo hi f m, cmd.quads = [n, lo, hi, f] → n.toNat < 2 ^ 14 → s.tenant n.toNat = some m → f.toNat < 8 →
      rangeOk lo.toNat hi.toNat = true → touchesEdge lo.toNat hi.toNat = false → m.reach.length < 64 →
      s.store.extents = [] → (hi.toNat - 1) / 2 ^ 21 + 1 - lo.toNat / 2 ^ 21 ≤ capacity →
      ∃ t x, exec (.grantRange cmd) s = .next t ∧ t.tenant n.toNat = some x ∧ x.reach = m.reach ++ [⟨lo.toNat, hi.toNat,
        f.getLsbD 0, f.getLsbD 1, f.getLsbD 2⟩] ∧ (t.chan cmd.ch).result = some 0) ∧
    (∀ n lo hi m, cmd.quads = [n, lo, hi] → n.toNat < 2 ^ 14 → s.tenant n.toNat = some m →
      rangeOk lo.toNat hi.toNat = true → (cutReach m.reach lo.toNat hi.toNat).length ≤ 64 →
      exec (.revoke cmd) s = .next ((a 0x06).startRevoke m lo.toNat hi.toNat 5 cmd.ch)) ∧
    (∀ n m, cmd.quads = [n] → n.toNat < 2 ^ 14 → s.tenant n.toNat = some m →
      (s.work.jobs = [] → exec (.tenantClose cmd) s = .next ((a 0x04).startRevoke m 0 (2 ^ 56) closeStage cmd.ch)) ∧
      (m.sweep = none → m.prepared = false → m.peers = [] → ∃ t x, exec (.rekey cmd) s = .next t ∧
        t.tenant n.toNat = some x ∧ x.period = (m.period + 1) % 2 ^ 32 ∧ x.sweep = some 0 ∧ (t.chan cmd.ch).result = some 0 ∧
        (t.chan cmd.ch).reply = [BitVec.ofNat 64 ((m.period + 1) % 2 ^ 32)]) ∧
      (m.sweep = none → m.prepared = false → m.peers ≠ [] → ∃ t, exec (.rekey cmd) s = .next t ∧
        (if m.peers.any (fun p => (routeTo p s.firm.links.carrDown).isNone) then t = (a 0x0E).finish cmd.ch 5 []
        else ∃ x due, t.tenant n.toNat = some x ∧ x.prepared = true ∧ x.period = m.period ∧
          s.ck < due ∧ (due, Instr.rekeySwitch n.toNat) ∈ t.agenda)) ∧
      (m.sweep.isSome = true ∨ m.prepared = true → exec (.rekey cmd) s = .next ((a 0x0E).finish cmd.ch 5 []))) ∧
    (∀ n at_ len m, cmd.quads = [n, at_, len] → n.toNat < 2 ^ 14 → s.tenant n.toNat = some m →
      let src := s.fromHost at_.toNat len.toNat
      (∀ code, Tvas.admission src m.bufferRanges (s.placedBuffers m.tag) = .error code →
        exec (.moduleSubmit cmd) s = .next ((a 0x07).finish cmd.ch 7 [BitVec.ofNat 64 code])) ∧
      (∀ p, Tvas.admission src m.bufferRanges (s.placedBuffers m.tag) = .ok p →
        exec (.moduleSubmit cmd) s = .next ((a 0x07).sealModule cmd.ch m src p))) ∧
    (∀ pid m image k rbase, cmd.quads = [pid, image, 0, rbase, 0] → pid.toNat < 2 ^ 16 → s.tenantOfPid pid.toNat = some m →
      (∃ i, s.store.images.find? (fun i => decide (i.base = image) && decide (i.tag = m.tag)) = some i ∧ i.kernels[0]? = some k) →
      k.cls = 2 → k.bufs = [] → rbase.toNat % 4096 = 0 → s.work.jobs = [] → s.swapping pid.toNat = false →
      (∃ r ∈ m.reach, r.base ≤ rbase.toNat ∧ rbase.toNat + 12288 * m.tiles.length ≤ r.limit ∧ r.rd = true ∧ r.wr = true) →
      let o := (a 0x08).openJob m image k rbase.toNat [] []
      exec (.jobOpen cmd) s = .next (o.1.finish cmd.ch 0 [BitVec.ofNat 64 o.2])) ∧
    (∀ h j, cmd.quads = [h, 1] → h.toNat < 2 ^ 32 → s.job h.toNat = some j →
      exec (.jobClose cmd) s = .next (((a 0x09).cancelJob j.handle .cancel).finish cmd.ch 0 [])) ∧
    (∀ h p j, cmd.quads = [h, p] → h.toNat < 2 ^ 32 → s.job h.toNat = some j → p.getLsbD 63 = false →
      (p.toNat % 128 ≠ 0 → exec (.launch cmd) s = .next ((a 0x0A).finish cmd.ch 2 [])) ∧
      (∀ t, (a 0x0A).launchDesc cmd.ch j p = .done t → exec (.launch cmd) s = .next t)) ∧
    (∀ l h job, cmd.quads = [l, h] → l.toNat < 4 → h ≠ 0 → h.toNat < 2 ^ 32 → (a 0x0B).targetJob l.toNat h.toNat = some job →
      exec (.cancelCmd cmd) s = .next (((a 0x0B).askCancel job l.toNat h.toNat 0).finish cmd.ch 0 [])) ∧
    (∀ h p j x, cmd.quads = [h, p] → h.toNat < 2 ^ 32 → p.toNat < 2 ^ 32 → s.job h.toNat = some j →
      s.phase ⟨h.toNat, p.toNat⟩ = some x →
      (x.quiet = true → exec (.quiesce cmd) s = .next ((a 0x0C).finish cmd.ch 0 [s.phaseStatus ⟨h.toNat, p.toNat⟩])) ∧
      (x.quiet = false → exec (.quiesce cmd) s = .next (a 0x0C))) ∧
    (∀ n m i, fits ([maskTag] ++ List.replicate 7 maskAll) cmd.quads = true → q 0 = n → s.tenant n = some m →
      s.store.images.find? (fun i => decide (i.base = quad cmd.quads 1) && decide (i.tag = m.tag)) = some i →
      ∃ t sig, exec (.attest cmd) s = .next t ∧ (t.chan cmd.ch).result = some 0 ∧
        (t.chan cmd.ch).reply = wordsOf (i.record ++ ((List.range 6).flatMap fun k => bytesOfNat (q (2 + k)) 8) ++ sig)) ∧
    (∀ n e c m, cmd.quads = [n, e, c] → n.toNat < 2 ^ 14 → e.toNat < 2 ^ 35 → c.toNat ≤ 4 → s.tenant n.toNat = some m →
      ((s.extentAt e.toNat).state = .fenced → exec (.compact cmd) s = .next ((a 0x0F).finish cmd.ch 0 [])) ∧
      ((s.extentAt e.toNat).state = .present → (s.extentAt e.toNat).owner = m.tag → (s.extentAt e.toNat).place = .dram 1 →
        c = 0 → 0 < s.freeOnDie 0 → exec (.compact cmd) s =
          .next (((a 0x0F).startMove e.toNat (.dram 0)).scheduleFree 1 (.extentMoveEnd e.toNat)))) ∧
    (∀ n lo hi f m, cmd.quads = [n, lo, hi, f] → n.toNat < 2 ^ 14 → s.tenant n.toNat = some m → lo.toNat < hi.toNat →
      hi.toNat ≤ 2 ^ 56 → lo.getLsbD 63 = false → f.toNat < 2 ^ 19 → f.extractLsb' 16 2 ≠ 0 → s.firm.inWins = [] →
      ∃ t, exec (.inboundOpen cmd) s = .next t ∧ t.firm.inWins = [⟨0, m.tag, lo.toNat, hi.toNat, (f.extractLsb' 0 16).toNat,
        f.getLsbD 16, f.getLsbD 17, f.getLsbD 18⟩] ∧ (t.chan cmd.ch).result = some 0 ∧ (t.chan cmd.ch).reply = [0]) ∧
    (∀ pid m, cmd.quads = [pid] → pid.toNat < 2 ^ 16 → s.tenantOfPid pid.toNat = some m → s.firm.thermal.warn = true →
      exec (.partReset cmd) s = .next ((a 0x12).finish cmd.ch 5 [])) ∧
    (∀ pid m, cmd.quads = [pid] → pid.toNat < 2 ^ 16 → s.tenantOfPid pid.toNat = some m → s.firm.thermal.warn = false →
      s.work.ops = [] → s.fab.deques = [] → s.fab.msgs = [] → s.work.launches = [] → s.work.swapped = [] →
      exec (.partReset cmd) s = .next ((((((a 0x12).resetTiles m).modTenant m.tag fun x =>
        { x with halted := false }).modWork fun w => { w with swaps := w.swaps.filter fun r => decide (r.pid ≠ m.pid) }).schedule
          (s.ck + 1) (.launchPlacement m.pid)).finish cmd.ch 0 [])) ∧
    (cmd.quads = [1] → s.work.jobs = [] → ∃ t, exec (.maintMode cmd) s = .next t ∧ t.firm.maint = true ∧
      (t.chan cmd.ch).result = some 0) ∧
    (cmd.quads = [1] → s.work.jobs ≠ [] → exec (.maintMode cmd) s = .next ((a 0x13).finish cmd.ch 5 [])) ∧
    (∀ code, code = 0 ∨ 0x13 < code → code < 2 ^ 16 → exec (.unknownCmd code cmd) s = .next ((a code).finish cmd.ch 1 []))

/-- R399 to R402: a write of DOOR while the channel is busy is dropped and counted; a repeated sequence number is answered again; one whose upper bits are not zero is a parameter
error; in minimal mode only `IDENT` and `RESYNC` are served; completion, once the target of the command is ended, changes STATUS, DONESEQ, SEEN and BUSY in one write and sends the channel's
vector, and a closed job is gone with it; a second command that changes the same ranges waits for the first.
Which commands wait for which is the model's reading (log entry 30). -/
def Obligations.DoorbellAndCompletion : Prop :=
  ∀ (s : State) (ch : Nat), ch < 8 →
    let c (code : Nat) (cmd : Cmd) : Channel := (s.chan ch).written code cmd
    (∀ cmd : Cmd, cmd.ch = ch → s.firm.power = .running → (s.chan ch).busy = true → ∃ t, exec (.attest cmd) s = .next t ∧
      t.chan ch = { c 0x0D cmd with drop := min 65535 ((s.chan ch).drop + 1) } ∧ t.store = s.store ∧ t.fab = s.fab ∧
      t.work = s.work ∧ t.agenda = s.agenda) ∧
    (∀ cmd : Cmd, cmd.ch = ch → s.firm.power = .running → (s.chan ch).busy = false → (s.chan ch).seen = true →
      cmd.seq = (s.chan ch).doneSeq →
      exec (.tenantOpen cmd) s = .next ((s.setChan ch (c 0x03 cmd)).modFirm fun f => { f with msix := f.msix ++ [ch] })) ∧
    (∀ cmd : Cmd, cmd.ch = ch → s.firm.power = .running → (s.chan ch).busy = false → (s.chan ch).seen = false →
      (∀ e ∈ s.firm.chans, e.2.work = none) → cmd.high ≠ 0 → ∃ t, exec (.ident cmd) s = .next t ∧ (t.chan ch).result = some 2 ∧
      t.store = s.store ∧ t.fab = s.fab ∧ t.work = s.work) ∧
    (∀ cmd : Cmd, cmd.ch = ch → s.firm.power = .minimal → (s.chan ch).busy = false → (s.chan ch).seen = false →
      (∀ e ∈ s.firm.chans, e.2.work = none) → cmd.high = 0 →
      exec (.tenantOpen cmd) s = .next ((s.accepted 0x03 cmd).finish ch 6 []) ∧
      exec (.ident cmd) s = .next ((s.accepted 0x01 cmd).report ch (c 0x01 cmd).request (s.accepted 0x01 cmd).identity)) ∧
    (∀ a st, s.firm.chans = [(ch, s.chan ch)] → (s.chan ch).work = some a → (s.chan ch).result = some st → a.begun = true →
      (s.ending a = true → exec (.commandComplete ch) s = .next (s.scheduleFree 1 (.commandComplete ch))) ∧
      (s.ending a = false → ∃ t, exec (.commandComplete ch) s = .next t ∧
        t.chan ch = { s.chan ch with busy := false, seen := true, doneSeq := a.seq, status := st, work := none, result := none } ∧
        t.firm.msix = s.firm.msix ++ [ch] ∧ (st ≠ 0 ∨ a.code ≠ 0x09 → t.store = s.store ∧ t.fab = s.fab ∧ t.work = s.work) ∧
        (st = 0 → a.code = 0x09 → let h := quadN a.quads 0
          (∀ j ∈ t.work.jobs, j.handle ≠ h) ∧ (∀ l ∈ t.work.launches, l.id.job ≠ h) ∧ ∀ r ∈ t.work.runs, r.job ≠ h))) ∧
    (∀ (b : Accepted) (cmd : Cmd) o, cmd.ch = ch → cmd.high = 0 → o ≠ ch → o < 8 → s.firm.power = .running →
      s.firm.chans = [(o, { Channel.fresh with busy := true, work := some b })] → b.code = 0x06 → b.order < s.firm.accepts →
      b.names = some (quadN cmd.quads 0) → ∃ t, exec (.grantRange cmd) s = .next t ∧ (t.chan ch).busy = true ∧
      (t.chan ch).result = none ∧ t.chan o = s.chan o ∧ t.store = s.store ∧ t.firm.tenants = s.firm.tenants)

/-- R72 to R79, R89: words of the spec's worked encodings decode to the instructions they stand for: a register form, two immediate forms, a branch, a guard branch, a
loop, a literal form, a memory form, and extended forms with guards, index, ordering, scope, type and mask. -/
def Obligations.DecodesSpecWords : Prop :=
  decode [0x01C61404] = .instr (.add { Fields.zero with a := 5, b := 6, c := 7 }) ∧
  decode [0xFFC30C40] = .instr (.addImm { Fields.zero with a := 3, b := 3, imm := 0x3FF }) ∧
  decode [0x04040D10] = .instr (.ldI32 { Fields.zero with a := 3, b := 4, imm := 16 }) ∧
  decode [0xFFFFF480] = .instr (.br { Fields.zero with imm := 0x3FFFFD }) ∧
  decode [0x0001688C] = .instr (.bg { Fields.zero with imm := 5, ga := ⟨true, 2⟩ }) ∧
  decode [0xFFFC5090] = .instr (.loop { Fields.zero with a := 20, imm := 0xFFFC }) ∧
  decode [0x00000869, 0x89ABCDEF, 0x01234567] =
    .instr (.li { Fields.zero with form := .baseLit, a := 2, lit := 0x0123456789ABCDEF }) ∧
  decode [0x3030411A, 0x0500093D, 0x08009C00] = .instr (.ldI64 { Fields.zero with
    form := .ext, fn := 3, a := 3, b := 4, c := 5, e := 9, ga := ⟨false, 3⟩, gb := ⟨true, 5⟩, imm := 8, hint := 1, ord := 1,
    scope := 6 }) ∧
  decode [0x0040561E, 0x06000020, 0x0018000C] = .instr (.vadd { Fields.zero with
    form := .ext, a := 4, b := 5, c := 6, rm := 1, ga := ⟨false, 2⟩, ty := 6, lmask := 3 }) ∧
  decode [0x10C0438E, 0x05060700, 0x00100000] = .instr (.smerge { Fields.zero with
    form := .ext, a := 12, b := 4, c := 5, d := 6, e := 7, ty := 4 })

/-- R72, R74 to R77: every instruction that some words spell is what its own words decode to: no bit of any field of any form is dropped. -/
def Obligations.EncodeDecodeRoundTrip : Prop :=
  ∀ i : Instr, i.encodable = true → decode (encode i) = .instr i

/-- R72, R73, R93 steps 1 and 2: an unassigned major is illegal whatever its length, and so is a length that the major does not allow and an instruction of which a word
is missing; and an answer that is an instruction is never read from the bits of a following one. -/
def Obligations.DecodingRefusesAndStops : Prop :=
  (∀ w ws, majorOf (w.extractLsb' 2 8).toNat = none → decode (w :: ws) = .illegal) ∧
  (∀ w ws m, majorOf (w.extractLsb' 2 8).toNat = some m → m.allows (formOf (w.extractLsb' 0 2)) = false →
    decode (w :: ws) = .illegal) ∧
  (∀ w ws, ws.length + 1 < (formOf (w.extractLsb' 0 2)).words → decode (w :: ws) = .illegal) ∧
  (∀ w ws more, ws.length + 1 = (formOf (w.extractLsb' 0 2)).words → decode (w :: ws ++ more) = decode (w :: ws))

/-- R54 to R58, R66, R93: a slot that has been chosen fetches the words at its PC, and the step runs the instruction they decode to; words that decode to none are an
illegal-instruction trap; with no slot chosen the step lets a slot whose wait has ended go on, or parks it when an earlier store of its unit has failed (R136), then runs the events that are due, the issue of the next core that can, the searches of
idle workers, what waits for the end of the ck and the launch unit's work, and then the ck ends.
The order of the acts of one ck is the model's choice (log entry 2). -/
def Obligations.StepRunsTheDecodedInstruction : Prop :=
  ∀ s : State,
    (∀ r u, s.issuing = some r → s.unitAt r = some u →
      let n := 4 * s.codeWords u.pc
      let word := natOfBytes (s.codeBytes u.pc 4)
      let first := u.pc.toNat / 128
      let last := (u.pc.toNat + n - 1) / 128
      let line := s.codeLine (tileOf r.core) u.uid u.pc
      let idle := { s with issuing := none }
      let illegal : Prop := step s = .next (idle.takeTrap r u ⟨{ cause := 1, aux := BitVec.ofNat 64 word }, u.pc, u.pc⟩)
      let good := headOk (BitVec.ofNat 32 word) = true ∧ extentOf (128 * last) = extentOf u.pc.toNat
      let here := line first = .here ∧ (last = first ∨ line last = .here)
      (good → here → ∀ i, decodeBytes (s.codeBytes u.pc n) = .instr i → step s = exec i s) ∧
      (good → here → ∀ e, decodeBytes (s.codeBytes u.pc n) = .badFn e →
        (kindLists (kindOf r.core) e = true → illegal) ∧ (kindLists (kindOf r.core) e = false → step s = .next (idle.migrate r u e))) ∧
      (line first = .here → ¬ good → illegal) ∧
      (∀ t e, line first = .trap t e → step s = .next { t.takeTrap r u ⟨e, u.pc, u.pc⟩ with issuing := none }) ∧
      (∀ t w, line first = .wait t w → step s = .next { t.putMode r u (.waiting w t.ck) with issuing := none })) ∧
    (s.issuing = none → ∀ k sl i u, s.nextResuming = some (k, sl, i) → sl.unit = some u →
      (u.failed = none → step s = exec i { s.setSlot k { sl with mode := .ready (s.ck + 1) } with issuing := some (refOfKey k) }) ∧
      (∀ t, u.failed = some t → step s = .next (s.takeTrap (refOfKey k) u.stopped { t with rpc := u.pc }))) ∧
    (s.issuing = none → s.nextResuming = none →
      let due (p : Instr → Bool) := takeDue s.ck p s.agenda
      (∀ i rest, due s.eventNow = some (i, rest) → step s = exec i { s with agenda := rest }) ∧
      (due s.eventNow = none → ∀ c, s.nextCore = some c → step s = exec (.barrelIssue c) { s with cursor := c + 1 }) ∧
      (due s.eventNow = none → s.nextCore = none →
        (∀ i rest, due (fun i => actClass i == .behind) = some (i, rest) → step s = exec i { s with agenda := rest }) ∧
        (due (fun i => actClass i == .behind) = none →
          (s.work.late ≠ [] → step s = .next s.settleLate) ∧
          (∀ i rest, s.work.late = [] → due (fun i => actClass i == .launch) = some (i, rest) → step s = exec i { s with agenda := rest }) ∧
          (s.work.late = [] → due (fun i => actClass i == .launch) = none → step s = .next s.advance))))

/-- R17, R55, R370, R395, R397, R400: after start-up every tile is in partition 16 and no core has an owner; no tenant, job, launch or unit exists; the cycle counter is 0
and the error log empty; no channel is busy or has completed a command; the device is in service. The memory is canonical and no slot is issuing.
The values of the model's own fields are its choice (log entries 5 and 8). -/
def Obligations.ResetState : Prop :=
  State.reset.sound = true ∧ State.reset.memoryOk ∧ State.reset.ck = 0 ∧ State.reset.firm.power = .running ∧
  State.reset.firm.log = [] ∧ State.reset.firm.logLost = 0 ∧ State.reset.firm.maint = false ∧ State.reset.firm.tenants = [] ∧
  State.reset.work.jobs = [] ∧ State.reset.work.launches = [] ∧
  (∀ tile, State.reset.partOf tile = .p16 ∧ State.reset.ownerOf tile = none) ∧
  (∀ r, State.reset.unitAt r = none) ∧
  (∀ ch, (State.reset.chan ch).busy = false ∧ (State.reset.chan ch).seen = false ∧ (State.reset.chan ch).status = 0 ∧
    (State.reset.chan ch).drop = 0 ∧ (State.reset.chan ch).doneSeq = 0) ∧
  (∀ n, (State.reset.extentAt n).state = .unallocated)

/-- The package's memory keeps its canonical form through every step of the machine, whatever the step runs: an instruction of any family, an event, a command, or
the end of a ck.
The canonical form is the model's own (log entry 4). -/
def Obligations.StepKeepsMemoryCanonical : Prop :=
  ∀ s t : State, s.memoryOk → step s = .next t → t.memoryOk
end

