-- ==== Sys2Proof/Laws/Map.lean ====
section
/-!
SUPPORT. Finite maps: a read after a write, what a write leaves, and that every operation keeps the canonical form.
-/
namespace Sys2Proof

variable {α : Type} [DecidableEq α]

/-- Reading below every key of a canonical map gives what an unlisted key reads as. -/
theorem FMap.get_of_lt (d : α) (m : FMap α) (lo n : Nat) (h : FMap.wfFrom d lo m) (hn : n < lo) : m.get d n = d := by
  induction m generalizing lo with
  | nil => rfl
  | cons e rest ih =>
    obtain ⟨k, v⟩ := e
    simp only [FMap.wfFrom, Bool.and_eq_true, decide_eq_true_eq] at h
    simp only [FMap.get]
    rw [if_neg (by omega)]
    exact ih (k + 1) h.2 (by omega)

theorem FMap.wfFrom_mono (d : α) (m : FMap α) (lo lo' : Nat) (h : FMap.wfFrom d lo m) (hl : lo' ≤ lo) :
    FMap.wfFrom d lo' m := by
  cases m with
  | nil => rfl
  | cons e rest =>
    simp only [FMap.wfFrom, Bool.and_eq_true, decide_eq_true_eq] at h ⊢
    exact ⟨⟨by omega, h.1.2⟩, h.2⟩

/-- A write keeps the canonical form. -/
theorem FMap.set_wfFrom (d : α) (m : FMap α) (lo n : Nat) (v : α) (h : FMap.wfFrom d lo m) (hn : lo ≤ n) :
    FMap.wfFrom d lo (m.set d n v) := by
  induction m generalizing lo with
  | nil =>
    simp only [FMap.set]
    split <;> simp_all [FMap.wfFrom]
  | cons e rest ih =>
    obtain ⟨k, w⟩ := e
    simp only [FMap.wfFrom, Bool.and_eq_true, decide_eq_true_eq] at h
    simp only [FMap.set]
    split
    · split
      · simp_all [FMap.wfFrom]
      · simp only [FMap.wfFrom, Bool.and_eq_true, decide_eq_true_eq]
        exact ⟨⟨hn, ‹_›⟩, ⟨by omega, h.1.2⟩, h.2⟩
    · split
      · split
        · exact FMap.wfFrom_mono d rest _ _ h.2 (by omega)
        · simp only [FMap.wfFrom, Bool.and_eq_true, decide_eq_true_eq]
          subst_vars
          exact ⟨⟨h.1.1, ‹_›⟩, h.2⟩
      · simp only [FMap.wfFrom, Bool.and_eq_true, decide_eq_true_eq]
        exact ⟨h.1, ih (k + 1) h.2 (by omega)⟩

theorem FMap.set_wf (d : α) (m : FMap α) (n : Nat) (v : α) (h : m.wf d) : (m.set d n v).wf d :=
  FMap.set_wfFrom d m 0 n v h (Nat.zero_le n)

theorem FMap.setMany_wf (d : α) (vs : List α) (m : FMap α) (n : Nat) (h : m.wf d) : (m.setMany d n vs).wf d := by
  induction vs generalizing m n with
  | nil => exact h
  | cons v vs ih => exact ih _ _ (FMap.set_wf d m n v h)

/-- Keeping some of the entries keeps the canonical form. -/
theorem FMap.filter_wfFrom (d : α) (p : Nat × α → Bool) (m : FMap α) (lo : Nat) (h : FMap.wfFrom d lo m) :
    FMap.wfFrom d lo (m.filter p) := by
  induction m generalizing lo with
  | nil => rfl
  | cons e rest ih =>
    obtain ⟨k, v⟩ := e
    simp only [FMap.wfFrom, Bool.and_eq_true, decide_eq_true_eq] at h
    simp only [List.filter]
    split
    · simp only [FMap.wfFrom, Bool.and_eq_true, decide_eq_true_eq]
      exact ⟨h.1, ih _ h.2⟩
    · exact FMap.wfFrom_mono d _ _ _ (ih _ h.2) (by omega)

theorem FMap.filter_wf (d : α) (p : Nat × α → Bool) (m : FMap α) (h : m.wf d) : FMap.wf d (m.filter p) :=
  FMap.filter_wfFrom d p m 0 h

theorem FMap.clear_wf (d : α) (m : FMap α) (lo hi : Nat) (h : m.wf d) : (m.clear lo hi).wf d := FMap.filter_wf d _ m h

/-- A read after a write to the same key gives the value written. -/
theorem FMap.get_set_self (d : α) (m : FMap α) (n : Nat) (v : α) (h : m.wf d) : (m.set d n v).get d n = v := by
  suffices ∀ lo, FMap.wfFrom d lo m → (m.set d n v).get d n = v from this 0 h
  clear h
  intro lo h
  induction m generalizing lo with
  | nil =>
    simp only [FMap.set]
    split <;> simp_all [FMap.get]
  | cons e rest ih =>
    obtain ⟨k, w⟩ := e
    simp only [FMap.wfFrom, Bool.and_eq_true, decide_eq_true_eq] at h
    simp only [FMap.set]
    split
    · split
      · simp only [FMap.get]
        rw [if_neg (by omega), FMap.get_of_lt d rest (k + 1) n h.2 (by omega)]
        exact (‹v = d›).symm
      · simp [FMap.get]
    · split
      · split
        · rw [FMap.get_of_lt d rest (k + 1) n h.2 (by omega)]
          exact (‹v = d›).symm
        · simp [FMap.get]
      · simp only [FMap.get]
        rw [if_neg ‹_›]
        exact ih _ h.2

/-- A read after a write of a listed value gives it; the list need not be canonical. -/
theorem FMap.get_set_listed (d : α) (m : FMap α) (n : Nat) (v : α) (hv : v ≠ d) : (m.set d n v).get d n = v := by
  induction m with
  | nil => simp [FMap.set, hv, FMap.get]
  | cons e rest ih =>
    obtain ⟨k, w⟩ := e
    simp only [FMap.set, hv, ↓reduceIte]
    split
    · simp [FMap.get]
    · split
      · simp [FMap.get]
      · simp only [FMap.get]
        rw [if_neg ‹_›]
        exact ih

/-- A write leaves every other key alone; the list need not be canonical. -/
theorem FMap.get_set_ne (d : α) (m : FMap α) (n k : Nat) (v : α) (hk : k ≠ n) : (m.set d n v).get d k = m.get d k := by
  induction m with
  | nil =>
    simp only [FMap.set]
    split <;> simp [FMap.get, hk]
  | cons e rest ih =>
    obtain ⟨a, w⟩ := e
    simp only [FMap.set]
    split
    · split <;> simp [FMap.get, hk]
    · split
      · subst_vars
        split <;> simp [FMap.get, hk]
      · simp only [FMap.get]
        split
        · rfl
        · exact ih

end Sys2Proof
end

