-- ==== Sys2Proof/Laws/State.lean ====
section
/-!
SUPPORT. What each update of the state leaves and what it changes, field by field, so that no proof unfolds a record update.
-/
namespace Sys2Proof.Machine

open Sys2Proof

/-! ## Updates of the state -/

@[simp] theorem State.modFab_ck (s : State) (g : Fabric → Fabric) : (s.modFab g).ck = s.ck := rfl
@[simp] theorem State.modFab_fab (s : State) (g : Fabric → Fabric) : (s.modFab g).fab = g s.fab := rfl
@[simp] theorem State.modFab_store (s : State) (g : Fabric → Fabric) : (s.modFab g).store = s.store := rfl
@[simp] theorem State.modFab_work (s : State) (g : Fabric → Fabric) : (s.modFab g).work = s.work := rfl
@[simp] theorem State.modFab_firm (s : State) (g : Fabric → Fabric) : (s.modFab g).firm = s.firm := rfl
@[simp] theorem State.modFab_agenda (s : State) (g : Fabric → Fabric) : (s.modFab g).agenda = s.agenda := rfl
@[simp] theorem State.modFab_issuing (s : State) (g : Fabric → Fabric) : (s.modFab g).issuing = s.issuing := rfl
@[simp] theorem State.modFab_cursor (s : State) (g : Fabric → Fabric) : (s.modFab g).cursor = s.cursor := rfl
@[simp] theorem State.modFab_freeCtr (s : State) (g : Fabric → Fabric) : (s.modFab g).freeCtr = s.freeCtr := rfl
@[simp] theorem State.modFab_serial (s : State) (g : Fabric → Fabric) : (s.modFab g).serial = s.serial := rfl

@[simp] theorem State.modStore_ck (s : State) (g : Store → Store) : (s.modStore g).ck = s.ck := rfl
@[simp] theorem State.modStore_fab (s : State) (g : Store → Store) : (s.modStore g).fab = s.fab := rfl
@[simp] theorem State.modStore_store (s : State) (g : Store → Store) : (s.modStore g).store = g s.store := rfl
@[simp] theorem State.modStore_work (s : State) (g : Store → Store) : (s.modStore g).work = s.work := rfl
@[simp] theorem State.modStore_firm (s : State) (g : Store → Store) : (s.modStore g).firm = s.firm := rfl
@[simp] theorem State.modStore_agenda (s : State) (g : Store → Store) : (s.modStore g).agenda = s.agenda := rfl
@[simp] theorem State.modStore_issuing (s : State) (g : Store → Store) : (s.modStore g).issuing = s.issuing := rfl
@[simp] theorem State.modStore_cursor (s : State) (g : Store → Store) : (s.modStore g).cursor = s.cursor := rfl
@[simp] theorem State.modStore_freeCtr (s : State) (g : Store → Store) : (s.modStore g).freeCtr = s.freeCtr := rfl
@[simp] theorem State.modStore_serial (s : State) (g : Store → Store) : (s.modStore g).serial = s.serial := rfl

@[simp] theorem State.modWork_ck (s : State) (g : Work → Work) : (s.modWork g).ck = s.ck := rfl
@[simp] theorem State.modWork_fab (s : State) (g : Work → Work) : (s.modWork g).fab = s.fab := rfl
@[simp] theorem State.modWork_store (s : State) (g : Work → Work) : (s.modWork g).store = s.store := rfl
@[simp] theorem State.modWork_work (s : State) (g : Work → Work) : (s.modWork g).work = g s.work := rfl
@[simp] theorem State.modWork_firm (s : State) (g : Work → Work) : (s.modWork g).firm = s.firm := rfl
@[simp] theorem State.modWork_agenda (s : State) (g : Work → Work) : (s.modWork g).agenda = s.agenda := rfl
@[simp] theorem State.modWork_issuing (s : State) (g : Work → Work) : (s.modWork g).issuing = s.issuing := rfl
@[simp] theorem State.modWork_cursor (s : State) (g : Work → Work) : (s.modWork g).cursor = s.cursor := rfl
@[simp] theorem State.modWork_freeCtr (s : State) (g : Work → Work) : (s.modWork g).freeCtr = s.freeCtr := rfl
@[simp] theorem State.modWork_serial (s : State) (g : Work → Work) : (s.modWork g).serial = s.serial := rfl

@[simp] theorem State.modFirm_ck (s : State) (g : Firm → Firm) : (s.modFirm g).ck = s.ck := rfl
@[simp] theorem State.modFirm_fab (s : State) (g : Firm → Firm) : (s.modFirm g).fab = s.fab := rfl
@[simp] theorem State.modFirm_store (s : State) (g : Firm → Firm) : (s.modFirm g).store = s.store := rfl
@[simp] theorem State.modFirm_work (s : State) (g : Firm → Firm) : (s.modFirm g).work = s.work := rfl
@[simp] theorem State.modFirm_firm (s : State) (g : Firm → Firm) : (s.modFirm g).firm = g s.firm := rfl
@[simp] theorem State.modFirm_agenda (s : State) (g : Firm → Firm) : (s.modFirm g).agenda = s.agenda := rfl
@[simp] theorem State.modFirm_issuing (s : State) (g : Firm → Firm) : (s.modFirm g).issuing = s.issuing := rfl
@[simp] theorem State.modFirm_cursor (s : State) (g : Firm → Firm) : (s.modFirm g).cursor = s.cursor := rfl
@[simp] theorem State.modFirm_freeCtr (s : State) (g : Firm → Firm) : (s.modFirm g).freeCtr = s.freeCtr := rfl
@[simp] theorem State.modFirm_serial (s : State) (g : Firm → Firm) : (s.modFirm g).serial = s.serial := rfl

@[simp] theorem State.schedule_ck (s : State) (d : Nat) (i : Instr) : (s.schedule d i).ck = s.ck := rfl
@[simp] theorem State.schedule_fab (s : State) (d : Nat) (i : Instr) : (s.schedule d i).fab = s.fab := rfl
@[simp] theorem State.schedule_store (s : State) (d : Nat) (i : Instr) : (s.schedule d i).store = s.store := rfl
@[simp] theorem State.schedule_work (s : State) (d : Nat) (i : Instr) : (s.schedule d i).work = s.work := rfl
@[simp] theorem State.schedule_firm (s : State) (d : Nat) (i : Instr) : (s.schedule d i).firm = s.firm := rfl
@[simp] theorem State.schedule_agenda (s : State) (d : Nat) (i : Instr) : (s.schedule d i).agenda = s.agenda ++ [(d, i)] := rfl
@[simp] theorem State.schedule_issuing (s : State) (d : Nat) (i : Instr) : (s.schedule d i).issuing = s.issuing := rfl
@[simp] theorem State.schedule_cursor (s : State) (d : Nat) (i : Instr) : (s.schedule d i).cursor = s.cursor := rfl
@[simp] theorem State.schedule_freeCtr (s : State) (d : Nat) (i : Instr) : (s.schedule d i).freeCtr = s.freeCtr := rfl
@[simp] theorem State.schedule_serial (s : State) (d : Nat) (i : Instr) : (s.schedule d i).serial = s.serial := rfl

@[simp] theorem State.scheduleFree_ck (s : State) (n : Nat) (i : Instr) : (s.scheduleFree n i).ck = s.ck := rfl
@[simp] theorem State.scheduleFree_fab (s : State) (n : Nat) (i : Instr) : (s.scheduleFree n i).fab = s.fab := rfl
@[simp] theorem State.scheduleFree_store (s : State) (n : Nat) (i : Instr) : (s.scheduleFree n i).store = s.store := rfl
@[simp] theorem State.scheduleFree_work (s : State) (n : Nat) (i : Instr) : (s.scheduleFree n i).work = s.work := rfl
@[simp] theorem State.scheduleFree_firm (s : State) (n : Nat) (i : Instr) : (s.scheduleFree n i).firm = s.firm := rfl
@[simp] theorem State.scheduleFree_agenda (s : State) (n : Nat) (i : Instr) : (s.scheduleFree n i).agenda = s.agenda ++ [(s.ck + n + Config.latency s.freeCtr, i)] := rfl
@[simp] theorem State.scheduleFree_issuing (s : State) (n : Nat) (i : Instr) : (s.scheduleFree n i).issuing = s.issuing := rfl
@[simp] theorem State.scheduleFree_cursor (s : State) (n : Nat) (i : Instr) : (s.scheduleFree n i).cursor = s.cursor := rfl
@[simp] theorem State.scheduleFree_freeCtr (s : State) (n : Nat) (i : Instr) : (s.scheduleFree n i).freeCtr = s.freeCtr + 1 := rfl
@[simp] theorem State.scheduleFree_serial (s : State) (n : Nat) (i : Instr) : (s.scheduleFree n i).serial = s.serial := rfl

@[simp] theorem State.setSlot_ck (s : State) (k : Nat) (v : Slot) : (s.setSlot k v).ck = s.ck := rfl
@[simp] theorem State.setSlot_store (s : State) (k : Nat) (v : Slot) : (s.setSlot k v).store = s.store := rfl
@[simp] theorem State.setSlot_work (s : State) (k : Nat) (v : Slot) : (s.setSlot k v).work = s.work := rfl
@[simp] theorem State.setSlot_firm (s : State) (k : Nat) (v : Slot) : (s.setSlot k v).firm = s.firm := rfl
@[simp] theorem State.setSlot_agenda (s : State) (k : Nat) (v : Slot) : (s.setSlot k v).agenda = s.agenda := rfl
@[simp] theorem State.setSlot_issuing (s : State) (k : Nat) (v : Slot) : (s.setSlot k v).issuing = s.issuing := rfl
@[simp] theorem State.setSlot_cursor (s : State) (k : Nat) (v : Slot) : (s.setSlot k v).cursor = s.cursor := rfl
@[simp] theorem State.setSlot_freeCtr (s : State) (k : Nat) (v : Slot) : (s.setSlot k v).freeCtr = s.freeCtr := rfl
@[simp] theorem State.setSlot_serial (s : State) (k : Nat) (v : Slot) : (s.setSlot k v).serial = s.serial := rfl
@[simp] theorem State.setSlot_parts (s : State) (k : Nat) (v : Slot) : (s.setSlot k v).fab.parts = s.fab.parts := rfl
@[simp] theorem State.setSlot_owners (s : State) (k : Nat) (v : Slot) : (s.setSlot k v).fab.owners = s.fab.owners := rfl
@[simp] theorem State.setSlot_hold (s : State) (k : Nat) (v : Slot) : (s.setSlot k v).fab.hold = s.fab.hold := rfl
@[simp] theorem State.setSlot_fenced (s : State) (k : Nat) (v : Slot) : (s.setSlot k v).fab.fenced = s.fab.fenced := rfl
@[simp] theorem State.setSlot_tvec (s : State) (k : Nat) (v : Slot) : (s.setSlot k v).fab.tvec = s.fab.tvec := rfl
@[simp] theorem State.setSlot_last (s : State) (k : Nat) (v : Slot) : (s.setSlot k v).fab.last = s.fab.last := rfl
@[simp] theorem State.setSlot_vbusy (s : State) (k : Nat) (v : Slot) : (s.setSlot k v).fab.vbusy = s.fab.vbusy := rfl
@[simp] theorem State.setSlot_binds (s : State) (k : Nat) (v : Slot) : (s.setSlot k v).fab.binds = s.fab.binds := rfl
theorem State.setSlot_slots (s : State) (k : Nat) (v : Slot) :
    (s.setSlot k v).fab.slots = FMap.set Slot.empty s.fab.slots k v := rfl
@[simp] theorem State.setSlot_lost (s : State) (k : Nat) (v : Slot) : (s.setSlot k v).fab.lost = s.fab.lost := rfl
@[simp] theorem State.setSlot_sbuf (s : State) (k : Nat) (v : Slot) : (s.setSlot k v).fab.sbuf = s.fab.sbuf := rfl
@[simp] theorem State.setSlot_msgs (s : State) (k : Nat) (v : Slot) : (s.setSlot k v).fab.msgs = s.fab.msgs := rfl
@[simp] theorem State.setSlot_deques (s : State) (k : Nat) (v : Slot) : (s.setSlot k v).fab.deques = s.fab.deques := rfl
@[simp] theorem State.setSlot_dequeAt (s : State) (k : Nat) (v : Slot) : (s.setSlot k v).fab.dequeAt = s.fab.dequeAt := rfl
@[simp] theorem State.setSlot_planes (s : State) (k : Nat) (v : Slot) : (s.setSlot k v).fab.planes = s.fab.planes := rfl
@[simp] theorem State.setSlot_arrays (s : State) (k : Nat) (v : Slot) : (s.setSlot k v).fab.arrays = s.fab.arrays := rfl
@[simp] theorem State.setSlot_sems (s : State) (k : Nat) (v : Slot) : (s.setSlot k v).fab.sems = s.fab.sems := rfl
@[simp] theorem State.setSlot_windows (s : State) (k : Nat) (v : Slot) : (s.setSlot k v).fab.windows = s.fab.windows := rfl
@[simp] theorem State.setSlot_fused (s : State) (k : Nat) (v : Slot) : (s.setSlot k v).fab.fused = s.fab.fused := rfl
@[simp] theorem State.setSlot_icache (s : State) (k : Nat) (v : Slot) : (s.setSlot k v).fab.icache = s.fab.icache := rfl

@[simp] theorem State.putUnit_ck (s : State) (r : SlotRef) (u : Ctx) : (s.putUnit r u).ck = s.ck := rfl
@[simp] theorem State.putUnit_store (s : State) (r : SlotRef) (u : Ctx) : (s.putUnit r u).store = s.store := rfl
@[simp] theorem State.putUnit_work (s : State) (r : SlotRef) (u : Ctx) : (s.putUnit r u).work = s.work := rfl
@[simp] theorem State.putUnit_firm (s : State) (r : SlotRef) (u : Ctx) : (s.putUnit r u).firm = s.firm := rfl
@[simp] theorem State.putUnit_agenda (s : State) (r : SlotRef) (u : Ctx) : (s.putUnit r u).agenda = s.agenda := rfl
@[simp] theorem State.putUnit_issuing (s : State) (r : SlotRef) (u : Ctx) : (s.putUnit r u).issuing = s.issuing := rfl
@[simp] theorem State.putUnit_cursor (s : State) (r : SlotRef) (u : Ctx) : (s.putUnit r u).cursor = s.cursor := rfl
@[simp] theorem State.putUnit_freeCtr (s : State) (r : SlotRef) (u : Ctx) : (s.putUnit r u).freeCtr = s.freeCtr := rfl
@[simp] theorem State.putUnit_serial (s : State) (r : SlotRef) (u : Ctx) : (s.putUnit r u).serial = s.serial := rfl
@[simp] theorem State.putUnit_parts (s : State) (r : SlotRef) (u : Ctx) : (s.putUnit r u).fab.parts = s.fab.parts := rfl
@[simp] theorem State.putUnit_owners (s : State) (r : SlotRef) (u : Ctx) : (s.putUnit r u).fab.owners = s.fab.owners := rfl
@[simp] theorem State.putUnit_hold (s : State) (r : SlotRef) (u : Ctx) : (s.putUnit r u).fab.hold = s.fab.hold := rfl
@[simp] theorem State.putUnit_fenced (s : State) (r : SlotRef) (u : Ctx) : (s.putUnit r u).fab.fenced = s.fab.fenced := rfl
@[simp] theorem State.putUnit_tvec (s : State) (r : SlotRef) (u : Ctx) : (s.putUnit r u).fab.tvec = s.fab.tvec := rfl
@[simp] theorem State.putUnit_last (s : State) (r : SlotRef) (u : Ctx) : (s.putUnit r u).fab.last = s.fab.last := rfl
@[simp] theorem State.putUnit_vbusy (s : State) (r : SlotRef) (u : Ctx) : (s.putUnit r u).fab.vbusy = s.fab.vbusy := rfl
@[simp] theorem State.putUnit_binds (s : State) (r : SlotRef) (u : Ctx) : (s.putUnit r u).fab.binds = s.fab.binds := rfl
theorem State.putUnit_slots (s : State) (r : SlotRef) (u : Ctx) :
    (s.putUnit r u).fab.slots = FMap.set Slot.empty s.fab.slots r.key { s.slotAt r.key with unit := some u } := rfl
@[simp] theorem State.putUnit_lost (s : State) (r : SlotRef) (u : Ctx) : (s.putUnit r u).fab.lost = s.fab.lost := rfl
@[simp] theorem State.putUnit_sbuf (s : State) (r : SlotRef) (u : Ctx) : (s.putUnit r u).fab.sbuf = s.fab.sbuf := rfl
@[simp] theorem State.putUnit_msgs (s : State) (r : SlotRef) (u : Ctx) : (s.putUnit r u).fab.msgs = s.fab.msgs := rfl
@[simp] theorem State.putUnit_deques (s : State) (r : SlotRef) (u : Ctx) : (s.putUnit r u).fab.deques = s.fab.deques := rfl
@[simp] theorem State.putUnit_dequeAt (s : State) (r : SlotRef) (u : Ctx) : (s.putUnit r u).fab.dequeAt = s.fab.dequeAt := rfl
@[simp] theorem State.putUnit_planes (s : State) (r : SlotRef) (u : Ctx) : (s.putUnit r u).fab.planes = s.fab.planes := rfl
@[simp] theorem State.putUnit_arrays (s : State) (r : SlotRef) (u : Ctx) : (s.putUnit r u).fab.arrays = s.fab.arrays := rfl
@[simp] theorem State.putUnit_sems (s : State) (r : SlotRef) (u : Ctx) : (s.putUnit r u).fab.sems = s.fab.sems := rfl
@[simp] theorem State.putUnit_windows (s : State) (r : SlotRef) (u : Ctx) : (s.putUnit r u).fab.windows = s.fab.windows := rfl
@[simp] theorem State.putUnit_fused (s : State) (r : SlotRef) (u : Ctx) : (s.putUnit r u).fab.fused = s.fab.fused := rfl
@[simp] theorem State.putUnit_icache (s : State) (r : SlotRef) (u : Ctx) : (s.putUnit r u).fab.icache = s.fab.icache := rfl

@[simp] theorem State.putMode_ck (s : State) (r : SlotRef) (u : Ctx) (m : SlotMode) : (s.putMode r u m).ck = s.ck := rfl
@[simp] theorem State.putMode_store (s : State) (r : SlotRef) (u : Ctx) (m : SlotMode) : (s.putMode r u m).store = s.store := rfl
@[simp] theorem State.putMode_work (s : State) (r : SlotRef) (u : Ctx) (m : SlotMode) : (s.putMode r u m).work = s.work := rfl
@[simp] theorem State.putMode_firm (s : State) (r : SlotRef) (u : Ctx) (m : SlotMode) : (s.putMode r u m).firm = s.firm := rfl
@[simp] theorem State.putMode_agenda (s : State) (r : SlotRef) (u : Ctx) (m : SlotMode) : (s.putMode r u m).agenda = s.agenda := rfl
@[simp] theorem State.putMode_issuing (s : State) (r : SlotRef) (u : Ctx) (m : SlotMode) : (s.putMode r u m).issuing = s.issuing := rfl
@[simp] theorem State.putMode_cursor (s : State) (r : SlotRef) (u : Ctx) (m : SlotMode) : (s.putMode r u m).cursor = s.cursor := rfl
@[simp] theorem State.putMode_freeCtr (s : State) (r : SlotRef) (u : Ctx) (m : SlotMode) : (s.putMode r u m).freeCtr = s.freeCtr := rfl
@[simp] theorem State.putMode_serial (s : State) (r : SlotRef) (u : Ctx) (m : SlotMode) : (s.putMode r u m).serial = s.serial := rfl
@[simp] theorem State.putMode_parts (s : State) (r : SlotRef) (u : Ctx) (m : SlotMode) : (s.putMode r u m).fab.parts = s.fab.parts := rfl
@[simp] theorem State.putMode_owners (s : State) (r : SlotRef) (u : Ctx) (m : SlotMode) : (s.putMode r u m).fab.owners = s.fab.owners := rfl
@[simp] theorem State.putMode_hold (s : State) (r : SlotRef) (u : Ctx) (m : SlotMode) : (s.putMode r u m).fab.hold = s.fab.hold := rfl
@[simp] theorem State.putMode_fenced (s : State) (r : SlotRef) (u : Ctx) (m : SlotMode) : (s.putMode r u m).fab.fenced = s.fab.fenced := rfl
@[simp] theorem State.putMode_tvec (s : State) (r : SlotRef) (u : Ctx) (m : SlotMode) : (s.putMode r u m).fab.tvec = s.fab.tvec := rfl
@[simp] theorem State.putMode_last (s : State) (r : SlotRef) (u : Ctx) (m : SlotMode) : (s.putMode r u m).fab.last = s.fab.last := rfl
@[simp] theorem State.putMode_vbusy (s : State) (r : SlotRef) (u : Ctx) (m : SlotMode) : (s.putMode r u m).fab.vbusy = s.fab.vbusy := rfl
@[simp] theorem State.putMode_binds (s : State) (r : SlotRef) (u : Ctx) (m : SlotMode) : (s.putMode r u m).fab.binds = s.fab.binds := rfl
theorem State.putMode_slots (s : State) (r : SlotRef) (u : Ctx) (m : SlotMode) :
    (s.putMode r u m).fab.slots = FMap.set Slot.empty s.fab.slots r.key { s.slotAt r.key with unit := some u, mode := m } := rfl
@[simp] theorem State.putMode_lost (s : State) (r : SlotRef) (u : Ctx) (m : SlotMode) : (s.putMode r u m).fab.lost = s.fab.lost := rfl
@[simp] theorem State.putMode_sbuf (s : State) (r : SlotRef) (u : Ctx) (m : SlotMode) : (s.putMode r u m).fab.sbuf = s.fab.sbuf := rfl
@[simp] theorem State.putMode_msgs (s : State) (r : SlotRef) (u : Ctx) (m : SlotMode) : (s.putMode r u m).fab.msgs = s.fab.msgs := rfl
@[simp] theorem State.putMode_deques (s : State) (r : SlotRef) (u : Ctx) (m : SlotMode) : (s.putMode r u m).fab.deques = s.fab.deques := rfl
@[simp] theorem State.putMode_dequeAt (s : State) (r : SlotRef) (u : Ctx) (m : SlotMode) : (s.putMode r u m).fab.dequeAt = s.fab.dequeAt := rfl
@[simp] theorem State.putMode_planes (s : State) (r : SlotRef) (u : Ctx) (m : SlotMode) : (s.putMode r u m).fab.planes = s.fab.planes := rfl
@[simp] theorem State.putMode_arrays (s : State) (r : SlotRef) (u : Ctx) (m : SlotMode) : (s.putMode r u m).fab.arrays = s.fab.arrays := rfl
@[simp] theorem State.putMode_sems (s : State) (r : SlotRef) (u : Ctx) (m : SlotMode) : (s.putMode r u m).fab.sems = s.fab.sems := rfl
@[simp] theorem State.putMode_windows (s : State) (r : SlotRef) (u : Ctx) (m : SlotMode) : (s.putMode r u m).fab.windows = s.fab.windows := rfl
@[simp] theorem State.putMode_fused (s : State) (r : SlotRef) (u : Ctx) (m : SlotMode) : (s.putMode r u m).fab.fused = s.fab.fused := rfl
@[simp] theorem State.putMode_icache (s : State) (r : SlotRef) (u : Ctx) (m : SlotMode) : (s.putMode r u m).fab.icache = s.fab.icache := rfl

@[simp] theorem State.rejoin_ck (s : State) (k : Nat) : (s.rejoin k).ck = s.ck := by unfold State.rejoin; dsimp only; split <;> rfl
@[simp] theorem State.rejoin_store (s : State) (k : Nat) : (s.rejoin k).store = s.store := by unfold State.rejoin; dsimp only; split <;> rfl
@[simp] theorem State.rejoin_work (s : State) (k : Nat) : (s.rejoin k).work = s.work := by unfold State.rejoin; dsimp only; split <;> rfl
@[simp] theorem State.rejoin_firm (s : State) (k : Nat) : (s.rejoin k).firm = s.firm := by unfold State.rejoin; dsimp only; split <;> rfl
@[simp] theorem State.rejoin_agenda (s : State) (k : Nat) : (s.rejoin k).agenda = s.agenda := by unfold State.rejoin; dsimp only; split <;> rfl
@[simp] theorem State.rejoin_issuing (s : State) (k : Nat) : (s.rejoin k).issuing = s.issuing := by unfold State.rejoin; dsimp only; split <;> rfl
@[simp] theorem State.rejoin_cursor (s : State) (k : Nat) : (s.rejoin k).cursor = s.cursor := by unfold State.rejoin; dsimp only; split <;> rfl
@[simp] theorem State.rejoin_freeCtr (s : State) (k : Nat) : (s.rejoin k).freeCtr = s.freeCtr := by unfold State.rejoin; dsimp only; split <;> rfl
@[simp] theorem State.rejoin_serial (s : State) (k : Nat) : (s.rejoin k).serial = s.serial := by unfold State.rejoin; dsimp only; split <;> rfl

@[simp] theorem State.setMsgs_ck (s : State) (c : Nat) (ms : List Msg) : (s.setMsgs c ms).ck = s.ck := rfl
@[simp] theorem State.setMsgs_store (s : State) (c : Nat) (ms : List Msg) : (s.setMsgs c ms).store = s.store := rfl
@[simp] theorem State.setMsgs_work (s : State) (c : Nat) (ms : List Msg) : (s.setMsgs c ms).work = s.work := rfl
@[simp] theorem State.setMsgs_firm (s : State) (c : Nat) (ms : List Msg) : (s.setMsgs c ms).firm = s.firm := rfl
@[simp] theorem State.setMsgs_agenda (s : State) (c : Nat) (ms : List Msg) : (s.setMsgs c ms).agenda = s.agenda := rfl
@[simp] theorem State.setMsgs_issuing (s : State) (c : Nat) (ms : List Msg) : (s.setMsgs c ms).issuing = s.issuing := rfl
@[simp] theorem State.setMsgs_cursor (s : State) (c : Nat) (ms : List Msg) : (s.setMsgs c ms).cursor = s.cursor := rfl
@[simp] theorem State.setMsgs_freeCtr (s : State) (c : Nat) (ms : List Msg) : (s.setMsgs c ms).freeCtr = s.freeCtr := rfl
@[simp] theorem State.setMsgs_serial (s : State) (c : Nat) (ms : List Msg) : (s.setMsgs c ms).serial = s.serial := rfl

/-! ## Updates of a context -/

@[simp] theorem Ctx.setReg_key (u : Ctx) (n : Nat) (v : Word) : (u.setReg n v).key = u.key := rfl
@[simp] theorem Ctx.setReg_regs (u : Ctx) (n : Nat) (v : Word) : (u.setReg n v).regs = FMap.set 0 u.regs n v := rfl
@[simp] theorem Ctx.setReg_pend (u : Ctx) (n : Nat) (v : Word) : (u.setReg n v).pend = u.pend := rfl
@[simp] theorem Ctx.setReg_pois (u : Ctx) (n : Nat) (v : Word) : (u.setReg n v).pois = NSet.erase u.pois n := rfl
@[simp] theorem Ctx.setReg_rows (u : Ctx) (n : Nat) (v : Word) : (u.setReg n v).rows = u.rows := rfl
@[simp] theorem Ctx.setReg_tags (u : Ctx) (n : Nat) (v : Word) : (u.setReg n v).tags = u.tags := rfl
@[simp] theorem Ctx.setReg_guards (u : Ctx) (n : Nat) (v : Word) : (u.setReg n v).guards = u.guards := rfl
@[simp] theorem Ctx.setReg_masks (u : Ctx) (n : Nat) (v : Word) : (u.setReg n v).masks = u.masks := rfl
@[simp] theorem Ctx.setReg_bounds (u : Ctx) (n : Nat) (v : Word) : (u.setReg n v).bounds = u.bounds := rfl
@[simp] theorem Ctx.setReg_carries (u : Ctx) (n : Nat) (v : Word) : (u.setReg n v).carries = u.carries := rfl
@[simp] theorem Ctx.setReg_tileSat (u : Ctx) (n : Nat) (v : Word) : (u.setReg n v).tileSat = u.tileSat := rfl
@[simp] theorem Ctx.setReg_ssmPtr (u : Ctx) (n : Nat) (v : Word) : (u.setReg n v).ssmPtr = u.ssmPtr := rfl
@[simp] theorem Ctx.setReg_pc (u : Ctx) (n : Nat) (v : Word) : (u.setReg n v).pc = u.pc := rfl
@[simp] theorem Ctx.setReg_stat (u : Ctx) (n : Nat) (v : Word) : (u.setReg n v).stat = u.stat := rfl
@[simp] theorem Ctx.setReg_geo (u : Ctx) (n : Nat) (v : Word) : (u.setReg n v).geo = u.geo := rfl
@[simp] theorem Ctx.setReg_uid (u : Ctx) (n : Nat) (v : Word) : (u.setReg n v).uid = u.uid := rfl
@[simp] theorem Ctx.setReg_tag (u : Ctx) (n : Nat) (v : Word) : (u.setReg n v).tag = u.tag := rfl
@[simp] theorem Ctx.setReg_pid (u : Ctx) (n : Nat) (v : Word) : (u.setReg n v).pid = u.pid := rfl
@[simp] theorem Ctx.setReg_trec (u : Ctx) (n : Nat) (v : Word) : (u.setReg n v).trec = u.trec := rfl
@[simp] theorem Ctx.setReg_seq (u : Ctx) (n : Nat) (v : Word) : (u.setReg n v).seq = u.seq := rfl
@[simp] theorem Ctx.setReg_arrival (u : Ctx) (n : Nat) (v : Word) : (u.setReg n v).arrival = u.arrival := rfl
@[simp] theorem Ctx.setReg_job (u : Ctx) (n : Nat) (v : Word) : (u.setReg n v).job = u.job := rfl
@[simp] theorem Ctx.setReg_launch (u : Ctx) (n : Nat) (v : Word) : (u.setReg n v).launch = u.launch := rfl
@[simp] theorem Ctx.setReg_phase (u : Ctx) (n : Nat) (v : Word) : (u.setReg n v).phase = u.phase := rfl
@[simp] theorem Ctx.setReg_started (u : Ctx) (n : Nat) (v : Word) : (u.setReg n v).started = u.started := rfl
@[simp] theorem Ctx.setReg_idle (u : Ctx) (n : Nat) (v : Word) : (u.setReg n v).idle = u.idle := rfl
@[simp] theorem Ctx.setReg_popping (u : Ctx) (n : Nat) (v : Word) : (u.setReg n v).popping = u.popping := rfl
@[simp] theorem Ctx.setReg_backoff (u : Ctx) (n : Nat) (v : Word) : (u.setReg n v).backoff = u.backoff := rfl
@[simp] theorem Ctx.setReg_colls (u : Ctx) (n : Nat) (v : Word) : (u.setReg n v).colls = u.colls := rfl
@[simp] theorem Ctx.setReg_purposes (u : Ctx) (n : Nat) (v : Word) : (u.setReg n v).purposes = u.purposes := rfl
@[simp] theorem Ctx.setReg_held (u : Ctx) (n : Nat) (v : Word) : (u.setReg n v).held = u.held := rfl
@[simp] theorem Ctx.setReg_failed (u : Ctx) (n : Nat) (v : Word) : (u.setReg n v).failed = u.failed := rfl
@[simp] theorem Ctx.setReg_doomed (u : Ctx) (n : Nat) (v : Word) : (u.setReg n v).doomed = u.doomed := rfl
@[simp] theorem Ctx.setReg_deferred (u : Ctx) (n : Nat) (v : Word) : (u.setReg n v).deferred = u.deferred := rfl
@[simp] theorem Ctx.setReg_pass (u : Ctx) (n : Nat) (v : Word) : (u.setReg n v).pass = u.pass := rfl
@[simp] theorem Ctx.setReg_posting (u : Ctx) (n : Nat) (v : Word) : (u.setReg n v).posting = u.posting := rfl
@[simp] theorem Ctx.setReg_running (u : Ctx) (n : Nat) (v : Word) : (u.setReg n v).running = u.running := rfl

@[simp] theorem Ctx.setRow_key (u : Ctx) (n : Nat) (b : Row) (t : BitVec 4) : (u.setRow n b t).key = u.key := rfl
@[simp] theorem Ctx.setRow_regs (u : Ctx) (n : Nat) (b : Row) (t : BitVec 4) : (u.setRow n b t).regs = u.regs := rfl
@[simp] theorem Ctx.setRow_pend (u : Ctx) (n : Nat) (b : Row) (t : BitVec 4) : (u.setRow n b t).pend = u.pend := rfl
@[simp] theorem Ctx.setRow_pois (u : Ctx) (n : Nat) (b : Row) (t : BitVec 4) : (u.setRow n b t).pois = u.pois := rfl
@[simp] theorem Ctx.setRow_rows (u : Ctx) (n : Nat) (b : Row) (t : BitVec 4) : (u.setRow n b t).rows = FMap.set 0 u.rows n b := rfl
@[simp] theorem Ctx.setRow_tags (u : Ctx) (n : Nat) (b : Row) (t : BitVec 4) : (u.setRow n b t).tags = FMap.set 0 u.tags n t := rfl
@[simp] theorem Ctx.setRow_guards (u : Ctx) (n : Nat) (b : Row) (t : BitVec 4) : (u.setRow n b t).guards = u.guards := rfl
@[simp] theorem Ctx.setRow_masks (u : Ctx) (n : Nat) (b : Row) (t : BitVec 4) : (u.setRow n b t).masks = u.masks := rfl
@[simp] theorem Ctx.setRow_bounds (u : Ctx) (n : Nat) (b : Row) (t : BitVec 4) : (u.setRow n b t).bounds = u.bounds := rfl
@[simp] theorem Ctx.setRow_carries (u : Ctx) (n : Nat) (b : Row) (t : BitVec 4) : (u.setRow n b t).carries = u.carries := rfl
@[simp] theorem Ctx.setRow_tileSat (u : Ctx) (n : Nat) (b : Row) (t : BitVec 4) : (u.setRow n b t).tileSat = u.tileSat := rfl
@[simp] theorem Ctx.setRow_ssmPtr (u : Ctx) (n : Nat) (b : Row) (t : BitVec 4) : (u.setRow n b t).ssmPtr = u.ssmPtr := rfl
@[simp] theorem Ctx.setRow_pc (u : Ctx) (n : Nat) (b : Row) (t : BitVec 4) : (u.setRow n b t).pc = u.pc := rfl
@[simp] theorem Ctx.setRow_stat (u : Ctx) (n : Nat) (b : Row) (t : BitVec 4) : (u.setRow n b t).stat = u.stat := rfl
@[simp] theorem Ctx.setRow_geo (u : Ctx) (n : Nat) (b : Row) (t : BitVec 4) : (u.setRow n b t).geo = u.geo := rfl
@[simp] theorem Ctx.setRow_uid (u : Ctx) (n : Nat) (b : Row) (t : BitVec 4) : (u.setRow n b t).uid = u.uid := rfl
@[simp] theorem Ctx.setRow_tag (u : Ctx) (n : Nat) (b : Row) (t : BitVec 4) : (u.setRow n b t).tag = u.tag := rfl
@[simp] theorem Ctx.setRow_pid (u : Ctx) (n : Nat) (b : Row) (t : BitVec 4) : (u.setRow n b t).pid = u.pid := rfl
@[simp] theorem Ctx.setRow_trec (u : Ctx) (n : Nat) (b : Row) (t : BitVec 4) : (u.setRow n b t).trec = u.trec := rfl
@[simp] theorem Ctx.setRow_seq (u : Ctx) (n : Nat) (b : Row) (t : BitVec 4) : (u.setRow n b t).seq = u.seq := rfl
@[simp] theorem Ctx.setRow_arrival (u : Ctx) (n : Nat) (b : Row) (t : BitVec 4) : (u.setRow n b t).arrival = u.arrival := rfl
@[simp] theorem Ctx.setRow_job (u : Ctx) (n : Nat) (b : Row) (t : BitVec 4) : (u.setRow n b t).job = u.job := rfl
@[simp] theorem Ctx.setRow_launch (u : Ctx) (n : Nat) (b : Row) (t : BitVec 4) : (u.setRow n b t).launch = u.launch := rfl
@[simp] theorem Ctx.setRow_phase (u : Ctx) (n : Nat) (b : Row) (t : BitVec 4) : (u.setRow n b t).phase = u.phase := rfl
@[simp] theorem Ctx.setRow_started (u : Ctx) (n : Nat) (b : Row) (t : BitVec 4) : (u.setRow n b t).started = u.started := rfl
@[simp] theorem Ctx.setRow_idle (u : Ctx) (n : Nat) (b : Row) (t : BitVec 4) : (u.setRow n b t).idle = u.idle := rfl
@[simp] theorem Ctx.setRow_popping (u : Ctx) (n : Nat) (b : Row) (t : BitVec 4) : (u.setRow n b t).popping = u.popping := rfl
@[simp] theorem Ctx.setRow_backoff (u : Ctx) (n : Nat) (b : Row) (t : BitVec 4) : (u.setRow n b t).backoff = u.backoff := rfl
@[simp] theorem Ctx.setRow_colls (u : Ctx) (n : Nat) (b : Row) (t : BitVec 4) : (u.setRow n b t).colls = u.colls := rfl
@[simp] theorem Ctx.setRow_purposes (u : Ctx) (n : Nat) (b : Row) (t : BitVec 4) : (u.setRow n b t).purposes = u.purposes := rfl
@[simp] theorem Ctx.setRow_held (u : Ctx) (n : Nat) (b : Row) (t : BitVec 4) : (u.setRow n b t).held = u.held := rfl
@[simp] theorem Ctx.setRow_failed (u : Ctx) (n : Nat) (b : Row) (t : BitVec 4) : (u.setRow n b t).failed = u.failed := rfl
@[simp] theorem Ctx.setRow_doomed (u : Ctx) (n : Nat) (b : Row) (t : BitVec 4) : (u.setRow n b t).doomed = u.doomed := rfl
@[simp] theorem Ctx.setRow_deferred (u : Ctx) (n : Nat) (b : Row) (t : BitVec 4) : (u.setRow n b t).deferred = u.deferred := rfl
@[simp] theorem Ctx.setRow_pass (u : Ctx) (n : Nat) (b : Row) (t : BitVec 4) : (u.setRow n b t).pass = u.pass := rfl
@[simp] theorem Ctx.setRow_posting (u : Ctx) (n : Nat) (b : Row) (t : BitVec 4) : (u.setRow n b t).posting = u.posting := rfl
@[simp] theorem Ctx.setRow_running (u : Ctx) (n : Nat) (b : Row) (t : BitVec 4) : (u.setRow n b t).running = u.running := rfl

@[simp] theorem Ctx.setGuard_key (u : Ctx) (n : Nat) (v : Bool) : (u.setGuard n v).key = u.key := rfl
@[simp] theorem Ctx.setGuard_regs (u : Ctx) (n : Nat) (v : Bool) : (u.setGuard n v).regs = u.regs := rfl
@[simp] theorem Ctx.setGuard_pend (u : Ctx) (n : Nat) (v : Bool) : (u.setGuard n v).pend = u.pend := rfl
@[simp] theorem Ctx.setGuard_pois (u : Ctx) (n : Nat) (v : Bool) : (u.setGuard n v).pois = u.pois := rfl
@[simp] theorem Ctx.setGuard_rows (u : Ctx) (n : Nat) (v : Bool) : (u.setGuard n v).rows = u.rows := rfl
@[simp] theorem Ctx.setGuard_tags (u : Ctx) (n : Nat) (v : Bool) : (u.setGuard n v).tags = u.tags := rfl
@[simp] theorem Ctx.setGuard_guards (u : Ctx) (n : Nat) (v : Bool) : (u.setGuard n v).guards = (u.guards &&& ~~~(1#8 <<< n)) ||| ((BitVec.ofBool v).setWidth 8 <<< n) := rfl
@[simp] theorem Ctx.setGuard_masks (u : Ctx) (n : Nat) (v : Bool) : (u.setGuard n v).masks = u.masks := rfl
@[simp] theorem Ctx.setGuard_bounds (u : Ctx) (n : Nat) (v : Bool) : (u.setGuard n v).bounds = u.bounds := rfl
@[simp] theorem Ctx.setGuard_carries (u : Ctx) (n : Nat) (v : Bool) : (u.setGuard n v).carries = u.carries := rfl
@[simp] theorem Ctx.setGuard_tileSat (u : Ctx) (n : Nat) (v : Bool) : (u.setGuard n v).tileSat = u.tileSat := rfl
@[simp] theorem Ctx.setGuard_ssmPtr (u : Ctx) (n : Nat) (v : Bool) : (u.setGuard n v).ssmPtr = u.ssmPtr := rfl
@[simp] theorem Ctx.setGuard_pc (u : Ctx) (n : Nat) (v : Bool) : (u.setGuard n v).pc = u.pc := rfl
@[simp] theorem Ctx.setGuard_stat (u : Ctx) (n : Nat) (v : Bool) : (u.setGuard n v).stat = u.stat := rfl
@[simp] theorem Ctx.setGuard_geo (u : Ctx) (n : Nat) (v : Bool) : (u.setGuard n v).geo = u.geo := rfl
@[simp] theorem Ctx.setGuard_uid (u : Ctx) (n : Nat) (v : Bool) : (u.setGuard n v).uid = u.uid := rfl
@[simp] theorem Ctx.setGuard_tag (u : Ctx) (n : Nat) (v : Bool) : (u.setGuard n v).tag = u.tag := rfl
@[simp] theorem Ctx.setGuard_pid (u : Ctx) (n : Nat) (v : Bool) : (u.setGuard n v).pid = u.pid := rfl
@[simp] theorem Ctx.setGuard_trec (u : Ctx) (n : Nat) (v : Bool) : (u.setGuard n v).trec = u.trec := rfl
@[simp] theorem Ctx.setGuard_seq (u : Ctx) (n : Nat) (v : Bool) : (u.setGuard n v).seq = u.seq := rfl
@[simp] theorem Ctx.setGuard_arrival (u : Ctx) (n : Nat) (v : Bool) : (u.setGuard n v).arrival = u.arrival := rfl
@[simp] theorem Ctx.setGuard_job (u : Ctx) (n : Nat) (v : Bool) : (u.setGuard n v).job = u.job := rfl
@[simp] theorem Ctx.setGuard_launch (u : Ctx) (n : Nat) (v : Bool) : (u.setGuard n v).launch = u.launch := rfl
@[simp] theorem Ctx.setGuard_phase (u : Ctx) (n : Nat) (v : Bool) : (u.setGuard n v).phase = u.phase := rfl
@[simp] theorem Ctx.setGuard_started (u : Ctx) (n : Nat) (v : Bool) : (u.setGuard n v).started = u.started := rfl
@[simp] theorem Ctx.setGuard_idle (u : Ctx) (n : Nat) (v : Bool) : (u.setGuard n v).idle = u.idle := rfl
@[simp] theorem Ctx.setGuard_popping (u : Ctx) (n : Nat) (v : Bool) : (u.setGuard n v).popping = u.popping := rfl
@[simp] theorem Ctx.setGuard_backoff (u : Ctx) (n : Nat) (v : Bool) : (u.setGuard n v).backoff = u.backoff := rfl
@[simp] theorem Ctx.setGuard_colls (u : Ctx) (n : Nat) (v : Bool) : (u.setGuard n v).colls = u.colls := rfl
@[simp] theorem Ctx.setGuard_purposes (u : Ctx) (n : Nat) (v : Bool) : (u.setGuard n v).purposes = u.purposes := rfl
@[simp] theorem Ctx.setGuard_held (u : Ctx) (n : Nat) (v : Bool) : (u.setGuard n v).held = u.held := rfl
@[simp] theorem Ctx.setGuard_failed (u : Ctx) (n : Nat) (v : Bool) : (u.setGuard n v).failed = u.failed := rfl
@[simp] theorem Ctx.setGuard_doomed (u : Ctx) (n : Nat) (v : Bool) : (u.setGuard n v).doomed = u.doomed := rfl
@[simp] theorem Ctx.setGuard_deferred (u : Ctx) (n : Nat) (v : Bool) : (u.setGuard n v).deferred = u.deferred := rfl
@[simp] theorem Ctx.setGuard_pass (u : Ctx) (n : Nat) (v : Bool) : (u.setGuard n v).pass = u.pass := rfl
@[simp] theorem Ctx.setGuard_posting (u : Ctx) (n : Nat) (v : Bool) : (u.setGuard n v).posting = u.posting := rfl
@[simp] theorem Ctx.setGuard_running (u : Ctx) (n : Nat) (v : Bool) : (u.setGuard n v).running = u.running := rfl

@[simp] theorem Ctx.setMask_key (u : Ctx) (n : Nat) (m : Mask) : (u.setMask n m).key = u.key := rfl
@[simp] theorem Ctx.setMask_regs (u : Ctx) (n : Nat) (m : Mask) : (u.setMask n m).regs = u.regs := rfl
@[simp] theorem Ctx.setMask_pend (u : Ctx) (n : Nat) (m : Mask) : (u.setMask n m).pend = u.pend := rfl
@[simp] theorem Ctx.setMask_pois (u : Ctx) (n : Nat) (m : Mask) : (u.setMask n m).pois = u.pois := rfl
@[simp] theorem Ctx.setMask_rows (u : Ctx) (n : Nat) (m : Mask) : (u.setMask n m).rows = u.rows := rfl
@[simp] theorem Ctx.setMask_tags (u : Ctx) (n : Nat) (m : Mask) : (u.setMask n m).tags = u.tags := rfl
@[simp] theorem Ctx.setMask_guards (u : Ctx) (n : Nat) (m : Mask) : (u.setMask n m).guards = u.guards := rfl
@[simp] theorem Ctx.setMask_masks (u : Ctx) (n : Nat) (m : Mask) : (u.setMask n m).masks = FMap.set 0 u.masks n m := rfl
@[simp] theorem Ctx.setMask_bounds (u : Ctx) (n : Nat) (m : Mask) : (u.setMask n m).bounds = u.bounds := rfl
@[simp] theorem Ctx.setMask_carries (u : Ctx) (n : Nat) (m : Mask) : (u.setMask n m).carries = u.carries := rfl
@[simp] theorem Ctx.setMask_tileSat (u : Ctx) (n : Nat) (m : Mask) : (u.setMask n m).tileSat = u.tileSat := rfl
@[simp] theorem Ctx.setMask_ssmPtr (u : Ctx) (n : Nat) (m : Mask) : (u.setMask n m).ssmPtr = u.ssmPtr := rfl
@[simp] theorem Ctx.setMask_pc (u : Ctx) (n : Nat) (m : Mask) : (u.setMask n m).pc = u.pc := rfl
@[simp] theorem Ctx.setMask_stat (u : Ctx) (n : Nat) (m : Mask) : (u.setMask n m).stat = u.stat := rfl
@[simp] theorem Ctx.setMask_geo (u : Ctx) (n : Nat) (m : Mask) : (u.setMask n m).geo = u.geo := rfl
@[simp] theorem Ctx.setMask_uid (u : Ctx) (n : Nat) (m : Mask) : (u.setMask n m).uid = u.uid := rfl
@[simp] theorem Ctx.setMask_tag (u : Ctx) (n : Nat) (m : Mask) : (u.setMask n m).tag = u.tag := rfl
@[simp] theorem Ctx.setMask_pid (u : Ctx) (n : Nat) (m : Mask) : (u.setMask n m).pid = u.pid := rfl
@[simp] theorem Ctx.setMask_trec (u : Ctx) (n : Nat) (m : Mask) : (u.setMask n m).trec = u.trec := rfl
@[simp] theorem Ctx.setMask_seq (u : Ctx) (n : Nat) (m : Mask) : (u.setMask n m).seq = u.seq := rfl
@[simp] theorem Ctx.setMask_arrival (u : Ctx) (n : Nat) (m : Mask) : (u.setMask n m).arrival = u.arrival := rfl
@[simp] theorem Ctx.setMask_job (u : Ctx) (n : Nat) (m : Mask) : (u.setMask n m).job = u.job := rfl
@[simp] theorem Ctx.setMask_launch (u : Ctx) (n : Nat) (m : Mask) : (u.setMask n m).launch = u.launch := rfl
@[simp] theorem Ctx.setMask_phase (u : Ctx) (n : Nat) (m : Mask) : (u.setMask n m).phase = u.phase := rfl
@[simp] theorem Ctx.setMask_started (u : Ctx) (n : Nat) (m : Mask) : (u.setMask n m).started = u.started := rfl
@[simp] theorem Ctx.setMask_idle (u : Ctx) (n : Nat) (m : Mask) : (u.setMask n m).idle = u.idle := rfl
@[simp] theorem Ctx.setMask_popping (u : Ctx) (n : Nat) (m : Mask) : (u.setMask n m).popping = u.popping := rfl
@[simp] theorem Ctx.setMask_backoff (u : Ctx) (n : Nat) (m : Mask) : (u.setMask n m).backoff = u.backoff := rfl
@[simp] theorem Ctx.setMask_colls (u : Ctx) (n : Nat) (m : Mask) : (u.setMask n m).colls = u.colls := rfl
@[simp] theorem Ctx.setMask_purposes (u : Ctx) (n : Nat) (m : Mask) : (u.setMask n m).purposes = u.purposes := rfl
@[simp] theorem Ctx.setMask_held (u : Ctx) (n : Nat) (m : Mask) : (u.setMask n m).held = u.held := rfl
@[simp] theorem Ctx.setMask_failed (u : Ctx) (n : Nat) (m : Mask) : (u.setMask n m).failed = u.failed := rfl
@[simp] theorem Ctx.setMask_doomed (u : Ctx) (n : Nat) (m : Mask) : (u.setMask n m).doomed = u.doomed := rfl
@[simp] theorem Ctx.setMask_deferred (u : Ctx) (n : Nat) (m : Mask) : (u.setMask n m).deferred = u.deferred := rfl
@[simp] theorem Ctx.setMask_pass (u : Ctx) (n : Nat) (m : Mask) : (u.setMask n m).pass = u.pass := rfl
@[simp] theorem Ctx.setMask_posting (u : Ctx) (n : Nat) (m : Mask) : (u.setMask n m).posting = u.posting := rfl
@[simp] theorem Ctx.setMask_running (u : Ctx) (n : Nat) (m : Mask) : (u.setMask n m).running = u.running := rfl

@[simp] theorem Ctx.setBound_key (u : Ctx) (n : Nat) (b : Bound) : (u.setBound n b).key = u.key := rfl
@[simp] theorem Ctx.setBound_regs (u : Ctx) (n : Nat) (b : Bound) : (u.setBound n b).regs = u.regs := rfl
@[simp] theorem Ctx.setBound_pend (u : Ctx) (n : Nat) (b : Bound) : (u.setBound n b).pend = u.pend := rfl
@[simp] theorem Ctx.setBound_pois (u : Ctx) (n : Nat) (b : Bound) : (u.setBound n b).pois = u.pois := rfl
@[simp] theorem Ctx.setBound_rows (u : Ctx) (n : Nat) (b : Bound) : (u.setBound n b).rows = u.rows := rfl
@[simp] theorem Ctx.setBound_tags (u : Ctx) (n : Nat) (b : Bound) : (u.setBound n b).tags = u.tags := rfl
@[simp] theorem Ctx.setBound_guards (u : Ctx) (n : Nat) (b : Bound) : (u.setBound n b).guards = u.guards := rfl
@[simp] theorem Ctx.setBound_masks (u : Ctx) (n : Nat) (b : Bound) : (u.setBound n b).masks = u.masks := rfl
@[simp] theorem Ctx.setBound_bounds (u : Ctx) (n : Nat) (b : Bound) : (u.setBound n b).bounds = FMap.set Bound.empty u.bounds n b := rfl
@[simp] theorem Ctx.setBound_carries (u : Ctx) (n : Nat) (b : Bound) : (u.setBound n b).carries = u.carries := rfl
@[simp] theorem Ctx.setBound_tileSat (u : Ctx) (n : Nat) (b : Bound) : (u.setBound n b).tileSat = u.tileSat := rfl
@[simp] theorem Ctx.setBound_ssmPtr (u : Ctx) (n : Nat) (b : Bound) : (u.setBound n b).ssmPtr = u.ssmPtr := rfl
@[simp] theorem Ctx.setBound_pc (u : Ctx) (n : Nat) (b : Bound) : (u.setBound n b).pc = u.pc := rfl
@[simp] theorem Ctx.setBound_stat (u : Ctx) (n : Nat) (b : Bound) : (u.setBound n b).stat = u.stat := rfl
@[simp] theorem Ctx.setBound_geo (u : Ctx) (n : Nat) (b : Bound) : (u.setBound n b).geo = u.geo := rfl
@[simp] theorem Ctx.setBound_uid (u : Ctx) (n : Nat) (b : Bound) : (u.setBound n b).uid = u.uid := rfl
@[simp] theorem Ctx.setBound_tag (u : Ctx) (n : Nat) (b : Bound) : (u.setBound n b).tag = u.tag := rfl
@[simp] theorem Ctx.setBound_pid (u : Ctx) (n : Nat) (b : Bound) : (u.setBound n b).pid = u.pid := rfl
@[simp] theorem Ctx.setBound_trec (u : Ctx) (n : Nat) (b : Bound) : (u.setBound n b).trec = u.trec := rfl
@[simp] theorem Ctx.setBound_seq (u : Ctx) (n : Nat) (b : Bound) : (u.setBound n b).seq = u.seq := rfl
@[simp] theorem Ctx.setBound_arrival (u : Ctx) (n : Nat) (b : Bound) : (u.setBound n b).arrival = u.arrival := rfl
@[simp] theorem Ctx.setBound_job (u : Ctx) (n : Nat) (b : Bound) : (u.setBound n b).job = u.job := rfl
@[simp] theorem Ctx.setBound_launch (u : Ctx) (n : Nat) (b : Bound) : (u.setBound n b).launch = u.launch := rfl
@[simp] theorem Ctx.setBound_phase (u : Ctx) (n : Nat) (b : Bound) : (u.setBound n b).phase = u.phase := rfl
@[simp] theorem Ctx.setBound_started (u : Ctx) (n : Nat) (b : Bound) : (u.setBound n b).started = u.started := rfl
@[simp] theorem Ctx.setBound_idle (u : Ctx) (n : Nat) (b : Bound) : (u.setBound n b).idle = u.idle := rfl
@[simp] theorem Ctx.setBound_popping (u : Ctx) (n : Nat) (b : Bound) : (u.setBound n b).popping = u.popping := rfl
@[simp] theorem Ctx.setBound_backoff (u : Ctx) (n : Nat) (b : Bound) : (u.setBound n b).backoff = u.backoff := rfl
@[simp] theorem Ctx.setBound_colls (u : Ctx) (n : Nat) (b : Bound) : (u.setBound n b).colls = u.colls := rfl
@[simp] theorem Ctx.setBound_purposes (u : Ctx) (n : Nat) (b : Bound) : (u.setBound n b).purposes = u.purposes := rfl
@[simp] theorem Ctx.setBound_held (u : Ctx) (n : Nat) (b : Bound) : (u.setBound n b).held = u.held := rfl
@[simp] theorem Ctx.setBound_failed (u : Ctx) (n : Nat) (b : Bound) : (u.setBound n b).failed = u.failed := rfl
@[simp] theorem Ctx.setBound_doomed (u : Ctx) (n : Nat) (b : Bound) : (u.setBound n b).doomed = u.doomed := rfl
@[simp] theorem Ctx.setBound_deferred (u : Ctx) (n : Nat) (b : Bound) : (u.setBound n b).deferred = u.deferred := rfl
@[simp] theorem Ctx.setBound_pass (u : Ctx) (n : Nat) (b : Bound) : (u.setBound n b).pass = u.pass := rfl
@[simp] theorem Ctx.setBound_posting (u : Ctx) (n : Nat) (b : Bound) : (u.setBound n b).posting = u.posting := rfl
@[simp] theorem Ctx.setBound_running (u : Ctx) (n : Nat) (b : Bound) : (u.setBound n b).running = u.running := rfl

@[simp] theorem Ctx.setCarry_key (u : Ctx) (n : Nat) (c : List Int) : (u.setCarry n c).key = u.key := rfl
@[simp] theorem Ctx.setCarry_regs (u : Ctx) (n : Nat) (c : List Int) : (u.setCarry n c).regs = u.regs := rfl
@[simp] theorem Ctx.setCarry_pend (u : Ctx) (n : Nat) (c : List Int) : (u.setCarry n c).pend = u.pend := rfl
@[simp] theorem Ctx.setCarry_pois (u : Ctx) (n : Nat) (c : List Int) : (u.setCarry n c).pois = u.pois := rfl
@[simp] theorem Ctx.setCarry_rows (u : Ctx) (n : Nat) (c : List Int) : (u.setCarry n c).rows = u.rows := rfl
@[simp] theorem Ctx.setCarry_tags (u : Ctx) (n : Nat) (c : List Int) : (u.setCarry n c).tags = u.tags := rfl
@[simp] theorem Ctx.setCarry_guards (u : Ctx) (n : Nat) (c : List Int) : (u.setCarry n c).guards = u.guards := rfl
@[simp] theorem Ctx.setCarry_masks (u : Ctx) (n : Nat) (c : List Int) : (u.setCarry n c).masks = u.masks := rfl
@[simp] theorem Ctx.setCarry_bounds (u : Ctx) (n : Nat) (c : List Int) : (u.setCarry n c).bounds = u.bounds := rfl
@[simp] theorem Ctx.setCarry_carries (u : Ctx) (n : Nat) (c : List Int) : (u.setCarry n c).carries = FMap.set [] u.carries n c := rfl
@[simp] theorem Ctx.setCarry_tileSat (u : Ctx) (n : Nat) (c : List Int) : (u.setCarry n c).tileSat = u.tileSat := rfl
@[simp] theorem Ctx.setCarry_ssmPtr (u : Ctx) (n : Nat) (c : List Int) : (u.setCarry n c).ssmPtr = u.ssmPtr := rfl
@[simp] theorem Ctx.setCarry_pc (u : Ctx) (n : Nat) (c : List Int) : (u.setCarry n c).pc = u.pc := rfl
@[simp] theorem Ctx.setCarry_stat (u : Ctx) (n : Nat) (c : List Int) : (u.setCarry n c).stat = u.stat := rfl
@[simp] theorem Ctx.setCarry_geo (u : Ctx) (n : Nat) (c : List Int) : (u.setCarry n c).geo = u.geo := rfl
@[simp] theorem Ctx.setCarry_uid (u : Ctx) (n : Nat) (c : List Int) : (u.setCarry n c).uid = u.uid := rfl
@[simp] theorem Ctx.setCarry_tag (u : Ctx) (n : Nat) (c : List Int) : (u.setCarry n c).tag = u.tag := rfl
@[simp] theorem Ctx.setCarry_pid (u : Ctx) (n : Nat) (c : List Int) : (u.setCarry n c).pid = u.pid := rfl
@[simp] theorem Ctx.setCarry_trec (u : Ctx) (n : Nat) (c : List Int) : (u.setCarry n c).trec = u.trec := rfl
@[simp] theorem Ctx.setCarry_seq (u : Ctx) (n : Nat) (c : List Int) : (u.setCarry n c).seq = u.seq := rfl
@[simp] theorem Ctx.setCarry_arrival (u : Ctx) (n : Nat) (c : List Int) : (u.setCarry n c).arrival = u.arrival := rfl
@[simp] theorem Ctx.setCarry_job (u : Ctx) (n : Nat) (c : List Int) : (u.setCarry n c).job = u.job := rfl
@[simp] theorem Ctx.setCarry_launch (u : Ctx) (n : Nat) (c : List Int) : (u.setCarry n c).launch = u.launch := rfl
@[simp] theorem Ctx.setCarry_phase (u : Ctx) (n : Nat) (c : List Int) : (u.setCarry n c).phase = u.phase := rfl
@[simp] theorem Ctx.setCarry_started (u : Ctx) (n : Nat) (c : List Int) : (u.setCarry n c).started = u.started := rfl
@[simp] theorem Ctx.setCarry_idle (u : Ctx) (n : Nat) (c : List Int) : (u.setCarry n c).idle = u.idle := rfl
@[simp] theorem Ctx.setCarry_popping (u : Ctx) (n : Nat) (c : List Int) : (u.setCarry n c).popping = u.popping := rfl
@[simp] theorem Ctx.setCarry_backoff (u : Ctx) (n : Nat) (c : List Int) : (u.setCarry n c).backoff = u.backoff := rfl
@[simp] theorem Ctx.setCarry_colls (u : Ctx) (n : Nat) (c : List Int) : (u.setCarry n c).colls = u.colls := rfl
@[simp] theorem Ctx.setCarry_purposes (u : Ctx) (n : Nat) (c : List Int) : (u.setCarry n c).purposes = u.purposes := rfl
@[simp] theorem Ctx.setCarry_held (u : Ctx) (n : Nat) (c : List Int) : (u.setCarry n c).held = u.held := rfl
@[simp] theorem Ctx.setCarry_failed (u : Ctx) (n : Nat) (c : List Int) : (u.setCarry n c).failed = u.failed := rfl
@[simp] theorem Ctx.setCarry_doomed (u : Ctx) (n : Nat) (c : List Int) : (u.setCarry n c).doomed = u.doomed := rfl
@[simp] theorem Ctx.setCarry_deferred (u : Ctx) (n : Nat) (c : List Int) : (u.setCarry n c).deferred = u.deferred := rfl
@[simp] theorem Ctx.setCarry_pass (u : Ctx) (n : Nat) (c : List Int) : (u.setCarry n c).pass = u.pass := rfl
@[simp] theorem Ctx.setCarry_posting (u : Ctx) (n : Nat) (c : List Int) : (u.setCarry n c).posting = u.posting := rfl
@[simp] theorem Ctx.setCarry_running (u : Ctx) (n : Nat) (c : List Int) : (u.setCarry n c).running = u.running := rfl

@[simp] theorem Ctx.setFlags_key (u : Ctx) (m : BitVec 6) : (u.setFlags m).key = u.key := rfl
@[simp] theorem Ctx.setFlags_regs (u : Ctx) (m : BitVec 6) : (u.setFlags m).regs = u.regs := rfl
@[simp] theorem Ctx.setFlags_pend (u : Ctx) (m : BitVec 6) : (u.setFlags m).pend = u.pend := rfl
@[simp] theorem Ctx.setFlags_pois (u : Ctx) (m : BitVec 6) : (u.setFlags m).pois = u.pois := rfl
@[simp] theorem Ctx.setFlags_rows (u : Ctx) (m : BitVec 6) : (u.setFlags m).rows = u.rows := rfl
@[simp] theorem Ctx.setFlags_tags (u : Ctx) (m : BitVec 6) : (u.setFlags m).tags = u.tags := rfl
@[simp] theorem Ctx.setFlags_guards (u : Ctx) (m : BitVec 6) : (u.setFlags m).guards = u.guards := rfl
@[simp] theorem Ctx.setFlags_masks (u : Ctx) (m : BitVec 6) : (u.setFlags m).masks = u.masks := rfl
@[simp] theorem Ctx.setFlags_bounds (u : Ctx) (m : BitVec 6) : (u.setFlags m).bounds = u.bounds := rfl
@[simp] theorem Ctx.setFlags_carries (u : Ctx) (m : BitVec 6) : (u.setFlags m).carries = u.carries := rfl
@[simp] theorem Ctx.setFlags_tileSat (u : Ctx) (m : BitVec 6) : (u.setFlags m).tileSat = u.tileSat := rfl
@[simp] theorem Ctx.setFlags_ssmPtr (u : Ctx) (m : BitVec 6) : (u.setFlags m).ssmPtr = u.ssmPtr := rfl
@[simp] theorem Ctx.setFlags_pc (u : Ctx) (m : BitVec 6) : (u.setFlags m).pc = u.pc := rfl
@[simp] theorem Ctx.setFlags_stat (u : Ctx) (m : BitVec 6) : (u.setFlags m).stat = u.stat ||| m.setWidth 64 := rfl
@[simp] theorem Ctx.setFlags_geo (u : Ctx) (m : BitVec 6) : (u.setFlags m).geo = u.geo := rfl
@[simp] theorem Ctx.setFlags_uid (u : Ctx) (m : BitVec 6) : (u.setFlags m).uid = u.uid := rfl
@[simp] theorem Ctx.setFlags_tag (u : Ctx) (m : BitVec 6) : (u.setFlags m).tag = u.tag := rfl
@[simp] theorem Ctx.setFlags_pid (u : Ctx) (m : BitVec 6) : (u.setFlags m).pid = u.pid := rfl
@[simp] theorem Ctx.setFlags_trec (u : Ctx) (m : BitVec 6) : (u.setFlags m).trec = u.trec := rfl
@[simp] theorem Ctx.setFlags_seq (u : Ctx) (m : BitVec 6) : (u.setFlags m).seq = u.seq := rfl
@[simp] theorem Ctx.setFlags_arrival (u : Ctx) (m : BitVec 6) : (u.setFlags m).arrival = u.arrival := rfl
@[simp] theorem Ctx.setFlags_job (u : Ctx) (m : BitVec 6) : (u.setFlags m).job = u.job := rfl
@[simp] theorem Ctx.setFlags_launch (u : Ctx) (m : BitVec 6) : (u.setFlags m).launch = u.launch := rfl
@[simp] theorem Ctx.setFlags_phase (u : Ctx) (m : BitVec 6) : (u.setFlags m).phase = u.phase := rfl
@[simp] theorem Ctx.setFlags_started (u : Ctx) (m : BitVec 6) : (u.setFlags m).started = u.started := rfl
@[simp] theorem Ctx.setFlags_idle (u : Ctx) (m : BitVec 6) : (u.setFlags m).idle = u.idle := rfl
@[simp] theorem Ctx.setFlags_popping (u : Ctx) (m : BitVec 6) : (u.setFlags m).popping = u.popping := rfl
@[simp] theorem Ctx.setFlags_backoff (u : Ctx) (m : BitVec 6) : (u.setFlags m).backoff = u.backoff := rfl
@[simp] theorem Ctx.setFlags_colls (u : Ctx) (m : BitVec 6) : (u.setFlags m).colls = u.colls := rfl
@[simp] theorem Ctx.setFlags_purposes (u : Ctx) (m : BitVec 6) : (u.setFlags m).purposes = u.purposes := rfl
@[simp] theorem Ctx.setFlags_held (u : Ctx) (m : BitVec 6) : (u.setFlags m).held = u.held := rfl
@[simp] theorem Ctx.setFlags_failed (u : Ctx) (m : BitVec 6) : (u.setFlags m).failed = u.failed := rfl
@[simp] theorem Ctx.setFlags_doomed (u : Ctx) (m : BitVec 6) : (u.setFlags m).doomed = u.doomed := rfl
@[simp] theorem Ctx.setFlags_deferred (u : Ctx) (m : BitVec 6) : (u.setFlags m).deferred = u.deferred := rfl
@[simp] theorem Ctx.setFlags_pass (u : Ctx) (m : BitVec 6) : (u.setFlags m).pass = u.pass := rfl
@[simp] theorem Ctx.setFlags_posting (u : Ctx) (m : BitVec 6) : (u.setFlags m).posting = u.posting := rfl
@[simp] theorem Ctx.setFlags_running (u : Ctx) (m : BitVec 6) : (u.setFlags m).running = u.running := rfl

@[simp] theorem Ctx.setStatBit_key (u : Ctx) (n : Nat) (b : Bool) : (u.setStatBit n b).key = u.key := rfl
@[simp] theorem Ctx.setStatBit_regs (u : Ctx) (n : Nat) (b : Bool) : (u.setStatBit n b).regs = u.regs := rfl
@[simp] theorem Ctx.setStatBit_pend (u : Ctx) (n : Nat) (b : Bool) : (u.setStatBit n b).pend = u.pend := rfl
@[simp] theorem Ctx.setStatBit_pois (u : Ctx) (n : Nat) (b : Bool) : (u.setStatBit n b).pois = u.pois := rfl
@[simp] theorem Ctx.setStatBit_rows (u : Ctx) (n : Nat) (b : Bool) : (u.setStatBit n b).rows = u.rows := rfl
@[simp] theorem Ctx.setStatBit_tags (u : Ctx) (n : Nat) (b : Bool) : (u.setStatBit n b).tags = u.tags := rfl
@[simp] theorem Ctx.setStatBit_guards (u : Ctx) (n : Nat) (b : Bool) : (u.setStatBit n b).guards = u.guards := rfl
@[simp] theorem Ctx.setStatBit_masks (u : Ctx) (n : Nat) (b : Bool) : (u.setStatBit n b).masks = u.masks := rfl
@[simp] theorem Ctx.setStatBit_bounds (u : Ctx) (n : Nat) (b : Bool) : (u.setStatBit n b).bounds = u.bounds := rfl
@[simp] theorem Ctx.setStatBit_carries (u : Ctx) (n : Nat) (b : Bool) : (u.setStatBit n b).carries = u.carries := rfl
@[simp] theorem Ctx.setStatBit_tileSat (u : Ctx) (n : Nat) (b : Bool) : (u.setStatBit n b).tileSat = u.tileSat := rfl
@[simp] theorem Ctx.setStatBit_ssmPtr (u : Ctx) (n : Nat) (b : Bool) : (u.setStatBit n b).ssmPtr = u.ssmPtr := rfl
@[simp] theorem Ctx.setStatBit_pc (u : Ctx) (n : Nat) (b : Bool) : (u.setStatBit n b).pc = u.pc := rfl
@[simp] theorem Ctx.setStatBit_stat (u : Ctx) (n : Nat) (b : Bool) : (u.setStatBit n b).stat = statField u.stat n 1 b.toNat := rfl
@[simp] theorem Ctx.setStatBit_geo (u : Ctx) (n : Nat) (b : Bool) : (u.setStatBit n b).geo = u.geo := rfl
@[simp] theorem Ctx.setStatBit_uid (u : Ctx) (n : Nat) (b : Bool) : (u.setStatBit n b).uid = u.uid := rfl
@[simp] theorem Ctx.setStatBit_tag (u : Ctx) (n : Nat) (b : Bool) : (u.setStatBit n b).tag = u.tag := rfl
@[simp] theorem Ctx.setStatBit_pid (u : Ctx) (n : Nat) (b : Bool) : (u.setStatBit n b).pid = u.pid := rfl
@[simp] theorem Ctx.setStatBit_trec (u : Ctx) (n : Nat) (b : Bool) : (u.setStatBit n b).trec = u.trec := rfl
@[simp] theorem Ctx.setStatBit_seq (u : Ctx) (n : Nat) (b : Bool) : (u.setStatBit n b).seq = u.seq := rfl
@[simp] theorem Ctx.setStatBit_arrival (u : Ctx) (n : Nat) (b : Bool) : (u.setStatBit n b).arrival = u.arrival := rfl
@[simp] theorem Ctx.setStatBit_job (u : Ctx) (n : Nat) (b : Bool) : (u.setStatBit n b).job = u.job := rfl
@[simp] theorem Ctx.setStatBit_launch (u : Ctx) (n : Nat) (b : Bool) : (u.setStatBit n b).launch = u.launch := rfl
@[simp] theorem Ctx.setStatBit_phase (u : Ctx) (n : Nat) (b : Bool) : (u.setStatBit n b).phase = u.phase := rfl
@[simp] theorem Ctx.setStatBit_started (u : Ctx) (n : Nat) (b : Bool) : (u.setStatBit n b).started = u.started := rfl
@[simp] theorem Ctx.setStatBit_idle (u : Ctx) (n : Nat) (b : Bool) : (u.setStatBit n b).idle = u.idle := rfl
@[simp] theorem Ctx.setStatBit_popping (u : Ctx) (n : Nat) (b : Bool) : (u.setStatBit n b).popping = u.popping := rfl
@[simp] theorem Ctx.setStatBit_backoff (u : Ctx) (n : Nat) (b : Bool) : (u.setStatBit n b).backoff = u.backoff := rfl
@[simp] theorem Ctx.setStatBit_colls (u : Ctx) (n : Nat) (b : Bool) : (u.setStatBit n b).colls = u.colls := rfl
@[simp] theorem Ctx.setStatBit_purposes (u : Ctx) (n : Nat) (b : Bool) : (u.setStatBit n b).purposes = u.purposes := rfl
@[simp] theorem Ctx.setStatBit_held (u : Ctx) (n : Nat) (b : Bool) : (u.setStatBit n b).held = u.held := rfl
@[simp] theorem Ctx.setStatBit_failed (u : Ctx) (n : Nat) (b : Bool) : (u.setStatBit n b).failed = u.failed := rfl
@[simp] theorem Ctx.setStatBit_doomed (u : Ctx) (n : Nat) (b : Bool) : (u.setStatBit n b).doomed = u.doomed := rfl
@[simp] theorem Ctx.setStatBit_deferred (u : Ctx) (n : Nat) (b : Bool) : (u.setStatBit n b).deferred = u.deferred := rfl
@[simp] theorem Ctx.setStatBit_pass (u : Ctx) (n : Nat) (b : Bool) : (u.setStatBit n b).pass = u.pass := rfl
@[simp] theorem Ctx.setStatBit_posting (u : Ctx) (n : Nat) (b : Bool) : (u.setStatBit n b).posting = u.posting := rfl
@[simp] theorem Ctx.setStatBit_running (u : Ctx) (n : Nat) (b : Bool) : (u.setStatBit n b).running = u.running := rfl

@[simp] theorem Ctx.setPurposes_key (u : Ctx) (ps : List Purpose) : (u.setPurposes ps).key = u.key := rfl
@[simp] theorem Ctx.setPurposes_regs (u : Ctx) (ps : List Purpose) : (u.setPurposes ps).regs = u.regs := rfl
@[simp] theorem Ctx.setPurposes_pend (u : Ctx) (ps : List Purpose) : (u.setPurposes ps).pend = u.pend := rfl
@[simp] theorem Ctx.setPurposes_pois (u : Ctx) (ps : List Purpose) : (u.setPurposes ps).pois = u.pois := rfl
@[simp] theorem Ctx.setPurposes_rows (u : Ctx) (ps : List Purpose) : (u.setPurposes ps).rows = u.rows := rfl
@[simp] theorem Ctx.setPurposes_tags (u : Ctx) (ps : List Purpose) : (u.setPurposes ps).tags = u.tags := rfl
@[simp] theorem Ctx.setPurposes_guards (u : Ctx) (ps : List Purpose) : (u.setPurposes ps).guards = u.guards := rfl
@[simp] theorem Ctx.setPurposes_masks (u : Ctx) (ps : List Purpose) : (u.setPurposes ps).masks = u.masks := rfl
@[simp] theorem Ctx.setPurposes_bounds (u : Ctx) (ps : List Purpose) : (u.setPurposes ps).bounds = u.bounds := rfl
@[simp] theorem Ctx.setPurposes_carries (u : Ctx) (ps : List Purpose) : (u.setPurposes ps).carries = u.carries := rfl
@[simp] theorem Ctx.setPurposes_tileSat (u : Ctx) (ps : List Purpose) : (u.setPurposes ps).tileSat = u.tileSat := rfl
@[simp] theorem Ctx.setPurposes_ssmPtr (u : Ctx) (ps : List Purpose) : (u.setPurposes ps).ssmPtr = u.ssmPtr := rfl
@[simp] theorem Ctx.setPurposes_pc (u : Ctx) (ps : List Purpose) : (u.setPurposes ps).pc = u.pc := rfl
@[simp] theorem Ctx.setPurposes_geo (u : Ctx) (ps : List Purpose) : (u.setPurposes ps).geo = u.geo := rfl
@[simp] theorem Ctx.setPurposes_uid (u : Ctx) (ps : List Purpose) : (u.setPurposes ps).uid = u.uid := rfl
@[simp] theorem Ctx.setPurposes_tag (u : Ctx) (ps : List Purpose) : (u.setPurposes ps).tag = u.tag := rfl
@[simp] theorem Ctx.setPurposes_pid (u : Ctx) (ps : List Purpose) : (u.setPurposes ps).pid = u.pid := rfl
@[simp] theorem Ctx.setPurposes_trec (u : Ctx) (ps : List Purpose) : (u.setPurposes ps).trec = u.trec := rfl
@[simp] theorem Ctx.setPurposes_seq (u : Ctx) (ps : List Purpose) : (u.setPurposes ps).seq = u.seq := rfl
@[simp] theorem Ctx.setPurposes_arrival (u : Ctx) (ps : List Purpose) : (u.setPurposes ps).arrival = u.arrival := rfl
@[simp] theorem Ctx.setPurposes_job (u : Ctx) (ps : List Purpose) : (u.setPurposes ps).job = u.job := rfl
@[simp] theorem Ctx.setPurposes_launch (u : Ctx) (ps : List Purpose) : (u.setPurposes ps).launch = u.launch := rfl
@[simp] theorem Ctx.setPurposes_phase (u : Ctx) (ps : List Purpose) : (u.setPurposes ps).phase = u.phase := rfl
@[simp] theorem Ctx.setPurposes_started (u : Ctx) (ps : List Purpose) : (u.setPurposes ps).started = u.started := rfl
@[simp] theorem Ctx.setPurposes_idle (u : Ctx) (ps : List Purpose) : (u.setPurposes ps).idle = u.idle := rfl
@[simp] theorem Ctx.setPurposes_popping (u : Ctx) (ps : List Purpose) : (u.setPurposes ps).popping = u.popping := rfl
@[simp] theorem Ctx.setPurposes_backoff (u : Ctx) (ps : List Purpose) : (u.setPurposes ps).backoff = u.backoff := rfl
@[simp] theorem Ctx.setPurposes_colls (u : Ctx) (ps : List Purpose) : (u.setPurposes ps).colls = u.colls := rfl
@[simp] theorem Ctx.setPurposes_held (u : Ctx) (ps : List Purpose) : (u.setPurposes ps).held = u.held := rfl
@[simp] theorem Ctx.setPurposes_failed (u : Ctx) (ps : List Purpose) : (u.setPurposes ps).failed = u.failed := rfl
@[simp] theorem Ctx.setPurposes_doomed (u : Ctx) (ps : List Purpose) : (u.setPurposes ps).doomed = u.doomed := rfl
@[simp] theorem Ctx.setPurposes_deferred (u : Ctx) (ps : List Purpose) : (u.setPurposes ps).deferred = u.deferred := rfl
@[simp] theorem Ctx.setPurposes_pass (u : Ctx) (ps : List Purpose) : (u.setPurposes ps).pass = u.pass := rfl
@[simp] theorem Ctx.setPurposes_posting (u : Ctx) (ps : List Purpose) : (u.setPurposes ps).posting = u.posting := rfl
@[simp] theorem Ctx.setPurposes_running (u : Ctx) (ps : List Purpose) : (u.setPurposes ps).running = u.running := rfl
@[simp] theorem Ctx.setPurposes_purposes (u : Ctx) (ps : List Purpose) : (u.setPurposes ps).purposes = ps := rfl

end Sys2Proof.Machine
end

