-- ==== Sys2Proof/Laws/Issue.lean ====
section
/-!
SUPPORT. What the shared issue operation does: an instruction that nothing stops has its own effect; otherwise it migrates, is
illegal, is passed over, waits or traps.
-/
namespace Sys2Proof.Machine

open Sys2Proof

theorem find?_none_of_all {l : List Nat} {p : Nat → Bool} (h : l.all (fun n => !p n) = true) : l.find? p = none := by
  rw [List.find?_eq_none]
  intro x hx
  have := List.all_eq_true.mp h x hx
  simpa using this

theorem any_false_of_all {l : List Nat} {p : Nat → Bool} (h : l.all (fun n => !p n) = true) : l.any p = false := by
  rw [List.any_eq_false]
  intro x hx
  have := List.all_eq_true.mp h x hx
  simpa using this

/-- An instruction that nothing stops before its own effect has that effect. -/
theorem issueInstr_runs {s : State} {i : Instr} {r : SlotRef} {u : Ctx} (body : Env → Ctx → State → Res)
    (h : Issues s i r u) :
    issueInstr i body s = .next (finish i (envOf i r u) u.begun (body (envOf i r u) u.begun s.begun)) := by
  have hd : i.dests.find? (u.begun.pend.contains ·) = none := find?_none_of_all h.free
  have hw : i.waitSources.any (u.begun.pend.contains ·) = false := any_false_of_all h.ready
  have hp : i.sources.any (u.begun.pois.contains ·) = false := any_false_of_all h.clean
  have ht : ((opSpec i).allTokens && !u.begun.pend.isEmpty) = false := by
    cases ha : (opSpec i).allTokens with
    | false => rfl
    | true =>
      have : u.begun.pend = [] := h.drained ha
      simp [this]
  have hf : checkFields (s.begun.partOf (tileOf r.core)) i = .ok := h.fields
  have hg : (guardHolds u.begun i.fields.ga && guardHolds u.begun i.fields.gb) = true := by
    rw [Bool.and_eq_true]
    exact ⟨h.guardA, h.guardB⟩
  simp only [issueInstr, h.issuing, h.unit]
  rw [if_pos h.lists]
  simp only [runChecked, Env.tile]
  change Host.Outcome.next (finish i (envOf i r u) u.begun _) = _
  congr 2
  change (match checkFields (s.begun.partOf (tileOf r.core)) i with
    | .illegal => _
    | .ordering => _
    | .ok => _) = _
  rw [hf]
  change (if (!(guardHolds u.begun i.fields.ga && guardHolds u.begun i.fields.gb)) = true then _ else _) = _
  rw [hg]
  simp only [Bool.not_true, Bool.false_eq_true, ↓reduceIte]
  change (match i.dests.find? (u.begun.pend.contains ·) with
    | some n => _
    | none => _) = _
  rw [hd]
  change (if (i.waitSources.any (u.begun.pend.contains ·) || ((opSpec i).allTokens && !u.begun.pend.isEmpty)) = true then _
    else _) = _
  rw [hw, ht]
  simp only [Bool.or_false, Bool.false_eq_true, ↓reduceIte]
  change (if i.sources.any (u.begun.pois.contains ·) = true then _ else _) = _
  rw [hp]
  rfl

end Sys2Proof.Machine
end

