-- ==== Sys2Proof/Laws/Memory.lean ====
section
/-!
SUPPORT. The operations over memory: what a read sees after a write, and that every one of them keeps the canonical form of
the memory (`State.memoryOk`), whether it answers, fails or waits.
-/
namespace Sys2Proof.Machine

open Sys2Proof

/-! ## One byte -/

/-- A byte reads as it was written. -/
theorem State.byteAt_setByte_self (s : State) (k : Nat) (b : Byte) (h : s.memoryOk) : (s.setByte k b).byteAt k = b :=
  FMap.get_set_self 0 s.store.mem k b h

/-- Writing one byte leaves every other alone. -/
theorem State.byteAt_setByte_ne (s : State) (k n : Nat) (b : Byte) (h : n ≠ k) : (s.setByte k b).byteAt n = s.byteAt n :=
  FMap.get_set_ne 0 s.store.mem k n b h

/-! ## The canonical form -/

theorem reset_memoryOk : State.reset.memoryOk := rfl

/-- An update that does not name the memory keeps it. -/
theorem State.memoryOk_of_eq {s t : State} (h : s.memoryOk) (e : t.store.mem = s.store.mem) : t.memoryOk := by
  rw [State.memoryOk, e]
  exact h

theorem foldl_memoryOk {α : Type} (f : State → α → State) (hf : ∀ s x, s.memoryOk → (f s x).memoryOk) (l : List α) :
    ∀ s : State, s.memoryOk → (l.foldl f s).memoryOk := by
  induction l with
  | nil => exact fun _ h => h
  | cons x xs ih => exact fun s h => ih _ (hf s x h)

theorem State.setByte_memoryOk {s : State} (k : Nat) (b : Byte) (h : s.memoryOk) : (s.setByte k b).memoryOk :=
  FMap.set_wf 0 s.store.mem k b h

theorem State.clearMem_memoryOk {s : State} (lo hi : Nat) (h : s.memoryOk) :
    (s.modStore fun m => { m with mem := FMap.clear m.mem lo hi }).memoryOk :=
  FMap.clear_wf 0 s.store.mem lo hi h

theorem State.setManyMem_memoryOk {s : State} (n : Nat) (bs : List Byte) (h : s.memoryOk) :
    (s.modStore fun m => { m with mem := FMap.setMany 0 m.mem n bs }).memoryOk :=
  FMap.setMany_wf 0 bs s.store.mem n h

theorem FMap.putAll_wf {α : Type} [DecidableEq α] (d : α) (es : FMap α) :
    ∀ m : FMap α, FMap.wf d m = true → FMap.wf d (FMap.putAll d m es) = true := by
  induction es with
  | nil => exact fun _ h => h
  | cons e rest ih => exact fun m h => ih _ (FMap.set_wf d m e.1 e.2 h)

/-! ### Operations that leave the bytes of memory as they are -/

@[simp] theorem State.logEvent_store (s : State) (ty src addr aux uid : Nat) (tag : Option Nat) :
    (s.logEvent ty src addr aux uid tag).store = s.store := rfl
@[simp] theorem State.setSeal_mem (s : State) (line : Nat) (x : Seal) : (s.setSeal line x).store.mem = s.store.mem := rfl
@[simp] theorem State.setPoison_mem (s : State) (n : Nat) : (s.setPoison n).store.mem = s.store.mem := rfl
@[simp] theorem State.clearPoison_mem (s : State) (n : Nat) : (s.clearPoison n).store.mem = s.store.mem := rfl
@[simp] theorem State.setExtent_mem (s : State) (n : Nat) (e : Extent) : (s.setExtent n e).store.mem = s.store.mem := rfl
@[simp] theorem State.setBank_mem (s : State) (b : Nat) (x : BankState) : (s.setBank b x).store.mem = s.store.mem := rfl
@[simp] theorem State.setWindow_store (s : State) (tile w : Nat) (x : Window) : (s.setWindow tile w x).store = s.store := rfl
@[simp] theorem State.deviceWrite_mem (s : State) (a : Word) (bs : List Byte) :
    (s.deviceWrite a bs).store.mem = s.store.mem := rfl
@[simp] theorem State.startFill_store (s : State) (who : Who) (tile w : Nat) : (s.startFill who tile w).store = s.store := rfl

@[simp] theorem State.setWay_mem (s : State) (w : Nat) (x : BankState) : (s.setWay w x).store.mem = s.store.mem := rfl
@[simp] theorem State.setErrors_mem (s : State) (w n : Nat) : (s.setErrors w n).store.mem = s.store.mem := rfl
@[simp] theorem State.setLost_store (s : State) (r : SlotRef) (n : Nat) : (s.setLost r n).store = s.store := rfl
@[simp] theorem State.modCopy_mem (s : State) (l1 line : Nat) (g : L1Line → L1Line) :
    (s.modCopy l1 line g).store.mem = s.store.mem := rfl
@[simp] theorem State.dirtyByte_mem (s : State) (who : Who) (k : Nat) (b : Byte) :
    (s.dirtyByte who k b).store.mem = s.store.mem := rfl

@[simp] theorem State.requestExtent_mem (s : State) (n die : Nat) (low : Bool) :
    (s.requestExtent n die low).store.mem = s.store.mem := by
  unfold State.requestExtent
  split
  · split <;> rfl
  · rfl

@[simp] theorem State.lookUp_mem (s : State) (die n : Nat) : (s.lookUp die n).store.mem = s.store.mem := by
  unfold State.lookUp
  simp only
  split
  · rfl
  · split <;> rfl

@[simp] theorem State.findWord_mem (s : State) (word reach : Nat) (b : Blame) :
    (s.findWord word reach b).store.mem = s.store.mem := by
  unfold State.findWord
  simp only
  split
  · rfl
  · split <;> rfl

@[simp] theorem State.findLine_mem (s : State) (line reach : Nat) (b : Blame) (type : Nat) :
    (s.findLine line reach b type).1.store.mem = s.store.mem := by
  unfold State.findLine
  simp only
  split
  · rfl
  · split <;> rfl

@[simp] theorem State.complete_store (s : State) (k : Nat) (npc : Word) (g : Ctx → Ctx) :
    (s.complete k npc g).store = s.store := by
  unfold State.complete
  split
  · split <;> rfl
  · rfl

@[simp] theorem State.arrive_store (s : State) (core cls : Nat) : (s.arrive core cls).store = s.store := by
  unfold State.arrive
  simp only
  split
  · rfl
  · split
    · rfl
    · split <;> simp

@[simp] theorem State.openExtent_mem (s : State) (tile n : Nat) : (s.openExtent tile n).store.mem = s.store.mem := by
  unfold State.openExtent
  simp only
  split <;> simp

@[simp] theorem State.queueTrapMsg_store (s : State) (core : Nat) (m : Msg) : (s.queueTrapMsg core m).store = s.store := by
  simp [State.queueTrapMsg, State.setMsgs]

@[simp] theorem State.haltPartition_store (s : State) (tag : Nat) : (s.haltPartition tag).store = s.store := rfl

/-! ### The L2 slices -/

@[simp] theorem State.l2Evict_mem (s : State) (line : Nat) : (s.l2Evict line).store.mem = s.store.mem := by
  unfold State.l2Evict
  split <;> rfl

@[simp] theorem State.l2Use_mem (s : State) (line : Nat) : (s.l2Use line).store.mem = s.store.mem := by
  unfold State.l2Use
  split <;> rfl

@[simp] theorem State.homeWritten_mem (s : State) (line : Nat) : (s.homeWritten line).store.mem = s.store.mem := by
  unfold State.homeWritten
  split <;> rfl

@[simp] theorem State.l2Fill_mem (s : State) (tag line : Nat) : (s.l2Fill tag line).store.mem = s.store.mem := by
  unfold State.l2Fill
  split
  · rfl
  · split
    · rfl
    · rename_i w victim _
      cases victim with
      | none => rfl
      | some x => exact State.l2Evict_mem s x.line

/-- An access of the L2 moves no byte: the L2's copy and what stands behind it are one. -/
@[simp] theorem State.l2Access_mem (s : State) (tag line hint : Nat) : (s.l2Access tag line hint).store.mem = s.store.mem := by
  unfold State.l2Access
  split
  · split <;> simp
  · split <;> simp

/-! ### Storage that leaves retention -/

theorem foldl_mem {α : Type} (f : State → α → State) (hf : ∀ s x, (f s x).store.mem = s.store.mem) (l : List α) :
    ∀ s : State, (l.foldl f s).store.mem = s.store.mem := by
  induction l with
  | nil => exact fun _ => rfl
  | cons x xs ih => exact fun s => (ih _).trans (hf s x)

@[simp] theorem State.findWayErrors_mem (s : State) (w reach : Nat) : (s.findWayErrors w reach).store.mem = s.store.mem :=
  foldl_mem _ (fun _ _ => State.findLine_mem _ _ _ _ _) _ s

@[simp] theorem State.wakeWay_mem (s : State) (w : Nat) : (s.wakeWay w).store.mem = s.store.mem := by
  unfold State.wakeWay
  split <;> simp

@[simp] theorem State.wakeReached_mem (s : State) (tag line hint : Nat) :
    (s.wakeReached tag line hint).store.mem = s.store.mem := by
  unfold State.wakeReached
  split <;> simp

/-! ### The L1s -/

/-- A write-back changes bytes of one line only through writes and the zeroing of a line whose seal does not open (R255). -/
theorem State.mergeLine_memoryOk {s : State} (l : L1Line) (hint : Nat) (h : s.memoryOk) : (s.mergeLine l hint).memoryOk := by
  have put : ∀ s : State, s.memoryOk →
      (((l.dirty.foldl (fun s e => match e.2 with
        | some b => s.setByte (l.line * 128 + e.1) b
        | none => s) (s.l2Access l.tag l.line hint)).setSeal l.line (s.dataSeal l.tag)).homeWritten l.line).memoryOk := by
    intro s h
    have h0 : (s.l2Access l.tag l.line hint).memoryOk := State.memoryOk_of_eq h (by simp)
    have h1 : (l.dirty.foldl (fun s e => match e.2 with
        | some b => s.setByte (l.line * 128 + e.1) b
        | none => s) (s.l2Access l.tag l.line hint)).memoryOk := by
      refine foldl_memoryOk _ ?_ l.dirty _ h0
      intro s e h
      split
      · exact State.setByte_memoryOk _ _ h
      · exact h
    exact State.memoryOk_of_eq h1 (by simp)
  have awake : (s.wakeReached l.tag l.line hint).memoryOk := State.memoryOk_of_eq h (State.wakeReached_mem _ _ _ _)
  unfold State.mergeLine
  simp only
  revert awake
  generalize s.wakeReached l.tag l.line hint = t
  intro awake
  have found : (t.findLine l.line 1 ⟨l.uid.toNat, some l.tag⟩).1.memoryOk := State.memoryOk_of_eq awake (by simp)
  split
  · exact State.memoryOk_of_eq (put _ awake) rfl
  · split
    · exact State.memoryOk_of_eq found rfl
    · split
      · exact put _ found
      · exact put _ (State.memoryOk_of_eq (State.clearMem_memoryOk _ _ (State.memoryOk_of_eq found rfl)) rfl)

theorem State.evictCopy_memoryOk {s : State} (l : L1Line) (hint : Nat) (h : s.memoryOk) : (s.evictCopy l hint).memoryOk := by
  unfold State.evictCopy
  simp only
  split
  · exact State.memoryOk_of_eq h rfl
  · exact State.mergeLine_memoryOk _ _ (State.memoryOk_of_eq h rfl)

theorem State.writeBackWhere_memoryOk {s : State} (p : L1Line → Bool) (hint : Nat) (h : s.memoryOk) :
    (s.writeBackWhere p hint).memoryOk :=
  foldl_memoryOk _ (fun _ _ h => State.evictCopy_memoryOk _ _ h) _ _ h

theorem State.writeBack_memoryOk {s : State} (line hint : Nat) (h : s.memoryOk) : (s.writeBack line hint).memoryOk :=
  State.writeBackWhere_memoryOk _ _ h

theorem State.writeBackAll_memoryOk {s : State} (lines : List Nat) (h : s.memoryOk) :
    (lines.foldl (fun s l => s.writeBack l) s).memoryOk :=
  foldl_memoryOk _ (fun _ _ h => State.writeBack_memoryOk _ _ h) _ _ h

theorem State.cleanCopy_memoryOk {s : State} (line : Nat) (h : s.memoryOk) : (s.cleanCopy line).memoryOk := by
  unfold State.cleanCopy
  split
  · exact h
  · rename_i l _
    have hl := State.evictCopy_memoryOk l 0 h
    simp only
    split
    · exact hl
    · exact State.memoryOk_of_eq hl rfl

theorem State.claimRead_memoryOk {s : State} (l1 line : Nat) (h : s.memoryOk) : (s.claimRead l1 line).memoryOk := by
  unfold State.claimRead
  split
  · split
    · exact h
    · exact State.cleanCopy_memoryOk _ h
  · exact h

theorem State.l1Alloc_memoryOk {s : State} (l1 line : Nat) (who : Who) (takes : Bool) (h : s.memoryOk) :
    (s.l1Alloc l1 line who takes).memoryOk := by
  unfold State.l1Alloc
  split
  · exact State.memoryOk_of_eq h rfl
  · simp only
    split
    · split
      · exact State.memoryOk_of_eq (State.evictCopy_memoryOk _ _ h) rfl
      · exact State.memoryOk_of_eq h rfl
    · exact State.memoryOk_of_eq h rfl

theorem State.l1Fill_memoryOk {s : State} (l1 line : Nat) (who : Who) (h : s.memoryOk) : (s.l1Fill l1 line who).memoryOk :=
  State.memoryOk_of_eq (State.l1Alloc_memoryOk l1 line who true h) rfl

theorem State.storeLine_memoryOk {s : State} (who : Who) (hint line : Nat) (h : s.memoryOk) :
    (s.storeLine who hint line).memoryOk :=
  State.l1Alloc_memoryOk _ _ _ _ (State.writeBackWhere_memoryOk _ _ h)

/-! ### Checks and accesses -/

/-- The state an access leaves, whatever its outcome. -/
def Acc.after : Acc → State
  | .ok s _ => s
  | .fail s _ _ _ => s
  | .wait s _ => s

@[simp] theorem Acc.after_ok (s : State) (v : List Byte) : (Acc.ok s v).after = s := rfl
@[simp] theorem Acc.after_fail (s : State) (c i : Nat) (a : Option Word) : (Acc.fail s c i a).after = s := rfl
@[simp] theorem Acc.after_wait (s : State) (w : Wait) : (Acc.wait s w).after = s := rfl
@[simp] theorem Acc.after_mapState (g : State → State) (a : Acc) : (a.mapState g).after = g a.after := by cases a <;> rfl

theorem State.placeOne_mem (s : State) (die n idx : Nat) (write : Bool) :
    (s.placeOne die n idx write).after.store.mem = s.store.mem := by
  unfold State.placeOne
  simp only
  split <;> try simp
  split <;> simp

theorem State.placeAll_mem (die : Nat) (write : Bool) (l : List (Nat × Nat)) :
    ∀ s : State, (s.placeAll die write l).after.store.mem = s.store.mem := by
  induction l with
  | nil => exact fun _ => rfl
  | cons e rest ih =>
    intro s
    have h := s.placeOne_mem die e.1 e.2 write
    simp only [State.placeAll]
    split
    · rename_i s' v e'
      rw [e'] at h
      rw [ih s']
      exact h
    · exact h

theorem State.touchOne_mem (s : State) (who : Who) (k idx : Nat) :
    (s.touchOne who k idx).after.store.mem = s.store.mem := by
  unfold State.touchOne
  split
  · rfl
  · split
    · rfl
    · simp only
      split
      · rfl
      · split
        · rfl
        · split <;> simp

theorem State.touchAll_mem (who : Who) (l : List (Nat × Nat)) :
    ∀ s : State, (s.touchAll who l).after.store.mem = s.store.mem := by
  induction l with
  | nil => exact fun _ => rfl
  | cons e rest ih =>
    intro s
    have h := s.touchOne_mem who e.1 e.2
    simp only [State.touchAll]
    split
    · split
      · rename_i s' v e'
        rw [e'] at h
        rw [ih s']
        exact h
      · exact h
    · exact ih s

theorem State.bankOne_mem (s : State) (b : Nat) : (s.bankOne b).after.store.mem = s.store.mem := by
  unfold State.bankOne
  simp only
  split <;> split <;> rfl

theorem State.wayOne_mem (s : State) (w : Nat) : (s.wayOne w).after.store.mem = s.store.mem := by
  unfold State.wayOne
  simp only
  split <;> split <;> rfl

theorem State.banksAll_mem (l : List Nat) : ∀ s : State, (s.banksAll l).after.store.mem = s.store.mem := by
  induction l with
  | nil => exact fun _ => rfl
  | cons b rest ih =>
    intro s
    have h := s.bankOne_mem b
    simp only [State.banksAll]
    split
    · rename_i s' v e'
      rw [e'] at h
      rw [ih s']
      exact h
    · exact h

theorem State.waysAll_mem (l : List Nat) : ∀ s : State, (s.waysAll l).after.store.mem = s.store.mem := by
  induction l with
  | nil => exact fun _ => rfl
  | cons w rest ih =>
    intro s
    have h := s.wayOne_mem w
    simp only [State.waysAll]
    split
    · rename_i s' v e'
      rw [e'] at h
      rw [ih s']
      exact h
    · exact h

theorem State.bankAll_mem (s : State) (who : Who) (via : Via) (keys : List Nat) :
    (s.bankAll who via keys).after.store.mem = s.store.mem := by
  have h := State.banksAll_mem ((keys.filter isScratchKey).map bankOf).eraseDups s
  unfold State.bankAll
  split
  · rename_i s1 v1 e1
    rw [e1] at h
    rw [State.waysAll_mem]
    exact h
  · exact h

/-- The checks before an access never change a byte of memory. -/
theorem State.mayAccess_mem (s : State) (who : Who) (keys : List Nat) (write touch : Bool) (via : Via) :
    (s.mayAccess who keys write touch via).after.store.mem = s.store.mem := by
  have hp := State.placeAll_mem (dieOf who.tile) write (extentsOf keys) s
  unfold State.mayAccess
  split
  · rename_i s1 v1 e1
    rw [e1] at hp
    have ht : (if touch then s1.touchAll who keys.zipIdx else .ok s1 []).after.store.mem = s1.store.mem := by
      split
      · exact State.touchAll_mem who _ s1
      · rfl
    split
    · rename_i s2 v2 e2
      rw [e2] at ht
      rw [State.bankAll_mem]
      exact ht.trans hp
    · exact ht.trans hp
  · exact hp

theorem State.openLine_mem (s : State) (tag line idx uid src : Nat) :
    (s.openLine tag line idx uid src).after.store.mem = s.store.mem := by
  unfold State.openLine
  simp only
  split
  · simp
  · split
    · simp only [Acc.after_ok]
      split <;> split <;> simp
    · simp

theorem State.openHome_mem (s : State) (who : Who) (line idx hint : Nat) :
    (s.openHome who line idx hint).after.store.mem = s.store.mem := by
  simp [State.openHome, State.openLine_mem]

theorem State.loadLine_memoryOk {s : State} (who : Who) (hint line idx : Nat) (keys : List Nat) (h : s.memoryOk) :
    (s.loadLine who hint line idx keys).after.memoryOk := by
  have hc := State.claimRead_memoryOk (s.l1Of who.tile line) line h
  have ho := State.openHome_mem (s.claimRead (s.l1Of who.tile line) line) who line idx hint
  unfold State.loadLine
  simp only
  split
  · simp only [Acc.after_ok]
    split
    · exact State.l1Alloc_memoryOk _ _ _ _ hc
    · exact hc
  · split
    · rename_i e
      rw [e] at ho
      have hs := State.memoryOk_of_eq hc ho
      simp only [Acc.after_ok]
      split
      · exact State.l1Fill_memoryOk _ _ _ hs
      · exact hs
    · exact State.memoryOk_of_eq hc ho

theorem State.readDesc_mem (s : State) (who : Who) (k : Nat) : (s.readDesc who k).after.store.mem = s.store.mem := by
  unfold State.readDesc
  simp only
  split
  · split <;> rfl
  · split <;> rfl

theorem State.readFlat_memoryOk {s : State} (who : Who) (k idx : Nat) (h : s.memoryOk) :
    (s.readFlat who k idx).after.memoryOk := by
  unfold State.readFlat
  split
  · exact State.memoryOk_of_eq h (State.readDesc_mem _ _ _)
  · split
    · exact h
    · simp only
      split <;> exact State.memoryOk_of_eq h (by simp)

theorem State.readOne_memoryOk {s : State} (who : Who) (l1 : Nat → Nat) (reach : State → Nat → Nat → List Nat → Acc)
    (hr : ∀ s line idx ks, s.memoryOk → (reach s line idx ks).after.memoryOk) (opened : Option Nat) (k idx : Nat)
    (keys : List Nat) (h : s.memoryOk) : (s.readOne who l1 reach opened k idx keys).after.memoryOk := by
  have hx := hr s (k / 128) idx (keys.filter isCachedKey) h
  unfold State.readOne
  split
  · exact State.readFlat_memoryOk _ _ _ h
  · split
    · exact h
    · split
      · rename_i e
        rw [e] at hx
        exact hx
      · exact hx

theorem State.readKeys_memoryOk (who : Who) (l1 : Nat → Nat) (reach : State → Nat → Nat → List Nat → Acc)
    (hr : ∀ s line idx ks, s.memoryOk → (reach s line idx ks).after.memoryOk) (l : List (Nat × Nat)) :
    ∀ (s : State) (opened : Option Nat), s.memoryOk → (s.readKeys who l1 reach opened l).after.memoryOk := by
  induction l with
  | nil => exact fun _ _ h => h
  | cons e rest ih =>
    intro s opened h
    obtain ⟨k, idx⟩ := e
    have here := State.readOne_memoryOk who l1 reach hr opened k idx (k :: rest.map (·.1)) h
    simp only [State.readKeys]
    split
    · rename_i s' b e'
      rw [e'] at here
      have hr := ih s' (if isCachedKey k then some (k / 128) else none) here
      split
      · rename_i e2
        rw [e2] at hr
        exact hr
      · exact hr
    · exact here

theorem State.readCore_memoryOk {s : State} (who : Who) (hint : Nat) (l : List (Nat × Nat)) (h : s.memoryOk) :
    (s.readCore who hint l).after.memoryOk :=
  State.readKeys_memoryOk who _ _ (fun _ _ _ _ h => State.loadLine_memoryOk _ _ _ _ _ h) l s none h

theorem State.readHome_memoryOk {s : State} (who : Who) (l : List (Nat × Nat)) (h : s.memoryOk) :
    (s.readHome who l).after.memoryOk := by
  refine State.readKeys_memoryOk who _ _ ?_ l s none h
  intro s line idx _ h
  exact State.memoryOk_of_eq (State.cleanCopy_memoryOk line h) (State.openHome_mem _ _ _ _ _)

theorem State.checkWords_mem (who : Who) (lanes : Option (Nat × Nat)) (keys : List Nat) (l : List (Nat × Nat)) :
    ∀ s : State, (s.checkWords who lanes keys l).after.store.mem = s.store.mem := by
  induction l with
  | nil => exact fun _ => rfl
  | cons e rest ih =>
    intro s
    simp only [State.checkWords]
    split
    · split
      · simp
      · rw [ih]
        simp
    · exact ih s

theorem State.writeWord_memoryOk {s : State} (keys : List Nat) (k : Nat) (b : Byte) (h : s.memoryOk) :
    (s.writeWord keys k b).memoryOk := by
  refine State.setByte_memoryOk _ _ ?_
  split
  · exact State.memoryOk_of_eq h rfl
  · exact h

theorem State.putBytes_memoryOk (who : Who) (keys : List Nat) (l : List (Nat × Byte)) :
    ∀ s : State, s.memoryOk → (s.putBytes who keys l).memoryOk := by
  induction l with
  | nil => exact fun _ h => h
  | cons e rest ih =>
    intro s h
    simp only [State.putBytes]
    refine ih _ ?_
    split
    · exact State.writeWord_memoryOk _ _ _ h
    · exact State.memoryOk_of_eq h (by simp)

theorem State.settleHint_memoryOk {s : State} (who : Who) (hint : Nat) (lines missed : List Nat) (h : s.memoryOk) :
    (s.settleHint who hint lines missed).memoryOk := by
  unfold State.settleHint
  simp only
  split
  · refine foldl_memoryOk _ (fun s l h => ?_) _ _ h
    exact State.memoryOk_of_eq (State.writeBack_memoryOk l 2 h) (State.l2Evict_mem _ l)
  · split
    · exact State.writeBackAll_memoryOk _ h
    · exact h

theorem State.writeKeys_memoryOk {s : State} (who : Who) (hint : Nat) (keys : List Nat) (bs : List Byte)
    (lanes : Option (Nat × Nat)) (h : s.memoryOk) : (s.writeKeys who hint keys bs lanes).after.memoryOk := by
  have hc := State.checkWords_mem who lanes keys keys.zipIdx s
  unfold State.writeKeys
  split
  · rename_i s1 v1 e1
    rw [e1] at hc
    have h1 : s1.memoryOk := State.memoryOk_of_eq h hc
    exact State.settleHint_memoryOk _ _ _ _ (State.putBytes_memoryOk _ _ _ _
      (foldl_memoryOk _ (fun _ _ h => State.storeLine_memoryOk _ _ _ h) _ _ h1))
  · exact State.memoryOk_of_eq h hc

/-- A write on the core path keeps the memory canonical. -/
theorem State.performWrite_memoryOk {s : State} (who : Who) (hint : Nat) (keys : List Nat) (bs : List Byte)
    (lanes : Option (Nat × Nat)) (h : s.memoryOk) : (s.performWrite who hint keys bs lanes).after.memoryOk := by
  have hm := State.mayAccess_mem s who keys true true (.store hint)
  unfold State.performWrite
  split
  · rename_i s1 v1 e1
    rw [e1] at hm
    have h1 : s1.memoryOk := State.memoryOk_of_eq h hm
    split
    · split
      · exact State.memoryOk_of_eq h1 rfl
      · exact State.writeKeys_memoryOk _ _ _ _ _ h1
    · exact h1
  · exact State.memoryOk_of_eq h hm

/-- A read on the core path keeps the memory canonical. -/
theorem State.performRead_memoryOk {s : State} (who : Who) (keys : List Nat) (hint : Nat) (h : s.memoryOk) :
    (s.performRead who keys hint).after.memoryOk := by
  have hm := State.mayAccess_mem s who keys false true (.load hint)
  unfold State.performRead
  split
  · rename_i s1 v1 e1
    rw [e1] at hm
    exact State.readCore_memoryOk who _ _ (State.memoryOk_of_eq h hm)
  · exact State.memoryOk_of_eq h hm

theorem State.putHome_memoryOk {s : State} (who : Who) (keys : List Nat) (bs : List Byte) (h : s.memoryOk) :
    (s.putHome who keys bs).memoryOk := by
  unfold State.putHome
  simp only
  refine foldl_memoryOk (fun (s : State) l => (s.setSeal l (s.dataSeal who.tag)).homeWritten l)
    (fun _ _ h => State.memoryOk_of_eq h (by simp)) _ _ ?_
  refine foldl_memoryOk (fun (s : State) (e : Nat × Byte) => if isScratchKey e.1 then s.writeWord keys e.1 e.2
    else s.setByte e.1 e.2) ?_ _ _ h
  intro s e h
  split
  · exact State.writeWord_memoryOk _ _ _ h
  · exact State.setByte_memoryOk _ _ h

/-- A read-modify-write at the home keeps the memory canonical. -/
theorem State.performAtHome_memoryOk {s : State} (who : Who) (keys : List Nat) (write : Bool)
    (g : List Byte → Option (List Byte)) (touch : Bool) (h : s.memoryOk) :
    (s.performAtHome who keys write g touch).after.memoryOk := by
  have hm := State.mayAccess_mem s who keys write touch .home
  unfold State.performAtHome
  split
  · rename_i s1 v1 e1
    rw [e1] at hm
    have h1 : s1.memoryOk := State.memoryOk_of_eq h hm
    have hr := State.readHome_memoryOk who keys.zipIdx (State.writeBackAll_memoryOk (cachedLines keys) h1)
    simp only
    split
    · rename_i e2
      rw [e2] at hr
      split
      · exact State.putHome_memoryOk _ _ _ hr
      · exact hr
    · exact hr
  · exact State.memoryOk_of_eq h hm

/-! ### Taking a trap -/

theorem State.deviceStore_memoryOk {s : State} (who : Who) (a : Word) (bs : List Byte) (h : s.memoryOk) :
    (s.deviceStore who a bs).memoryOk := by
  unfold State.deviceStore
  simp only
  refine foldl_memoryOk _ (fun s l h => ?_) _ _ ?_
  · have hb := State.writeBack_memoryOk l 0 h
    split
    · exact hb
    · exact State.memoryOk_of_eq hb (State.l2Evict_mem _ _)
  have ho : ∀ lines : List Nat, (lines.foldl (fun s l => s.openExtent who.tile (extentOf (128 * l))) s).memoryOk :=
    fun lines => foldl_memoryOk _ (fun _ _ h => State.memoryOk_of_eq h (by simp)) lines s h
  have after : ∀ x : Acc, x.after.memoryOk →
      State.memoryOk (match x with
        | .ok s _ => s
        | .fail s _ _ _ => s
        | .wait s _ => s) := fun x h => by cases x <;> exact h
  exact after _ (State.writeKeys_memoryOk who _ _ _ _ (ho _))

theorem State.writeRecord_memoryOk {s : State} (r : SlotRef) (u : Ctx) (t : TrapAt) (addr : Word) (x : Option Nat) (y : Bool)
    (h : s.memoryOk) : (s.writeRecord r u t addr x y).1.memoryOk :=
  State.deviceStore_memoryOk _ _ _ h

/-- Taking a trap keeps the memory canonical, whether it parks the unit, escalates or is held. -/
theorem State.takeTrap_memoryOk {s : State} (r : SlotRef) (u : Ctx) (t : TrapAt) (h : s.memoryOk) :
    (s.takeTrap r u t).memoryOk := by
  unfold State.takeTrap
  split
  · refine State.memoryOk_of_eq (State.writeRecord_memoryOk r u t (s.tvecOf r.core) none true h) ?_
    simp [State.escalate, State.putMode, State.setSlot]
  · split
    · refine State.memoryOk_of_eq h ?_
      simp only [State.sealTrap]
      split <;> rfl
    · refine State.memoryOk_of_eq (State.writeRecord_memoryOk r u t
        (s.tvecOf r.core + BitVec.ofNat 64 (256 * r.slot)) none false h) ?_
      simp [State.parkWith, State.putMode, State.setSlot]

end Sys2Proof.Machine
end

