-- ==== Sys2Proof/Laws/Slots.lean ====
section
/-!
SUPPORT. Slots and registers: what a read of one sees after a write, and everything the shared issue operation can answer.
-/
namespace Sys2Proof.Machine

open Sys2Proof

/-! ## Slots -/

theorem Slot.ne_empty_of_unit {sl : Slot} (h : sl.unit ≠ none) : sl ≠ Slot.empty := fun e => h (by rw [e]; rfl)

theorem State.slotAt_setSlot_ne (s : State) (k n : Nat) (v : Slot) (h : n ≠ k) : (s.setSlot k v).slotAt n = s.slotAt n :=
  FMap.get_set_ne Slot.empty s.fab.slots k n v h

theorem State.slotAt_setSlot_self (s : State) (k : Nat) (v : Slot) (h : v.unit ≠ none) : (s.setSlot k v).slotAt k = v :=
  FMap.get_set_listed Slot.empty s.fab.slots k v (Slot.ne_empty_of_unit h)

/-- A unit put into a slot is the unit of that slot. -/
@[simp] theorem State.unitAt_putUnit (s : State) (r : SlotRef) (u : Ctx) : (s.putUnit r u).unitAt r = some u := by
  rw [State.unitAt, State.putUnit, State.slotAt_setSlot_self _ _ _ (by simp)]

@[simp] theorem State.unitAt_putMode (s : State) (r : SlotRef) (u : Ctx) (m : SlotMode) :
    (s.putMode r u m).unitAt r = some u := by
  rw [State.unitAt, State.putMode, State.slotAt_setSlot_self _ _ _ (by simp)]

@[simp] theorem State.mode_putMode (s : State) (r : SlotRef) (u : Ctx) (m : SlotMode) :
    ((s.putMode r u m).slotAt r.key).mode = m := by
  rw [State.putMode, State.slotAt_setSlot_self _ _ _ (by simp)]

@[simp] theorem State.mode_putUnit (s : State) (r : SlotRef) (u : Ctx) :
    ((s.putUnit r u).slotAt r.key).mode = (s.slotAt r.key).mode := by
  rw [State.putUnit, State.slotAt_setSlot_self _ _ _ (by simp)]

theorem State.slotAt_putUnit_ne (s : State) (r : SlotRef) (u : Ctx) (k : Nat) (h : k ≠ r.key) :
    (s.putUnit r u).slotAt k = s.slotAt k := State.slotAt_setSlot_ne s r.key k _ h

theorem State.slotAt_putMode_ne (s : State) (r : SlotRef) (u : Ctx) (m : SlotMode) (k : Nat) (h : k ≠ r.key) :
    (s.putMode r u m).slotAt k = s.slotAt k := State.slotAt_setSlot_ne s r.key k _ h

/-- An instruction that completes leaves its unit in its slot, at the next instruction. -/
@[simp] theorem State.unitAt_completes (s : State) (i : Instr) (r : SlotRef) (u v : Ctx) :
    (s.completes i r u v).unitAt r = some { v with pc := npcOf i u } := State.unitAt_putUnit _ _ _

theorem State.slotAt_completes_ne (s : State) (i : Instr) (r : SlotRef) (u v : Ctx) (k : Nat) (h : k ≠ r.key) :
    (s.completes i r u v).slotAt k = s.slotAt k := State.slotAt_putUnit_ne _ _ _ _ h

/-! ## Registers -/

theorem Ctx.reg_setReg_ne (u : Ctx) (n k : Nat) (v : Word) (h : k ≠ n) : (u.setReg n v).reg k = u.reg k :=
  FMap.get_set_ne 0 u.regs n k v h

theorem Ctx.reg_setReg_self (u : Ctx) (n : Nat) (v : Word) (h : FMap.wf 0 u.regs = true) : (u.setReg n v).reg n = v :=
  FMap.get_set_self 0 u.regs n v h

theorem Ctx.row_setRow_ne (u : Ctx) (n k : Nat) (b : Row) (t : BitVec 4) (h : k ≠ n) : (u.setRow n b t).row k = u.row k :=
  FMap.get_set_ne 0 u.rows n k b h

theorem Ctx.row_setRow_self (u : Ctx) (n : Nat) (b : Row) (t : BitVec 4) (h : FMap.wf 0 u.rows = true) :
    (u.setRow n b t).row n = b := FMap.get_set_self 0 u.rows n b h

theorem Ctx.tagOf_setRow_ne (u : Ctx) (n k : Nat) (b : Row) (t : BitVec 4) (h : k ≠ n) :
    (u.setRow n b t).tagOf k = u.tagOf k := FMap.get_set_ne 0 u.tags n k t h

/-- Guard 0 is true, whatever is written (R20). -/
@[simp] theorem Ctx.guardOf_zero (u : Ctx) : u.guardOf 0 = true := rfl

/-- Mask 0 is all lanes, whatever is written (R20). -/
@[simp] theorem Ctx.maskOf_zero (u : Ctx) : u.maskOf 0 = BitVec.allOnes 256 := rfl

theorem Ctx.boundOf_setBound_ne (u : Ctx) (n k : Nat) (b : Bound) (h : k ≠ n) : (u.setBound n b).boundOf k = u.boundOf k :=
  FMap.get_set_ne Bound.empty u.bounds n k b h

/-! ## What the shared issue operation can answer -/

/-- An instruction issues only for an occupied slot that is issuing, and then it always answers a next state: a migration, or what
its checks or its own effect give. -/
theorem issueInstr_cases (i : Instr) (body : Env → Ctx → State → Res) (s : State) :
    (issueInstr i body s = .fault .noIssue ∧ ∀ r, s.issuing = some r → s.unitAt r = none) ∨
    ∃ r u, s.issuing = some r ∧ s.unitAt r = some u ∧
      ((kindLists (kindOf r.core) (opSpec i).ext = false ∧
        issueInstr i body s = .next (s.begun.migrate r u.begun (opSpec i).ext)) ∨
       (kindLists (kindOf r.core) (opSpec i).ext = true ∧
        issueInstr i body s = .next (finish i (envOf i r u) u.begun (runChecked i (envOf i r u) u.begun s.begun body)))) := by
  unfold issueInstr
  cases hr : s.issuing with
  | none => exact .inl ⟨rfl, fun r h => nomatch h⟩
  | some r =>
    cases hu : s.unitAt r with
    | none =>
      refine .inl ⟨by simp [hu], fun x h => ?_⟩
      cases h
      exact hu
    | some u =>
      refine .inr ⟨r, u, rfl, hu, ?_⟩
      cases hk : kindLists (kindOf r.core) (opSpec i).ext with
      | false => exact .inl ⟨rfl, by simp [hu, hk]; rfl⟩
      | true => exact .inr ⟨rfl, by simp [hu, hk]; rfl⟩

/-- What the checks before an instruction's own effect can give: the effect of a false guard, one of five traps and waits, or the
instruction's own effect. -/
theorem runChecked_cases (i : Instr) (e : Env) (u : Ctx) (s : State) (body : Env → Ctx → State → Res) :
    (∃ t, runChecked i e u s body = .trap s t ∧ (t.cause = 1 ∨ t.cause = 2 ∨ t.cause = 13 ∨ t.cause = 11)) ∨
    runChecked i e u s body = .ok s u ∨
    (∃ regs, runChecked i e u s body = .wait s u (.token regs)) ∨
    runChecked i e u s body = body e u s := by
  simp only [runChecked]
  split
  · exact .inl ⟨_, rfl, .inl rfl⟩
  · exact .inl ⟨_, rfl, .inr (.inl rfl)⟩
  · split
    · exact .inr (.inl rfl)
    · split
      · exact .inl ⟨_, rfl, .inr (.inr (.inl rfl))⟩
      · split
        · exact .inr (.inr (.inl ⟨_, rfl⟩))
        · split
          · exact .inl ⟨_, rfl, .inr (.inr (.inr rfl))⟩
          · exact .inr (.inr (.inr rfl))

end Sys2Proof.Machine
end

