-- ==== Sys2Proof/Tests/Decode.lean ====
section
/-!
SUPPORT. Words written out from the bit maps of R74 and R77 and the opcodes of R89, by hand and not by the encoder, and the
instruction each stands for: at least one for every instruction, in its base form where it has one.
-/
namespace Sys2Proof.Tests

open Sys2Proof

/-- Every list of words decodes to its instruction. -/
def decodesAll (l : List (List IWord × Instr)) : Bool := l.all fun p => decide (decode p.1 = .instr p.2)

theorem test_decode_scalar_1 : decodesAll [
    ([0x00C20404], .add { Fields.zero with a := 1, b := 2, c := 3 }),
    ([0x00310806, 0x191E2728, 0x3A092444], .add { Fields.zero with
      form := .ext, a := 3, b := 16, c := 25, d := 30, e := 39, imm := 58, rm := 2, ga := ⟨false, 2⟩, gb := ⟨true, 0⟩, ty :=
      2, hint := 2, ord := 2, scope := 2, etag := 2, lmask := 1 }),
    ([0x16500C04], .sub { Fields.zero with a := 3, b := 16, c := 25 }),
    ([0x29171004], .mul { Fields.zero with a := 4, b := 23, c := 36 }),
    ([0x3BDE1404], .mulh { Fields.zero with a := 5, b := 30, c := 47 }),
    ([0x4EA51804], .mulhn { Fields.zero with a := 6, b := 37, c := 58 }),
    ([0x526C1C04], .div { Fields.zero with a := 7, b := 44, c := 9 }),
    ([0x65332004], .divn { Fields.zero with a := 8, b := 51, c := 20 }),
    ([0x77C82404], .rem { Fields.zero with a := 9, b := 8, c := 31 }),
    ([0x8A8F2804], .remn { Fields.zero with a := 10, b := 15, c := 42 }),
    ([0x9D562C04], .andR { Fields.zero with a := 11, b := 22, c := 53 }),
    ([0xA11D3004], .orR { Fields.zero with a := 12, b := 29, c := 4 }),
    ([0xB3E43404], .xorR { Fields.zero with a := 13, b := 36, c := 15 }),
    ([0xC6AB3804], .andn { Fields.zero with a := 14, b := 43, c := 26 }),
    ([0xD9723C04], .orn { Fields.zero with a := 15, b := 50, c := 37 }),
    ([0xEC074004], .clmul { Fields.zero with a := 16, b := 7, c := 48 }),
    ([0xFECE4404], .clmulh { Fields.zero with a := 17, b := 14, c := 59 }),
    ([0x02954808], .shl { Fields.zero with a := 18, b := 21, c := 10 }),
    ([0x0140FC0A, 0x570B6CBE, 0x27CCCA84], .shl { Fields.zero with
      form := .ext, a := 20, b := 15, c := 87, d := 11, e := 108, imm := 39, rm := 3, ga := ⟨true, 3⟩, gb := ⟨true, 6⟩, ty
      := 19, hint := 1, ord := 4, scope := 5, etag := 4, lmask := 1, sat := true }),
    ([0x18235008], .shr { Fields.zero with a := 20, b := 35, c := 32 }),
    ([0x2AEA5408], .sar { Fields.zero with a := 21, b := 42, c := 43 }),
    ([0x3DB15808], .rol { Fields.zero with a := 22, b := 49, c := 54 }),
    ([0x41465C08], .ror { Fields.zero with a := 23, b := 6, c := 5 }),
    ([0x540D6008], .minR { Fields.zero with a := 24, b := 13, c := 16 }),
    ([0x66D46408], .maxR { Fields.zero with a := 25, b := 20, c := 27 }),
    ([0x799B6808], .minn { Fields.zero with a := 26, b := 27, c := 38 }),
    ([0x8C626C08], .maxn { Fields.zero with a := 27, b := 34, c := 49 }),
    ([0x0F29700C], .clz { Fields.zero with a := 28, b := 41, c := 60 }),
    ([0x01E5540E, 0x48153AD1, 0x49A143DA], .clz { Fields.zero with
      form := .ext, a := 30, b := 85, c := 72, d := 21, e := 58, imm := 73, rm := 1, ga := ⟨true, 5⟩, gb := ⟨false, 1⟩, ty
      := 8, hint := 2, ord := 4, scope := 1, etag := 14, lmask := 6, sat := true, pz := true }),
    ([0x1585780C], .ctz { Fields.zero with a := 30, b := 5, c := 22 }),
    ([0x284C7C0C], .popc { Fields.zero with a := 31, b := 12, c := 33 }),
    ([0x3B13800C], .bswap { Fields.zero with a := 32, b := 19, c := 44 }),
    ([0x4DDA840C], .mov { Fields.zero with a := 33, b := 26, c := 55 }),
    ([0x02378812, 0x7F56212B, 0xDA34CC86], .bfx { Fields.zero with
      form := .ext, a := 35, b := 120, c := 127, d := 86, e := 33, imm := 218, rm := 2, ga := ⟨false, 2⟩, gb := ⟨true, 3⟩,
      ty := 13, hint := 1, ord := 4, scope := 6, etag := 4, lmask := 1, pz := true }),
    ([0x12407C12, 0x0D6332BB, 0xF7B900A6], .bfxs { Fields.zero with
      form := .ext, a := 36, b := 7, c := 13, d := 99, e := 50, imm := 247, rm := 3, ga := ⟨true, 3⟩, gb := ⟨true, 3⟩, ty :=
      14, hint := 2, ord := 0, scope := 0, etag := 5, lmask := 1, sat := true, pz := true }),
    ([0x2250E012, 0x18704344, 0x143C12C8], .bfi { Fields.zero with
      form := .ext, a := 37, b := 14, c := 24, d := 112, e := 67, imm := 20, rm := 0, ga := ⟨false, 4⟩, gb := ⟨false, 4⟩, ty
      := 15, hint := 0, ord := 1, scope := 1, etag := 6, lmask := 2 }),
    ([0x02615416, 0x230554D4, 0x31C0A4E8], .sel { Fields.zero with
      form := .ext, a := 38, b := 21, c := 35, d := 5, e := 84, imm := 49, rm := 1, ga := ⟨true, 5⟩, gb := ⟨false, 4⟩, ty :=
      16, hint := 1, ord := 2, scope := 2, etag := 7, lmask := 2, sat := true }),
    ([0x7C8B9818], .cmp { Fields.zero with a := 38, b := 11, c := 50, fn := 7 }),
    ([0x72823C1A, 0x391F08FD, 0x6BC8492E], .cmp { Fields.zero with
      form := .ext, a := 40, b := 35, c := 57, d := 31, e := 8, imm := 107, rm := 3, ga := ⟨true, 7⟩, gb := ⟨true, 5⟩, ty :=
      18, hint := 0, ord := 4, scope := 4, etag := 9, lmask := 3, sat := true, pz := true, fn := 7 }),
    ([0x4292A01F, 0x442C1905, 0x004C8B52, 0x89ABCDEF, 0x01234567], .cmpImm { Fields.zero with
      form := .extLit, a := 41, b := 42, c := 68, d := 44, e := 25, imm := 0, rm := 0, lit := 0x123456789ABCDEF, ga :=
      ⟨false, 0⟩, gb := ⟨false, 5⟩, ty := 19, hint := 1, ord := 0, scope := 5, etag := 10, lmask := 4, pz := true, fn := 4 })] = true := by decide

theorem test_decode_scalar_2 : decodesAll [
    ([0x05E00420], .tstZ { Fields.zero with a := 1, b := 32, c := 23 }),
    ([0x02B38822, 0x5A463B2E, 0xC2002194], .tstZ { Fields.zero with
      form := .ext, a := 43, b := 56, c := 90, d := 70, e := 59, imm := 194, rm := 2, ga := ⟨false, 2⟩, gb := ⟨true, 6⟩, ty
      := 0, hint := 0, ord := 2, scope := 0, etag := 12, lmask := 5 }),
    ([0x1B6E0C20], .tstNz { Fields.zero with a := 3, b := 46, c := 45 }),
    ([0x3E031024], .gop { Fields.zero with a := 4, b := 3, c := 56, fn := 3 }),
    ([0x32E4D426, 0x7B6D6ED7, 0x198C061A], .gop { Fields.zero with
      form := .ext, a := 46, b := 77, c := 123, d := 109, e := 110, imm := 25, rm := 1, ga := ⟨true, 5⟩, gb := ⟨false, 7⟩,
      ty := 3, hint := 0, ord := 0, scope := 3, etag := 0, lmask := 6, sat := true, pz := true, fn := 3 }),
    ([0xA9911840], .addImm { Fields.zero with a := 6, b := 17, imm := 678 }),
    ([0x0305BC42, 0x140F22FF, 0x53952A5E], .addImm { Fields.zero with
      form := .ext, a := 48, b := 91, c := 20, d := 15, e := 34, imm := 83, rm := 3, ga := ⟨true, 7⟩, gb := ⟨true, 7⟩, ty :=
      5, hint := 2, ord := 2, scope := 5, etag := 2, lmask := 7, sat := true, pz := true }),
    ([0xBC1F2044], .mulImm { Fields.zero with a := 8, b := 31, imm := 752 }),
    ([0x03269447, 0x2A294490, 0x009CC080, 0x89ABCDEF, 0x01234567], .mulImm { Fields.zero with
      form := .extLit, a := 50, b := 105, c := 42, d := 41, e := 68, imm := 0, rm := 1, lit := 0x123456789ABCDEF, ga :=
      ⟨true, 1⟩, gb := ⟨false, 0⟩, ty := 7, hint := 1, ord := 4, scope := 0, etag := 4, lmask := 0, sat := true }),
    ([0xCEAD2848], .andImm { Fields.zero with a := 10, b := 45, imm := 826 }),
    ([0x03477C4A, 0x404366B9, 0xC7A414C6], .andImm { Fields.zero with
      form := .ext, a := 52, b := 119, c := 64, d := 67, e := 102, imm := 199, rm := 3, ga := ⟨true, 3⟩, gb := ⟨true, 1⟩, ty
      := 9, hint := 0, ord := 1, scope := 2, etag := 6, lmask := 1, sat := true, pz := true }),
    ([0xE109304C], .orImm { Fields.zero with a := 12, b := 9, imm := 900 }),
    ([0x0360D44E, 0x565D1AD1, 0x01AD390A], .orImm { Fields.zero with
      form := .ext, a := 54, b := 13, c := 86, d := 93, e := 26, imm := 1, rm := 1, ga := ⟨true, 5⟩, gb := ⟨false, 1⟩, ty :=
      11, hint := 2, ord := 3, scope := 4, etag := 8, lmask := 2, sat := true, pz := true }),
    ([0xF3973850], .xorImm { Fields.zero with a := 14, b := 23, imm := 974 }),
    ([0x0381BC53, 0x6C773CFA, 0x00B48D4C, 0x89ABCDEF, 0x01234567], .xorImm { Fields.zero with
      form := .extLit, a := 56, b := 27, c := 108, d := 119, e := 60, imm := 0, rm := 3, lit := 0x123456789ABCDEF, ga :=
      ⟨true, 7⟩, gb := ⟨true, 2⟩, ty := 13, hint := 1, ord := 0, scope := 6, etag := 10, lmask := 3, sat := true }),
    ([0x06254054], .shlImm { Fields.zero with a := 16, b := 37, imm := 24 }),
    ([0x03A29456, 0x05195E93, 0x75BC2392], .shlImm { Fields.zero with
      form := .ext, a := 58, b := 41, c := 5, d := 25, e := 94, imm := 117, rm := 1, ga := ⟨true, 1⟩, gb := ⟨false, 3⟩, ty
      := 15, hint := 0, ord := 2, scope := 1, etag := 12, lmask := 4, sat := true, pz := true }),
    ([0x18B34858], .shrImm { Fields.zero with a := 18, b := 51, imm := 98 }),
    ([0x03C37C5A, 0x1B3312BB, 0xAFC547D6], .shrImm { Fields.zero with
      form := .ext, a := 60, b := 55, c := 27, d := 51, e := 18, imm := 175, rm := 3, ga := ⟨true, 3⟩, gb := ⟨true, 3⟩, ty
      := 17, hint := 2, ord := 4, scope := 3, etag := 14, lmask := 5, sat := true, pz := true }),
    ([0x2B0F505C], .sarImm { Fields.zero with a := 20, b := 15, imm := 172 }),
    ([0x03E4545E, 0x314D34D4, 0xE9CC9A38], .sarImm { Fields.zero with
      form := .ext, a := 62, b := 69, c := 49, d := 77, e := 52, imm := 233, rm := 1, ga := ⟨true, 5⟩, gb := ⟨false, 4⟩, ty
      := 19, hint := 1, ord := 1, scope := 5, etag := 1, lmask := 6, sat := true }),
    ([0x3D9D5860], .rolImm { Fields.zero with a := 22, b := 29, imm := 246 }),
    ([0x04053C62, 0x476756FD, 0x2380307E], .rolImm { Fields.zero with
      form := .ext, a := 64, b := 83, c := 71, d := 103, e := 86, imm := 35, rm := 3, ga := ⟨true, 7⟩, gb := ⟨true, 5⟩, ty
      := 0, hint := 0, ord := 3, scope := 0, etag := 3, lmask := 7, sat := true, pz := true }),
    ([0x502B6064], .rorImm { Fields.zero with a := 24, b := 43, imm := 320 }),
    ([0x04261466, 0x5D090A95, 0x5D8904A2], .rorImm { Fields.zero with
      form := .ext, a := 66, b := 97, c := 93, d := 9, e := 10, imm := 93, rm := 1, ga := ⟨true, 1⟩, gb := ⟨false, 5⟩, ty :=
      2, hint := 2, ord := 0, scope := 2, etag := 5, lmask := 0, sat := true, pz := true }),
    ([0x62876868], .li { Fields.zero with a := 26, b := 7, imm := 394 }),
    ([0x0446FC6B, 0x73232CBE, 0x0090A8E4, 0x89ABCDEF, 0x01234567], .li { Fields.zero with
      form := .extLit, a := 68, b := 111, c := 115, d := 35, e := 44, imm := 0, rm := 3, lit := 0x123456789ABCDEF, ga :=
      ⟨true, 3⟩, gb := ⟨true, 6⟩, ty := 4, hint := 1, ord := 2, scope := 4, etag := 7, lmask := 1, sat := true }),
    ([0x7515706C], .lea { Fields.zero with a := 28, b := 21, imm := 468 }),
    ([0x3460546E, 0x0C3D4ED7, 0xD1984D2A], .lea { Fields.zero with
      form := .ext, a := 70, b := 5, c := 12, d := 61, e := 78, imm := 209, rm := 1, ga := ⟨true, 5⟩, gb := ⟨false, 7⟩, ty
      := 6, hint := 0, ord := 4, scope := 6, etag := 9, lmask := 2, sat := true, pz := true, fn := 3 }),
    ([0x2AA37870], .cvta { Fields.zero with a := 30, b := 35, c := 42, fn := 2 }),
    ([0x24813C72, 0x225770FF, 0x0BA1136E], .cvta { Fields.zero with
      form := .ext, a := 72, b := 19, c := 34, d := 87, e := 112, imm := 11, rm := 3, ga := ⟨true, 7⟩, gb := ⟨true, 7⟩, ty
      := 8, hint := 2, ord := 1, scope := 1, etag := 11, lmask := 3, sat := true, pz := true, fn := 2 }),
    ([0x01318074], .tsta { Fields.zero with a := 32, b := 49, c := 4 }),
    ([0x04A21476, 0x38712490, 0x45A8B7B0], .tsta { Fields.zero with
      form := .ext, a := 74, b := 33, c := 56, d := 113, e := 36, imm := 69, rm := 1, ga := ⟨true, 1⟩, gb := ⟨false, 0⟩, ty
      := 10, hint := 1, ord := 3, scope := 3, etag := 13, lmask := 4, sat := true }),
    ([0x068D8878], .georng { Fields.zero with a := 34, b := 13, c := 26 }),
    ([0x04C2FC7A, 0x4E1346B9, 0x7FB00A16], .georng { Fields.zero with
      form := .ext, a := 76, b := 47, c := 78, d := 19, e := 70, imm := 127, rm := 3, ga := ⟨true, 3⟩, gb := ⟨true, 1⟩, ty
      := 12, hint := 0, ord := 0, scope := 5, etag := 0, lmask := 5, sat := true, pz := true })] = true := by decide

theorem test_decode_control : decodesAll [
    ([0xA96A9880], .br { Fields.zero with imm := 2775718 }),
    ([0xA96A9C84], .call { Fields.zero with imm := 2775719 }),
    ([0x02A99888], .jmp { Fields.zero with a := 38, b := 41, c := 10 }),
    ([0x0504BC8A, 0x7A471CFA, 0xF3C0C49C], .jmp { Fields.zero with
      form := .ext, a := 80, b := 75, c := 122, d := 71, e := 28, imm := 243, rm := 3, ga := ⟨true, 7⟩, gb := ⟨true, 2⟩, ty
      := 16, hint := 1, ord := 4, scope := 2, etag := 4, lmask := 7, sat := true }),
    ([0x1805A088], .ret { Fields.zero with a := 40, b := 5, c := 32 }),
    ([0x2ACC0488], .callReg { Fields.zero with a := 1, b := 12, c := 43 }),
    ([0xA969748C], .bg { Fields.zero with imm := 173477, ga := ⟨true, 5⟩ }),
    ([0x9ABC0C90], .loop { Fields.zero with imm := 39612, a := 3 }),
    ([0x09211094], .realign { Fields.zero with a := 4, b := 33, imm := 36 }),
    ([0x05675497, 0x3F1D14D4, 0x00848348, 0x89ABCDEF, 0x01234567], .realign { Fields.zero with
      form := .extLit, a := 86, b := 117, c := 63, d := 29, e := 20, imm := 0, rm := 1, lit := 0x123456789ABCDEF, ga :=
      ⟨true, 5⟩, gb := ⟨false, 4⟩, ty := 1, hint := 1, ord := 0, scope := 1, etag := 10, lmask := 2, sat := true }),
    ([0x09AF1898], .nop { Fields.zero with a := 6, b := 47, c := 38 }),
    ([0x0580BC9A, 0x553736FD, 0xDB8C278E], .nop { Fields.zero with
      form := .ext, a := 88, b := 11, c := 85, d := 55, e := 54, imm := 219, rm := 3, ga := ⟨true, 7⟩, gb := ⟨true, 5⟩, ty
      := 3, hint := 0, ord := 2, scope := 3, etag := 12, lmask := 3, sat := true, pz := true }),
    ([0x1F0B2098], .safe { Fields.zero with a := 8, b := 11, c := 60 }),
    ([0x22D22498], .halt { Fields.zero with a := 9, b := 18, c := 11 }),
    ([0x35992898], .yield { Fields.zero with a := 10, b := 25, c := 22 }),
    ([0x49E02C9C], .sleep { Fields.zero with a := 11, b := 32, imm := 295 }),
    ([0x05D2E09E, 0x0F781D46, 0x6C212258], .sleep { Fields.zero with
      form := .ext, a := 93, b := 46, c := 15, d := 120, e := 29, imm := 108, rm := 0, ga := ⟨false, 4⟩, gb := ⟨false, 6⟩,
      ty := 8, hint := 2, ord := 2, scope := 1, etag := 2, lmask := 6 }),
    ([0x0DEE34C0], .rdsr { Fields.zero with a := 13, b := 46, c := 55 }),
    ([0x05F3C8C2, 0x251A3F6F, 0xA628C69E], .rdsr { Fields.zero with
      form := .ext, a := 95, b := 60, c := 37, d := 26, e := 63, imm := 166, rm := 2, ga := ⟨false, 6⟩, gb := ⟨true, 7⟩, ty
      := 10, hint := 1, ord := 4, scope := 3, etag := 4, lmask := 7, pz := true }),
    ([0x044A3CC4], .wrsr { Fields.zero with a := 15, b := 10, c := 17 }),
    ([0x0614A0C6, 0x3B346100, 0xE0301AC0], .wrsr { Fields.zero with
      form := .ext, a := 97, b := 74, c := 59, d := 52, e := 97, imm := 224, rm := 0, ga := ⟨false, 0⟩, gb := ⟨false, 0⟩, ty
      := 12, hint := 0, ord := 1, scope := 5, etag := 6, lmask := 0 }),
    ([0x815844C8], .trap { Fields.zero with a := 17, b := 24, imm := 517 }),
    ([0x063588CA, 0x514E1528, 0x1A393104], .trap { Fields.zero with
      form := .ext, a := 99, b := 88, c := 81, d := 78, e := 21, imm := 26, rm := 2, ga := ⟨false, 2⟩, gb := ⟨true, 0⟩, ty
      := 14, hint := 2, ord := 3, scope := 0, etag := 8, lmask := 1 }),
    ([0x0F664CCC], .tret { Fields.zero with a := 19, b := 38, c := 61 }),
    ([0x001660CE, 0x67683741, 0x5440854A], .tret { Fields.zero with
      form := .ext, a := 1, b := 102, c := 103, d := 104, e := 55, imm := 84, rm := 0, ga := ⟨false, 4⟩, gb := ⟨false, 1⟩,
      ty := 16, hint := 1, ord := 0, scope := 2, etag := 10, lmask := 2, pz := true }),
    ([0x15C254CC], .tretRedirect { Fields.zero with a := 21, b := 2, c := 23 }),
    ([0xAF8958D0], .brk { Fields.zero with a := 22, b := 9, imm := 702 }),
    ([0x00403CD2, 0x0B176AFA, 0xABCCBBAC], .brk { Fields.zero with
      form := .ext, a := 4, b := 3, c := 11, d := 23, e := 106, imm := 171, rm := 3, ga := ⟨true, 7⟩, gb := ⟨true, 2⟩, ty :=
      19, hint := 1, ord := 3, scope := 5, etag := 13, lmask := 3, sat := true }),
    ([0xC21760D4], .chk { Fields.zero with a := 24, b := 23, imm := 776 }),
    ([0x006114D6, 0x21311E93, 0xE5800012], .chk { Fields.zero with
      form := .ext, a := 6, b := 17, c := 33, d := 49, e := 30, imm := 229, rm := 1, ga := ⟨true, 1⟩, gb := ⟨false, 3⟩, ty
      := 0, hint := 0, ord := 0, scope := 0, etag := 0, lmask := 4, sat := true, pz := true }),
    ([0x04A568D8], .bndLd { Fields.zero with a := 26, b := 37, c := 18 }),
    ([0x0081FCDA, 0x374B40BB, 0x1F892456], .bndLd { Fields.zero with
      form := .ext, a := 8, b := 31, c := 55, d := 75, e := 64, imm := 31, rm := 3, ga := ⟨true, 3⟩, gb := ⟨true, 3⟩, ty :=
      2, hint := 2, ord := 2, scope := 2, etag := 2, lmask := 5, sat := true, pz := true })] = true := by decide

theorem test_decode_memory : decodesAll [
    ([0xE7337100], .ldI8 { Fields.zero with a := 28, b := 51, imm := 924 }),
    ([0x30A2D503, 0x4D6562D4, 0x0090C898, 0x89ABCDEF, 0x01234567], .ldI8 { Fields.zero with
      form := .extLit, a := 10, b := 45, c := 77, d := 101, e := 98, imm := 0, rm := 1, lit := 0x123456789ABCDEF, ga :=
      ⟨true, 5⟩, gb := ⟨false, 4⟩, ty := 4, hint := 1, ord := 4, scope := 4, etag := 4, lmask := 6, sat := true, fn := 3 }),
    ([0xF98F7904], .ldN8 { Fields.zero with a := 30, b := 15, imm := 998 }),
    ([0x30C3BD06, 0x630716FD, 0x93981CDE], .ldN8 { Fields.zero with
      form := .ext, a := 12, b := 59, c := 99, d := 7, e := 22, imm := 147, rm := 3, ga := ⟨true, 7⟩, gb := ⟨true, 5⟩, ty :=
      6, hint := 0, ord := 1, scope := 6, etag := 6, lmask := 7, sat := true, pz := true, fn := 3 }),
    ([0x0C1D8108], .ldI16 { Fields.zero with a := 32, b := 29, imm := 48 }),
    ([0x30E4950A, 0x79213895, 0xCDA13302], .ldI16 { Fields.zero with
      form := .ext, a := 14, b := 73, c := 121, d := 33, e := 56, imm := 205, rm := 1, ga := ⟨true, 1⟩, gb := ⟨false, 5⟩, ty
      := 8, hint := 2, ord := 3, scope := 1, etag := 8, lmask := 0, sat := true, pz := true, fn := 3 }),
    ([0x1EAB890C], .ldN16 { Fields.zero with a := 34, b := 43, imm := 122 }),
    ([0x31057D0F, 0x123B5ABE, 0x00A88744, 0x89ABCDEF, 0x01234567], .ldN16 { Fields.zero with
      form := .extLit, a := 16, b := 87, c := 18, d := 59, e := 90, imm := 0, rm := 3, lit := 0x123456789ABCDEF, ga :=
      ⟨true, 3⟩, gb := ⟨true, 6⟩, ty := 10, hint := 1, ord := 0, scope := 3, etag := 10, lmask := 1, sat := true, fn := 3 }),
    ([0x31079110], .ldI32 { Fields.zero with a := 36, b := 7, imm := 196 }),
    ([0x31265512, 0x28550ED7, 0x41B02B8A], .ldI32 { Fields.zero with
      form := .ext, a := 18, b := 101, c := 40, d := 85, e := 14, imm := 65, rm := 1, ga := ⟨true, 5⟩, gb := ⟨false, 7⟩, ty
      := 12, hint := 0, ord := 2, scope := 5, etag := 12, lmask := 2, sat := true, pz := true, fn := 3 }),
    ([0x43959914], .ldN32 { Fields.zero with a := 38, b := 21, imm := 270 }),
    ([0x31473D16, 0x3E6F30FF, 0x7BB941CE], .ldN32 { Fields.zero with
      form := .ext, a := 20, b := 115, c := 62, d := 111, e := 48, imm := 123, rm := 3, ga := ⟨true, 7⟩, gb := ⟨true, 7⟩, ty
      := 14, hint := 2, ord := 4, scope := 0, etag := 14, lmask := 3, sat := true, pz := true, fn := 3 }),
    ([0x5623A118], .ldI64 { Fields.zero with a := 40, b := 35, imm := 344 }),
    ([0x3160951B, 0x54115290, 0x00C09430, 0x89ABCDEF, 0x01234567], .ldI64 { Fields.zero with
      form := .extLit, a := 22, b := 9, c := 84, d := 17, e := 82, imm := 0, rm := 1, lit := 0x123456789ABCDEF, ga := ⟨true,
      1⟩, gb := ⟨false, 0⟩, ty := 16, hint := 1, ord := 1, scope := 2, etag := 1, lmask := 4, sat := true, fn := 3 }),
    ([0x68B10920], .st8 { Fields.zero with a := 2, b := 49, imm := 418 }),
    ([0x31817D22, 0x6A2B06B9, 0xEFC83876], .st8 { Fields.zero with
      form := .ext, a := 24, b := 23, c := 106, d := 43, e := 6, imm := 239, rm := 3, ga := ⟨true, 3⟩, gb := ⟨true, 1⟩, ty
      := 18, hint := 0, ord := 3, scope := 4, etag := 3, lmask := 5, sat := true, pz := true, fn := 3 }),
    ([0x7B0D1124], .st16 { Fields.zero with a := 4, b := 13, imm := 492 }),
    ([0x31A25526, 0x034528D1, 0x29D10CBA], .st16 { Fields.zero with
      form := .ext, a := 26, b := 37, c := 3, d := 69, e := 40, imm := 41, rm := 1, ga := ⟨true, 5⟩, gb := ⟨false, 1⟩, ty :=
      20, hint := 2, ord := 0, scope := 6, etag := 5, lmask := 6, sat := true, pz := true, fn := 3 }),
    ([0x8D9B1928], .st32 { Fields.zero with a := 6, b := 27, imm := 566 }),
    ([0x31C33D2B, 0x195F4AFA, 0x0084A2FC, 0x89ABCDEF, 0x01234567], .st32 { Fields.zero with
      form := .extLit, a := 28, b := 51, c := 25, d := 95, e := 74, imm := 0, rm := 3, lit := 0x123456789ABCDEF, ga :=
      ⟨true, 7⟩, gb := ⟨true, 2⟩, ty := 1, hint := 1, ord := 2, scope := 1, etag := 7, lmask := 7, sat := true, fn := 3 }),
    ([0xA029212C], .st64 { Fields.zero with a := 8, b := 41, imm := 640 }),
    ([0x31E4152E, 0x2F796C93, 0x9D8C4722], .st64 { Fields.zero with
      form := .ext, a := 30, b := 65, c := 47, d := 121, e := 108, imm := 157, rm := 1, ga := ⟨true, 1⟩, gb := ⟨false, 3⟩,
      ty := 3, hint := 0, ord := 4, scope := 3, etag := 9, lmask := 0, sat := true, pz := true, fn := 3 }),
    ([0x31F48933, 0x3A0E0F2B, 0x00108946, 0x89ABCDEF, 0x01234567], .ldp { Fields.zero with
      form := .extLit, a := 31, b := 72, c := 58, d := 14, e := 15, imm := 0, rm := 2, lit := 0x123456789ABCDEF, ga :=
      ⟨false, 2⟩, gb := ⟨true, 3⟩, ty := 4, hint := 1, ord := 0, scope := 4, etag := 10, lmask := 1, pz := true, fn := 3 }),
    ([0x3204FD36, 0x451B20BB, 0xD7951B66], .stp { Fields.zero with
      form := .ext, a := 32, b := 79, c := 69, d := 27, e := 32, imm := 215, rm := 3, ga := ⟨true, 3⟩, gb := ⟨true, 3⟩, ty
      := 5, hint := 2, ord := 1, scope := 5, etag := 11, lmask := 1, sat := true, pz := true, fn := 3 }),
    ([0xC5133138], .pf { Fields.zero with a := 12, b := 19, imm := 788 }),
    ([0x3225D53B, 0x5B3542D4, 0x009CB1A8, 0x89ABCDEF, 0x01234567], .pf { Fields.zero with
      form := .extLit, a := 34, b := 93, c := 91, d := 53, e := 66, imm := 0, rm := 1, lit := 0x123456789ABCDEF, ga :=
      ⟨true, 5⟩, gb := ⟨false, 4⟩, ty := 7, hint := 1, ord := 3, scope := 0, etag := 13, lmask := 2, sat := true, fn := 3 }),
    ([0xD7A1393C], .cln { Fields.zero with a := 14, b := 33, imm := 862 }),
    ([0x0246BD3E, 0x714F64FD, 0x4BA4040E], .cln { Fields.zero with
      form := .ext, a := 36, b := 107, c := 113, d := 79, e := 100, imm := 75, rm := 3, ga := ⟨true, 7⟩, gb := ⟨true, 5⟩, ty
      := 9, hint := 0, ord := 0, scope := 2, etag := 0, lmask := 3, sat := true, pz := true }),
    ([0xEA2F4140], .inv { Fields.zero with a := 16, b := 47, imm := 936 }),
    ([0x02679542, 0x0A691895, 0x85AD2852], .inv { Fields.zero with
      form := .ext, a := 38, b := 121, c := 10, d := 105, e := 24, imm := 133, rm := 1, ga := ⟨true, 1⟩, gb := ⟨false, 5⟩,
      ty := 11, hint := 2, ord := 2, scope := 4, etag := 2, lmask := 4, sat := true, pz := true })] = true := by decide

theorem test_decode_atomic : decodesAll [
    ([0x02708946, 0x1576292E, 0xA2303A74], .amoAdd { Fields.zero with
      form := .ext, a := 39, b := 8, c := 21, d := 118, e := 41, imm := 162, rm := 2, ga := ⟨false, 2⟩, gb := ⟨true, 6⟩, ty
      := 12, hint := 0, ord := 3, scope := 5, etag := 3, lmask := 5 }),
    ([0x1280FD47, 0x200B3ABE, 0x00B4CC94, 0x89ABCDEF, 0x01234567], .amoAnd { Fields.zero with
      form := .extLit, a := 40, b := 15, c := 32, d := 11, e := 58, imm := 0, rm := 3, lit := 0x123456789ABCDEF, ga :=
      ⟨true, 3⟩, gb := ⟨true, 6⟩, ty := 13, hint := 1, ord := 4, scope := 6, etag := 4, lmask := 5, sat := true }),
    ([0x22916146, 0x2B184B46, 0xDC3900B8], .amoOr { Fields.zero with
      form := .ext, a := 41, b := 22, c := 43, d := 24, e := 75, imm := 220, rm := 0, ga := ⟨false, 4⟩, gb := ⟨false, 6⟩, ty
      := 14, hint := 2, ord := 0, scope := 0, etag := 5, lmask := 6 }),
    ([0x32A1D546, 0x36255CD7, 0xF9BC12DA], .amoXor { Fields.zero with
      form := .ext, a := 42, b := 29, c := 54, d := 37, e := 92, imm := 249, rm := 1, ga := ⟨true, 5⟩, gb := ⟨false, 7⟩, ty
      := 15, hint := 0, ord := 1, scope := 1, etag := 6, lmask := 6, sat := true, pz := true }),
    ([0x42B24947, 0x41326D6F, 0x0040A4FE, 0x89ABCDEF, 0x01234567], .amoMin { Fields.zero with
      form := .extLit, a := 43, b := 36, c := 65, d := 50, e := 109, imm := 0, rm := 2, lit := 0x123456789ABCDEF, ga :=
      ⟨false, 6⟩, gb := ⟨true, 7⟩, ty := 16, hint := 1, ord := 2, scope := 2, etag := 7, lmask := 7, pz := true }),
    ([0x52C2BD46, 0x4C3F10FF, 0x33C5371E], .amoMax { Fields.zero with
      form := .ext, a := 44, b := 43, c := 76, d := 63, e := 16, imm := 51, rm := 3, ga := ⟨true, 7⟩, gb := ⟨true, 7⟩, ty :=
      17, hint := 2, ord := 3, scope := 3, etag := 8, lmask := 7, sat := true, pz := true }),
    ([0x62D32146, 0x574C2100, 0x50484920], .amoMinn { Fields.zero with
      form := .ext, a := 45, b := 50, c := 87, d := 76, e := 33, imm := 80, rm := 0, ga := ⟨false, 0⟩, gb := ⟨false, 0⟩, ty
      := 18, hint := 0, ord := 4, scope := 4, etag := 9, lmask := 0 }),
    ([0x72E39547, 0x62593290, 0x00CC8B40, 0x89ABCDEF, 0x01234567], .amoMaxn { Fields.zero with
      form := .extLit, a := 46, b := 57, c := 98, d := 89, e := 50, imm := 0, rm := 1, lit := 0x123456789ABCDEF, ga :=
      ⟨true, 1⟩, gb := ⟨false, 0⟩, ty := 19, hint := 1, ord := 0, scope := 5, etag := 10, lmask := 0, sat := true }),
    ([0x82F40946, 0x6D664328, 0x8A511D64], .amoSwap { Fields.zero with
      form := .ext, a := 47, b := 64, c := 109, d := 102, e := 67, imm := 138, rm := 2, ga := ⟨false, 2⟩, gb := ⟨true, 0⟩,
      ty := 20, hint := 2, ord := 1, scope := 6, etag := 11, lmask := 1 }),
    ([0x93047D46, 0x787354B9, 0xA7802186], .amoCas { Fields.zero with
      form := .ext, a := 48, b := 71, c := 120, d := 115, e := 84, imm := 167, rm := 3, ga := ⟨true, 3⟩, gb := ⟨true, 1⟩, ty
      := 0, hint := 0, ord := 2, scope := 0, etag := 12, lmask := 1, sat := true, pz := true }),
    ([0xA314E147, 0x06086541, 0x0004B3AA, 0x89ABCDEF, 0x01234567], .amoFadd { Fields.zero with
      form := .extLit, a := 49, b := 78, c := 6, d := 8, e := 101, imm := 0, rm := 0, lit := 0x123456789ABCDEF, ga :=
      ⟨false, 4⟩, gb := ⟨false, 1⟩, ty := 1, hint := 1, ord := 3, scope := 1, etag := 13, lmask := 2, pz := true }),
    ([0xB3255546, 0x111508D1, 0xE18945CA], .amoFmin { Fields.zero with
      form := .ext, a := 50, b := 85, c := 17, d := 21, e := 8, imm := 225, rm := 1, ga := ⟨true, 5⟩, gb := ⟨false, 1⟩, ty
      := 2, hint := 2, ord := 4, scope := 2, etag := 14, lmask := 2, sat := true, pz := true }),
    ([0xC335C946, 0x1C22196A, 0xFE0C060C], .amoFmax { Fields.zero with
      form := .ext, a := 51, b := 92, c := 28, d := 34, e := 25, imm := 254, rm := 2, ga := ⟨false, 6⟩, gb := ⟨true, 2⟩, ty
      := 3, hint := 0, ord := 0, scope := 3, etag := 0, lmask := 3 }),
    ([0xD3463D47, 0x272F2AFA, 0x0090982C, 0x89ABCDEF, 0x01234567], .amoXadd { Fields.zero with
      form := .extLit, a := 52, b := 99, c := 39, d := 47, e := 42, imm := 0, rm := 3, lit := 0x123456789ABCDEF, ga :=
      ⟨true, 7⟩, gb := ⟨true, 2⟩, ty := 4, hint := 1, ord := 1, scope := 4, etag := 1, lmask := 3, sat := true }),
    ([0xE356A146, 0x323C3B02, 0x38152A50], .amoXrd { Fields.zero with
      form := .ext, a := 53, b := 106, c := 50, d := 60, e := 59, imm := 56, rm := 0, ga := ⟨false, 0⟩, gb := ⟨false, 2⟩, ty
      := 5, hint := 2, ord := 2, scope := 5, etag := 2, lmask := 4 }),
    ([0x0367154A, 0x3D494C93, 0x55983C72], .fence { Fields.zero with
      form := .ext, a := 54, b := 113, c := 61, d := 73, e := 76, imm := 85, rm := 1, ga := ⟨true, 1⟩, gb := ⟨false, 3⟩, ty
      := 6, hint := 0, ord := 3, scope := 6, etag := 3, lmask := 4, sat := true, pz := true }),
    ([0x1377894A, 0x48565D2B, 0x721CC096], .fencePath { Fields.zero with
      form := .ext, a := 55, b := 120, c := 72, d := 86, e := 93, imm := 114, rm := 2, ga := ⟨false, 2⟩, gb := ⟨true, 3⟩, ty
      := 7, hint := 1, ord := 4, scope := 0, etag := 4, lmask := 5, pz := true }),
    ([0x045E8D4C], .barArrive { Fields.zero with a := 35, b := 30, c := 17 }),
    ([0x0390E14E, 0x5E701144, 0xAC2414D8], .barArrive { Fields.zero with
      form := .ext, a := 57, b := 14, c := 94, d := 112, e := 17, imm := 172, rm := 0, ga := ⟨false, 4⟩, gb := ⟨false, 4⟩,
      ty := 9, hint := 0, ord := 1, scope := 2, etag := 6, lmask := 6 }),
    ([0x19EC954C], .barWait { Fields.zero with a := 37, b := 44, c := 39 }),
    ([0x2CB3994C], .barGen { Fields.zero with a := 38, b := 51, c := 50 }),
    ([0x0F489D50], .semPost { Fields.zero with a := 39, b := 8, c := 61 }),
    ([0x03D2A152, 0x0D2C5505, 0x20348D42], .semPost { Fields.zero with
      form := .ext, a := 61, b := 42, c := 13, d := 44, e := 85, imm := 32, rm := 0, ga := ⟨false, 0⟩, gb := ⟨false, 5⟩, ty
      := 13, hint := 1, ord := 0, scope := 6, etag := 10, lmask := 0, pz := true }),
    ([0x15D60550], .semWait { Fields.zero with a := 1, b := 22, c := 23 }),
    ([0x289D0950], .semTry { Fields.zero with a := 2, b := 29, c := 34 }),
    ([0x0B640D54], .cntAdd { Fields.zero with a := 3, b := 36, c := 45 }),
    ([0x04146156, 0x39602B46, 0x944547C8], .cntAdd { Fields.zero with
      form := .ext, a := 65, b := 70, c := 57, d := 96, e := 43, imm := 148, rm := 0, ga := ⟨false, 4⟩, gb := ⟨false, 6⟩, ty
      := 17, hint := 2, ord := 4, scope := 3, etag := 14, lmask := 2 }),
    ([0x11F21554], .cntWait { Fields.zero with a := 5, b := 50, c := 7 }),
    ([0x24871954], .cntRd { Fields.zero with a := 6, b := 7, c := 18 })] = true := by decide

theorem test_decode_task : decodesAll [
    ([0xA96C0560], .spawn { Fields.zero with imm := 2775809 }),
    ([0x0A152164], .sync { Fields.zero with a := 8, b := 21, c := 40 }),
    ([0x04669566, 0x70291290, 0x2584C290], .sync { Fields.zero with
      form := .ext, a := 70, b := 105, c := 112, d := 41, e := 18, imm := 37, rm := 1, ga := ⟨true, 1⟩, gb := ⟨false, 0⟩, ty
      := 1, hint := 1, ord := 4, scope := 1, etag := 4, lmask := 4, sat := true }),
    ([0x1FA32964], .done { Fields.zero with a := 10, b := 35, c := 62 }),
    ([0x236A2D64], .post { Fields.zero with a := 11, b := 42, c := 13 }),
    ([0x36313164], .grant { Fields.zero with a := 12, b := 49, c := 24 }),
    ([0x48C63564], .quietWait { Fields.zero with a := 13, b := 6, c := 35 }),
    ([0x0B8D3968], .lnch { Fields.zero with a := 14, b := 13, c := 46 }),
    ([0x04C1BD6A, 0x35770AFA, 0xD39C815C], .lnch { Fields.zero with
      form := .ext, a := 76, b := 27, c := 53, d := 119, e := 10, imm := 211, rm := 3, ga := ⟨true, 7⟩, gb := ⟨true, 2⟩, ty
      := 7, hint := 1, ord := 0, scope := 0, etag := 10, lmask := 7, sat := true }),
    ([0x121B416C], .cancel { Fields.zero with a := 16, b := 27, c := 8, fn := 1 }),
    ([0x14E2956E, 0x4B192C93, 0x0DA42582], .cancel { Fields.zero with
      form := .ext, a := 78, b := 41, c := 75, d := 25, e := 44, imm := 13, rm := 1, ga := ⟨true, 1⟩, gb := ⟨false, 3⟩, ty
      := 9, hint := 0, ord := 2, scope := 2, etag := 12, lmask := 0, sat := true, pz := true, fn := 1 }),
    ([0x07A94970], .ctxStart { Fields.zero with a := 18, b := 41, c := 30 }),
    ([0x05037D72, 0x61334EBB, 0x47AD49C6], .ctxStart { Fields.zero with
      form := .ext, a := 80, b := 55, c := 97, d := 51, e := 78, imm := 71, rm := 3, ga := ⟨true, 3⟩, gb := ⟨true, 3⟩, ty :=
      11, hint := 2, ord := 4, scope := 4, etag := 14, lmask := 1, sat := true, pz := true }),
    ([0x1D055170], .ctxReap { Fields.zero with a := 20, b := 5, c := 52 }),
    ([0x20CC5570], .ctxPart { Fields.zero with a := 21, b := 12, c := 3 }),
    ([0x03935974], .msgBind { Fields.zero with a := 22, b := 19, c := 14 }),
    ([0x05453D76, 0x106724FD, 0xBBBC326E], .msgBind { Fields.zero with
      form := .ext, a := 84, b := 83, c := 16, d := 103, e := 36, imm := 187, rm := 3, ga := ⟨true, 7⟩, gb := ⟨true, 5⟩, ty
      := 15, hint := 0, ord := 3, scope := 1, etag := 3, lmask := 3, sat := true, pz := true }),
    ([0x19216174], .msgRecv { Fields.zero with a := 24, b := 33, c := 36 }),
    ([0x0BE86578], .tokTest { Fields.zero with a := 25, b := 40, c := 47 }),
    ([0x0576897A, 0x3116572E, 0x124818D4], .tokTest { Fields.zero with
      form := .ext, a := 87, b := 104, c := 49, d := 22, e := 87, imm := 18, rm := 2, ga := ⟨false, 2⟩, gb := ⟨true, 6⟩, ty
      := 18, hint := 0, ord := 1, scope := 4, etag := 6, lmask := 5 }),
    ([0x12446D78], .tokCancel { Fields.zero with a := 27, b := 4, c := 9 })] = true := by decide

theorem test_decode_vector_1 : decodesAll [
    ([0x35976202, 0x47300B46, 0x4C513D18], .vld { Fields.zero with
      form := .ext, a := 89, b := 118, c := 71, d := 48, e := 11, imm := 76, rm := 0, ga := ⟨false, 4⟩, gb := ⟨false, 6⟩, ty
      := 20, hint := 2, ord := 3, scope := 6, etag := 8, lmask := 6, fn := 3 }),
    ([0x35A05606, 0x523D1CD7, 0x6980413A], .vst { Fields.zero with
      form := .ext, a := 90, b := 5, c := 82, d := 61, e := 28, imm := 105, rm := 1, ga := ⟨true, 5⟩, gb := ⟨false, 7⟩, ty
      := 0, hint := 0, ord := 4, scope := 0, etag := 9, lmask := 6, sat := true, pz := true, fn := 3 }),
    ([0x05B0CA0A, 0x5D4A2D6F, 0x8604835E], .vldg { Fields.zero with
      form := .ext, a := 91, b := 12, c := 93, d := 74, e := 45, imm := 134, rm := 2, ga := ⟨false, 6⟩, gb := ⟨true, 7⟩, ty
      := 1, hint := 1, ord := 0, scope := 1, etag := 10, lmask := 7, pz := true }),
    ([0x05C13E0E, 0x68573EFF, 0xA389157E], .vsct { Fields.zero with
      form := .ext, a := 92, b := 19, c := 104, d := 87, e := 62, imm := 163, rm := 3, ga := ⟨true, 7⟩, gb := ⟨true, 7⟩, ty
      := 2, hint := 2, ord := 1, scope := 2, etag := 11, lmask := 7, sat := true, pz := true }),
    ([0x35D1A212, 0x73644F00, 0xC00C2780], .vlds { Fields.zero with
      form := .ext, a := 93, b := 26, c := 115, d := 100, e := 79, imm := 192, rm := 0, ga := ⟨false, 0⟩, gb := ⟨false, 0⟩,
      ty := 3, hint := 0, ord := 2, scope := 3, etag := 12, lmask := 0, fn := 3 }),
    ([0x35E21617, 0x7E716090, 0x0090B9A0, 0x89ABCDEF, 0x01234567], .vsst { Fields.zero with
      form := .extLit, a := 94, b := 33, c := 126, d := 113, e := 96, imm := 0, rm := 1, lit := 0x123456789ABCDEF, ga :=
      ⟨true, 1⟩, gb := ⟨false, 0⟩, ty := 4, hint := 1, ord := 3, scope := 4, etag := 13, lmask := 0, sat := true, fn := 3 }),
    ([0x05F28A1A, 0x0C067128, 0xFA154BC4], .vmov { Fields.zero with
      form := .ext, a := 95, b := 40, c := 12, d := 6, e := 113, imm := 250, rm := 2, ga := ⟨false, 2⟩, gb := ⟨true, 0⟩, ty
      := 5, hint := 2, ord := 4, scope := 5, etag := 14, lmask := 1 }),
    ([0x1602FE1A, 0x171314B9, 0x17980C06], .vbc { Fields.zero with
      form := .ext, a := 96, b := 47, c := 23, d := 19, e := 20, imm := 23, rm := 3, ga := ⟨true, 3⟩, gb := ⟨true, 1⟩, ty :=
      6, hint := 0, ord := 0, scope := 6, etag := 0, lmask := 1, sat := true, pz := true }),
    ([0x2613621A, 0x22202541, 0x341C902A], .vins { Fields.zero with
      form := .ext, a := 97, b := 54, c := 34, d := 32, e := 37, imm := 52, rm := 0, ga := ⟨false, 4⟩, gb := ⟨false, 1⟩, ty
      := 7, hint := 1, ord := 1, scope := 0, etag := 1, lmask := 2, pz := true }),
    ([0x3623D61A, 0x2D2D36D1, 0x51A1224A], .vext { Fields.zero with
      form := .ext, a := 98, b := 61, c := 45, d := 45, e := 54, imm := 81, rm := 1, ga := ⟨true, 5⟩, gb := ⟨false, 1⟩, ty
      := 8, hint := 2, ord := 2, scope := 1, etag := 2, lmask := 2, sat := true, pz := true }),
    ([0x06344A1E, 0x383A476A, 0x6E24346C], .vadd { Fields.zero with
      form := .ext, a := 99, b := 68, c := 56, d := 58, e := 71, imm := 110, rm := 2, ga := ⟨false, 6⟩, gb := ⟨true, 2⟩, ty
      := 9, hint := 0, ord := 3, scope := 2, etag := 3, lmask := 3 }),
    ([0x1644BE1E, 0x434758FA, 0x8BA8C68C], .vsub { Fields.zero with
      form := .ext, a := 100, b := 75, c := 67, d := 71, e := 88, imm := 139, rm := 3, ga := ⟨true, 7⟩, gb := ⟨true, 2⟩, ty
      := 10, hint := 1, ord := 4, scope := 3, etag := 4, lmask := 3, sat := true }),
    ([0x2015221E, 0x4E546902, 0xA82D08B0], .vmul { Fields.zero with
      form := .ext, a := 1, b := 82, c := 78, d := 84, e := 105, imm := 168, rm := 0, ga := ⟨false, 0⟩, gb := ⟨false, 2⟩, ty
      := 11, hint := 2, ord := 0, scope := 4, etag := 5, lmask := 4 }),
    ([0x3025961E, 0x59610C93, 0xC5B01AD2], .vfma { Fields.zero with
      form := .ext, a := 2, b := 89, c := 89, d := 97, e := 12, imm := 197, rm := 1, ga := ⟨true, 1⟩, gb := ⟨false, 3⟩, ty
      := 12, hint := 0, ord := 1, scope := 5, etag := 6, lmask := 4, sat := true, pz := true }),
    ([0x40360A1E, 0x646E1D2B, 0xE234ACF6], .vfms { Fields.zero with
      form := .ext, a := 3, b := 96, c := 100, d := 110, e := 29, imm := 226, rm := 2, ga := ⟨false, 2⟩, gb := ⟨true, 3⟩, ty
      := 13, hint := 1, ord := 2, scope := 6, etag := 7, lmask := 5, pz := true }),
    ([0x50467E1E, 0x6F7B2EBB, 0xFFB93116], .vneg { Fields.zero with
      form := .ext, a := 4, b := 103, c := 111, d := 123, e := 46, imm := 255, rm := 3, ga := ⟨true, 3⟩, gb := ⟨true, 3⟩, ty
      := 14, hint := 2, ord := 3, scope := 0, etag := 8, lmask := 5, sat := true, pz := true }),
    ([0x6056E21E, 0x7A103F44, 0x1C3C4338], .vabs { Fields.zero with
      form := .ext, a := 5, b := 110, c := 122, d := 16, e := 63, imm := 28, rm := 0, ga := ⟨false, 4⟩, gb := ⟨false, 4⟩, ty
      := 15, hint := 0, ord := 4, scope := 1, etag := 9, lmask := 6 }),
    ([0x7067561E, 0x081D50D4, 0x39C08558], .vmin { Fields.zero with
      form := .ext, a := 6, b := 117, c := 8, d := 29, e := 80, imm := 57, rm := 1, ga := ⟨true, 5⟩, gb := ⟨false, 4⟩, ty :=
      16, hint := 1, ord := 0, scope := 2, etag := 10, lmask := 6, sat := true }),
    ([0x80704A1E, 0x132A616C, 0x5645177C], .vmax { Fields.zero with
      form := .ext, a := 7, b := 4, c := 19, d := 42, e := 97, imm := 86, rm := 2, ga := ⟨false, 6⟩, gb := ⟨true, 4⟩, ty :=
      17, hint := 2, ord := 1, scope := 3, etag := 11, lmask := 7 }),
    ([0x9080BE1E, 0x1E3772FD, 0x73C8299E], .vdiv { Fields.zero with
      form := .ext, a := 8, b := 11, c := 30, d := 55, e := 114, imm := 115, rm := 3, ga := ⟨true, 7⟩, gb := ⟨true, 5⟩, ty
      := 18, hint := 0, ord := 2, scope := 4, etag := 12, lmask := 7, sat := true, pz := true }),
    ([0xA091221E, 0x29441505, 0x904CBBA2], .vsqrt { Fields.zero with
      form := .ext, a := 9, b := 18, c := 41, d := 68, e := 21, imm := 144, rm := 0, ga := ⟨false, 0⟩, gb := ⟨false, 5⟩, ty
      := 19, hint := 1, ord := 3, scope := 5, etag := 13, lmask := 0, pz := true }),
    ([0xB0A1961E, 0x34512695, 0xADD14DC2], .vrcp { Fields.zero with
      form := .ext, a := 10, b := 25, c := 52, d := 81, e := 38, imm := 173, rm := 1, ga := ⟨true, 1⟩, gb := ⟨false, 5⟩, ty
      := 20, hint := 2, ord := 4, scope := 6, etag := 14, lmask := 0, sat := true, pz := true }),
    ([0xC0B20A1E, 0x3F5E372E, 0xCA000004], .vrsq { Fields.zero with
      form := .ext, a := 11, b := 32, c := 63, d := 94, e := 55, imm := 202, rm := 2, ga := ⟨false, 2⟩, gb := ⟨true, 6⟩, ty
      := 0, hint := 0, ord := 0, scope := 0, etag := 0, lmask := 1 }),
    ([0x00C27E22, 0x4A6B48BE, 0xE7849224], .vexp2 { Fields.zero with
      form := .ext, a := 12, b := 39, c := 74, d := 107, e := 72, imm := 231, rm := 3, ga := ⟨true, 3⟩, gb := ⟨true, 6⟩, ty
      := 1, hint := 1, ord := 1, scope := 1, etag := 1, lmask := 1, sat := true }),
    ([0x10D2E222, 0x55785946, 0x04092448], .vlog2 { Fields.zero with
      form := .ext, a := 13, b := 46, c := 85, d := 120, e := 89, imm := 4, rm := 0, ga := ⟨false, 4⟩, gb := ⟨false, 6⟩, ty
      := 2, hint := 2, ord := 2, scope := 2, etag := 2, lmask := 2 }),
    ([0x20E35622, 0x600D6AD7, 0x218C366A], .vtanh { Fields.zero with
      form := .ext, a := 14, b := 53, c := 96, d := 13, e := 106, imm := 33, rm := 1, ga := ⟨true, 5⟩, gb := ⟨false, 7⟩, ty
      := 3, hint := 0, ord := 3, scope := 3, etag := 3, lmask := 2, sat := true, pz := true }),
    ([0x30F3CA22, 0x6B1A0D6F, 0x3E10C88E], .vsig { Fields.zero with
      form := .ext, a := 15, b := 60, c := 107, d := 26, e := 13, imm := 62, rm := 2, ga := ⟨false, 6⟩, gb := ⟨true, 7⟩, ty
      := 4, hint := 1, ord := 4, scope := 4, etag := 4, lmask := 3, pz := true }),
    ([0x51043E26, 0x76271EFF, 0x5B950AAE], .vcmp { Fields.zero with
      form := .ext, a := 16, b := 67, c := 118, d := 39, e := 30, imm := 91, rm := 3, ga := ⟨true, 7⟩, gb := ⟨true, 7⟩, ty
      := 5, hint := 2, ord := 0, scope := 5, etag := 5, lmask := 3, sat := true, pz := true, fn := 5 }),
    ([0x0114A22A, 0x04342F00, 0x78181CD0], .vsel { Fields.zero with
      form := .ext, a := 17, b := 74, c := 4, d := 52, e := 47, imm := 120, rm := 0, ga := ⟨false, 0⟩, gb := ⟨false, 0⟩, ty
      := 6, hint := 0, ord := 1, scope := 6, etag := 6, lmask := 4 }),
    ([0x0125162E, 0x0F414090, 0x959CA0F0], .vand { Fields.zero with
      form := .ext, a := 18, b := 81, c := 15, d := 65, e := 64, imm := 149, rm := 1, ga := ⟨true, 1⟩, gb := ⟨false, 0⟩, ty
      := 7, hint := 1, ord := 2, scope := 0, etag := 7, lmask := 4, sat := true }),
    ([0x11358A2E, 0x1A4E5128, 0xB2213314], .vor { Fields.zero with
      form := .ext, a := 19, b := 88, c := 26, d := 78, e := 81, imm := 178, rm := 2, ga := ⟨false, 2⟩, gb := ⟨true, 0⟩, ty
      := 8, hint := 2, ord := 3, scope := 1, etag := 8, lmask := 5 }),
    ([0x2145FE2E, 0x255B62B9, 0xCFA44536], .vxor { Fields.zero with
      form := .ext, a := 20, b := 95, c := 37, d := 91, e := 98, imm := 207, rm := 3, ga := ⟨true, 3⟩, gb := ⟨true, 1⟩, ty
      := 9, hint := 0, ord := 4, scope := 2, etag := 9, lmask := 5, sat := true, pz := true }),
    ([0x3156622E, 0x30680541, 0xEC28875A], .vandn { Fields.zero with
      form := .ext, a := 21, b := 102, c := 48, d := 104, e := 5, imm := 236, rm := 0, ga := ⟨false, 4⟩, gb := ⟨false, 1⟩,
      ty := 10, hint := 1, ord := 0, scope := 3, etag := 10, lmask := 6, pz := true }),
    ([0x4166D62E, 0x3B7516D1, 0x09AD197A], .vshl { Fields.zero with
      form := .ext, a := 22, b := 109, c := 59, d := 117, e := 22, imm := 9, rm := 1, ga := ⟨true, 5⟩, gb := ⟨false, 1⟩, ty
      := 11, hint := 2, ord := 1, scope := 4, etag := 11, lmask := 6, sat := true, pz := true }),
    ([0x51774A2E, 0x460A276A, 0x26302B9C], .vshr { Fields.zero with
      form := .ext, a := 23, b := 116, c := 70, d := 10, e := 39, imm := 38, rm := 2, ga := ⟨false, 6⟩, gb := ⟨true, 2⟩, ty
      := 12, hint := 0, ord := 2, scope := 5, etag := 12, lmask := 7 }),
    ([0x61803E2E, 0x511738FA, 0x43B4BDBC], .vsar { Fields.zero with
      form := .ext, a := 24, b := 3, c := 81, d := 23, e := 56, imm := 67, rm := 3, ga := ⟨true, 7⟩, gb := ⟨true, 2⟩, ty :=
      13, hint := 1, ord := 3, scope := 6, etag := 13, lmask := 7, sat := true }),
    ([0x7190A22E, 0x5C244902, 0x603941C0], .vclmul { Fields.zero with
      form := .ext, a := 25, b := 10, c := 92, d := 36, e := 73, imm := 96, rm := 0, ga := ⟨false, 0⟩, gb := ⟨false, 2⟩, ty
      := 14, hint := 2, ord := 4, scope := 0, etag := 14, lmask := 0 }),
    ([0x81A1162E, 0x67315A93, 0x7DBC0202], .vpopc { Fields.zero with
      form := .ext, a := 26, b := 17, c := 103, d := 49, e := 90, imm := 125, rm := 1, ga := ⟨true, 1⟩, gb := ⟨false, 3⟩, ty
      := 15, hint := 0, ord := 0, scope := 1, etag := 0, lmask := 0, sat := true, pz := true }),
    ([0x91B18A2E, 0x723E6B2B, 0x9A409426], .vclz { Fields.zero with
      form := .ext, a := 27, b := 24, c := 114, d := 62, e := 107, imm := 154, rm := 2, ga := ⟨false, 2⟩, gb := ⟨true, 3⟩,
      ty := 16, hint := 1, ord := 1, scope := 2, etag := 1, lmask := 1, pz := true }),
    ([0x01C1FE32, 0x7D4B0EBB, 0xB7C52646], .vperm { Fields.zero with
      form := .ext, a := 28, b := 31, c := 125, d := 75, e := 14, imm := 183, rm := 3, ga := ⟨true, 3⟩, gb := ⟨true, 3⟩, ty
      := 17, hint := 2, ord := 2, scope := 3, etag := 2, lmask := 1, sat := true, pz := true })] = true := by decide

theorem test_decode_vector_2 : decodesAll [
    ([0x11D26232, 0x0B581F44, 0xD4483868], .vshuf { Fields.zero with
      form := .ext, a := 29, b := 38, c := 11, d := 88, e := 31, imm := 212, rm := 0, ga := ⟨false, 4⟩, gb := ⟨false, 4⟩, ty
      := 18, hint := 0, ord := 3, scope := 4, etag := 3, lmask := 2 }),
    ([0x21E2D632, 0x166530D4, 0xF1CCCA88], .vrot { Fields.zero with
      form := .ext, a := 30, b := 45, c := 22, d := 101, e := 48, imm := 241, rm := 1, ga := ⟨true, 5⟩, gb := ⟨false, 4⟩, ty
      := 19, hint := 1, ord := 4, scope := 5, etag := 4, lmask := 2, sat := true }),
    ([0x31F34A32, 0x2172416C, 0x0E510CAC], .vred { Fields.zero with
      form := .ext, a := 31, b := 52, c := 33, d := 114, e := 65, imm := 14, rm := 2, ga := ⟨false, 6⟩, gb := ⟨true, 4⟩, ty
      := 20, hint := 2, ord := 0, scope := 6, etag := 5, lmask := 3 }),
    ([0x4203BE32, 0x2C0752FD, 0x2B8010CE], .vscan { Fields.zero with
      form := .ext, a := 32, b := 59, c := 44, d := 7, e := 82, imm := 43, rm := 3, ga := ⟨true, 7⟩, gb := ⟨true, 5⟩, ty :=
      0, hint := 0, ord := 1, scope := 0, etag := 6, lmask := 3, sat := true, pz := true }),
    ([0x52142232, 0x37146305, 0x4804A2F2], .vxscan { Fields.zero with
      form := .ext, a := 33, b := 66, c := 55, d := 20, e := 99, imm := 72, rm := 0, ga := ⟨false, 0⟩, gb := ⟨false, 5⟩, ty
      := 1, hint := 1, ord := 2, scope := 1, etag := 7, lmask := 4, pz := true }),
    ([0x02249636, 0x42210695, 0x65893512], .vtag { Fields.zero with
      form := .ext, a := 34, b := 73, c := 66, d := 33, e := 6, imm := 101, rm := 1, ga := ⟨true, 1⟩, gb := ⟨false, 5⟩, ty
      := 2, hint := 2, ord := 3, scope := 2, etag := 8, lmask := 4, sat := true, pz := true }),
    ([0x12350A36, 0x4D2E172E, 0x820C4734], .vretag { Fields.zero with
      form := .ext, a := 35, b := 80, c := 77, d := 46, e := 23, imm := 130, rm := 2, ga := ⟨false, 2⟩, gb := ⟨true, 6⟩, ty
      := 3, hint := 0, ord := 4, scope := 3, etag := 9, lmask := 5 }),
    ([0x02457E3A, 0x583B28BE, 0x9F908954], .mop { Fields.zero with
      form := .ext, a := 36, b := 87, c := 88, d := 59, e := 40, imm := 159, rm := 3, ga := ⟨true, 3⟩, gb := ⟨true, 6⟩, ty
      := 4, hint := 1, ord := 0, scope := 4, etag := 10, lmask := 5, sat := true }),
    ([0x1255E23A, 0x63483946, 0xBC151B78], .mcnt { Fields.zero with
      form := .ext, a := 37, b := 94, c := 99, d := 72, e := 57, imm := 188, rm := 0, ga := ⟨false, 4⟩, gb := ⟨false, 6⟩, ty
      := 5, hint := 2, ord := 1, scope := 5, etag := 11, lmask := 6 })] = true := by decide

theorem test_decode_conversion : decodesAll [
    ([0x02665642, 0x6E554AD7, 0xD9982D9A], .vcvt { Fields.zero with
      form := .ext, a := 38, b := 101, c := 110, d := 85, e := 74, imm := 217, rm := 1, ga := ⟨true, 5⟩, gb := ⟨false, 7⟩,
      ty := 6, hint := 0, ord := 2, scope := 6, etag := 12, lmask := 6, sat := true, pz := true }),
    ([0x1276CA42, 0x79625B6F, 0xF61CB1BE], .vquant { Fields.zero with
      form := .ext, a := 39, b := 108, c := 121, d := 98, e := 91, imm := 246, rm := 2, ga := ⟨false, 6⟩, gb := ⟨true, 7⟩,
      ty := 7, hint := 1, ord := 3, scope := 0, etag := 13, lmask := 7, pz := true }),
    ([0x22873E42, 0x076F6CFF, 0x13A143DE], .vdeq { Fields.zero with
      form := .ext, a := 40, b := 115, c := 7, d := 111, e := 108, imm := 19, rm := 3, ga := ⟨true, 7⟩, gb := ⟨true, 7⟩, ty
      := 8, hint := 2, ord := 4, scope := 1, etag := 14, lmask := 7, sat := true, pz := true }),
    ([0x32902242, 0x12040F00, 0x30240400], .vpack { Fields.zero with
      form := .ext, a := 41, b := 2, c := 18, d := 4, e := 15, imm := 48, rm := 0, ga := ⟨false, 0⟩, gb := ⟨false, 0⟩, ty :=
      9, hint := 0, ord := 0, scope := 2, etag := 0, lmask := 0 }),
    ([0x42A09642, 0x1D112090, 0x4DA89620], .vunpk { Fields.zero with
      form := .ext, a := 42, b := 9, c := 29, d := 17, e := 32, imm := 77, rm := 1, ga := ⟨true, 1⟩, gb := ⟨false, 0⟩, ty :=
      10, hint := 1, ord := 1, scope := 3, etag := 1, lmask := 0, sat := true })] = true := by decide

theorem test_decode_matrix : decodesAll [
    ([0x02B10B02, 0x281E3128, 0x6A2D2844], .mwld { Fields.zero with
      form := .ext, a := 43, b := 16, c := 40, d := 30, e := 49, imm := 106, rm := 2, ga := ⟨false, 2⟩, gb := ⟨true, 0⟩, ty
      := 11, hint := 2, ord := 2, scope := 4, etag := 2, lmask := 1 }),
    ([0x12C17F02, 0x332B42B9, 0x87B03A66], .mwsc { Fields.zero with
      form := .ext, a := 44, b := 23, c := 51, d := 43, e := 66, imm := 135, rm := 3, ga := ⟨true, 3⟩, gb := ⟨true, 1⟩, ty
      := 12, hint := 0, ord := 3, scope := 5, etag := 3, lmask := 1, sat := true, pz := true }),
    ([0x22D1E302, 0x3E385341, 0xA434CC8A], .mwsw { Fields.zero with
      form := .ext, a := 45, b := 30, c := 62, d := 56, e := 83, imm := 164, rm := 0, ga := ⟨false, 4⟩, gb := ⟨false, 1⟩, ty
      := 13, hint := 1, ord := 4, scope := 6, etag := 4, lmask := 2, pz := true }),
    ([0x32E25702, 0x494564D1, 0xC1B900AA], .mmac { Fields.zero with
      form := .ext, a := 46, b := 37, c := 73, d := 69, e := 100, imm := 193, rm := 1, ga := ⟨true, 5⟩, gb := ⟨false, 1⟩, ty
      := 14, hint := 2, ord := 0, scope := 0, etag := 5, lmask := 2, sat := true, pz := true }),
    ([0x42F2CB02, 0x5452076A, 0xDE3C12CC], .mmacz { Fields.zero with
      form := .ext, a := 47, b := 44, c := 84, d := 82, e := 7, imm := 222, rm := 2, ga := ⟨false, 6⟩, gb := ⟨true, 2⟩, ty
      := 15, hint := 0, ord := 1, scope := 1, etag := 6, lmask := 3 }),
    ([0x53033F02, 0x5F5F18FA, 0xFBC0A4EC], .mclr { Fields.zero with
      form := .ext, a := 48, b := 51, c := 95, d := 95, e := 24, imm := 251, rm := 3, ga := ⟨true, 7⟩, gb := ⟨true, 2⟩, ty
      := 16, hint := 1, ord := 2, scope := 2, etag := 7, lmask := 3, sat := true }),
    ([0x6313A302, 0x6A6C2902, 0x18453710], .mcsum { Fields.zero with
      form := .ext, a := 49, b := 58, c := 106, d := 108, e := 41, imm := 24, rm := 0, ga := ⟨false, 0⟩, gb := ⟨false, 2⟩,
      ty := 17, hint := 2, ord := 3, scope := 3, etag := 8, lmask := 4 }),
    ([0x03241722, 0x75793A93, 0x35C84932], .ssmCfg { Fields.zero with
      form := .ext, a := 50, b := 65, c := 117, d := 121, e := 58, imm := 53, rm := 1, ga := ⟨true, 1⟩, gb := ⟨false, 3⟩, ty
      := 18, hint := 0, ord := 4, scope := 4, etag := 9, lmask := 4, sat := true, pz := true }),
    ([0x13348B22, 0x030E4B2B, 0x524C8B56], .ssmRun { Fields.zero with
      form := .ext, a := 51, b := 72, c := 3, d := 14, e := 75, imm := 82, rm := 2, ga := ⟨false, 2⟩, gb := ⟨true, 3⟩, ty :=
      19, hint := 1, ord := 0, scope := 5, etag := 10, lmask := 5, pz := true }),
    ([0x2344FF22, 0x0E1B5CBB, 0x6FD11D76], .ssmSt { Fields.zero with
      form := .ext, a := 52, b := 79, c := 14, d := 27, e := 92, imm := 111, rm := 3, ga := ⟨true, 3⟩, gb := ⟨true, 3⟩, ty
      := 20, hint := 2, ord := 1, scope := 6, etag := 11, lmask := 5, sat := true, pz := true }),
    ([0x33556322, 0x19286D44, 0x8C002198], .ssmStat { Fields.zero with
      form := .ext, a := 53, b := 86, c := 25, d := 40, e := 109, imm := 140, rm := 0, ga := ⟨false, 4⟩, gb := ⟨false, 4⟩,
      ty := 0, hint := 0, ord := 2, scope := 0, etag := 12, lmask := 6 })] = true := by decide

theorem test_decode_engine : decodesAll [
    ([0x0365D782, 0x243510D4, 0xA984B3B8], .cp { Fields.zero with
      form := .ext, a := 54, b := 93, c := 36, d := 53, e := 16, imm := 169, rm := 1, ga := ⟨true, 5⟩, gb := ⟨false, 4⟩, ty
      := 1, hint := 1, ord := 3, scope := 1, etag := 13, lmask := 6, sat := true }),
    ([0x13764B82, 0x2F42216C, 0xC60945DC], .cpSlab { Fields.zero with
      form := .ext, a := 55, b := 100, c := 47, d := 66, e := 33, imm := 198, rm := 2, ga := ⟨false, 6⟩, gb := ⟨true, 4⟩, ty
      := 2, hint := 2, ord := 4, scope := 2, etag := 14, lmask := 7 }),
    ([0x2386BF82, 0x3A4F32FD, 0xE38C061E], .cpGth { Fields.zero with
      form := .ext, a := 56, b := 107, c := 58, d := 79, e := 50, imm := 227, rm := 3, ga := ⟨true, 7⟩, gb := ⟨true, 5⟩, ty
      := 3, hint := 0, ord := 0, scope := 3, etag := 0, lmask := 7, sat := true, pz := true }),
    ([0x33972382, 0x455C4305, 0x00109822], .cpSct { Fields.zero with
      form := .ext, a := 57, b := 114, c := 69, d := 92, e := 67, imm := 0, rm := 0, ga := ⟨false, 0⟩, gb := ⟨false, 5⟩, ty
      := 4, hint := 1, ord := 1, scope := 4, etag := 1, lmask := 0, pz := true }),
    ([0x43A79782, 0x50695495, 0x1D952A42], .cpFill { Fields.zero with
      form := .ext, a := 58, b := 121, c := 80, d := 105, e := 84, imm := 29, rm := 1, ga := ⟨true, 1⟩, gb := ⟨false, 5⟩, ty
      := 5, hint := 2, ord := 2, scope := 5, etag := 2, lmask := 0, sat := true, pz := true }),
    ([0x03B08B86, 0x5B76652E, 0x3A183C64], .winBind { Fields.zero with
      form := .ext, a := 59, b := 8, c := 91, d := 118, e := 101, imm := 58, rm := 2, ga := ⟨false, 2⟩, gb := ⟨true, 6⟩, ty
      := 6, hint := 0, ord := 3, scope := 6, etag := 3, lmask := 1 }),
    ([0x13C0FF86, 0x660B08BE, 0x579CC084], .winMark { Fields.zero with
      form := .ext, a := 60, b := 15, c := 102, d := 11, e := 8, imm := 87, rm := 3, ga := ⟨true, 3⟩, gb := ⟨true, 6⟩, ty :=
      7, hint := 1, ord := 4, scope := 0, etag := 4, lmask := 1, sat := true }),
    ([0x23D16386, 0x71181946, 0x742102A8], .winDrop { Fields.zero with
      form := .ext, a := 61, b := 22, c := 113, d := 24, e := 25, imm := 116, rm := 0, ga := ⟨false, 4⟩, gb := ⟨false, 6⟩,
      ty := 8, hint := 2, ord := 0, scope := 1, etag := 5, lmask := 2 }),
    ([0x33E1D786, 0x7C252AD7, 0x91A414CA], .winQ { Fields.zero with
      form := .ext, a := 62, b := 29, c := 124, d := 37, e := 42, imm := 145, rm := 1, ga := ⟨true, 5⟩, gb := ⟨false, 7⟩, ty
      := 9, hint := 0, ord := 1, scope := 2, etag := 6, lmask := 2, sat := true, pz := true }),
    ([0x03F24B8A, 0x0A323B6F, 0xAE28A6EE], .collRed { Fields.zero with
      form := .ext, a := 63, b := 36, c := 10, d := 50, e := 59, imm := 174, rm := 2, ga := ⟨false, 6⟩, gb := ⟨true, 7⟩, ty
      := 10, hint := 1, ord := 2, scope := 3, etag := 7, lmask := 3, pz := true }),
    ([0x1402BF8A, 0x153F4CFF, 0xCBAD390E], .collBc { Fields.zero with
      form := .ext, a := 64, b := 43, c := 21, d := 63, e := 76, imm := 203, rm := 3, ga := ⟨true, 7⟩, gb := ⟨true, 7⟩, ty
      := 11, hint := 2, ord := 3, scope := 4, etag := 8, lmask := 3, sat := true, pz := true }),
    ([0x2413238A, 0x204C5D00, 0xE8304B30], .collAg { Fields.zero with
      form := .ext, a := 65, b := 50, c := 32, d := 76, e := 93, imm := 232, rm := 0, ga := ⟨false, 0⟩, gb := ⟨false, 0⟩, ty
      := 12, hint := 0, ord := 4, scope := 5, etag := 9, lmask := 4 }),
    ([0x0423978E, 0x2B596E90, 0x05B48D50], .msgSend { Fields.zero with
      form := .ext, a := 66, b := 57, c := 43, d := 89, e := 110, imm := 5, rm := 1, ga := ⟨true, 1⟩, gb := ⟨false, 0⟩, ty
      := 13, hint := 1, ord := 0, scope := 6, etag := 10, lmask := 4, sat := true }),
    ([0x14340B8E, 0x36661128, 0x22391174], .smerge { Fields.zero with
      form := .ext, a := 67, b := 64, c := 54, d := 102, e := 17, imm := 34, rm := 2, ga := ⟨false, 2⟩, gb := ⟨true, 0⟩, ty
      := 14, hint := 2, ord := 1, scope := 0, etag := 11, lmask := 5 })] = true := by decide

end Sys2Proof.Tests
end

