-- ==== Sys2Proof/Tests/Support.lean ====
section
/-!
SUPPORT. Small states for the tests: a unit that a program placed right after reset, about to issue one instruction.
-/
namespace Sys2Proof.Tests

open Sys2Proof Sys2Proof.Machine

/-- Fields of the extended form, all zero. -/
def ext : Fields := { Fields.zero with form := .ext }

/-- A legal operand for a role. -/
def operand (r : Role) (p : Nat) : BitVec 8 :=
  match r with
  | .zero | .qtile => 0
  | .const lo _ => BitVec.ofNat 8 lo
  | .slot | .bound => 1
  | .rowR | .rowW | .rowOpt => BitVec.ofNat 8 (p + 3)
  | .guardD | .guardS => BitVec.ofNat 8 (p % 8)
  | .maskD | .maskS => BitVec.ofNat 8 (p % 4 + 1)
  | _ => BitVec.ofNat 8 p

/-- Legal fields of an instruction: operands 1 to 5, its first type, and the changes `g`. A memory form has its base in s2 and no
index. -/
def legal (mk : Fields → Instr) (g : Fields → Fields := id) : Fields :=
  let s := opSpec (mk (g ext))
  g { ext with
    a := operand s.a 1, b := if s.mem then 2 else operand s.b 2, c := if s.mem then 0xFF else operand s.c 3,
    d := operand s.d 4, e := operand s.e 5, ty := BitVec.ofNat 5 (s.tys.headD 0),
    imm := match s.imm with
      | .range lo _ => BitVec.ofNat 22 lo
      | _ => 0 }

/-- The state right after reset with the instruction placed, and the unit about to issue it changed by `g`. -/
def placed (i : Instr) (g : Ctx → Ctx := id) : State :=
  let s := State.reset.place ((encode i).flatMap bytesOfWord)
  match s.issuing with
  | some r => (match s.unitAt r with
    | some u => s.putUnit r (g u)
    | none => s)
  | none => s

/-- The unit has small numbers in s1, s3, s4 and s5, and the scratchpad address 0x1010 of its tile in s2. -/
def ready (i : Instr) (g : Ctx → Ctx := id) : State :=
  placed i fun u => g (((((u.setReg 1 7).setReg 2 0xF000000000001010).setReg 3 5).setReg 4 9).setReg 5 11)

/-- The slot that issues. -/
def slotOf (s : State) : SlotRef := s.issuing.getD ⟨0, 0⟩
/-- The unit that issues. -/
def unitOf (s : State) : Ctx := (s.unitAt (slotOf s)).getD (Ctx.fresh 0 0 0 0 0 0 0 0 0 false)
/-- The register of the issuing unit after the step; 2^64 - 1 is never an expected result of a test. -/
def regAfter (i : Instr) (g : Ctx → Ctx) (n : Nat) : Option Word :=
  match exec i (ready i g) with
  | .next t => (t.unitAt (slotOf (ready i g))).map fun u => u.reg n
  | _ => none
/-- What a function sees in the state after the step. -/
def after {α : Type} (i : Instr) (s : State) (h : State → Option α) : Option α :=
  match exec i s with
  | .next t => h t
  | _ => none
/-- What a function sees in the unit after the step. -/
def unitAfter {α : Type} (i : Instr) (s : State) (h : Ctx → α) : Option α :=
  after i s fun t => (t.unitAt (slotOf s)).map h

/-- `Issues` as a computation. -/
def issuesB (s : State) (i : Instr) (r : SlotRef) (u : Ctx) : Bool :=
  s.issuing == some r && s.unitAt r == some u && kindLists (kindOf r.core) (opSpec i).ext &&
  decide (checkFields (s.partOf (tileOf r.core)) i = .ok) && guardHolds u i.fields.ga && guardHolds u i.fields.gb &&
  i.dests.all (fun n => !u.pend.contains n) && i.waitSources.all (fun n => !u.pend.contains n) &&
  (!(opSpec i).allTokens || u.pend.isEmpty) && i.sources.all (fun n => !u.pois.contains n)

theorem issues_of {s : State} {i : Instr} {r : SlotRef} {u : Ctx} (h : issuesB s i r u = true) : Issues s i r u := by
  have facts := h
  simp only [issuesB, Bool.and_eq_true, beq_iff_eq, decide_eq_true_eq] at facts
  constructor
  case drained =>
    intro all
    have empty := facts.1.2
    rwa [all, Bool.not_true, Bool.false_or, List.isEmpty_iff] at empty
  all_goals simp only [facts]

/-- A witness of the hypotheses of a clause: the unit placed with `i` in the state `h (ready i g)` issues `i`, and `p` holds of the
state, its slot and the unit. -/
structure Case where
  i : Instr
  g : Ctx → Ctx := id
  h : State → State := id
  p : State → SlotRef → Ctx → Bool := fun _ _ _ => true

def Case.state (c : Case) : State := c.h (ready c.i c.g)
/-- The hypotheses hold in the case's state. -/
def Case.Meets (c : Case) : Prop :=
  Issues c.state c.i (slotOf c.state) (unitOf c.state) ∧ c.p c.state (slotOf c.state) (unitOf c.state) = true
def Case.meetsB (c : Case) : Bool :=
  issuesB c.state c.i (slotOf c.state) (unitOf c.state) && c.p c.state (slotOf c.state) (unitOf c.state)

theorem meets_all {l : List Case} (h : l.all Case.meetsB = true) : ∀ c ∈ l, c.Meets := by
  intro c hc
  have hb := List.all_eq_true.mp h c hc
  rw [Case.meetsB, Bool.and_eq_true] at hb
  exact ⟨issues_of hb.1, hb.2⟩

/-- The cases of instructions of one shape. -/
def cases (mks : List (Fields → Instr)) (tweak : Fields → Fields := id) (g : Ctx → Ctx := id) (h : State → State := id)
    (p : State → SlotRef → Ctx → Bool := fun _ _ _ => true) : List Case :=
  mks.map fun mk => { i := mk (legal mk tweak), g := g, h := h, p := p }

/-- The unit in slot 1 of its core instead of slot 0. -/
def inSlot1 (s : State) : State := { s.setSlot 33 (s.slotAt 32) with issuing := some ⟨2, 1⟩ }
/-- A second unit in the slot `k`. -/
def withUnit (k : Nat) (m : SlotMode) (s : State) : State :=
  s.setSlot k { Slot.empty with unit := some { unitOf s with key := 77 }, mode := m }
/-- The bytes from an offset of the scratchpad of tile 0. -/
def scratch (off : Nat) (bs : List Nat) (s : State) : State :=
  s.modStore fun m => { m with mem := FMap.setMany 0 m.mem (scratchKey 0 off) (bs.map (BitVec.ofNat 8)) }

end Sys2Proof.Tests
end

