-- ==== Sys2Proof/Tests/Slice0.lean ====
section
/-!
SUPPORT. Tests of one step each on a small state. Every expected value comes from a worked example or a table of the spec, or
was computed by hand from its rule.
-/
namespace Sys2Proof.Tests

open Sys2Proof Sys2Proof.Machine

set_option Elab.async false

/-! ## Well-formedness: each check refuses a term that breaks it alone -/

/-- The first term is well-formed in partition 16, and the second is not. -/
def refuses (good bad : Instr) : Bool := good.wellFormed .p16 && !bad.wellFormed .p16

/-- R78, R19: operand kinds and shares. -/
theorem test_illFormed_operands :
    refuses (.add (legal .add)) (.add (legal .add fun f => { f with a := 32 })) = true ∧
    refuses (.vadd (legal .vadd)) (.vadd (legal .vadd fun f => { f with b := 16 })) = true ∧
    refuses (.mclr (legal .mclr)) (.mclr (legal .mclr fun f => { f with b := 1 })) = true ∧
    refuses (.cmp (legal .cmp)) (.cmp (legal .cmp fun f => { f with a := 0 })) = true ∧
    refuses (.vcmp (legal .vcmp)) (.vcmp (legal .vcmp fun f => { f with a := 0 })) = true ∧
    refuses (.chk (legal .chk)) (.chk (legal .chk fun f => { f with a := 8 })) = true ∧
    refuses (.tret (legal .tret)) (.tret (legal .tret fun f => { f with b := 16 })) = true ∧
    refuses (.semPost (legal .semPost)) (.semPost (legal .semPost fun f => { f with c := 16 })) = true ∧
    refuses (.rdsr (legal .rdsr)) (.rdsr (legal .rdsr fun f => { f with b := 14 })) = true ∧
    refuses (.nop (legal .nop)) (.nop (legal .nop fun f => { f with a := 1 })) = true ∧
    refuses (.amoAdd (legal .amoAdd fun f => { f with a := 0xFF })) (.amoXrd (legal .amoXrd fun f => { f with a := 0xFF })) =
      true := by decide +kernel

/-- R80 to R86, R89: field codes, immediates, functions and the memory operand. -/
theorem test_illFormed_codes :
    refuses (.add (legal .add)) (.add (legal .add fun f => { f with ty := 5 })) = true ∧
    refuses (.vadd (legal .vadd)) (.vand (legal .vand fun f => { f with rm := 1 })) = true ∧
    refuses (.add (legal .add fun f => { f with ty := 1, sat := true })) (.add (legal .add fun f => { f with sat := true })) = true ∧
    refuses (.ldI8 (legal .ldI8 fun f => { f with hint := 2 })) (.ldI8 (legal .ldI8 fun f => { f with hint := 3 })) = true ∧
    refuses (.cln (legal .cln)) (.cln (legal .cln fun f => { f with hint := 1 })) = true ∧
    refuses (.ldI8 (legal .ldI8 fun f => { f with scope := 6 })) (.ldI8 (legal .ldI8 fun f => { f with scope := 7 })) = true ∧
    refuses (.ldI8 (legal .ldI8 fun f => { f with scope := 6, e := 31 })) (.ldI8 (legal .ldI8 fun f => { f with scope := 6, e := 32 }))
      = true ∧
    refuses (.vadd (legal .vadd fun f => { f with etag := 1 })) (.vadd (legal .vadd fun f => { f with etag := 15 })) = true ∧
    refuses (.vtag (legal .vtag)) (.vtag (legal .vtag fun f => { f with etag := 1 })) = true ∧
    refuses (.vadd (legal .vadd fun f => { f with lmask := 7 })) (.add (legal .add fun f => { f with lmask := 1 })) = true ∧
    refuses (.vperm (legal .vperm fun f => { f with pz := true })) (.vadd (legal .vadd fun f => { f with pz := true })) = true ∧
    refuses (.nop (legal .nop)) (.nop (legal .nop fun f => { f with rsv := true })) = true ∧
    refuses (.shlImm (legal .shlImm fun f => { f with imm := 63 })) (.shlImm (legal .shlImm fun f => { f with imm := 64 })) = true ∧
    refuses (.chk (legal .chk)) (.chk (legal .chk fun f => { f with imm := 0 })) = true ∧
    refuses (.add (legal .add)) (.add (legal .add fun f => { f with imm := 1 })) = true ∧
    refuses (.cmp (legal .cmp fun f => { f with fn := 9 })) (.cmp (legal .cmp fun f => { f with fn := 10 })) = true ∧
    refuses (.ldI8 (legal .ldI8 fun f => { f with c := 3, fn := 3 })) (.ldI8 (legal .ldI8 fun f => { f with fn := 1 })) = true ∧
    refuses (.ldI8 (legal .ldI8 fun f => { f with c := 3, fn := 3 })) (.ldI8 (legal .ldI8 fun f => { f with c := 3, fn := 4 })) = true ∧
    refuses (.li (legal .li fun f => { f with form := .extLit, lit := 5 }))
      (.li (legal .li fun f => { f with form := .extLit, lit := 5, imm := 1 })) = true := by decide +kernel

/-- R83: orderings; the conditions that R89 and the instruction chapters add; R72 to R77: a form that no words spell. -/
theorem test_illFormed_conditions :
    refuses (.ldI8 (legal .ldI8 fun f => { f with ord := 4 })) (.ldI8 (legal .ldI8 fun f => { f with ord := 2 })) = true ∧
    refuses (.st8 (legal .st8 fun f => { f with ord := 2 })) (.st8 (legal .st8 fun f => { f with ord := 1 })) = true ∧
    refuses (.fence (legal .fence fun f => { f with ord := 1 })) (.fence (legal .fence)) = true ∧
    refuses (.amoAdd (legal .amoAdd fun f => { f with ord := 4 })) (.amoAdd (legal .amoAdd fun f => { f with ord := 5 })) = true ∧
    refuses (.nop (legal .nop)) (.nop (legal .nop fun f => { f with ord := 1 })) = true ∧
    refuses (.bfx (legal .bfx fun f => { f with c := 63, d := 1 })) (.bfx (legal .bfx fun f => { f with c := 63, d := 2 })) = true ∧
    refuses (.ldp (legal .ldp)) (.ldp (legal .ldp fun f => { f with d := 1 })) = true ∧
    refuses (.vld (legal .vld fun f => { f with lmask := 0 })) (.vld (legal .vld fun f => { f with lmask := 1 })) = true ∧
    refuses (.fencePath (legal .fencePath fun f => { f with ord := 4, imm := 3 }))
      (.fencePath (legal .fencePath fun f => { f with ord := 4, imm := 4 })) = true ∧
    refuses (.vcvt (legal .vcvt fun f => { f with ty := 6, etag := 5, imm := 1 }))
      (.vcvt (legal .vcvt fun f => { f with ty := 6, etag := 5, imm := 2 })) = true ∧
    refuses (.br { Fields.zero with imm := 5 }) (.br { ext with imm := 5 }) = true ∧
    refuses (.add { Fields.zero with a := 1 }) (.add { Fields.zero with a := 1, ga := ⟨true, 1⟩ }) = true := by decide +kernel

/-- R11, R12, R243, R246, R378, R387, R400, R408, R410: what an event or a command names exists. -/
theorem test_illFormed_events :
    refuses (.barrelIssue 15359) (.barrelIssue 15360) = true ∧
    refuses (.mmacWrite 2) (.mmacWrite 1) = true ∧
    refuses (.migrationQueueGrant 5119) (.migrationQueueGrant 5120) = true ∧
    refuses (.icacheFill ⟨5, [0], 0, false, false⟩) (.icacheFill ⟨2 ^ 49, [0], 0, false, false⟩) = true ∧
    refuses (.l1WriteBack 0 5) (.l1WriteBack 0 (2 ^ 49)) = true ∧
    refuses (.retentionEntry 81919) (.retentionEntry 81920) = true ∧
    refuses (.softError ⟨.scalar 1 127, 1, false⟩) (.softError ⟨.scalar 1 128, 1, false⟩) = true ∧
    refuses (.softError ⟨.dramLine 5 15, 1, false⟩) (.softError ⟨.dramLine 5 16, 1, false⟩) = true ∧
    refuses (.softError ⟨.icacheLine 5119 5, 1, false⟩) (.softError ⟨.icacheLine 5120 5, 1, false⟩) = true ∧
    refuses (.inboundRequest ⟨7, 0, none, 4, none, false, 1⟩) (.inboundRequest ⟨7, 0, none, 0, none, false, 1⟩) = true ∧
    refuses (.cxlPortDown 7) (.cxlPortDown 8) = true ∧ refuses (.hostLinkDown 1) (.hostLinkDown 2) = true ∧
    refuses (.thermalSample (List.replicate 64 50)) (.thermalSample [50]) = true ∧
    refuses (.carrLinkRequest ⟨2, 1, 0, .read 8⟩) (.carrLinkRequest ⟨64, 1, 0, .read 8⟩) = true ∧
    refuses (.extentEviction 3) (.extentEviction 4) = true ∧ refuses (.commandComplete 7) (.commandComplete 8) = true ∧
    refuses (.ident ⟨7, 0, 1, [0, 64]⟩) (.ident ⟨8, 0, 1, [0, 64]⟩) = true ∧
    refuses (.unknownCmd 20 ⟨0, 0, 1, []⟩) (.unknownCmd 19 ⟨0, 0, 1, []⟩) = true ∧
    refuses (.unknownCmd 65535 ⟨0, 0, 1, []⟩) (.unknownCmd 65536 ⟨0, 0, 1, []⟩) = true := by decide +kernel

/-! ## The decoder refuses by name -/

/-- R72, R76, R89, R93: an unassigned major, a length that the major does not allow, an unlisted minor function, a missing word; R77: the
reserved bit reaches the field check. -/
theorem test_decode_refuses :
    decode [0] = .illegal ∧ decode [0x28] = .illegal ∧ decode [0x390] = .illegal ∧
    decode [0x00000486, 0, 0] = .illegal ∧ decode [0x00000005, 0, 0] = .illegal ∧ decode [0x00000006, 0] = .illegal ∧
    decode [0x90000008] = .badFn .base ∧ decode [0xD000021E, 0, 0] = .badFn .vec ∧ decode [0x50000382, 0, 0] = .badFn .xfer ∧
    (∃ i, decode [0x0000009A, 0, 1] = .instr i ∧ checkFields .p16 i = .illegal) := by
  refine ⟨?_, ?_, ?_, ?_, ?_, ?_, ?_, ?_, ?_, .nop { Fields.zero with form := .ext, rsv := true }, ?_, ?_⟩ <;> decide +kernel

/-! ## Scalar instructions (R103 to R116) -/

/-- s1 after an instruction whose sources s2 and s3 hold `x` and `y`. -/
def scalarOp (mk : Fields → Instr) (x y : Word) (g : Fields → Fields := id) : Option Word :=
  regAfter (mk (legal mk g)) (fun u => (u.setReg 2 x).setReg 3 y) 1
/-- s1 after an instruction with an immediate, whose source s2 holds `x`. -/
def immediateOp (mk : Fields → Instr) (x : Word) (imm : BitVec 22) : Option Word := scalarOp mk x 0 fun f => { f with imm := imm }

theorem test_add_saturates : scalarOp .add 100 100 (fun f => { f with ty := 1, sat := true }) = some 127 := by decide +kernel
theorem test_add_sets_SAT : unitAfter (.add (legal .add fun f => { f with ty := 1, sat := true }))
    (ready (.add (legal .add)) fun u => (u.setReg 2 100).setReg 3 100) (fun u => u.stat.getLsbD 5) = some true := by decide +kernel
theorem test_sub_saturates_unsigned : scalarOp .sub 3 5 (fun f => { f with ty := 17, sat := true }) = some 0 := by decide +kernel
theorem test_sub_wraps : scalarOp .sub 3 5 = some 0xFFFFFFFFFFFFFFFE := by decide +kernel
theorem test_mul_wraps : scalarOp .mul 0x8000000000000001 2 = some 2 := by decide +kernel
theorem test_mulh : scalarOp .mulh 0xFFFFFFFFFFFFFFFF 1 = some 0xFFFFFFFFFFFFFFFF := by decide +kernel
theorem test_mulhn : scalarOp .mulhn 0xFFFFFFFFFFFFFFFF 0xFFFFFFFFFFFFFFFF = some 0xFFFFFFFFFFFFFFFE := by decide +kernel
theorem test_div_by_zero : scalarOp .div 7 0 = some 0xFFFFFFFFFFFFFFFF := by decide +kernel
theorem test_div_truncates : scalarOp .div (-7) 2 = some (-3) := by decide +kernel
theorem test_divn : scalarOp .divn 0xFFFFFFFFFFFFFFFF 2 = some 0x7FFFFFFFFFFFFFFF := by decide +kernel
theorem test_rem_sign : scalarOp .rem (-7) 2 = some (-1) := by decide +kernel
theorem test_remn_by_zero : scalarOp .remn 7 0 = some 7 := by decide +kernel
theorem test_logic : scalarOp .andR 12 10 = some 8 ∧ scalarOp .orR 12 10 = some 14 ∧ scalarOp .xorR 12 10 = some 6 ∧
    scalarOp .andn 12 10 = some 4 ∧ scalarOp .orn 12 10 = some (-3) := by decide +kernel
theorem test_clmul : scalarOp .clmul 3 3 = some 5 ∧ scalarOp .clmulh 0x8000000000000000 2 = some 1 := by decide +kernel
theorem test_shifts : scalarOp .shl 1 65 = some 2 ∧ scalarOp .shr 0x8000000000000000 63 = some 1 ∧
    scalarOp .sar 0x8000000000000000 63 = some (-1) ∧ scalarOp .rol 0x8000000000000001 1 = some 3 ∧
    scalarOp .ror 1 1 = some 0x8000000000000000 := by decide +kernel
theorem test_min_max : scalarOp .minR (-1) 1 = some (-1) ∧ scalarOp .maxR (-1) 1 = some 1 ∧ scalarOp .minn (-1) 1 = some 1 ∧
    scalarOp .maxn (-1) 1 = some (-1) := by decide +kernel
theorem test_counts : scalarOp .clz 1 0 = some 63 ∧ scalarOp .ctz 8 0 = some 3 ∧ scalarOp .ctz 0 0 = some 64 ∧
    scalarOp .popc 0xFF0 0 = some 8 := by decide +kernel
theorem test_bswap : scalarOp .bswap 0x0102030405060708 0 = some 0x0807060504030201 := by decide +kernel
theorem test_mov : scalarOp .mov 77 0 = some 77 := by decide +kernel
theorem test_bit_fields : scalarOp .bfx 0xAB 0 (fun f => { f with c := 4, d := 4 }) = some 0xA ∧
    scalarOp .bfxs 0xAB 0 (fun f => { f with c := 4, d := 4 }) = some (-6) ∧
    scalarOp .bfi 0xF3 0 (fun f => { f with c := 4, d := 4 }) = some 0x37 := by decide +kernel
theorem test_sel : scalarOp .sel 0 5 = some 9 ∧ scalarOp .sel 0 5 (fun f => { f with b := 0 }) = some 5 := by decide +kernel
theorem test_immediates : immediateOp .addImm 5 0xFF = some 4 ∧ immediateOp .mulImm 5 0xFE = some (-10) ∧
    immediateOp .andImm 0x1FF 0xF0 = some 0x1F0 ∧ immediateOp .orImm 1 0x80 = some 0xFFFFFFFFFFFFFF81 ∧
    immediateOp .xorImm 5 0xFF = some (-6) ∧ immediateOp .shlImm 1 63 = some 0x8000000000000000 ∧
    immediateOp .shrImm 0x8000000000000000 63 = some 1 ∧ immediateOp .sarImm 0x8000000000000000 63 = some (-1) ∧
    immediateOp .rolImm 0x8000000000000001 1 = some 3 ∧ immediateOp .rorImm 1 1 = some 0x8000000000000000 ∧
    immediateOp .li 0 0xFF = some (-1) := by decide +kernel
theorem test_li_literal : scalarOp .li 0 0 (fun f => { f with form := .extLit, lit := 0x0123456789ABCDEF }) =
    some 0x0123456789ABCDEF := by decide +kernel
theorem test_lea : scalarOp .lea 0x1000 3 (fun f => { f with c := 3, fn := 3, imm := 0xFF }) = some 0x1017 := by decide +kernel

/-- The guard g1 after an instruction. -/
def guardAfter (mk : Fields → Instr) (x y : Word) (g : Fields → Fields := id) : Option Bool :=
  unitAfter (mk (legal mk g)) (ready (mk (legal mk g)) fun u => (u.setReg 2 x).setReg 3 y) fun u => u.guardOf 1
theorem test_cmp : guardAfter .cmp (-1) 1 (fun f => { f with fn := 2 }) = some true ∧
    guardAfter .cmp (-1) 1 (fun f => { f with fn := 6 }) = some false ∧
    guardAfter .cmpImm 5 0 (fun f => { f with fn := 9, imm := 0xFF }) = some false := by decide +kernel
theorem test_tst : guardAfter .tstZ 5 2 = some true ∧ guardAfter .tstNz 5 4 = some true := by decide +kernel
theorem test_gop : guardAfter .gop 0 0 (fun f => { f with fn := 6, b := 0, c := 0 }) = some true ∧
    guardAfter .gop 0 0 (fun f => { f with fn := 3, b := 0, c := 2 }) = some true ∧
    guardAfter .gop 0 0 (fun f => { f with fn := 5, b := 0, c := 0 }) = some false := by decide +kernel

/-- R111: aperture codes; R112: the shared alias of the own scratchpad. The unit runs on tile 0. -/
theorem test_apertures : scalarOp .tsta 0xF000000000001010 0 = some 1 ∧ scalarOp .tsta 0x200000 0 = some 0 ∧
    scalarOp .cvta 0xF000000000001010 0 (fun f => { f with fn := 2 }) = some 0xF100000000001010 ∧
    scalarOp .cvta 0xF000000000001010 0 (fun f => { f with fn := 0 }) = some (-1) := by decide +kernel

/-! ## Control, system and special registers (R117 to R128) -/

/-- The PC after an instruction of the base form at 0x200000. -/
def pcAfter (i : Instr) (g : Ctx → Ctx := id) : Option Word := unitAfter i (ready i g) fun u => u.pc
theorem test_branches : pcAfter (.br { Fields.zero with imm := 0x3FFFFD }) = some 0x1FFFF4 ∧
    pcAfter (.call { Fields.zero with imm := 4 }) = some 0x200010 ∧
    pcAfter (.bg { Fields.zero with imm := 4, ga := ⟨true, 2⟩ }) = some 0x200010 ∧
    pcAfter (.bg { Fields.zero with imm := 4, ga := ⟨false, 2⟩ }) = some 0x200004 ∧
    pcAfter (.loop { Fields.zero with imm := 0xFFFC, a := 3 }) = some 0x1FFFF0 ∧
    pcAfter (.loop { Fields.zero with imm := 0xFFFC, a := 3 }) (fun u => u.setReg 3 1) = some 0x200004 := by decide +kernel
theorem test_register_jumps : pcAfter (.jmp (legal .jmp)) (fun u => u.setReg 2 0x200103) = some 0x200100 ∧
    pcAfter (.ret (legal .ret)) (fun u => u.setReg 2 0x200103) = some 0x200100 := by decide +kernel
theorem test_callReg_target_before_link : pcAfter (.callReg (legal .callReg fun f => { f with b := 31 }))
    (fun u => u.setReg 31 0x200100) = some 0x200100 := by decide +kernel
theorem test_call_links : regAfter (.call { Fields.zero with imm := 4 }) id 31 = some 0x200004 := by decide +kernel
theorem test_false_guard : unitAfter (.add (legal .add fun f => { f with ga := ⟨false, 2⟩ }))
    (ready (.add (legal .add fun f => { f with ga := ⟨false, 2⟩ }))) (fun u => (u.reg 1, u.pc)) = some (7, 0x20000C) := by decide +kernel
theorem test_rdsr : regAfter (.rdsr (legal .rdsr fun f => { f with b := 10 })) id 1 = some 0x13F ∧
    regAfter (.rdsr (legal .rdsr fun f => { f with b := 2 })) id 1 = some 0 := by decide +kernel
theorem test_wrsr_stat : unitAfter (.wrsr (legal .wrsr fun f => { f with a := 13, b := 3 }))
    (ready (.wrsr (legal .wrsr fun f => { f with a := 13, b := 3 })) fun u => u.setReg 3 (-1)) (fun u => u.stat) =
    some 0x1000F3F := by decide +kernel

/-! A trap in slot 1 parks the unit with its resume PC (R330). -/

theorem test_trap_parks : after (.trap (legal .trap fun f => { f with imm := 9 }))
    (inSlot1 (ready (.trap (legal .trap fun f => { f with imm := 9 })))) (fun t => some (t.slotAt 33).mode) =
    some (.parked (.trap 0x20000C)) := by decide +kernel
theorem test_brk_parks : after (.brk (legal .brk)) (inSlot1 (ready (.brk (legal .brk)))) (fun t => some (t.slotAt 33).mode) =
    some (.parked (.trap 0x20000C)) := by decide +kernel
theorem test_chk : after (.chk (legal .chk fun f => { f with imm := 8 }))
    (inSlot1 (ready (.chk (legal .chk fun f => { f with imm := 8 })) fun u => { u with
      bounds := [(1, ⟨0xF000000000001000, 0xF000000000001017⟩)] })) (fun t => some (t.slotAt 33).mode) =
    some (.parked (.trap 0x200000)) := by decide +kernel
theorem test_illegal_field_traps : after (.add (legal .add fun f => { f with a := 40 }))
    (inSlot1 (ready (.add (legal .add)))) (fun t => some (t.slotAt 33).mode) = some (.parked (.trap 0x200000)) := by decide +kernel
theorem test_nop : pcAfter (.nop { Fields.zero with form := .base }) = some 0x200004 := by decide +kernel

/-! ## Memory (R130 to R157) -/

/-- Bytes 0x85 0x96 0x03 0xF4 stand at 0x1010 of the scratchpad of tile 0, where s2 points. -/
def withBytes (s : State) : State :=
  match s.keysOf (unitOf s) 0 0xF000000000001010 1 with
  | some (k :: _) => s.modStore fun m => { m with mem := FMap.setMany 0 m.mem k [0x85, 0x96, 0x03, 0xF4] }
  | _ => s
/-- What the reply to an instruction of the unit in slot 0 of core 2 will write. -/
def replyOf (i : Instr) (s : State) : Option (List RegWrite) := after i s fun t =>
  match (t.slotAt 32).mode with
  | .waiting (.reply r) _ => some r.writes
  | _ => none
def loads (mk : Fields → Instr) (g : Fields → Fields := id) : Option (List RegWrite) :=
  replyOf (mk (legal mk g)) (withBytes (ready (mk (legal mk g))))
theorem test_loads_extend : loads .ldI8 = some [.scalar 1 0xFFFFFFFFFFFFFF85] ∧ loads .ldN8 = some [.scalar 1 0x85] ∧
    loads .ldI16 = some [.scalar 1 0xFFFFFFFFFFFF9685] ∧ loads .ldN16 = some [.scalar 1 0x9685] ∧
    loads .ldI32 = some [.scalar 1 0xFFFFFFFFF4039685] ∧ loads .ldN32 = some [.scalar 1 0xF4039685] ∧
    loads .ldI64 = some [.scalar 1 0xF4039685] := by decide +kernel
theorem test_ldp : loads .ldp (fun f => { f with imm := 0 }) = some [.scalar 1 0xF4039685, .scalar 4 0] := by decide +kernel
/-- R86: the displacement counts units of the access. -/
theorem test_ld_displacement : loads .ldN16 (fun f => { f with imm := 1 }) = some [.scalar 1 0xF403] := by decide +kernel
/-- R139, R135: a store enters the buffer and its bytes reach memory when the entry is performed. -/
theorem test_store_performed :
    (after (.st16 (legal .st16)) (withBytes (ready (.st16 (legal .st16)) fun u => u.setReg 1 0xABCD)) fun t =>
      after (.storeBufferEntryPerformed 2) t fun v => (v.keysOf (unitOf (ready (.st16 (legal .st16)))) 0 0xF000000000001010 4).map
        fun ks => ks.map v.byteAt) = some [0xCD, 0xAB, 0x03, 0xF4] := by decide +kernel
/-- The bytes at 0x1010 after an instruction. -/
def bytesAfter (i : Instr) (s : State) : Option (List Byte) := after i s fun t =>
  (t.keysOf (unitOf s) 0 0xF000000000001010 4).map fun ks => ks.map t.byteAt
def amo (mk : Fields → Instr) (y : Word) (g : Fields → Fields := id) : Option (List Byte) :=
  let i := mk (legal mk fun f => g { f with ty := 19 })
  bytesAfter i (withBytes (ready i fun u => u.setReg 3 y))
theorem test_amo_integer : amo .amoAdd 0x10000000 = some [0x85, 0x96, 0x03, 0x04] ∧ amo .amoAnd 0xFF = some [0x85, 0, 0, 0] ∧
    amo .amoOr 0x7A = some [0xFF, 0x96, 0x03, 0xF4] ∧ amo .amoXor 0xF4000000 = some [0x85, 0x96, 0x03, 0] ∧
    amo .amoMin 1 = some [0x85, 0x96, 0x03, 0xF4] ∧ amo .amoMax 1 = some [1, 0, 0, 0] ∧ amo .amoMinn 1 = some [1, 0, 0, 0] ∧
    amo .amoMaxn 1 = some [0x85, 0x96, 0x03, 0xF4] ∧ amo .amoSwap 2 = some [2, 0, 0, 0] := by decide +kernel
theorem test_amo_cas : amo .amoCas 0xF4039685 = some [9, 0, 0, 0] ∧ amo .amoCas 1 = some [0x85, 0x96, 0x03, 0xF4] := by decide +kernel
theorem test_amo_answers_old : replyOf (.amoSwap (legal .amoSwap fun f => { f with ty := 3 }))
    (withBytes (ready (.amoSwap (legal .amoSwap fun f => { f with ty := 3 })))) =
    some [.scalar 1 0xFFFFFFFFF4039685, .flags 0] := by decide +kernel
/-- R154, R155: a post is performed from the buffer; a wait takes one. -/
theorem test_sem : (after (.semPost (legal .semPost)) (ready (.semPost (legal .semPost))) fun t =>
      after (.semPostPerformed 2) t fun v => some (v.semAt 0 0)) = some 1 ∧
    (after (.semTry (legal .semTry)) (ready (.semTry (legal .semTry))) fun t => some (t.semAt 0 0, ((t.unitAt ⟨2, 0⟩).map
      fun u => u.guardOf 1))) = some (0, some false) := by decide +kernel
/-- R150: the last of one arrival empties ARRIVED and raises GEN; the bytes read EXPECTED 0, ARRIVED 0, GEN 0xF4039685. -/
theorem test_bar_arrive : bytesAfter (.barArrive (legal .barArrive)) (withBytes (ready (.barArrive (legal .barArrive)))) =
    some [0x86, 0x96, 0x03, 0xF4] := by decide +kernel
theorem test_cnt_add : bytesAfter (.cntAdd (legal .cntAdd fun f => { f with a := 2, b := 3, ord := 1 }))
    (withBytes (ready (.cntAdd (legal .cntAdd fun f => { f with a := 2, b := 3, ord := 1 })))) =
    some [0x8A, 0x96, 0x03, 0xF4] := by decide +kernel

/-! ## Vectors and tiles -/

/-- v5, v6 and v7 hold F32 rows: lane 0 of v5 is 1.5, lanes 0 and 1 of v6 are 2.0 and 1.0. -/
def floats (u : Ctx) : Ctx :=
  ((u.setRow 5 0x3FC00000 6).setRow 6 0x3F80000040000000 6).setRow 7 0x3F80000040000000 6
/-- Lane `n` of v4 after an instruction on F32 rows. -/
def laneAfter (mk : Fields → Instr) (n : Nat) : Option Nat :=
  let i := mk (legal mk fun f => { f with ty := 6 })
  unitAfter i (ready i floats) fun u => laneAt (u.row 4).toNat 32 n
theorem test_vadd : laneAfter .vadd 0 = some 0x40600000 ∧ laneAfter .vadd 1 = some 0x3F800000 := by decide +kernel
theorem test_vsub : laneAfter .vsub 0 = some 0xBF000000 := by decide +kernel
theorem test_vmul : laneAfter .vmul 0 = some 0x40400000 := by decide +kernel
theorem test_vfma : laneAfter .vfma 0 = some 0x40A00000 ∧ laneAfter .vfms 0 = some 0x3F800000 := by decide +kernel
theorem test_vneg : laneAfter .vneg 0 = some 0xBFC00000 ∧ laneAfter .vabs 0 = some 0x3FC00000 := by decide +kernel
theorem test_vmin : laneAfter .vmin 0 = some 0x3FC00000 ∧ laneAfter .vmax 0 = some 0x40000000 := by decide +kernel

/-- The example of R178: lanes 0 to 3 of v5 hold 2^24, 1, 1 and 1, and m1 selects them. -/
def tree (u : Ctx) : Ctx := { u.setRow 5 0x3F8000003F8000003F8000004B800000 6 with masks := FMap.set 0 u.masks 1 0xF }
theorem test_vred_example : regAfter (.vred (legal .vred fun f => { f with ty := 6, lmask := 1 })) tree 1 =
    some 0x000000004B800001 := by decide +kernel
theorem test_vscan_example : unitAfter (.vscan (legal .vscan fun f => { f with ty := 6, lmask := 1 }))
    (ready (.vscan (legal .vscan fun f => { f with ty := 6, lmask := 1 })) tree)
    (fun u => (List.range 5).map (laneAt (u.row 4).toNat 32)) =
    some [0x4B800000, 0x4B800000, 0x4B800000, 0x4B800000, 0] := by decide +kernel

/-- The example of R177: `vrot.f32.pz v8, v9, #8, m2` with bits 0 to 31 of m2; here lane 31 of v9 is 1.0 and lane 32 is 2.0. -/
def rot (pz : Bool) : Instr := .vrot { ext with a := 8, b := 9, c := 0xFF, imm := 8, ty := 6, lmask := 2, pz := pz }
def rotated (u : Ctx) : Ctx :=
  { u.setRow 9 (BitVec.ofNat 2048 (0x3F800000 * 2 ^ 992 + 0x40000000 * 2 ^ 1024)) 6 with masks := FMap.set 0 u.masks 2 0xFFFFFFFF }
theorem test_vrot_example : unitAfter (rot true) (ready (rot true) rotated)
    (fun u => ([22, 23, 24, 31, 32].map (laneAt (u.row 8).toNat 32))) = some [0, 0x3F800000, 0, 0, 0] := by decide +kernel
theorem test_vrot_faults : after (rot false) (inSlot1 (ready (rot false) rotated)) (fun t => some ((t.slotAt 33).mode,
    (t.slotAt 33).unit.map fun u => u.row 8)) = some (.parked (.trap 0x200000), some 0) := by decide +kernel

/-- R167, R173, R174, R176, R181, R182: lanes of I16 rows. -/
def shorts (u : Ctx) : Ctx :=
  { (((u.setRow 4 0 2).setRow 5 0x000380FF0010 2).setRow 6 0x000100020001 2).setRow 7 0x000700080009 2 with
    masks := FMap.set 0 u.masks 2 5 }
def shortsAfter (mk : Fields → Instr) (g : Fields → Fields := id) : Option (List Nat) :=
  let i := mk (legal mk fun f => g { f with ty := 2 })
  unitAfter i (ready i shorts) fun u => (List.range 3).map (laneAt (u.row 4).toNat 16)
theorem test_lane_shifts : shortsAfter .vshl = some [0x20, 0x03FC, 6] ∧ shortsAfter .vshr = some [8, 0x203F, 1] ∧
    shortsAfter .vsar = some [8, 0xE03F, 1] := by decide +kernel
theorem test_lane_counts : shortsAfter .vpopc = some [1, 9, 2] ∧ shortsAfter .vclz = some [11, 0, 14] := by decide +kernel
theorem test_vsel : shortsAfter .vsel (fun f => { f with b := 2 }) = some [1, 8, 1] := by decide +kernel
theorem test_vbc : shortsAfter .vbc = some [0x1010, 0x1010, 0x1010] := by decide +kernel
theorem test_vperm : shortsAfter .vperm = some [0x80FF, 3, 0x80FF] := by decide +kernel
theorem test_vshuf : shortsAfter .vshuf (fun f => { f with imm := 4, c := 0 }) = some [0x80FF, 0x0010, 0] := by decide +kernel
theorem test_vext : regAfter (.vext (legal .vext fun f => { f with ty := 2 })) (fun u => (shorts u).setReg 3 1) 1 =
    some 0xFFFFFFFFFFFF80FF := by decide +kernel
theorem test_vcmp : unitAfter (.vcmp (legal .vcmp fun f => { f with ty := 2, fn := 2 }))
    (ready (.vcmp (legal .vcmp fun f => { f with ty := 2, fn := 2 })) shorts) (fun u => (u.maskOf 2).toNat % 8) = some 2 := by decide +kernel
theorem test_vtag : regAfter (.vtag (legal .vtag)) shorts 1 = some 2 := by decide +kernel
/-- R182: bits [15:0] of the result count the mask's bits, and the next field holds the lowest set bit's index. -/
theorem test_mcnt : regAfter (.mcnt (legal .mcnt fun f => { f with b := 3 }))
    (fun u => { u with masks := FMap.set 0 u.masks 3 0b1100 }) 1 = some 0x20002 := by decide +kernel
/-- R200: `mclr` answers 0 for a tile with no carry and no mark. -/
theorem test_mclr : regAfter (.mclr (legal .mclr)) id 1 = some 0 := by decide +kernel
/-- R197: 3 · 5 + (-2) · 7 added to 10; a sum above the range is clamped and marked. -/
theorem test_mac_plain : macPlain 1 10 (dotProduct ([3, 254].map (matValue 1)) ([5, 7].map (matValue 1))) = (11, 0, false) ∧
    macPlain 1 0x7FFFFFFF (dotProduct ([1].map (matValue 1)) ([1].map (matValue 1))) = (0x7FFFFFFF, flSAT, true) := by decide +kernel

/-! ## Engines, work and firmware -/

/-- R217: a copy of length 0 ends at once with 0; one of 2^40 or more with the error token of code 7. -/
theorem test_cp_lengths : regAfter (.cp (legal .cp fun f => { f with e := 0xFF })) (fun u => u.setReg 4 0) 1 = some 0 ∧
    regAfter (.cp (legal .cp fun f => { f with e := 0xFF })) (fun u => u.setReg 4 0x10000000000) 1 =
      some 0x8000000000000007 := by decide +kernel
theorem test_cp_pends : unitAfter (.cp (legal .cp fun f => { f with e := 0xFF }))
    (ready (.cp (legal .cp fun f => { f with e := 0xFF }))) (fun u => u.pend) = some [1] := by decide +kernel
/-- R227: an unbound window reads as ABSENT with no code. -/
theorem test_tok_test : guardAfter .tokTest 1 1 = some true := by decide +kernel
theorem test_msg_recv_empty : regAfter (.msgRecv (legal .msgRecv fun f => { f with c := 3 })) id 1 =
    some 0x8000000000000001 := by decide +kernel
/-- R238: a handle that names nothing. -/
theorem test_cancel_nothing : regAfter (.cancel (legal .cancel)) (fun u => u.setReg 2 99) 1 = some 1 := by decide +kernel
/-- R240: an empty slot. -/
theorem test_ctx_reap_empty : regAfter (.ctxReap (legal .ctxReap fun f => { f with b := 5 })) id 1 = some 1 := by decide +kernel
theorem test_quiet_wait_returns : after (.quietWait (legal .quietWait)) (ready (.quietWait (legal .quietWait)) fun u =>
    u.setWeight (some 3)) (fun t => (t.unitAt ⟨2, 0⟩).map fun u => u.weight) = some none := by decide +kernel

/-- The reply of a command on channel 1, and its status. -/
def answered (i : Instr) (s : State) : Option (Option Nat × List Word) := after i s fun t =>
  some ((t.chan 1).result, (t.chan 1).reply)
/-- R401: an unassigned command code has the status 1. -/
theorem test_unknown_command : answered (.unknownCmd 64 ⟨1, 0, 5, []⟩) State.reset = some (some 1, []) := by decide +kernel
/-- R402: while the channel is busy a doorbell is dropped and counted. -/
theorem test_doorbell_busy : after (.attest ⟨1, 0, 5, []⟩) (State.reset.setChan 1 { Channel.fresh with busy := true })
    (fun t => some (t.chan 1).drop) = some 1 := by decide +kernel

end Sys2Proof.Tests
end

