-- ==== Sys2Proof/Tests/WitnessEvents.lean ====
section
/-!
SUPPORT. States that meet the hypotheses of the statements about the events of the machine and about decoding, the step and the reset
state. Each theorem is named after its statement, with one part for each clause.
-/
namespace Sys2Proof.Tests.EventsWitness

open Sys2Proof Sys2Proof.Machine

set_option Elab.async false

/-- A state with one unit in slot 0 of core 2, no slot issuing and nothing due. -/
def quietState : State := { ready (.nop ext) with issuing := none, agenda := [] }
def unit0 : Ctx := unitOf (ready (.nop ext))
/-- The unit of core 2, changed by `g`, in a slot and a mode. -/
def inSlot (k : Nat) (m : SlotMode) (g : Ctx → Ctx := id) (s : State := quietState) : State := s.setSlot k ⟨m, none, some (g unit0)⟩
def halt (s : State) : State := s.modFirm fun f => { f with tenants := f.tenants.map fun t => { t with halted := true } }
def failing (u : Ctx) : Ctx := { u with failed := some ⟨{ cause := 7 }, 3, 4⟩ }
def migrating : State := inSlot 32 (.migrating 17 0) id (quietState.setSlot 17 ⟨.incoming 32, none, none⟩)
def queued (e : Ext) : State := withQueued quietState
where
  withQueued (s : State) : State := s.setSlot 36 { Slot.empty with unit := some { unit0 with key := 77 }, mode := .waiting (.queue e) 0 }
/-- A unit whose code line is absent waits for it. -/
def elsewhere (u : Ctx) : Ctx := { u with pc := 0x210000 }
def only (k : Nat) (m : SlotMode) : State := quietState.modFab fun f => { f with slots := [(k, ⟨m, none, some unit0⟩)] }

theorem witness_BarrelEvents :
    quietState.pickSlot 1 = none ∧
    ((inSlot 32 (.ready 0)).pickSlot 2 = some 0 ∧ (inSlot 32 (.ready 0)).fetchWaits ⟨2, 0⟩ unit0 = none ∧ unit0.failed = none ∧ unit0.deferred = none) ∧
    ((inSlot 32 (.ready 0) failing).pickSlot 2 = some 0 ∧ (failing unit0).failed.isSome = true) ∧
    ((inSlot 32 (.ready 0) elsewhere).pickSlot 2 = some 0 ∧ (elsewhere unit0).failed = none ∧ (elsewhere unit0).deferred = none ∧
      ((inSlot 32 (.ready 0) elsewhere).fetchWaits ⟨2, 0⟩ (elsewhere unit0)).isSome = true) ∧
    (∀ demand ∈ [true, false], let y := (quietState.findLine (0x200000 / 128) 1 ⟨0, quietState.ownerOf 0⟩ (if demand then 2 else 3)).1
      (y.extentAt (extentOf (0x200000 / 128 * 128))).state = .present ∧
      (match y.openHome ⟨0, coreOf 0 0, 0, 0, (y.ownerOf 0).getD 0, 0⟩ (0x200000 / 128) 0 0 with
      | .ok _ [] => true
      | _ => false) = true) ∧
    (FMap.wf Slot.empty migrating.fab.slots = true ∧ migrating.findUnit unit0.key = some (32, migrating.slotAt 32, unit0) ∧
      (migrating.slotAt 32).mode = .migrating 17 0 ∧ (migrating.slotAt 17).unit = none ∧
      migrating.haltedTag unit0.tag = false) ∧
    ((halt quietState).haltedTile 0 = true ∧ quietState.haltedTile 0 = false) ∧
    (quietState.nextGrant 0 = none ∧ quietState.migrationCycle 0 = none) ∧
    ((queued .xfer).nextGrant 0).isSome = true ∧ (queued .xfer).haltedTile 0 = false ∧ (only 32 (.ready 0)).haltedTag unit0.tag = false ∧
    (∀ m ∈ [SlotMode.waiting (.sleep (some 0) 0x200004) 0, .waiting (.realign 0 [9] 0x200004) 0],
      (only 32 m).fab.slots = [(32, ⟨m, none, some unit0⟩)]) := by decide +kernel

def weightReturn (k : Nat) (m : Mark) (unit : Nat) : WeightReturn := { phase := ⟨1, 1⟩, exp := k, mark := m, unit := unit, launch := 0, upto := 9 }
/-- The phase of the unit: its depth, what it expects and what has come back. -/
def phase (d e r : Nat) (s : State := quietState) : State := s.modWork fun w => { w with phases := [⟨⟨1, 1⟩, d, e, r, false, false, 0⟩] }
def idleUnit : Ctx := { unit0 with idle := true, backoff := 256 }
def idle (n : Nat) (s : State) : State := inSlot 32 (.waiting (.idleRound n) 0) (fun _ => idleUnit) s
def withWork (s : State) : State := s.modFab fun f => { f with
  deques := FMap.set [] f.deques 2 [⟨1, 1, 1, 1, unit0.uid, 0xF000000000003000, 0x200040, 0, none⟩] }
/-- The phase of the unit, and a post of an ended poster that waits for its segment. -/
def postedBy (since : Nat) (s : State) : State := s.modWork fun w => { w with posts := [⟨3, since, 40, ⟨⟨1, 1⟩, 1, 0, 0x200040⟩⟩] }
def posted : Task := ⟨⟨1, 1⟩, 1, 0, 0x200040⟩
/-- A store of the parked unit, numbered 3, is held in its image. -/
def held (s : State) : State := inSlot 32 (.parked (.trap 0)) (fun u => { u with
  held := [⟨3, s.who 2 u, ⟨1, 1⟩, 0x200000, 1, none, 0, .sem 1⟩] }) s
/-- An extent that moves. -/
def movingExtent (s : State) : State := s.setExtent 5 { Extent.none with
  state := .moving, owner := 1, inst := 1, place := .dram 0, ever := true }
/-- A store of the unit to it waits in the buffer. -/
def blockedStore (s : State) : State := (movingExtent s).modFab fun f => { f with
  sbuf := [⟨3, s.who 2 unit0, ⟨1, 1⟩, 0x200000, 1, none, 0, .bytes [⟨0, BitVec.ofNat 64 (5 * 2 ^ 21), [(5 * 2 ^ 21, 1)]⟩]⟩] }
/-- The entry that the worker finds lies where the placement of the extent makes it wait. -/
def farWork (s : State) : State := (movingExtent s).modFab fun f => { f with
  deques := FMap.set [] f.deques 2 [⟨1, 1, 1, 1, unit0.uid, 0xF000000000003000, 0x200040, 0, some (BitVec.ofNat 64 (5 * 2 ^ 21))⟩] }
/-- What an idle worker's round goes on with. -/
def round (s : State) : State × Ctx := if ¬ s.safeNow idleUnit then (s, idleUnit) else s.passSafe idleUnit
def finds (s : State) : Nat :=
  match (round s).1.findWork 2 (round s).2 with
  | .work .. => 1
  | .wait _ => 2
  | .none _ => 3
theorem witness_TaskEvents :
    (∀ ret ∈ [weightReturn 0 .none 0, weightReturn 3 .fault 0, weightReturn 1 .cancel 0], ret.unit = 0 ∧
      ((phase 3 8 0).modPhase ret.phase fun p => { p with
        ret := p.ret + 2 ^ (p.depth - ret.exp), fault := p.fault || ret.mark == .fault
        cancel := p.cancel || ret.mark == .cancel }).phaseQuiet ret.phase =
        decide (ret.exp = 0)) ∧
    (∀ p ∈ [(phase 3 8 0, false), (held (phase 3 8 0), true)], let s := p.1
      let ret := weightReturn 0 .none unit0.key
      (match s.drainList (s.fab.sbuf.filter fun e => ofParty ret e.who.unit e.launch && decide (e.num < ret.upto)) with
      | .ok t => t.writesLeft ret == p.2
      | _ => false) = true) ∧
    (let s := { blockedStore (phase 3 8 0) with ck := 3 }
     (match s.drainList (s.fab.sbuf.filter fun e => ofParty (weightReturn 0 .none unit0.key) e.who.unit e.launch && decide (e.num < 9)) with
      | .blocked _ => true
      | _ => false) = true) ∧
    (inSlot 32 (.waiting .borrow 0) id (phase 3 8 4)).haltedTag unit0.tag = false ∧
    ((inSlot 32 (.waiting .borrow 0) id (phase 3 8 4)).findUnit unit0.key).map (·.1) = some 32 ∧ 8 + 2 ^ (3 - 1) ≤ 2 ^ 128 - 1 ∧
    (∀ n ∈ [0, 1], let s := idle n (phase 3 8 4)
      s.findUnit unit0.key = some (32, ⟨.waiting (.idleRound n) 0, none, some idleUnit⟩, idleUnit) ∧ s.ck = 0) ∧
    ((round (halt (idle 0 (phase 3 8 4)))).1.haltedTag 1 = true ∧ (round (idle 0 (phase 3 8 4))).1.haltedTag 1 = false ∧
      (round (idle 0 (phase 3 8 4))).1.ck = 0 ∧ idleUnit.tag = 1) ∧
    (round (idle 0 (phase 3 8 8))).1.phaseQuiet unit0.phaseId = true ∧
    (∀ p ∈ [(id, 3), (withWork, 1), (farWork, 2)], (round (p.1 (idle 0 (phase 3 8 4)))).1.phaseQuiet unit0.phaseId = false ∧
      finds (p.1 (idle 0 (phase 3 8 4))) = p.2) ∧
    ((inSlot 32 (.waiting (.segmentFull 3 posted 0x200004) 0)).segAt 3).length < 4096 ∧
    ((inSlot 32 (.waiting (.segmentFull 3 posted 0x200004) 0)).oldestWaiter (fun _ w => match w with
      | .segmentFull x _ _ => decide (x = 3)
      | _ => false)).map (·.1) = some 32 ∧
    (quietState.oldestPost 3).isNone = true ∧ ((postedBy 5 quietState).oldestPost 3).map (fun q => (q.seg, earlier (q.since, q.slot) (0, 32))) =
      some (3, false) := by decide +kernel

/-- A full queue segment. -/
theorem witness_TaskEvents_full_segment : 4096 ≤ ((quietState.setSeg 3 (List.replicate 4096 posted)).segAt 3).length := by decide +kernel

def pendingUnit (bad : Bool) (core : Nat) : Pending := ⟨0, 0, some unit0, some 0x200004, core, some 32, quietState.dataSeal 1, bad⟩
def restoring (p : Pending) : State := (quietState.setSlot 32 ⟨.restoring unit0.key, none, none⟩).modWork fun w => { w with
  launches := w.launches.map fun l => { l with id := ⟨1, 2⟩, queue := [p] } }
def sliced : State := { quietState with ck := 9, work := { quietState.work with
  launches := quietState.work.launches.map fun l => { l with id := ⟨1, 2⟩, sliceEnd := 8, state := .placed } } }
def image : Image := ⟨0x200000, 1, 1, 1, [⟨0x200040, 0, 1, 1, 1, 1, false, 1, 1, 1, 0, .p16, 2, [], []⟩], [], [], [], []⟩
def running (left : Option Nat) : State := (quietState.modWork fun w => { w with runs := [⟨3, 1, 0x200000, left, 4, 1, []⟩] }).modStore fun m => { m with
  images := [image] }
def swapping (u : Option Nat) : State := quietState.modWork fun w => { w with swaps := [⟨1, 0, u⟩] }
def swapEmpty : State := (swapping none).modFab fun f => { f with slots := [] }
def hung : State :=
  let s := inSlot 33 (.waiting (.sem 3 0x200004) 0) id (inSlot 32 (.waiting (.sem 3 0x200004) 0))
  { s with ck := 4096, work := { s.work with jobs := s.work.jobs.map fun j => { j with idleFrom := 1 } } }
/-- A gang that gathers the slots of one tile, alone or beside an older gang that holds slots of it. -/
def gang : Launch := (quietState.work.launches.map fun l => { l with
  id := ⟨1, 7⟩, state := .gathering 0, ticket := some 5, queue := [⟨0, 0, none, none, 0, none, Seal.none, false⟩] }).headD
    ⟨⟨1, 7⟩, 1, 1, Desc.standing 1 0, 0, [], [], .waiting, 0, 0, none, none, [], 0, [], 0, 0, 0, none, none, 0, false, false, false⟩
def gathering (older : Option Nat) : State := quietState.modWork fun w => { w with launches := gang :: (match older with
  | some n => [{ gang with id := ⟨1, 6⟩, ticket := some n, reserved := (List.range 16).map (16 * coreOf 0 gang.desc.kind + ·) }]
  | none => []) }
theorem witness_LaunchAndSwapEvents :
    ((quietState.work.jobs.find? (fun j => decide (j.pid = 1))).isSome = true ∧ quietState.swapping 1 = false ∧
      (quietState.tenant 1).map (·.halted) = some false ∧ quietState.work.jobs.length = 1) ∧
    (quietState.work.jobs.find? (fun j => decide (j.pid = 5))).isNone = true ∧
    ((inSlot 32 (.parked (.taken (some 0x200004)))).findUnit unit0.key).map (fun p => p.2.1.mode) =
      some (.parked (.taken (some 0x200004))) ∧ quietState.haltedTag 1 = false ∧
    (∀ p ∈ [pendingUnit false 2, pendingUnit false 40, pendingUnit true 2],
      (restoring p).restoringUnit unit0.key = some (⟨1, 2⟩, p, unit0, 32) ∧
      (restoring p).haltedTag unit0.tag = false ∧ (restoring p).opens unit0.tag p.under false = true) ∧
    (restoring { pendingUnit false 2 with under := Seal.none }).opens unit0.tag Seal.none false = false ∧
    (sliced.work.launches.map (fun l => (l.id.handle, l.state, l.sliceEnd)) = [(2, .placed, 8)] ∧ 8 < sliced.ck ∧
      sliced.work.swaps = [] ∧ sliced.work.swapped = [] ∧ (sliced.job 1).isSome = true ∧ (sliced.tenant 1).map (·.halted) = some false) ∧
    (∀ l ∈ [some 0, some 2, none], ((running l).work.runs.find? (fun r => decide (r.id = 3))).map (·.left) = some l ∧
      ((running l).store.images.find? (fun i => decide (i.base = 0x200000))).isSome = true) ∧
    ((quietState.tenantOfPid 1).map (·.halted) = some false ∧ ((halt quietState).tenantOfPid 1).map (·.halted) = some true ∧ (quietState.work.swaps.find? (fun r => decide (r.pid = 1))).isNone = true) ∧
    ((swapping (some 0)).work.swaps.find? (fun r => decide (r.pid = 1))).map (·.until_) = some (some 0) ∧
    (swapEmpty.work.swaps.map (fun r => (r.until_, decide (r.deadline ≤ swapEmpty.ck))) = [(none, true)] ∧
      (swapEmpty.tenantOfPid 1).map (·.halted) = some false ∧ (swapEmpty.tenantOfPid 1).map (fun t => (swapEmpty.endUntaken t).fab.slots) = some []) ∧
    (hung.work.jobs.map (fun j => (j.idleFrom, j.hung, decide (j.idleFrom + 4095 ≤ hung.ck), hung.jobStuck j)) =
      [(1, none, true, true)]) ∧
    (let s := gathering none
     let l := gang
     let c := coreOf (l.desc.tileAt 0 0) l.desc.kind
     let ks := ((s.freeSlots c) ++ (s.emptySlots c).filter fun n => s.slotReserved (16 * c + n)).map (16 * c + ·)
     let mine := (ks.filter fun k => !l.reserved.contains k).take (l.need 0 - l.heldOn 0 0)
     s.launch gang.id = some gang ∧ s.partOf (l.desc.tileAt 0 0) = l.desc.part ∧ mine ≠ [] ∧ s.holders l mine = []) ∧
    (let s := gathering (some 1)
     let l := gang
     let c := coreOf (l.desc.tileAt 0 0) l.desc.kind
     let ks := ((s.freeSlots c) ++ (s.emptySlots c).filter fun n => s.slotReserved (16 * c + n)).map (16 * c + ·)
     let mine := (ks.filter fun k => !l.reserved.contains k).take (l.need 0 - l.heldOn 0 0)
     s.launch gang.id = some gang ∧ s.partOf (l.desc.tileAt 0 0) = l.desc.part ∧ (s.holders l mine).any (fun x =>
       decide (x.ticket.getD 0 < l.ticket.getD 0)) = true) :=
  ⟨by decide +kernel, by decide +kernel, by decide +kernel, by decide +kernel, by decide +kernel, by decide +kernel,
    by decide +kernel, by decide +kernel, by decide +kernel, by decide +kernel, by decide +kernel, by decide +kernel,
    by decide +kernel, by decide +kernel⟩

def bank (x : BankState) (ck : Nat) : State := { quietState with ck := ck, store := { quietState.store with banks := [(3, x)] } }
def extent (st : ExtState) (p : Place) : Extent := { Extent.none with
  state := st, owner := 1, inst := 1, place := p, ever := true, fill := ⟨1, 1, 0, false⟩ }
def moving : State := quietState.setExtent 5 { extent .moving (.dram 0) with target := .cxl 2 }
def requested : State := (quietState.setExtent 5 (extent .absent (.cxl 0))).modStore fun m => { m with requests := [⟨5, 0, false⟩] }
def dirtyLine : State := quietState.modStore fun m => { m with
  l1 := [⟨quietState.l1Of 0 (0x200000 / 128), 0x200000 / 128, 8, FMap.set none [] 3 (some 77), 1, 0, 0⟩] }
def rekeyed (sweep : Option Nat) : State := quietState.modFirm fun f => { f with
  tenants := f.tenants.map fun t => { t with period := 3, sweep := sweep } }
def sweptLate : State := (rekeyed (some 500)).modFirm fun f => { f with tenants := f.tenants.map fun t => { t with swept := 9 } }
def sealed : State := (rekeyed (some 500)).setSeal (0x200000 / 128) ⟨1, 1, 2, false⟩
def revoked : State := (inSlot 32 (.ready 0)).modFirm fun f => { f with
  revs := [⟨1, 0, 0, 5, [unit0.key], 0, none⟩] }
theorem witness_MemoryEvents :
    ((bank (.awake 2) 65538).bankAt 3 = .awake 2 ∧ 2 + 65536 ≤ (bank (.awake 2) 65538).ck ∧ (bank (.awake 2) 65537).ck < 2 + 65536) ∧
    ((bank (.awake 2) 65536).wayAt 5119 = .awake 0 ∧ 65536 ≤ (bank (.awake 2) 65536).ck) ∧
    (∀ x ∈ [BankState.exiting 2, .entering 2 false, .entering 2 true], (bank x 2).store.banks = [(3, x)] ∧ (bank x 2).store.ways = [] ∧ (bank x 2).store.errors = [] ∧ 2 ≤ (bank x 2).ck) ∧
    quietState.belowReserve 0 = false ∧
    ((moving.extentAt 5).state = .moving ∧ (moving.extentAt 5).target = .cxl 2 ∧
      moving.cutOff (moving.extentAt 5).place = false ∧ moving.cutOff (.cxl 2) = false ∧ moving.compacting 5 = []) ∧
    (∃ r, requested.nextRequest = some r ∧ (requested.extentAt r.extent).state = .absent ∧ (requested.bringIn r).isSome = true) ∧
    quietState.nextRequest.isNone = true ∧
    (dirtyLine.l1Copy (dirtyLine.l1Of 0 (0x200000 / 128)) (0x200000 / 128)).map (·.line) = some (0x200000 / 128) ∧
      (quietState.l1Copy (quietState.l1Of 0 (0x200000 / 128)) (0x200000 / 128)).isNone = true ∧
    ((sealed.tenant 1).map (fun t => ((sealed.sealOf (0x200000 / 128)).period, decide ((sealed.sealOf (0x200000 / 128)).renew t ≠
      sealed.sealOf (0x200000 / 128)))) = some (2, true) ∧ sealed.poisoned (0x200000 / 128) = false) ∧
    ((rekeyed (some 0)).tenant 1).map (fun t => (t.sweep, ((rekeyed (some 0)).nextExtent 1 0).map (fun e => e.2.state))) =
      some (some 0, some .present) ∧
    (((rekeyed (some 500)).tenant 1).map (fun t => decide (t.swept ≤ (rekeyed (some 500)).ck)) = some true ∧
      (sweptLate.tenant 1).map (fun t => (t.sweep, decide (sweptLate.ck < t.swept))) = some (some 500, true) ∧
      (sweptLate.nextExtent 1 500).isNone = true) ∧
    ((rekeyed (some 0)).setExtent 1 (extent .present (.peer 3))).nextExtent 1 0 = some (1, extent .present (.peer 3)) ∧
    (extent .present (.peer 3)).onPeer = true ∧ (extent .present (.dram 0)).onPeer = false ∧
    (((rekeyed (some 500)).setExtent 600 (extent .absent (.cxl 0))).nextExtent 1 500).map (fun e => (e.1, e.2.state)) = some (600, .absent) ∧
    ((rekeyed (some 500)).nextExtent 1 500).isNone = true ∧
    (revoked.firm.revs.map (fun r => (r.deadline, r.units)) = [(0, [unit0.key])] ∧ (revoked.ctxOf unit0.key).isSome = true) :=
  ⟨by decide +kernel, by decide +kernel, by decide +kernel, by decide +kernel, by decide +kernel, ⟨⟨5, 0, false⟩, by decide +kernel⟩, by decide +kernel,
    by decide +kernel, by decide +kernel, by decide +kernel, by decide +kernel, by decide +kernel, by decide +kernel, by decide +kernel⟩

def others : Nat × Extent := (9, extent .moving (.dram 0))
/-- Die 0 holds one extent that may be moved, and 65,535 that are moving already. -/
def crowded (n : Nat) : State := quietState.modStore fun m => { m with
  extents := (5, extent .present (.dram 0)) :: List.replicate n others }
theorem crowded_extents (n : Nat) : (crowded n).store.extents = (5, extent .present (.dram 0)) :: List.replicate n others := rfl
theorem crowded_free (n : Nat) : (crowded n).freeOnDie 0 = Config.dramExtents - (n + 1) := by
  have h5 : (extent .present (.dram 0)).onDie 0 = true := by decide
  have h9 : others.2.onDie 0 = true := by decide
  rw [State.freeOnDie, crowded_extents, List.filter_cons_of_pos (by exact h5), List.filter_replicate_of_pos (by exact h9)]
  simp
theorem crowded_tier (n : Nat) : (crowded n).tierPort = some 0 := by
  have h5 : (extent .present (.dram 0)).inTier = false := by decide
  have h9 : others.2.inTier = false := by decide
  rw [State.tierPort, crowded_extents, List.filter_cons_of_neg (by simp [h5]), List.filter_replicate_of_neg (by simp [h9])]
  have hc : (crowded n).firm = quietState.firm := rfl
  rw [hc]
  decide +kernel
theorem crowded_next (n : Nat) : (crowded n).evictNext 0 = some 5 := by
  have h5 : (crowded n).evictable 0 5 (extent .present (.dram 0)) = true := by
    have hw : (crowded n).waitedOn 5 = quietState.waitedOn 5 := rfl
    have ht : (crowded n).tenant 1 = quietState.tenant 1 := rfl
    rw [State.evictable, hw, show (extent .present (.dram 0)).owner = 1 from rfl, ht]
    decide +kernel
  have h9 : (crowded n).evictable 0 others.1 others.2 = false := by
    simp [State.evictable, others, extent]
  rw [State.evictNext, crowded_extents, List.filter_cons_of_pos (by exact h5), List.filter_replicate_of_neg (by simp [h9])]
  rfl
theorem witness_MemoryEvents_eviction : (crowded 65535).belowReserve 0 = true ∧ (crowded 65535).tierPort = some 0 ∧
    (crowded 65535).evictNext 0 = some 5 := by
  refine ⟨?_, crowded_tier _, crowded_next _⟩
  rw [State.belowReserve, crowded_free]
  decide
/-- No extent of the die may be moved. -/
theorem witness_MemoryEvents_full : quietState.evictNext 7 = none := by decide +kernel

def linked (g : Links → Links) : State := quietState.modFirm fun f => { f with links := g f.links }
def inbound (a : Word) (w : Option (List Byte)) : InboundReq := ⟨7, a, w, 4, none, false, 1⟩
def opened : State := quietState.modFirm fun f => { f with
  inWins := [⟨0, 1, 0x200000, 0x400000, 7, true, true, false⟩]
  tenants := f.tenants.map fun t => { t with reach := [⟨0x200000, 0x400000, true, true, true⟩] } }
/-- A unit waits for a device-register read of some parts, watched or not. -/
def device (parts : List (Word × Nat)) (w : Option Trap) : State := inSlot 32 (.waiting (.devreg 0x4000 parts [] 2 [4] 0x200004 w) 0)
def keyed (g : Tenant → Tenant) : State := quietState.modFirm fun f => { f with tenants := f.tenants.map g }
def thermal (hot : NSet) (due : Nat) : State := quietState.modFirm fun f => { f with thermal := ⟨hot, true, due⟩ }
/-- The window asks for a selective stream. -/
def selective : State := opened.modFirm fun f => { f with inWins := f.inWins.map fun w => { w with ide := true } }
/-- A request at an open window: it is checked up to `reached`, and one that it may not pass waits before it or not. -/
def inboundAs (g : Tenant → Tenant) (before : List (Nat × InboundReq)) : State :=
  { opened with firm := { opened.firm with tenants := opened.firm.tenants.map g }, store := { opened.store with inbound := before } }
def powered (p : Power) : State := quietState.modFirm fun f => { f with power := p }
def starting : State := { powered .starting with ck := watchdogLimit, firm := { (powered .starting).firm with
  boot := { (powered .starting).firm.boot with started := some 0 } } }
theorem witness_LinkAndPowerEvents :
    quietState.firm.links.cxlDown.contains 7 = false ∧ (linked fun l => { l with cxlDown := [7] }).firm.links.cxlDown.contains 7 = true ∧
    ((linked fun l => { l with cxlDown := [7], cxlTrain := [(7, 0)] }).firm.links.cxlTrain = [(7, 0)] ∧
      (∀ e ∈ (linked fun l => { l with cxlDown := [7], cxlTrain := [(7, 1)] }).firm.links.cxlTrain, quietState.ck < e.2) ∧
      FMap.get 0 (linked fun l => { l with cxlDown := [7], cxlTrain := [(7, 1)] }).firm.links.cxlTrain 7 ≠ 0 ∧
      FMap.get 0 quietState.firm.links.cxlTrain 7 = 0) ∧
    ((linked fun l => { l with carrDown := [3] }).firm.links.carrDown.contains 3 = true ∧
      (linked fun l => { l with carrTrain := [(3, 0)], carrDown := [3] }).firm.links.carrTrain = [(3, 0)] ∧
      (linked fun l => { l with carrTrain := [(3, 0)], carrDown := [3] }).firm.links.carrMoving = [] ∧
      (∀ e ∈ (linked fun l => { l with carrMoving := [(3, 1)] }).firm.links.carrMoving, quietState.ck < e.2) ∧
      (∀ e ∈ (linked fun l => { l with carrTrain := [(3, 1)] }).firm.links.carrTrain, quietState.ck < e.2) ∧
      (∀ e ∈ (linked fun l => { l with unreach := [(3, 1)] }).firm.links.unreach, quietState.ck < e.2)) ∧
    (quietState.firm.links.carrDown.contains 3 = false ∧
      (quietState.peerPkgs.filter fun p => decide (routeTo p quietState.firm.links.carrDown = some 3)) = []) ∧
    (linked fun l => { l with carrMoving := [(3, 0)] }).firm.links.carrMoving = [(3, 0)] ∧
    (linked fun l => { l with unreach := [(3, 0)] }).firm.links.unreach = [(3, 0)] ∧
    (quietState.firm.links.hostDown.contains 1 = false ∧ quietState.firm.links.hostDown.contains 0 = false ∧
      (linked fun l => { l with hostDown := [0] }).firm.links.hostDown.contains 0 = true ∧
      (linked fun l => { l with hostDown := [0] }).firm.links.hostDown.contains 1 = false) := by decide +kernel
/-- Requests from outside that a check refuses, that wait, and that are performed; device-register reads. -/
theorem witness_LinkAndPowerEvents_requests :
    ((inbound 0xF000000000001000 none).addr.extractLsb' 56 8 ≠ 0 ∧
      ((inbound 0x00C0000000000000 none).addr.extractLsb' 54 2).toNat = 3 ∧
      opened.windowsFor (inbound 0x400000 none) = [] ∧
      selective.windowsFor (inbound 0x200000 none) ≠ [] ∧
      (∀ w ∈ selective.windowsFor (inbound 0x200000 none), selective.ideOk (inbound 0x200000 none) w = false) ∧
      (inboundAs (fun t => { t with reach := [] }) []).inboundReach 1 (inbound 0x200000 none) = false ∧
      blockedBehind (inbound 0x200000 (some [1, 2, 3])) [(1, inbound 0x200000 (some [1, 2, 3]))] = true) ∧
    ((opened.windowsFor (inbound 0x200000 none)).find? (opened.ideOk (inbound 0x200000 none))).isSome = true ∧
    (∀ req ∈ [inbound 0x200000 none, inbound 0x3FFFFC (some [1, 2, 3])], req.addr.extractLsb' 56 8 = 0 ∧
      (req.addr.extractLsb' 54 2).toNat ≠ 3 ∧ (opened.windowsFor req).length = 1 ∧ opened.inboundReach 1 req = true ∧
      blockedBehind req opened.store.inbound = false) ∧ (opened.performInbound 1 (inbound 0x200000 none)).2 = true ∧
    (∀ x ∈ ([([(0x4000, 4)], none), ([(0x4000, 4)], some { cause := 17 }), ([(0x4000, 4), (0x4004, 4)], none)] :
        List (List (Word × Nat) × Option Trap)),
      ((device x.1 x.2).findUnit unit0.key).map (fun p => p.2.1.mode) = some (.waiting (.devreg 0x4000 x.1 [] 2 [4] 0x200004 x.2) 0) ∧
        (x.1.headD (0, 0)).2 = [(1 : Byte), 2, 3, 4].length) := by decide +kernel
/-- Peers and keys, temperature, power and start-up. -/
theorem witness_LinkAndPowerEvents_power :
    ((quietState.performPeer ⟨2, 1, 0x900000, .read 8⟩).2 = true) ∧
    ((quietState.tenant 1).map (fun m => (m.sweep, m.prepared)) = some (none, false) ∧ (quietState.tenant 8).isNone = true) ∧
    (((keyed fun t => { t with prepared := true }).tenant 1).map (·.prepared) = some true ∧
      ((keyed fun t => { t with sweep := some 0 }).tenant 1).map (·.sweep.isSome) = some true) ∧
    (quietState.ck < (thermal [] 1).firm.thermal.due ∧ (thermal [] 0).firm.thermal.due ≤ quietState.ck ∧
      (thermal [] 0).firm.thermal.hot = [] ∧ (∀ n ∈ ([50, 110, 3].take 64), n ≤ 110)) ∧
    (let rs := [105, 112, 90, 120].take 64
     (thermal [1, 2] 0).firm.thermal.hot ≠ [] ∧ (∃ n ∈ rs, 110 < n) ∧ rs[1]? = some 112 ∧ 1 ∈ (thermal [1, 2] 0).firm.thermal.hot ∧
      (thermal [1, 2] 0).firm.log = [] ∧ (rs.zipIdx.all fun e => decide (¬ (110 < e.1 ∧ e.2 ∈ [1, 2])) || decide (e.1 ≤ 112 ∧ (e.1 = 112 → 1 ≤ e.2)))) ∧
    (∀ p ∈ [Power.off, .running, .starting, .minimal], (powered p).firm.power = p) ∧
    (starting.firm.power = .starting ∧ starting.firm.boot.started = some 0 ∧ 0 + watchdogLimit ≤ starting.ck ∧
      ({ starting with ck := 0 } : State).ck < 0 + watchdogLimit) := by decide +kernel

/-! ## Decoding, the step and the reset state -/

/-- A base form, an extended form with a literal, and a branch are encodable. -/
theorem witness_EncodeDecodeRoundTrip : ∀ i ∈ [Instr.add { Fields.zero with a := 31, b := 63, c := 1 },
    .li { ext with form := .extLit, a := 127, lit := 0xFFFFFFFFFFFFFFFF }, .br { Fields.zero with imm := 0x3FFFFF },
    .vadd { ext with a := 63, b := 63, c := 63, ty := 31, imm := 255, rsv := true }], i.encodable = true := by decide +kernel

theorem witness_DecodingRefusesAndStops : majorOf ((0 : IWord).extractLsb' 2 8).toNat = none ∧
    (majorOf ((0x480 : IWord).extractLsb' 2 8).toNat).map (fun m => m.allows (formOf ((0x480 : IWord).extractLsb' 0 2))) = some true ∧
    (majorOf ((0x481 : IWord).extractLsb' 2 8).toNat).map (fun m => m.allows (formOf ((0x481 : IWord).extractLsb' 0 2))) = some false ∧
    [(0 : IWord)].length + 1 < (formOf ((6 : IWord).extractLsb' 0 2)).words ∧
    [(0 : IWord), 0].length + 1 = (formOf ((6 : IWord).extractLsb' 0 2)).words := by decide +kernel

def firstWordOf (s : State) : Nat := natOfBytes (s.codeBytes (unitOf s).pc 4)
def lastLine (s : State) : Nat := ((unitOf s).pc.toNat + 4 * s.codeWords (unitOf s).pc - 1) / 128
def good (s : State) : Bool :=
  headOk (BitVec.ofNat 32 (firstWordOf s)) && decide (extentOf (128 * lastLine s) = extentOf (unitOf s).pc.toNat)
def codeAt (s : State) (line : Nat) : CodeLine := s.codeLine 0 (unitOf s).uid (unitOf s).pc line
def fetched (s : State) : Bool :=
  s.issuing == some (slotOf s) && s.unitAt (slotOf s) == some (unitOf s) && codeAt s ((unitOf s).pc.toNat / 128) == .here &&
    codeAt s (lastLine s) == .here
/-- The unit's PC lies at `a`, and these bytes stand there. -/
def codeBytesAt (a : Nat) (bs : List Byte) : State :=
  let s := placed (.nop ext) fun u => { u with pc := BitVec.ofNat 64 a }
  { s with store := { s.store with mem := FMap.setMany 0 s.store.mem a bs },
           fab := { s.fab with icache := NSet.insert s.fab.icache (icacheKey 0 (a / 128)) } }
/-- The first word of an extended form stands last in its extent. -/
def atEdge : State := codeBytesAt (2 ^ 22 - 4) [30, 86, 64, 0]
/-- A minor function that the vector extension does not list, at the PC of a unit of a core of tile 0. -/
def unlisted (core : Nat) : State :=
  let s := State.reset.place ((bytesOfWord 0xD000021E ++ bytesOfWord 0) ++ bytesOfWord 0)
  { s.setSlot (16 * core) (s.slotAt 32) with issuing := some ⟨core, 0⟩ }
def due : State := { quietState with agenda := [(0, .sleepTimeout)] }
def resumes : State := inSlot 32 (.resuming 0) fun u => { u with running := some (.nop ext) }
/-- No slot can issue. -/
def alone (s : State) : State := { s with fab := { s.fab with slots := [] } }
def noEvent (s : State) : Bool := s.issuing.isNone && s.nextResuming.isNone && (takeDue s.ck s.eventNow s.agenda).isNone
theorem witness_StepRunsTheDecodedInstruction :
    (fetched (ready (.add { Fields.zero with a := 1, b := 2, c := 3 })) = true ∧
      good (ready (.add { Fields.zero with a := 1, b := 2, c := 3 })) = true ∧ decodeBytes ((ready (.add { Fields.zero with
      a := 1, b := 2, c := 3 })).codeBytes 0x200000 4) = .instr (.add { Fields.zero with a := 1, b := 2, c := 3 })) ∧
    (∀ k ∈ [(0, false), (1, true), (2, true)], let s := unlisted k.1
      fetched s = true ∧ good s = true ∧ decodeBytes (s.codeBytes (unitOf s).pc (4 * s.codeWords (unitOf s).pc)) = .badFn .vec ∧
        kindLists (kindOf (slotOf s).core) .vec = k.2) ∧
    (fetched (State.reset.place [0, 0, 0, 0]) = true ∧ good (State.reset.place [0, 0, 0, 0]) = false) ∧
    (codeAt atEdge (2 ^ 22 / 128 - 1) = .here ∧ good atEdge = false ∧ headOk (BitVec.ofNat 32 (firstWordOf atEdge)) = true) ∧
    ((match codeAt (codeBytesAt 2 []) 0, codeAt (codeBytesAt 0x210000 []) (0x210080 / 128) with
      | .trap _ _, .wait _ _ => true
      | _, _ => false) = true) ∧
    (resumes.issuing = none ∧ (resumes.nextResuming).map (·.1) = some 32) ∧
    (due.issuing = none ∧ due.nextResuming.isNone = true ∧ takeDue due.ck due.eventNow due.agenda = some (.sleepTimeout, [])) ∧
    (noEvent quietState = true ∧ quietState.nextCore = some 2) ∧
    (∀ i ∈ [Instr.idleWorkerRound 9, .launchPlacement 1], let s := { alone quietState with agenda := [(0, i)] }
      noEvent s = true ∧ s.nextCore = none ∧ (takeDue s.ck (fun i => actClass i == .behind) s.agenda).isSome = (actClass i == .behind) ∧
        s.work.late = [] ∧ (takeDue s.ck (fun i => actClass i == .launch) s.agenda).isSome = (actClass i == .launch)) ∧
    (let s := (alone quietState).modWork fun w => { w with late := [.tret 2 5 none] }
     noEvent s = true ∧ s.nextCore = none ∧ s.work.late ≠ [] ∧ (takeDue s.ck (fun i => actClass i == .behind) s.agenda).isNone = true) ∧
    (noEvent State.reset = true ∧ State.reset.nextCore = none ∧ State.reset.work.late = [] ∧ State.reset.agenda = []) :=
  ⟨by decide +kernel, by decide +kernel, by decide +kernel, by decide +kernel, by decide +kernel, by decide +kernel, by decide +kernel,
    by decide +kernel, by decide +kernel, by decide +kernel, by decide +kernel⟩

theorem witness_StepKeepsMemoryCanonical : Memory.wf quietState.store.mem = true ∧ (match step quietState with
    | .next _ => true
    | _ => false) = true := by decide +kernel

end Sys2Proof.Tests.EventsWitness
end

