-- ==== Sys2Proof/Tests/WitnessFirmware.lean ====
section
/-!
SUPPORT. States and requests that meet the hypotheses of the statements about firmware commands and the mailbox. One case for each
clause.
-/
namespace Sys2Proof.Tests.FirmwareWitness

open Sys2Proof Sys2Proof.Machine

set_option Elab.async false

/-- Quads that are not there are 0. -/
theorem quad_pad (l : List Word) (k i : Nat) : quad (l ++ List.replicate k 0) i = quad l i := by
  simp only [quad, List.headD_eq_head?_getD, List.head?_drop, List.getElem?_append, List.getElem?_replicate]
  split
  · rfl
  · rename_i h
    rw [List.getElem?_eq_none (by omega)]
    split <;> rfl

/-- `Takes` as a computation. -/
def takesB (s : State) (c : Cmd) : Bool :=
  let q := ((s.chan c.ch).written 0 c).request
  decide (s.firm.power = .running) && decide (c.ch < 8) && !(s.chan c.ch).busy &&
    !((s.chan c.ch).seen && decide (c.seq = (s.chan c.ch).doneSeq)) && s.firm.chans.all (fun e => e.2.work.isNone) &&
    decide (c.high = 0) && decide (q ++ List.replicate (c.quads.length - q.length) 0 = c.quads)
theorem takes_of {s : State} {c : Cmd} (h : takesB s c = true) : s.Takes c := by
  simp only [takesB, Bool.and_eq_true, decide_eq_true_eq, Bool.not_eq_true', Bool.and_eq_false_imp, decide_eq_false_iff_not,
    List.all_eq_true, Option.isNone_iff_eq_none] at h
  constructor
  case holds =>
    intro i
    rw [← quad_pad _ _ i, h.2]
  case free => exact h.1.1.2
  all_goals simp_all

/-- A request and a state that takes it, in which the hypotheses `p` of a clause hold. -/
structure Request where
  s     : State
  quads : List Word
  p     : Bool := true
def Request.cmd (r : Request) : Cmd := ⟨1, 0, 5, r.quads⟩
theorem taken_all {l : List Request} (h : l.all (fun r => takesB r.s r.cmd && r.p) = true) : ∀ r ∈ l, r.s.Takes r.cmd ∧ r.p = true := by
  intro r hr
  have hb := List.all_eq_true.mp h r hr
  rw [Bool.and_eq_true] at hb
  exact ⟨takes_of hb.1, hb.2⟩

def one : State := { ready (.nop ext) with issuing := none, agenda := [] }
def noJobs : State := one.modWork fun w => { w with jobs := [], launches := [] }
def tenants (g : Tenant → Tenant) (s : State := one) : State := s.modFirm fun f => { f with tenants := f.tenants.map g }
def tenant1 (p : Tenant → Bool) (s : State := one) : Bool := ((s.tenant 1).map p).getD false
def noExtents : State := one.modStore fun m => { m with extents := [] }
def sealedImage : Image := ⟨0x200000, 1, 1, 1, [⟨0x200040, 2, 1, 1, 1, 1, false, 1, 1, 1, 0, .p16, 0, [], []⟩], [], [], [1, 2, 3, 4, 5, 6, 7, 8], []⟩
def jobReady : State := tenants (fun t => { t with reach := [⟨0x600000, 0x603000, true, true, false⟩] })
  (noJobs.modStore fun m => { m with images := [sealedImage] })
/-- The smallest module: `.kernel k`, its entry and grid, and a `halt` with the label of the entry. -/
def moduleText : List Byte := [46, 107, 101, 114, 110, 101, 108, 32, 107, 10, 46, 101, 110, 116, 114, 121, 32, 109, 44, 32, 120, 10, 46,
  103, 114, 105, 100, 32, 49, 44, 32, 49, 10, 109, 58, 32, 104, 97, 108, 116, 10, 46, 101, 110, 100].map (BitVec.ofNat 8)
def inHost (a : Nat) (bs : List Byte) (s : State) : State := s.modStore fun m => { m with hostMem := FMap.setMany 0 m.hostMem a bs }
def admitted (s : State) (n : Nat) : Bool :=
  match s.tenant 1 with
  | some m => (match Tvas.admission (s.fromHost 0x1000 n) m.bufferRanges (s.placedBuffers m.tag) with
    | .ok _ => true
    | .error _ => false)
  | none => false
def kernelImage : Image := ⟨0x200000, 1, 1, 1, [⟨0x200040, 1, 1, 1, 1, 1, false, 1, 1, 1, 0, .p16, 0, [], []⟩], [], [], [], []⟩
def descBytes : List Byte := bytesOfNat 0x200040 8 ++ bytesOfNat 0 8 ++ bytesOfNat (3 * 2 ^ 32) 8 ++ List.replicate 104 0
def launchReady : State := inHost 0x1000 descBytes (one.modStore fun m => { m with images := [kernelImage] })
def launched (s : State) (p : Word) : Bool :=
  match s.job 1 with
  | some j => (match (s.accepted 0x0A ⟨1, 0, 5, [1, p]⟩).launchDesc 1 j p with
    | .done _ => true
    | _ => false)
  | none => false
def twoLaunches (s : State) : State := s.modWork fun w => { w with
  launches := w.launches ++ (w.launches.map fun l => { l with id := ⟨1, 2⟩, state := .ready, graph := 2, phase := 2 })
  phases := ⟨⟨1, 2⟩, 3, 8, 0, false, false, 0⟩ :: ⟨⟨1, 3⟩, 3, 8, 8, false, false, 0⟩ :: w.phases }
def extentOn (st : ExtState) (p : Place) : State := one.setExtent 5 { Extent.none with
  state := st, owner := 1, inst := 1, place := p, ever := true, fill := ⟨1, 1, 0, false⟩ }
def warm : State := one.modFirm fun f => { f with thermal := ⟨[], true, 0⟩ }
def resettable : State := (one.modWork fun w => { w with ops := [], launches := [] }).modFab fun f => { f with deques := [], msgs := [] }

theorem witness_FirmwareCommandsTakeEffect : ∀ r ∈ ([
    -- IDENT, RESYNC, LOG_READ
    ⟨one, [0x1000, 64], fits [maskAll, maskAll] [0x1000, 64]⟩,
    -- TENANT_OPEN of a rectangle at the far corner of the package
    ⟨State.reset, [1, 0, 0, 0x03070000], (rectOf 0x03070000).ok && decide ((0x3F7F3F7F : Word) ||| 0x03070000 = 0x3F7F3F7F) &&
      (rectOf 0x03070000).tiles.all (fun x => (State.reset.ownerOf x).isNone)⟩,
    -- GRANT_RANGE for no tenant, and for one
    ⟨State.reset, [5, 0x200000, 0x400000, 7], (State.reset.tenant 5).isNone && rangeOk 0x200000 0x400000 && !touchesEdge 0x200000 0x400000⟩,
    ⟨noExtents, [1, 0x200000, 0x400000, 7], tenant1 (fun m => decide (m.reach.length < 64)) noExtents && rangeOk 0x200000 0x400000 &&
      !touchesEdge 0x200000 0x400000 && decide ((0x400000 - 1) / 2 ^ 21 + 1 - 0x200000 / 2 ^ 21 ≤ capacity)⟩,
    -- REVOKE, TENANT_CLOSE, REKEY
    ⟨one, [1, 0x200000, 0x400000], tenant1 fun m => rangeOk 0x200000 0x400000 && decide ((cutReach m.reach 0x200000 0x400000).length ≤ 64)⟩,
    ⟨noJobs, [1], tenant1 (fun m => m.sweep.isNone && !m.prepared && m.peers.isEmpty) noJobs && noJobs.work.jobs.isEmpty⟩,
    ⟨tenants (fun t => { t with peers := [3] }), [1], tenant1 (fun m => m.sweep.isNone && !m.prepared && !m.peers.isEmpty)
      (tenants fun t => { t with peers := [3] })⟩,
    ⟨tenants (fun t => { t with prepared := true }), [1], tenant1 (·.prepared) (tenants fun t => { t with prepared := true })⟩,
    ⟨tenants (fun t => { t with sweep := some 0 }), [1], tenant1 (·.sweep.isSome) (tenants fun t => { t with sweep := some 0 })⟩,
    -- MODULE_SUBMIT of a module that is admitted, and of bytes that are none
    ⟨inHost 0x1000 moduleText one, [1, 0x1000, 45], admitted (inHost 0x1000 moduleText one) 45⟩,
    ⟨one, [1, 0x1000, 45], tenant1 (fun _ => !admitted one 45)⟩,
    -- JOB_OPEN with a record area that fits exactly, JOB_CLOSE
    ⟨jobReady, [1, 0x200000, 0, 0x600000, 0], tenant1 (fun m => decide (12288 * m.tiles.length = 0x3000) && m.reach.any fun r =>
      decide (r.base ≤ 0x600000) && decide (0x600000 + 12288 * m.tiles.length ≤ r.limit) && r.rd && r.wr) jobReady &&
      (jobReady.store.images.any fun i => decide (i.base = 0x200000) && decide (i.tag = 1) && (match i.kernels[0]? with
        | some k => decide (k.cls = 2) && k.bufs.isEmpty
        | none => false)) && jobReady.work.jobs.isEmpty && !jobReady.swapping 1⟩,
    ⟨one, [1, 1], (one.job 1).isSome⟩,
    -- LAUNCH at an unaligned address, and of a descriptor in host memory
    ⟨one, [1, 0x1001], (one.job 1).isSome⟩, ⟨launchReady, [1, 0x1000], launched launchReady 0x1000⟩,
    -- CANCEL, QUIESCE of a phase that is not quiet and of one that is
    ⟨twoLaunches one, [3, 1], ((twoLaunches one).targetJob 3 1).isSome⟩,
    ⟨twoLaunches one, [1, 2], ((twoLaunches one).phase ⟨1, 2⟩).any fun p => !p.quiet⟩,
    ⟨twoLaunches one, [1, 3], ((twoLaunches one).phase ⟨1, 3⟩).any fun p => p.quiet⟩,
    -- ATTEST
    ⟨jobReady, [1, 0x200000, 1, 2, 3, 4, 5, 6], fits ([maskTag] ++ List.replicate 7 maskAll) [1, 0x200000, 1, 2, 3, 4, 5, 6] &&
      jobReady.store.images.any fun i => decide (i.base = 0x200000) && decide (i.tag = 1)⟩,
    -- COMPACT of a fenced extent and of a present one
    ⟨extentOn .fenced (.dram 1), [1, 5, 4], tenant1 (fun _ => true) (extentOn .fenced (.dram 1))⟩,
    ⟨extentOn .present (.dram 1), [1, 5, 0], decide (((extentOn .present (.dram 1)).extentAt 5).owner = 1) &&
      decide (0 < (extentOn .present (.dram 1)).freeOnDie 0)⟩,
    -- INBOUND_OPEN
    ⟨one, [1, 0x200000, 0x400000, 0x30005], one.firm.inWins.isEmpty⟩,
    -- PART_RESET during a warning, and not
    ⟨warm, [1], warm.firm.thermal.warn && (warm.tenantOfPid 1).isSome⟩,
    ⟨resettable, [1], !resettable.firm.thermal.warn && (resettable.tenantOfPid 1).isSome && resettable.work.ops.isEmpty &&
      resettable.fab.deques.isEmpty && resettable.fab.msgs.isEmpty && resettable.work.launches.isEmpty && resettable.work.swapped.isEmpty⟩,
    -- MAINT_MODE with and without a job, and an unassigned code
    ⟨noJobs, [1], noJobs.work.jobs.isEmpty⟩, ⟨one, [1], !one.work.jobs.isEmpty⟩, ⟨one, [], decide (0x13 < 0x14) && decide (0xFFFF < 2 ^ 16)⟩] : List Request),
    r.s.Takes r.cmd ∧ r.p = true := taken_all (by decide +kernel)

/-- A tag is free after reset, wherever the search begins. -/
theorem witness_FirmwareCommandsTakeEffect_freeTag :
    ∃ tag, State.reset.freeTag (Config.firstTag State.reset.freeCtr) = some tag := by
  refine Option.isSome_iff_exists.mp ?_
  rw [State.freeTag, Option.isSome_map, List.find?_isSome]
  exact ⟨0, List.mem_range.mpr (by decide), rfl⟩

def channel (c : Channel) : State := one.setChan 1 c
def work (code : Nat) : Accepted := ⟨code, [1, 0x200000, 0x400000], 4, 0, some 1, false, true⟩
def minimal : State := one.modFirm fun f => { f with power := .minimal }
def finished : State := (channel { Channel.fresh with busy := true, work := some (work 5), result := some 3 })
def revoking : State := (one.setChan 2 { Channel.fresh with busy := true, work := some (work 6) }).modFirm fun f => { f with accepts := 1 }
theorem witness_DoorbellAndCompletion :
    (one.firm.power = .running ∧ ((channel { Channel.fresh with busy := true }).chan 1).busy = true) ∧
    (let c := (channel { Channel.fresh with seen := true, doneSeq := 5 }).chan 1
     c.busy = false ∧ c.seen = true ∧ c.doneSeq = 5) ∧
    (minimal.firm.power = .minimal ∧ (minimal.chan 1).busy = false ∧ (minimal.chan 1).seen = false ∧
      minimal.firm.chans.all (fun e => e.2.work.isNone) = true) ∧
    (finished.firm.chans = [(1, finished.chan 1)] ∧ (finished.chan 1).work = some (work 5) ∧ (finished.chan 1).result = some 3) ∧
    (let closing := (channel { Channel.fresh with busy := true, work := some (work 9), result := some 0 })
     closing.ending (work 9) = false ∧ finished.ending (work 5) = false ∧ (work 9).begun = true ∧
      (closing.modWork fun w => { w with late := [.cancel 1 0 1 0] }).ending (work 9) = true) ∧
    (revoking.firm.chans = [(2, { Channel.fresh with busy := true, work := some (work 6) })] ∧ (work 6).order < revoking.firm.accepts ∧
      (work 6).names = some (quadN [(1 : Word), 0x200000, 0x400000, 3] 0)) := by decide +kernel

end Sys2Proof.Tests.FirmwareWitness
end

