-- ==== Sys2Proof/Tests/WitnessMemory.lean ====
section
/-!
SUPPORT. States and operands that meet the hypotheses of the statements about loads, stores, atomics, fences, barriers, counters and
semaphores. Each theorem is named after its statement; a list has one case for each clause.
-/
namespace Sys2Proof.Tests.MemoryWitness

open Sys2Proof Sys2Proof.Machine

set_option Elab.async false

/-- `PlainKey` as a computation. -/
def plainB (s : State) (k : Nat) : Bool :=
  isScratchKey k && s.windowHit (keyTile k) (keyOff k) == none && (match s.bankAt (bankOf k) with
    | .awake _ => true
    | _ => false) &&
  !s.poisoned (k / 8) && FMap.get 0 s.store.errors (k / 8) == 0
theorem plain_of {s : State} {k : Nat} (h : plainB s k = true) : s.PlainKey k := by
  simp only [plainB, Bool.and_eq_true, beq_iff_eq, Bool.not_eq_true'] at h
  constructor
  case awake =>
    have bank := h.1.1.2
    cases at_ : s.bankAt (bankOf k) with
    | awake n => exact ⟨n, rfl⟩
    | _ => simp [at_] at bank
  all_goals simp only [h]
theorem plain_all {s : State} {l : List Nat} (h : l.all (plainB s) = true) : ∀ k ∈ l, s.PlainKey k :=
  fun k hk => plain_of (List.all_eq_true.mp h k hk)

/-- The first and the last bytes of a scratchpad. -/
def someKeys : List Nat := [scratchKey 0 0, scratchKey 0 1, scratchKey 5119 0xFFFFF]
theorem witness_ScratchpadAccessesReadAndWrite :
    (∀ k ∈ someKeys, State.reset.PlainKey k) ∧ Memory.wf State.reset.store.mem = true ∧ someKeys.Nodup ∧
      someKeys.length = [(1 : Byte), 2, 3].length ∧ FMap.wf (.awake 0) State.reset.store.banks = true ∧
      (∀ new, (fun _ : List Byte => some [(9 : Byte), 8, 7]) (someKeys.map State.reset.byteAt) = some new →
        someKeys.length = new.length) :=
  ⟨plain_all (by decide +kernel), by decide +kernel, by decide +kernel, rfl, by decide +kernel, by intro new h; cases h; rfl⟩

/-- Bytes stand where s2 points. -/
def bytes (s : State) : State := scratch 0x1000 (List.replicate 16 1 ++ [0x85, 0x96, 3, 0xF4, 1, 2, 3, 4, 5, 6, 7, 8, 9, 10, 11, 12, 13]) s
/-- The access of `n` bytes at `a` passes its checks, at bytes of memory. -/
def passes (f : Fields) (s : State) (r : SlotRef) (u : Ctx) (a : Word) (n : Nat) : Bool :=
  decide (scopeTrap u f = none) && (match s.keysOf u (tileOf r.core) a n with
    | some keys => !keys.any isDevKey && !keys.any isDescKey && !keys.isEmpty
    | none => false)
/-- Its bytes are read after the stores it must wait for. -/
def reads (f : Fields) (s : State) (r : SlotRef) (u : Ctx) (a : Word) (n : Nat) : Bool :=
  passes f s r u a n && (match s.keysOf u (tileOf r.core) a n with
    | some keys =>
      let x := if s.loadDrains u f.ord.toNat keys then s.begun.drain u.key else .ok s.begun
      (match x with
      | .ok t => (match t.performRead (t.who r.core u) keys with
        | .ok _ bs => decide (bs.length = n)
        | _ => false)
      | _ => false)
    | none => false)

def loadOps : List ((Fields → Instr) × Nat) :=
  [(.ldI8, 1), (.ldN8, 1), (.ldI16, 2), (.ldN16, 2), (.ldI32, 4), (.ldN32, 4), (.ldI64, 8), (.ldp, 16)]
def storeOps : List ((Fields → Instr) × Nat) := [(.st8, 1), (.st16, 2), (.st32, 4), (.st64, 8), (.stp, 16)]
/-- Each load or store, its displacement and ordering changed by `g`. -/
def accesses (l : List ((Fields → Instr) × Nat)) (g : Fields → Fields) (c : Ctx → Ctx) (h : State → State)
    (p : Fields → Nat → State → SlotRef → Ctx → Bool) : List Case :=
  l.flatMap fun x => cases [x.1] g c h (p (legal x.1 g) x.2)

theorem witness_LoadsReplyWithWhatTheyRead : ∀ c ∈
    accesses loadOps id id bytes (fun f n s r u => reads f s r u (effAddr u f n) n) ++
    accesses loadOps (fun f => { f with ord := 4, scope := 1 }) id bytes (fun f n s r u => reads f s r u (effAddr u f n) n &&
      s.loadDrains u 4 []) ++
    cases [.bndLd] (h := bytes) (p := fun s r u => reads (legal .bndLd) s r u
      (BitVec.ofNat 64 ((u.reg 2).toNat / 16 * 16)) 16), c.Meets := meets_all (by decide +kernel)

/-- A unit that waits for a reply, with and without a watch trap. -/
def waitsReply (w : Option Trap) : State :=
  (ready (.nop ext)).setSlot 32 ⟨.waiting (.reply ⟨[.scalar 4 99], 0x200008, w⟩) 0, none, some (unitOf (ready (.nop ext)))⟩
theorem witness_RepliesDeliverTheirWrites : ∀ w ∈ [none, some ({ cause := 17, addr := 3 } : Trap)],
    let s := waitsReply w
    let u := unitOf (ready (.nop ext))
    s.findUnit u.key = some (32, s.slotAt 32, u) ∧
      (s.slotAt 32).mode = .waiting (.reply ⟨[.scalar 4 99], 0x200008, w⟩) 0 ∧ s.haltedTag u.tag = false ∧
      (s.modTenant u.tag fun t => { t with halted := true }).haltedTag u.tag = true := by decide +kernel

/-- Thirty-two entries of the core stand in its buffer. -/
def full (s : State) : State := s.modFab fun f => { f with
  sbuf := List.replicate 32 ⟨0, s.who 2 (unitOf s), ⟨1, 1⟩, 0, 1, none, 0, .sem 1⟩ }
/-- Stores into the local aperture are watched. -/
def watched (u : Ctx) : Ctx := { u with stat := 0x300, bounds := [(1, ⟨0, 0xF100000000000000⟩)] }
theorem witness_StoresEnterTheBuffer : ∀ c ∈
    accesses storeOps id id id (fun f n s r u => passes f s r u (effAddr u f n) n && decide (s.buffered r.core < 32) &&
      decide (watchTrap u n [(0, effAddr u f n)] = none)) ++
    accesses storeOps id watched id (fun f n s r u => passes f s r u (effAddr u f n) n && decide (s.buffered r.core < 32) &&
      (watchTrap u n [(0, effAddr u f n)]).isSome) ++
    accesses storeOps id id full (fun f n s r u => passes f s r u (effAddr u f n) n && decide (s.buffered r.core = 32)), c.Meets :=
  meets_all (by decide +kernel)

theorem witness_StoresChangeNoRegister : ∀ c ∈
    accesses storeOps id id id (fun f n s r u => passes f s r u (effAddr u f n) n && decide (s.buffered r.core < 32) &&
      decide (watchTrap u n [(0, effAddr u f n)] = none)), c.Meets := meets_all (by decide +kernel)

/-- A refused scope register, the last byte beyond the local aperture, and a store to the description block. -/
theorem witness_AccessChecksTrapBeforeAnyEffect : ∀ c ∈
    accesses (loadOps ++ storeOps) (fun f => { f with scope := 6, e := 4 }) (fun u => u.setReg 4 (-1)) id
      (fun f _ _ _ u => (scopeTrap u f).isSome) ++
    accesses (loadOps ++ storeOps) (fun f => { f with c := 0xFF }) (fun u => u.setReg 2 0xF0000000000FFFFF) id
      (fun f n s r u => decide (scopeTrap u f = none) && (decide (n = 1) ||
        decide (s.keysOf u (tileOf r.core) (effAddr u f n) n = none))) ++
    accesses (loadOps ++ storeOps) (fun f => { f with c := 0xFF }) (fun u => u.setReg 2 0x0100000000000000) id
      (fun f n s r u => decide (scopeTrap u f = none) && decide (s.keysOf u (tileOf r.core) (effAddr u f n) n = none)) ++
    accesses storeOps (fun f => { f with c := 0xFF }) (fun u => u.setReg 2 0xF200000000000000) id
      (fun f n s r u => decide (scopeTrap u f = none) && (match s.keysOf u (tileOf r.core) (effAddr u f n) n with
        | some keys => keys.any isDescKey
        | none => false)), c.Meets := meets_all (by decide +kernel)

/-- An entry of a unit of a core. -/
def entry (core unit : Nat) (k : StoreKind) : StoreEntry :=
  let s := ready (.nop ext)
  ⟨0, s.who core { unitOf s with key := unit }, ⟨1, 1⟩, 0, 2, none, 0, k⟩
/-- The first entry of core 2 stands between an entry of another core and one of its own unit. -/
def buffered (k : StoreKind) (count : BitVec 32) : State :=
  (ready (.nop ext)).setSem 0 3 count |>.modFab fun f => { f with sbuf := [entry 5 9 (.sem 1)] ++ entry 2 7 k :: [entry 2 7 (.sem 2)] }
def keys8 : List Nat := (List.range 8).map (scratchKey 0 ·)
/-- Two pieces, an atomic whose compare fails, one that writes, and a counter addition. -/
def kinds : List StoreKind := [.bytes [⟨0, 0xF000000000000000, (keys8.take 4).zip [1, 2, 3, 4]⟩, ⟨4, 0xF000000000000004, (keys8.drop 4).zip [5, 6, 7, 8]⟩],
  .amo 9 4 0xF000000000000000 keys8 5 6, .amo 0 4 0xF000000000000000 keys8 5 0, .cntAdd 0xF000000000000000 keys8 (-1)]
def posted (n : BitVec 32) : Bool :=
  let s := buffered (.sem 3) n
  Memory.wf s.store.mem && decide (s.semAt 0 3 = n) && FMap.wf 0 s.fab.sems &&
    (s.oldestWaiter (fun k w => decide (tileOf (k / 16) = 0) && (match w with
      | .sem m _ => decide (m = 3)
      | _ => false))).isNone
theorem witness_BufferedEntriesArePerformed :
    (∀ k ∈ kinds, let s := buffered k 0
      Memory.wf s.store.mem = true ∧ s.fab.sbuf.map (fun e => (e.who.core, e.who.unit)) = [(5, 9), (2, 7), (2, 7)] ∧
        (entry 2 7 k).keys = keys8) ∧ keys8.Nodup ∧ (∀ n ∈ keys8, (buffered (.sem 3) 0).PlainKey n) ∧
    posted 0 = true ∧ posted (BitVec.allOnes 32) = true :=
  ⟨by decide +kernel, by decide +kernel, plain_all (by decide +kernel), by decide +kernel, by decide +kernel⟩

/-- A line of global memory that the L1 of tile 0 holds, with a dirty byte, and one that a slice of the L2 holds. -/
def dirty (s : State) : State := s.modStore fun m => { m with
  l1 := [⟨s.l1Of 0 (0x200000 / 128), 0x200000 / 128, 8, FMap.set none [] 3 (some 77), 1, 0, 0⟩] }
def inL2 (s : State) : State := s.modStore fun m => { m with l2 := [⟨homeSlice (0x200000 / 128), 0, 0x200000 / 128, 0, true⟩] }
/-- The case of a line: whether an own copy is held, whether the L2 holds it, and whether the scope is wide. -/
def lineCase (own l2 wide : Bool) (f : Fields) (s : State) (r : SlotRef) (u : Ctx) : Bool :=
  passes f s r u 0x200000 128 && decide ((s.extentAt (extentOf 0x200000)).state = .present) &&
    (match s.begun.drain u.key with
    | .ok x => (x.l1Copy (x.l1Of (tileOf r.core) (0x200000 / 128)) (0x200000 / 128)).any (fun l => !l.dirty.isEmpty) == own &&
      (x.l2Line (0x200000 / 128)).isSome == l2 && scopeWide u f == wide &&
      (match x.waysAll (x.reachedWay (x.who r.core u).tag (0x200000 / 128) 0).toList with
      | .ok _ _ => true
      | _ => false)
    | _ => false)
theorem witness_PrefetchCleanAndInvalidateComplete : ∀ c ∈
    cases [.pf] (g := fun u => u.setReg 2 0x0100000000000000) (p := fun s r u =>
      decide (s.keyOf u (tileOf r.core) (effAddr u (legal .pf) 1) = none)) ++
    cases [.pf] ++
    cases [.cln, .inv] (p := fun s r u => passes (legal .cln) s r u 0xF000000000001000 128) ++
    ([(false, false, 1, id), (true, false, 1, dirty), (false, true, 0, inL2)] : List (Bool × Bool × BitVec 3 × (State → State))).flatMap
      (fun x => cases [.cln, .inv] (fun f => { f with scope := x.2.2.1 }) (fun u => u.setReg 2 0x20007F) x.2.2.2
        (lineCase x.1 x.2.1 (x.2.2.1 == 0) (legal .cln fun f => { f with scope := x.2.2.1 }))), c.Meets := meets_all (by decide +kernel)

/-- An aligned object whose old bytes are taken at its home. -/
def objectOk (f : Fields) (s : State) (r : SlotRef) (u : Ctx) (a : Word) (n : Nat) : Bool :=
  passes f s r u a n && decide (a.toNat % n = 0) && (match s.begun.drain u.key with
    | .ok x => (match x.performAtHome (x.who r.core u) ((s.keysOf u (tileOf r.core) a n).getD []) true (fun b => some b) with
      | .ok _ old => decide (old.length = n)
      | _ => false)
    | _ => false)
def amoOps : List ((Fields → Instr) × Nat) :=
  [(.amoAdd, 8), (.amoAnd, 8), (.amoOr, 8), (.amoXor, 8), (.amoMin, 8), (.amoMax, 8), (.amoMinn, 8), (.amoMaxn, 8), (.amoSwap, 8),
    (.amoCas, 8), (.amoFadd, 4), (.amoFmin, 4), (.amoFmax, 4), (.amoXadd, 32)]
/-- Results wanted and discarded, of 4, 8 and 32 bytes, and a compare that holds. -/
theorem witness_AtomicsReadModifyWrite : ∀ c ∈
    accesses (amoOps ++ [(.amoXrd, 32)]) (fun f => { f with ord := 3 }) (fun u => u.setReg 2 0xF000000000001020) bytes
      (fun f n s r u => objectOk f s r u (regAddr u f.b f) n) ++
    accesses amoOps (fun f => { f with a := 0xFF }) (fun u => u.setReg 2 0xF000000000001020) bytes (fun f n s r u =>
      objectOk f s r u (regAddr u f.b f) n && decide (s.buffered r.core < 32) &&
        decide (watchTrap u n [(0, regAddr u f.b f)] = none)) ++
    accesses (amoOps.take 10) (fun f => { f with a := 0xFF, ty := 3, ord := 4 }) id bytes
      (fun f _ s r u => objectOk f s r u (regAddr u f.b f) 4) ++
    cases [.amoCas] (fun f => { f with ty := 19 }) (fun u => u.setReg 3 0xF4039685) bytes (fun s r u =>
      objectOk ext s r u (u.reg 2) 4 && decide (s.byteAt (scratchKey 0 0x1010) = 0x85)), c.Meets := meets_all (by decide +kernel)

theorem witness_FencesAndSemaphores : ∀ c ∈
    ([1, 2, 3, 4] : List (BitVec 3)).flatMap (fun o => cases [.fence] (fun f => { f with ord := o }) (p := fun s _ u =>
        decide (scopeTrap u ext = none) && (match s.begun.drain u.key with
          | .ok _ => true
          | _ => false)) ++
      cases [.fencePath] (fun f => { f with ord := o, imm := 3 })) ++
    cases [.semPost] (fun f => { f with c := 15 }) (p := fun s r _ => s.buffered r.core < 32) ++
    cases [.semWait, .semTry] (p := fun s _ _ => s.semAt 0 0 = 0) ++
    cases [.semWait, .semTry] (fun f => { f with c := 15 }) (h := fun s => s.setSem 0 15 1) (p := fun s _ _ => s.semAt 0 15 ≠ 0),
    c.Meets := meets_all (by decide +kernel)

def counterOp (g : Fields → Fields := id) (f : Fields) : Fields := g { f with a := 2, b := 3 }
/-- A barrier whose generation equals s3 or does not; a counter at or beyond its limit, and before it. -/
theorem witness_BarriersAndCounters : ∀ c ∈
    accesses [(.barArrive, 16), (.barGen, 16), (.barWait, 16), (.cntRd, 8)] id id bytes
      (fun f n s r u => objectOk f s r u (regAddr u f.b f) n) ++
    accesses [(.barWait, 16)] id (fun u => u.setReg 3 0xF4039685) bytes (fun f n s r u => objectOk f s r u (regAddr u f.b f) n &&
      decide ((u.reg 3).toNat % 2 ^ 32 = natOfBytes ((List.range 4).map fun i => s.byteAt (scratchKey 0 (0x1010 + i))))) ++
    ([1, 3, 4] : List (BitVec 3)).flatMap (fun o => accesses [(.cntAdd, 8)] (counterOp fun f => { f with ord := o }) id bytes
      (fun f n s r u => objectOk f s r u (regAddr u f.a f) n)) ++
    ([0, 2] : List (BitVec 3)).flatMap (fun o => accesses [(.cntAdd, 8)] (counterOp fun f => { f with ord := o }) id bytes
      (fun f n s r u => passes f s r u (regAddr u f.a f) n && decide ((regAddr u f.a f).toNat % 8 = 0) &&
        decide (s.buffered r.core < 32))) ++
    [(5 : Word), 0x04030201F4039685].flatMap (fun y => accesses [(.cntWait, 8)] counterOp (fun u => u.setReg 3 y) bytes
      (fun f n s r u => objectOk f s r u (regAddr u f.a f) n && decide ((u.reg 3).toNat ≤ 0x04030201F4039685))) ++
    accesses [(.cntWait, 8)] counterOp (fun u => u.setReg 3 0x04030201F4039686) bytes
      (fun f n s r u => objectOk f s r u (regAddr u f.a f) n), c.Meets := meets_all (by decide +kernel)

end Sys2Proof.Tests.MemoryWitness
end

