-- ==== Sys2Proof/Tests/WitnessScalar.lean ====
section
/-!
SUPPORT. States and operands that meet the hypotheses of the statements about scalar, control and system instructions and traps. Each
theorem is named after its statement; a list has one case for each clause, at the ends of its range where it has one.
-/
namespace Sys2Proof.Tests.ScalarWitness

open Sys2Proof Sys2Proof.Machine

set_option Elab.async false

def registerOps : List (Fields → Instr) :=
  [.mulh, .mulhn, .div, .divn, .rem, .remn, .andR, .orR, .xorR, .andn, .orn, .clmul, .clmulh, .shl, .shr, .sar, .rol, .ror, .minR,
    .maxR, .minn, .maxn]
def unaryOps : List (Fields → Instr) := [.clz, .ctz, .popc, .bswap, .mov, .bfx, .bfxs, .bfi, .li, .lea, .sel]
def immediateOps : List (Fields → Instr) := [.andImm, .orImm, .xorImm, .shlImm, .shrImm, .sarImm, .rolImm, .rorImm]
def typedOps : List (Fields → Instr) := [.add, .sub, .mul, .addImm, .mulImm]
def addressOps : List (Fields → Instr) := [.cvta, .tsta, .georng]

theorem witness_ScalarRegisterResults : ∀ c ∈ cases registerOps, c.Meets := meets_all (by decide +kernel)

theorem witness_ScalarUnaryAndImmediateResults : ∀ c ∈
    cases unaryOps ++ cases immediateOps ++ cases (immediateOps.drop 3) (fun f => { f with imm := 63 }) ++
      cases [.mov] (p := fun _ _ u => u.pend.contains 2 = false),
    c.Meets := meets_all (by decide +kernel)

/-- The ends of both ranges of types, with and without SAT. -/
theorem witness_TypedArithmeticResults : (∀ c ∈
    cases typedOps ++ cases typedOps (fun f => { f with ty := 1, sat := true }) ++ cases typedOps (fun f => { f with ty := 4 }) ++
      cases typedOps (fun f => { f with ty := 17, sat := true }) ++ cases typedOps (fun f => { f with ty := 20 }),
    c.Meets) ∧ (∀ p ∈ [(Part.p16, 31), (.p8, 63), (.p4, 127)], ∀ ty ∈ [(0 : BitVec 5), 4, 17, 20], p.2 < p.1.scalars ∧
      ¬ p.2 + 1 < p.1.scalars ∧ checkFields p.1 (.add (legal .add fun f => { f with ty := ty, a := BitVec.ofNat 8 p.2 })) = .ok) :=
  ⟨meets_all (by decide +kernel), by decide +kernel⟩

theorem witness_GuardResults : (∀ c ∈ cases [.cmp, .cmpImm, .gop] ++ cases [.cmp, .cmpImm] (fun f => { f with fn := 9 }) ++
      cases [.gop] (fun f => { f with fn := 7, b := 0, c := 0 }) ++ cases [.tstZ, .tstNz], c.Meets) ∧
    (∀ f ∈ [legal .gop, legal .gop fun f => { f with a := 7, b := 7, c := 7, fn := 4 },
      legal .gop fun f => { f with fn := 5, c := 0 }, legal .gop fun f => { f with fn := 7, b := 0, c := 0 }],
      checkFields .p16 (.gop f) = .ok) := ⟨meets_all (by decide +kernel), by decide +kernel⟩

theorem witness_AddressAndGeometryResults : ∀ c ∈ cases addressOps ++ cases [.cvta] (fun f => { f with fn := 2 }) ++
    cases [.georng] (p := fun s _ u => (s.launch u.launchId).isSome), c.Meets := meets_all (by decide +kernel)

theorem witness_MovMovesPendingToken : ∀ c ∈
    cases [.mov] (g := fun u => { u with pend := [2] }) (p := fun _ _ u => FMap.wf 0 u.regs && u.pend.contains 2), c.Meets :=
  meets_all (by decide +kernel)

theorem witness_ScalarInstructionsChangeOneRegister : (∀ c ∈ cases (registerOps ++ [.clz, .ctz, .popc, .bswap, .bfx, .bfxs, .bfi, .li, .lea, .sel] ++ immediateOps ++ typedOps ++
    addressOps), c.Meets) := meets_all (by decide +kernel)

def baseForms : List Instr := [.br { Fields.zero with imm := 4 }, .call { Fields.zero with imm := 4 },
  .bg { Fields.zero with imm := 4, ga := ⟨true, 2⟩ }, .loop { Fields.zero with imm := 4, a := 3 }]
theorem witness_ControlTransferTargets : ∀ c ∈ cases [.jmp, .ret, .callReg] ++ baseForms.map (fun i => { i := i }), c.Meets :=
  meets_all (by decide +kernel)

/-- The fields are legal, and a guard is false. -/
theorem witness_FalseGuardHasNoEffect : ∀ i ∈ [Instr.add (legal .add fun f => { f with ga := ⟨false, 2⟩ }),
      .bg { Fields.zero with imm := 4, ga := ⟨false, 2⟩ }, .vadd (legal .vadd fun f => { f with gb := ⟨true, 0⟩ })],
    let s := ready i
    i.codeOf.isSome ∧ s.issuing = some (slotOf s) ∧ s.unitAt (slotOf s) = some (unitOf s) ∧
      kindLists (kindOf (slotOf s).core) (opSpec i).ext = true ∧ checkFields (s.partOf (tileOf (slotOf s).core)) i = .ok ∧
      (guardHolds (unitOf s) i.fields.ga && guardHolds (unitOf s) i.fields.gb) = false := by decide +kernel

def pending (u : Ctx) : Ctx := { u with pend := [9] }
def laggard (s : State) : State := s.setSlot 36 { Slot.empty with unit := some { unitOf s with key := 77, pc := 0x20003C } }
/-- A unit of the launch is being restored into a slot. -/
def restored (s : State) : State := s.modWork fun w => { w with launches := w.launches.map fun l => { l with
  queue := [⟨0, 3, none, none, 2, some 35, Seal.none, false⟩] } }
theorem witness_ProgressAndHaltComplete : ∀ c ∈
    cases [.nop] ++
    cases [.safe, .yield] (g := pending) (p := fun _ _ u => u.pend ≠ []) ++
    cases [.safe] (p := fun s _ u => u.pend = [] && u.purposes = [] && !s.planeBusy u.key) ++
    cases [.yield] (p := fun s _ u => match s.launch u.launchId with
      | some l => l.queue = []
      | none => true) ++
    cases [.yield] (h := restored) (p := fun s _ u => match s.launch u.launchId with
      | some l => !l.queue.isEmpty && l.queue.all (·.slot.isSome)
      | none => false) ++
    cases [.sleep] (g := fun u => { u with arrival := true }) (p := fun _ _ u => u.arrival) ++
    cases [.sleep] (p := fun _ _ u => !u.arrival) ++
    cases [.sleep] (fun f => { f with imm := 1 }) (p := fun _ _ u => !u.arrival) ++
    cases [.realign] ++
    cases [.realign] (fun f => { f with imm := 1 }) (p := fun s r u => (s.laggards r u.pc).isEmpty) ++
    cases [.realign] (fun f => { f with imm := 1 }) (fun u => { u with pc := 0x200040 }) laggard (p := fun s r u =>
      !(s.laggards r u.pc).isEmpty) ++
    cases [.halt] (p := fun s r _ => s.fab.sbuf.isEmpty && !(decide (r.slot = 0) && s.othersOccupied r.core)) ++
    cases [.halt] (h := inSlot1) (p := fun s r _ => s.fab.sbuf.isEmpty && decide (r.slot ≠ 0)) ++
    cases [.halt] (h := withUnit 35 (.ready 0)) (p := fun s r _ => s.fab.sbuf.isEmpty && decide (r.slot = 0) && s.othersOccupied r.core),
    c.Meets := meets_all (by decide +kernel)

theorem witness_RdsrReadsEveryRegister : ∀ c ∈ (List.range 14).flatMap (fun n => cases [.rdsr] fun f => { f with b := BitVec.ofNat 8 n }),
    c.Meets := meets_all (by decide +kernel)

/-- The tenant may read and write the 4,096 bytes from 0x600000. -/
def reach (s : State) : State := s.modFirm fun f => { f with tenants := f.tenants.map fun t => { t with
  reach := [⟨0x600000, 0x601000, true, true, false⟩] } }
theorem witness_WrsrWritesOnlyWhatItMay : ∀ c ∈
    cases [.wrsr] (fun f => { f with a := 13 }) ++
    cases [.wrsr] (fun f => { f with a := 8 }) (fun u => u.setReg 2 0x600FFF) reach (fun s r u => decide (r.slot = 0) &&
      (match s.tenant u.tag with
      | some t => t.reach.any fun g => decide (g.base ≤ (u.reg 2).toNat / 4096 * 4096) &&
          decide ((u.reg 2).toNat / 4096 * 4096 + 4096 ≤ g.limit) && g.rd && g.wr
      | none => false)) ++
    cases [.wrsr] (fun f => { f with a := 8 }) (fun u => u.setReg 2 0x601000) reach (fun s r u => decide (r.slot = 0) &&
      (match s.tenant u.tag with
      | some t => t.reach.all fun g => decide (g.limit < (u.reg 2).toNat / 4096 * 4096 + 4096)
      | none => true)) ++
    cases [.wrsr] (fun f => { f with a := 0 }) ++ cases [.wrsr] (fun f => { f with a := 12 }) ++
    cases [.wrsr] (fun f => { f with a := 8 }) (h := inSlot1) (p := fun _ r _ => r.slot ≠ 0), c.Meets :=
  meets_all (by decide +kernel)

/-- `chk` of 8 bytes at the end of its bound, one byte beyond it, and below it. -/
theorem witness_ProgramTrapsAndChk : ∀ c ∈
    cases [.trap, .brk] ++ cases [.trap, .brk] (fun f => { f with imm := 0xFF }) ++
    [(0x1010 : Word), 0x1011, 0xFFF].flatMap (fun a => cases [.chk] (fun f => { f with imm := 8 })
      (fun u => { u.setReg 2 a with bounds := [(1, ⟨0x1000, 0x1018⟩)] })
      (p := fun _ _ u => decide ((u.boundOf 1).base.toNat ≤ (u.reg 2).toNat ∧ (u.reg 2).toNat + 8 ≤ (u.boundOf 1).limit.toNat) ==
        decide (u.reg 2 = 0x1010))), c.Meets := meets_all (by decide +kernel)

def anyTrap : TrapAt := ⟨{ cause := 5, aux := 9 }, 0x200000, 0x200000⟩
/-- Context zero of core 2 holds another unit, in a mode; the unit that traps stands in slot 1. -/
def zeroBeside (m : SlotMode) : State := withUnit 32 m (inSlot1 (ready (.nop ext)))
/-- A slot other than context zero, beside a context zero that is ready, asleep or empty; and context zero with its tenant open. -/
theorem witness_TakingATrapParksOrEscalates :
    (∀ m ∈ [SlotMode.ready 0, .waiting (.sleep none 0x200004) 0], let s := zeroBeside m
      s.zeroTaken 2 = false ∧ FMap.wf Slot.empty s.fab.slots = true ∧ (s.slotAt 32).unit.map (·.key) = some 77 ∧
        (unitOf (ready (.nop ext))).key ≠ 77 ∧ (s.fab.slots.filter fun e => e.2.unit.any fun w => decide (w.key = 77)).map (·.1) = [32]) ∧
    (((inSlot1 (ready (.nop ext))).setSlot 32 Slot.empty).slotAt 32).unit = none ∧
    ((⟨2, 1⟩ : SlotRef).slot ≠ 0 ∧ (⟨2, 15⟩ : SlotRef).slot < 16 ∧ (inSlot1 (ready (.nop ext))).zeroTaken 2 = false ∧
      FMap.wf Slot.empty (inSlot1 (ready (.nop ext))).fab.slots = true) ∧
    ((slotOf (ready (.nop ext))).slot = 0 ∧ ((ready (.nop ext)).tenant (unitOf (ready (.nop ext))).tag).isSome = true) := by
  decide +kernel

def illegal : Instr := .add (legal .add fun f => { f with a := 32 })
def misordered : Instr := .ldI8 (legal .ldI8 fun f => { f with ord := 2 })
def absent : Instr := .cp (legal .cp fun f => { f with e := 0xFF })
/-- The hypotheses that the three parts of the statement share: the unit issues an instruction of an extension its core lists, or does
not. -/
def issued (s : State) (i : Instr) (lists : Bool) : Bool :=
  i.codeOf.isSome && s.issuing == some (slotOf s) && s.unitAt (slotOf s) == some (unitOf s) &&
    kindLists (kindOf (slotOf s).core) (opSpec i).ext == lists
/-- The unit issues `i` from slot 1 of the F-core of tile 0, whose X-core has empty slots. -/
def onCore1 (i : Instr) : State := { (ready i).setSlot 17 ((ready i).slotAt (slotOf (ready i)).key) with issuing := some ⟨1, 1⟩ }
theorem witness_ChecksBeforeTheEffect :
    (issued (ready illegal) illegal true = true ∧ checkFields .p16 illegal = .illegal ∧
      issued (ready misordered) misordered true = true ∧ checkFields .p16 misordered = .ordering) ∧
    (∀ c ∈ [([1], []), ([2], []), ([], [2])], let i := Instr.add (legal .add)
      let s := ready i fun u => { u with pend := c.1, pois := c.2 }
      let u := unitOf s
      issued s i true = true ∧ checkFields (s.partOf 0) i = .ok ∧ (guardHolds u i.fields.ga && guardHolds u i.fields.gb) = true ∧
        (opSpec i).allTokens = false ∧
        (c.1 = [1] → i.dests.find? (u.pend.contains ·) = some 1) ∧
        (c.1 = [2] → i.dests.find? (u.pend.contains ·) = none ∧ i.waitSources.filter (u.pend.contains ·) ≠ []) ∧
        (c.1 = [] → i.dests.find? (u.pend.contains ·) = none ∧ i.waitSources.any (u.pend.contains ·) = false ∧
          i.sources.any (u.pois.contains ·) = true)) ∧
    (issued (onCore1 absent) absent false = true ∧ (slotOf (onCore1 absent)).slot ≠ 0 ∧
      ((onCore1 absent).usableCores 1 (opSpec absent).ext).findSome?
        (fun c => ((onCore1 absent).emptySlot c).map fun n => (c, n)) = some (0, 1)) := by decide +kernel

/-- A parked slot, an empty one, and an issuer other than context zero. -/
def parkedUnit (s : State) : State := s.setSlot 33 { Slot.empty with unit := some { unitOf s with key := 77 }, mode := .parked (.trap 0x200040) }
theorem witness_TretResumesAParkedSlot : ∀ c ∈
    cases [.tret, .tretRedirect] (h := parkedUnit) (p := fun s r _ => decide (r.slot = 0) &&
      decide ((s.slotAt 33).mode = .parked (.trap 0x200040)) && (s.slotAt 33).unit.isSome) ++
    cases [.tret, .tretRedirect] (p := fun s r _ => decide (r.slot = 0) && (match (s.slotAt 33).mode with
      | .parked (.trap _) => false
      | _ => true)) ++
    cases [.tret, .tretRedirect] (h := inSlot1) (p := fun _ r _ => r.slot ≠ 0), c.Meets := meets_all (by decide +kernel)

end Sys2Proof.Tests.ScalarWitness
end

