-- ==== Sys2Proof/Tests/WitnessUnits.lean ====
section
/-!
SUPPORT. States and operands that meet the hypotheses of the statements about tiles, the state-space unit, engines, windows and messages,
tasks, launches and contexts. Each theorem is named after its statement; a list has one case for each clause.
-/
namespace Sys2Proof.Tests.UnitsWitness

open Sys2Proof Sys2Proof.Machine

set_option Elab.async false

/-! ## Tiles -/

def at1000 (u : Ctx) : Ctx := (u.setReg 2 0xF000000000001000).setReg 4 0xF000000000003000
def plane (f : Nat) : Plane := { Plane.empty with
  wfmt := f, sfmt := 11, g := 32, cf := true, sf := true, codes := FMap.setMany 0 [] 0 [3, 5, 9, 0x77777777],
  sums := FMap.setMany 0 [] 0 [1, 2, 3], scales := FMap.setMany 0 [] 0 [0x00013C00, 0x00033C00] }
def planes (f : Nat) (s : State) : State := (s.setPlane 2 0 (plane f)).setPlane 2 1 (plane f)
/-- The places of the columns of a plane load in the packed layout, or of the words of a scale load. -/
def columnsOf (ty : Nat) (u : Ctx) : List (Word × Nat) :=
  let bits := if ty = 11 then 4 else if ty = 9 then 16 else if ty = 10 then 32 else 8
  (List.range (if ty = 8 ∨ ty = 10 then 32 else 64)).map fun c => (u.reg 2 + BitVec.ofNat 64 (c * 8 * bits), 8 * bits)
def scaleWords (imm : Nat) (u : Ctx) : List (Word × Nat) :=
  let g := 32 * 2 ^ (imm % 4)
  let at_ := (List.range (if g = 32 then 2 else 1)).flatMap fun j => (List.range 64).map fun c => (j, c)
  at_.map (fun p => (u.reg 2 + BitVec.ofNat 64 p.1 * 256 + BitVec.ofNat 64 (4 * p.2), 4)) ++
    at_.map (fun p => (u.reg 4 + BitVec.ofNat 64 (2 * (64 * p.1 + p.2)), 2))
def loadsPlane (places : Ctx → List (Word × Nat)) (s : State) (r : SlotRef) (u : Ctx) : Bool :=
  (match s.begun.matPieces u.begun (tileOf r.core) (places u) with
    | .ok parts => decide (parts.length = (places u).length)
    | _ => false) && (match s.begun.drain u.key with
    | .ok _ => true
    | _ => false)
theorem witness_PlaneAndTileInstructions : ∀ c ∈
    ([8, 11] : List Nat).flatMap (fun ty => cases [.mwld] (fun f => { f with ty := BitVec.ofNat 5 ty, c := 0xFF }) at1000 id
      (loadsPlane (columnsOf ty))) ++
    ([0, 6] : List Nat).flatMap (fun n => cases [.mwsc] (fun f => { f with imm := BitVec.ofNat 22 n, c := 0xFF }) at1000 id
      (loadsPlane (scaleWords n))) ++
    cases [.mwsw] ++
    cases [.mclr] (p := fun _ _ u => FMap.wf 0 u.rows && FMap.wf [] u.carries && FMap.wf 0 u.regs) ++
    cases [.mclr] (fun f => { f with a := 0xFF }) (fun u => { u with tileSat := [0], carries := FMap.set [] u.carries 0 [1] }) ++
    ([0, 1, 2, 3] : List Nat).flatMap (fun n => cases [.mcsum] (fun f => { f with imm := BitVec.ofNat 22 n }) id (planes 11)
      (fun s r _ => !s.planesWait r.key (.mcsum (legal .mcsum fun f => { f with imm := BitVec.ofNat 22 n })) && (let p := s.planeAt r.core (1 - n / 2)
        decide (p.wfmt = 11) && decide (p.g ≠ 0) && p.sf && p.failc.isNone && p.fails.isNone))), c.Meets :=
  meets_all (by decide +kernel)

/-- Every activation row is read, and the plane passes its checks; or it does not. -/
def macReads (zero : Bool) (ty bytes : Nat) (s : State) (r : SlotRef) (u : Ctx) : Bool :=
  !s.planesWait r.key (if zero then .mmacz ext else .mmac ext) && decide (macTrap (s.planeAt r.core 0) u ty 0 zero = none) &&
    (match s.begun.drain u.key with
    | .ok x => (match x.readActs ⟨r, ext, 0⟩ u.begun bytes ((List.range 16).map fun i => u.reg 2 + BitVec.ofNat 64 (i * bytes)) with
      | .ok _ => true
      | _ => false)
    | _ => false)
def accumulators (t : BitVec 4) (u : Ctx) : Ctx := (List.range 16).foldl (fun u i => u.setRow i (BitVec.ofNat 2048 (i * 0x123456789)) t) (at1000 u)
theorem witness_MultiplyAccumulateOccupiesTheArray : ∀ c ∈
    cases [.mmac] (fun f => { f with ty := 1, c := 0xFF }) (accumulators 3) (planes 1) (macReads false 1 64) ++
    cases [.mmacz] (fun f => { f with ty := 11, c := 0xFF }) at1000 (planes 11) (macReads true 11 72) ++
    cases [.mmac, .mmacz] (fun f => { f with ty := 9, c := 0xFF }) at1000 (planes 11) (fun s r u =>
      !s.planesWait r.key (.mmac ext) && !s.planesWait r.key (.mmacz ext) && (macTrap (s.planeAt r.core 0) u 9 0 true).isSome), c.Meets :=
  meets_all (by decide +kernel)

def load (t : Nat) (scales : Bool) : PlaneLoad := ⟨(ready (.nop ext)).who 2 (unitOf (ready (.nop ext))), scales, t, 32, 0, [[scratchKey 0 0]]⟩
def waits (w : Wait) (s : State) : State := s.setSlot 32 ⟨.waiting w 0, none, some (unitOf s)⟩
def port (l : List PortEntry) (s : State) : State := s.setArray 2 { s.arrayAt 2 with port := l }
def reply4 : Reply := ⟨[.scalar 4 99], 0x20000C, none⟩
/-- A parameter block of two heads of size 4, `t` steps, `td` of them done. -/
def quad (v : Nat) : List Nat := (bytesOfNat v 8).map (·.toNat)
def local_ (off : Nat) : Nat := 0xF0 * 2 ^ 56 + off
def block (t td : Nat) (s : State) : State := scratch 0x2000 ([2, 2, 4, 0, 6, 0, 0, 0] ++ quad t ++
  [0x2100, 0x2200, 0x2300, 0x2400, 0x2500, 0x2600, 0x2700].flatMap (fun o => quad (local_ o)) ++ quad td ++ List.replicate 48 0) s
def pointed (u : Ctx) : Ctx := { u.setReg 2 0xF000000000002000 with ssmPtr := some 0xF000000000002000 }
def unpointed (u : Ctx) : Ctx := u.setReg 2 0xF000000000002000
/-- The block is read, and its check answers `bad`. -/
def blockReads (td : Option Nat) (bad : Bool) (s : State) (r : SlotRef) (u : Ctx) : Bool :=
  match s.begun.drain u.key with
  | .ok x => (match x.blockRead r.core u.begun 0xF000000000002000 128 128 with
    | .ok _ bs => (decide (ssmCheck 0xF000000000002000 (ssmBlock bs) ≠ 0)) == bad && (match td with
      | some n => decide ((ssmBlock bs).tdone = n)
      | none => true)
    | _ => false)
  | _ => false
def held (o : Nat) (s : State) : State := s.setArray 2 { s.arrayAt 2 with holder := some o }
theorem witness_StateSpaceInstructions : ∀ c ∈
    cases [.ssmCfg] (g := unpointed) (h := block 4 0) (p := blockReads (some 0) false) ++
    cases [.ssmCfg] (g := unpointed) (h := block 0 4) (p := blockReads none true) ++
    cases [.ssmRun, .ssmSt, .ssmStat] (g := unpointed) (h := block 4 0) (p := fun _ _ u => u.ssmPtr.isNone) ++
    cases [.ssmRun] (g := pointed) (h := block 0 4) (p := blockReads none true) ++
    cases [.ssmSt] (g := pointed) (h := block 0 4) (p := blockReads none true) ++
    cases [.ssmRun] (g := pointed) (h := block 4 4) (p := blockReads (some 4) false) ++
    cases [.ssmRun] (g := pointed) (h := block 4 0) (p := fun s r u => blockReads (some 0) false s r u &&
      (s.arrayAt r.core).holder.isNone && (s.arrayAt r.core).waiters.isEmpty && !s.planesWait r.key (.ssmRun (legal .ssmRun)) &&
      (match s.begun.drain u.key with
      | .ok x => (match x.blockRead r.core u.begun 0xF000000000002000 128 128 with
        | .ok t bs => (match t.blockRead r.core u.begun (ssmBlock bs).ha (4 * (ssmBlock bs).n * (ssmBlock bs).p) 4 with
          | .ok _ _ => true
          | _ => false)
        | _ => false)
      | _ => false)) ++
    cases [.ssmRun] (g := pointed) (h := fun s => held 77 (block 4 0 s)) (p := fun s r u => blockReads (some 0) false s r u &&
      decide ((s.arrayAt r.core).holder = some 77) && !(s.arrayAt r.core).waiters.contains u.key) ++
    cases [.ssmStat] (g := pointed) (h := block 4 0) (p := fun s r u => match s.begun.drain u.key with
      | .ok x => (match x.blockRead r.core u.begun 0xF000000000002048 8 8 with
        | .ok _ _ => true
        | _ => false)
      | _ => false) ++
    cases [.ssmSt] (g := fun u => (pointed u).setReg 2 0xF000000000003000) (h := block 4 0) (p := fun s r u =>
      blockReads (some 0) false s r u && (match s.begun.drain u.key with
      | .ok x => (match x.blockRead r.core u.begun 0xF000000000002000 128 128 with
        | .ok t bs => (match t.blockRead r.core u.begun (ssmBlock bs).ha (4 * (ssmBlock bs).n * (ssmBlock bs).p) 4 with
          | .ok y _ => (match y.blockWrite r.core u.begun 0xF000000000003000
              (List.replicate (4 * (ssmBlock bs).n * (ssmBlock bs).p) 0) 4 with
            | .ok _ [] => true
            | _ => false)
          | _ => false)
        | _ => false)
      | _ => false)), c.Meets := meets_all (by decide +kernel)

def portState (l : List PortEntry) : State := port l (ready (.nop ext))
def swapState : State := (fun s => { s with ck := 1 }) <| waits (.swapPlanes 0x20000C) (planes 11 (portState [.swap (unitOf (ready (.nop ext))).key 1]))
def macState : State := waits (.mmac reply4) (ready (.nop ext))
/-- A run whose engine has read the block for its chunk, or has not. -/
def runState (t td : Nat) (read : Bool) : State :=
  let s := ready (.nop ext) pointed
  let x := block t td (held (unitOf s).key (waits (.ssmRun 4 5 0x20000C) s))
  if read then x.setArray 2 { x.arrayAt 2 with block := (List.range 128).map fun i => x.byteAt (scratchKey 0 (0x2000 + i)) } else x
theorem witness_ArrayAndStateSpaceEvents :
    (∀ l ∈ [load 1 false, load 11 true], (((portState [.load l 0]).arrayAt 2).port = [.load l 0]) ∧
      (match ((portState [.load l 0]).readParts l.who l.parts).1 with
      | .ok _ _ => true
      | _ => false) = true) ∧
    (let u := unitOf (ready (.nop ext))
     (swapState.arrayAt 2).port = [.swap u.key 1] ∧ (swapState.arrayAt 2).lastE < swapState.ck ∧
      swapState.heldEarlier 2 1 usesPlanes = false ∧ swapState.haltedTag u.tag = false ∧ FMap.wf Plane.empty swapState.fab.planes = true ∧
      swapTrap (swapState.planeAt 2 1) = none ∧ swapState.findUnit u.key = some (32, swapState.slotAt 32, u) ∧
      (swapState.slotAt 32).unit = some u ∧ (swapState.slotAt 32).mode = .waiting (.swapPlanes 0x20000C) 0) ∧
    (macState.nextMmac 2 = some (32, macState.slotAt 32) ∧
      ((macState.slotAt 32).unit.map fun u => (u.doomed, macState.haltedTag u.tag)) = some (none, false)) ∧
    (∀ p ∈ [(8, 0, true), (8, 0, false), (4, 4, false), (0, 4, false)],
      let s := runState p.1 p.2.1 p.2.2
      let u := (s.unitAt ⟨2, 0⟩).getD (unitOf s)
      let b := (s.arrayAt 2).block
      (s.arrayAt 2).holder = some u.key ∧ s.findUnit u.key = some (32, s.slotAt 32, u) ∧
        (s.slotAt 32).mode = .waiting (.ssmRun 4 5 0x20000C) 0 ∧ u.ssmPtr = some 0xF000000000002000 ∧ b.isEmpty = !p.2.2 ∧
        s.haltedTag u.tag = false ∧
        (match s.ssmChunk 2 u 0xF000000000002000 (ssmBlock b) (s.arrayAt 2).h0 with
        | .ok _ => true
        | _ => !p.2.2) = true ∧
        (match s.blockRead 2 u 0xF000000000002000 128 128 with
        | .ok t bs => decide (ssmCheck 0xF000000000002000 (ssmBlock bs) = 0) == decide (p.1 ≠ 0) &&
          decide ((ssmBlock bs).tdone = (ssmBlock bs).t) == decide (p.1 = 4) && (decide (p.1 ≠ 8) ||
            (match t.blockRead 2 u (ssmBlock bs).ha (4 * (ssmBlock bs).n * (ssmBlock bs).p) 4 with
            | .ok _ _ => true
            | _ => false))
        | _ => false) = true) := by decide +kernel

theorem witness_IntegerMacIsExactThenClamped : [1, 2, 250].length = [77, 200, 250].length := rfl

/-! ## Engines, windows and messages -/

/-- The counter operand passes its check. -/
def counts (f : Fields) (s : State) (r : SlotRef) (u : Ctx) : Bool :=
  decide (f.e = 0xFF) || (match s.checkAddr u (tileOf r.core) (u.reg f.e.toNat) ⟨8, true, false, 8⟩ with
    | .ok _ => true
    | _ => false)
def at2000 (n c : Word) (u : Ctx) : Ctx := (((u.setReg 2 0xF000000000001000).setReg 3 0xF000000000002000).setReg 4 n).setReg 5 c
/-- Lengths 0, 1, the last in range and the first beyond it, with and without a counter and a weight. -/
def sizes : List Word := [0, 1, 0xFFFFFFFFFF, 0x10000000000]
theorem witness_CopiesStartAnOperation : ∀ c ∈
    sizes.flatMap (fun n => cases [.cp, .cpFill] (fun f => { f with e := 0xFF }) (at2000 n 0) id (fun s r u =>
      counts { ext with e := 0xFF } s r u)) ++
    sizes.flatMap (fun n => cases [.cp, .cpFill] (fun f => { f with imm := 192 }) (at2000 n 0xF000000000003000) id (fun s r u =>
      counts { ext with e := 5 } s r u && !s.mustBorrow u)) ++
    ([12, 13, 15] : List (BitVec 22)).flatMap (fun n => cases [.cpGth, .cpSct] (fun f => { f with e := 0xFF, imm := n }) (at2000 4 0) id
      (fun s r u => counts { ext with e := 0xFF } s r u)) ++
    cases [.cpSlab] (fun f => { f with e := 0xFF }) (fun u => (at2000 1 0 u).setReg 2 0x200000) id (fun s r u =>
      decide (s.apertureOf u (tileOf r.core) (u.reg 2) = 0)) ++
    cases [.cpSlab] (fun f => { f with e := 0xFF }) (at2000 0 0) id (fun s r u =>
      decide (s.apertureOf u (tileOf r.core) (u.reg 2) = 1) && !slabOk (u.reg 4)) ++
    cases [.cpSlab] (fun f => { f with e := 0xFF }) (at2000 0x0003130000100000 0) id (fun s r u =>
      decide (s.apertureOf u (tileOf r.core) (u.reg 2) = 1) && slabOk (u.reg 4)) ++
    cases [.smerge] (g := at2000 1 0) ++ cases [.smerge] (g := at2000 1 0x300000002) (p := fun s _ u => u.reg 5 ≠ 0 && !s.mustBorrow u),
    c.Meets := meets_all (by decide +kernel)

def base : State := { ready (.nop ext) with issuing := none, agenda := [] }
def op (k : OpKind) : Op :=
  let u := unitOf (ready (.nop ext))
  { id := 9, tile := 0, core := 2, unit := u.key, uid := u.uid, geo := u.geo, job := 1, launch := 1, phase := 1, tag := 1, pc := 0x200000, token := 4,
    kind := k, done := 0, counter := none, cb := false, weight := none, stop := none, dead := false, code := 0,
    waits := none, passed := [], moved := none }
def withOp (o : Op) (h : State → State := id) : State := h (base.modWork fun w => { w with ops := [o] })
def copyOp : Op := op (.copy 0xF000000000001000 0xF000000000002000 64)
def badCopy : Op := op (.copy 0xF000000000001000 0xF500000000002000 64)
/-- The source lies in an extent that moves. -/
def absentCopy : Op := op (.copy 0xF000000000001000 (BitVec.ofNat 64 (5 * 2 ^ 21)) 64)
def endsAs (o : Op) : Option Nat :=
  let s := (withOp o).setExtent 5 { Extent.none with state := .moving, owner := 1, inst := 1, place := .dram 0, ever := true }
  match (s.modFirm fun f => { f with tenants := f.tenants.map fun t => { t with reach := [⟨5 * 2 ^ 21, 6 * 2 ^ 21, true, true, false⟩] }
      }).nextBurst o with
  | .write _ _ _ _ => some 0
  | .finished _ _ => some 1
  | .fail _ _ _ => some 2
  | .stall _ _ => some 3
def messageOp : Op := op (.message 0x40000 0 4 (some [1, 2, 3, 4]))
def fullQueue (s : State) : State := s.setMsgs 0 (List.replicate 64 ⟨1, 0, [], none, 0⟩)
def queues (h : State → State) : Option Bool :=
  let s := withOp messageOp h
  match s.drainUpto messageOp.unit messageOp.id with
  | .ok t => if t.heldBefore messageOp.unit messageOp.id then none else (t.messageCore messageOp 0x40000).map fun c => t.freePlace c && !s.earlierMessage messageOp 0x40000
  | _ => none
def collOp (fn len : Nat) : Op := op (.coll fn 0 3 (4 * 2 ^ 40) 0xF000000000001000 0xF000000000002000 len 0)
theorem witness_EngineEvents :
    (∀ o ∈ [copyOp, { copyOp with dead := true }, { copyOp with stop := some .none }, { copyOp with done := 64 }, badCopy],
      (withOp o).findOp o.id = some o) ∧
    endsAs copyOp = some 0 ∧ endsAs { copyOp with done := 64 } = some 1 ∧ endsAs badCopy = some 2 ∧ endsAs absentCopy = some 3 ∧
    (match (withOp (op (.grant 0xF000000000001000 7))).engineWrite (op (.grant 0xF000000000001000 7)) 0xF000000000001000
      (bytesOfNat 7 8) with
    | .ok _ [] => true
    | _ => false) = true ∧ (base.ctxOf (op (.grant 0 7)).unit).isSome = true ∧
    (∀ n ∈ [0, 3], (withOp { op (.window 3) with code := n }).findOp 9 = some { op (.window 3) with code := n }) ∧
    queues id = some true ∧ queues fullQueue = some false ∧
    (∀ p ∈ [(1, 128, true), (0, 2 ^ 40, false)], (withOp (collOp p.1 p.2.1)).findOp 9 = some (collOp p.1 p.2.1) ∧
      collLenOk p.1 p.2.1 = p.2.2 ∧ ((withOp (collOp p.1 p.2.1)).joined (collOp p.1 p.2.1)).length = 1) := by decide +kernel

def window (state code : Nat) (s : State) : State := s.setWindow 0 1 ⟨0, 128, 0x200000, state, code, false⟩
theorem witness_TokensWindowsAndCollectives : ∀ c ∈
    cases [.tokTest, .tokCancel] (p := fun _ _ u => !u.pend.contains 2) ++
    cases [.tokTest, .tokCancel] (g := fun u => { u with pend := [2] }) (p := fun _ _ u => u.pend.contains 2) ++
    ([0, 1, 0xFEFF0] : List Word).flatMap (fun n => cases [.winBind] (g := fun u => (u.setReg 3 0x200000).setReg 4 n) (p := fun s r u =>
      decide (s.apertureOf u (tileOf r.core) (u.reg 2) = 1) && decide (s.apertureOf u (tileOf r.core) (u.reg 3) = 0) &&
        decide (0x1000 + ((u.reg 4).toNat + 127) / 128 * 128 ≤ 2 ^ 20))) ++
    [(0, 0), (1, 0), (1, 3), (2, 0), (2, 3), (3, 0), (3, 3)].flatMap (fun x => cases [.winMark, .winDrop] (h := window x.1 x.2) (p := fun s _ _ =>
      decide ((s.windowAt 0 1).state = x.1) && decide ((s.windowAt 0 1).code = x.2))) ++ cases [.winQ] ++
    ([1, 2, 3, 4] : List (BitVec 3)).flatMap (fun n => cases [.collRed, .collBc, .collAg] (fun f => { f with scope := n }) (p := fun s _ u =>
      decide (scopeTrap u { ext with scope := n } = none) && (s.findOp s.serial).isNone)) ++
    cases [.collRed, .collBc, .collAg] (fun f => { f with scope := 6 }) (fun u => u.setReg 5 0) (p := fun s _ u =>
      decide (scopeTrap u { ext with scope := 6, e := 5 } = none) && (s.findOp s.serial).isNone), c.Meets :=
  meets_all (by decide +kernel)

def bound (ms : List Msg) (s : State) : State :=
  (s.modFab fun m => { m with binds := FMap.set none m.binds (8 * 2 + 3) (some (unitOf s).key) }).setMsgs 2 ms
def class3 (payload : List Byte) : Msg := ⟨3, 5, payload, none, 0⟩
def sends (s : State) (r : SlotRef) (u : Ctx) : Bool :=
  messageOk u (u.reg 2) (u.reg 4).toNat &&
    (s.teamTile u (tileOf r.core) ((u.reg 2).extractLsb' 0 7).toNat ((u.reg 2).extractLsb' 8 6).toNat).isSome
/-- The longest payload and one byte more; classes 6 and 7; no binding, no message, and one with and without a payload. -/
theorem witness_MessageInstructions : (∀ c ∈
    cases [.msgSend] (g := fun u => (u.setReg 2 0).setReg 4 256) (p := fun s r u => sends s r u && !s.mustBorrow u) ++
    cases [.msgSend] (g := fun u => (u.setReg 2 0).setReg 4 257) (p := fun s r u => !sends s r u) ++
    cases [.msgBind] (fun f => { f with a := 0 }) ++ cases [.msgBind] (fun f => { f with a := 6 }) ++
    cases [.msgRecv] (fun f => { f with c := 3 }) (p := fun s r u => decide (s.boundCores r u.key 3 = [])) ++
    cases [.msgRecv] (fun f => { f with c := 3 }) (h := bound []) (p := fun s r u => decide (s.boundCores r u.key 3 = [2]) && !s.queued 2 3) ++
    cases [.msgRecv] (fun f => { f with c := 3 }) (h := bound [class3 []]) (p := fun s r u =>
      decide ((s.boundCores r u.key 3).find? (fun k => s.queued k 3) = some 2)) ++
    cases [.msgRecv] (fun f => { f with c := 3 }) (h := bound [⟨2, 5, [], none, 0⟩, class3 [1, 2, 3, 4]]) (p := fun s r u =>
      decide ((s.boundCores r u.key 3).find? (fun k => s.queued k 3) = some 2) &&
      (match s.checkAddr u (tileOf r.core) (u.reg 2) (plainAcc 4 true), s.begun.drain u.key with
      | .ok keys, .ok x => (match x.performWrite (x.who r.core u) 0 keys [1, 2, 3, 4] with
        | .ok _ [] => true
        | _ => false)
      | _, _ => false)), c.Meets) ∧
    (let s := ready (.msgBind { ext with a := 7 }); s.issuing = some (slotOf s) ∧ s.unitAt (slotOf s) = some (unitOf s)) :=
  ⟨meets_all (by decide +kernel), by decide +kernel⟩

/-! ## Tasks, launches and contexts -/

def weighted (u : Ctx) : Ctx := u.setWeight (some 3)
def framed (u : Ctx) : Ctx := (weighted u).setReg 30 0xF000000000001000
def jn (n : Nat) (s : State) : State := scratch 0x1000 (quad n) s
/-- The frame may be counted, and the count is reached. -/
def countsFrame (s : State) (r : SlotRef) (u : Ctx) (write : Bool := true) : Bool :=
  decide (u.reg 30 = 0) || (match s.begun.jnCheck ⟨r, ext, 0⟩ u.begun (u.reg 30) write with
    | .ok (k :: keys) => (match s.begun.drain u.key with
      | .ok x => (match x.performAtHome (x.who r.core u) (k :: keys) true (fun b => some b) with
        | .ok _ old => decide (old.length = 8)
        | _ => false)
      | _ => false)
    | _ => false)
def continuation (where_ : Option Word) (s : State) : State := s.modFab fun f => { f with
  deques := FMap.set [] f.deques 2 [⟨1, 1, 1, 4, (unitOf s).uid, 0xF000000000003000, 0x200040, 0, where_⟩] }
/-- An extent that moves, which the tenant may read. -/
def moving (s : State) : State := (s.setExtent 5 { Extent.none with state := .moving, owner := 1, inst := 1, place := .dram 0, ever := true }).modFirm
  fun f => { f with tenants := f.tenants.map fun t => { t with reach := [⟨5 * 2 ^ 21, 6 * 2 ^ 21, true, true, false⟩] } }
/-- What a pop finds: nothing, an entry, or one that it must wait for. -/
def pops (s : State) (r : SlotRef) (u : Ctx) : Nat :=
  match s.popEntry r.core u with
  | .none => 1
  | .ok _ _ => 2
  | .wait _ _ => 3
def spawn : Instr := .spawn { Fields.zero with imm := 8 }
theorem witness_TaskInstructions : ∀ c ∈
    [weighted, framed].flatMap (fun g => [{ i := spawn, g := g, h := jn 5, p := fun s r u => countsFrame s r u && !s.mustBorrow u &&
      (match s.begun.makeRoom r.core with
      | .ok _ => true
      | _ => false) }]) ++
    cases [.sync] (g := weighted) (p := fun _ _ u => u.reg 30 = 0) ++
    cases [.sync] (g := framed) (h := jn 0) (p := fun s r u => decide (u.reg 30 ≠ 0) && countsFrame s r u false) ++
    cases [.sync] (g := framed) (h := jn 1) (p := fun s r u => decide (u.reg 30 ≠ 0) && countsFrame s r u false) ++
    cases [.done] (g := weighted) (p := fun s r u => countsFrame s r u && decide (pops s r u = 1)) ++
    cases [.done] (g := framed) (h := fun s => continuation none (jn 5 s)) (p := fun s r u => countsFrame s r u && decide (pops s r u = 2)) ++
    ([(none, 2), (some (BitVec.ofNat 64 (5 * 2 ^ 21)), 3)] : List (Option Word × Nat)).flatMap (fun x => cases [.done]
      (g := fun u => { weighted u with popping := true }) (h := fun s => continuation x.1 (moving s)) (p := fun s r u => u.popping &&
        decide (pops s r u = x.2))) ++
    cases [.done] (g := fun u => { weighted u with popping := true }) (p := fun s r u => decide (pops s r u = 1)),
    c.Meets := meets_all (by decide +kernel)

def task (frame : Nat) (s : State) : State := scratch 0x1010 (quad 0x200041 ++ quad frame ++ quad 5 ++ quad 0) s
def grid (n : Nat) (s : State) : State := s.modWork fun w => { w with launches := w.launches.map fun l => { l with
  next := n, desc := { l.desc with den := true, dnx := 3, dny := 2 } } }
def phases (d e r : Nat) (s : State) : State := s.modWork fun w => { w with phases := [⟨⟨1, 1⟩, d, e, r, false, false, 0⟩] }
/-- The last coordinate of the grid and one beyond it; a quiet phase and one that is not. -/
theorem witness_WorkInstructions : ∀ c ∈
    [0, local_ 0x1000].flatMap (fun fr => cases [.post] (g := weighted) (h := fun s => jn 5 (task fr s)) (p := fun s r u =>
      !s.mustBorrow u && (match s.begun.checkAddr u.begun (tileOf r.core) (u.reg 2) (plainAcc 32 false) with
      | .ok keys => s.inReach (s.who r.core u).tag keys false && (match s.begun.performRead (s.who r.core u) keys with
        | .ok _ bs => decide (natOfBytes bs / 2 ^ 64 % 2 ^ 64 = fr)
        | _ => false)
      | _ => false))) ++
    cases [.quietWait] (g := fun u => u.setWeight none) (h := phases 63 8 8) (p := fun s _ u => s.phaseQuiet u.phaseId && u.weight.isNone) ++
    cases [.quietWait] (g := fun u => u.setWeight none) (h := phases 63 8 0) (p := fun s _ u => !s.phaseQuiet u.phaseId && u.weight.isNone) ++
    cases [.quietWait] (g := weighted) (p := fun _ _ u => decide (u.weight = some 3)) ++
    [0, 5, 6].flatMap (fun n => cases [.grant] (h := grid n) (p := fun s r u =>
      decide (s.apertureOf u (tileOf r.core) (BitVec.ofNat 64 ((u.reg 2).toNat / 8 * 8)) = 1) && (match s.launch u.launchId with
        | some l => l.desc.den && (decide (l.next < l.desc.dnx * l.desc.dny) == decide (n < 6))
        | none => false))) ++ cases [.grant], c.Meets := meets_all (by decide +kernel)

def image : Image := ⟨0x200000, 1, 1, 1, [⟨0x200040, 1, 1, 1, 1, 1, false, 1, 1, 1, 0, .p16, 0, [], []⟩], [], [], [], []⟩
def descriptor (s : State) : State := scratch 0x1080 (quad 0x200040 ++ quad 0 ++ quad (3 * 2 ^ 32) ++ quad 0 ++ List.replicate 96 0)
  (s.modStore fun m => { m with images := [image] })
/-- The descriptor is read; `good` says that it passes its checks. -/
def describes (good : Bool) (s : State) (r : SlotRef) (u : Ctx) : Bool :=
  match s.begun.drain u.key, s.job u.job with
  | .ok x, some j => (match x.checkAddr u.begun (tileOf r.core) (u.reg 2) (plainAcc 128 false) with
    | .ok keys => x.inReach (s.who r.core u).tag keys false && (match x.performRead (s.who r.core u) keys with
      | .ok y bs => (y.checkDesc j (natOfBytes bs)).isSome == good
      | _ => false)
    | _ => false)
  | _, _ => false
def twoLaunches (s : State) : State := s.modWork fun w => { w with
  launches := w.launches ++ (w.launches.map fun l => { l with id := ⟨1, 2⟩, state := .ready, graph := 2, phase := 2 })
  phases := ⟨⟨1, 2⟩, 3, 8, 0, false, false, 0⟩ :: w.phases }
def live (level : Nat) (s : State) (u : Ctx) : Bool :=
  let h := (u.reg 2).toNat
  s.targetLive u.job level (if h = 0 then s.ownTarget u level else h)
theorem witness_LaunchAndCancel : ∀ c ∈
    cases [.lnch] (h := descriptor) (p := fun s r u => describes false s r u && decide ((u.reg 2).toNat % 128 ≠ 0)) ++
    cases [.lnch] (g := fun u => u.setReg 2 0xF000000000001080) (p := fun s r u => describes false s r u &&
      decide ((u.reg 2).toNat % 128 = 0)) ++
    cases [.lnch] (g := fun u => weighted (u.setReg 2 0xF000000000001080)) (h := descriptor) (p := fun s r u => describes true s r u &&
      !s.mustBorrow u) ++
    ([0, 1, 2, 3] : List (BitVec 4)).flatMap (fun n => cases [.cancel] (fun f => { f with fn := n }) (fun u => u.setReg 2 99)
      (p := fun s _ u => !live n.toNat s u)) ++
    ([0, 1, 2] : List (BitVec 4)).flatMap (fun n => cases [.cancel] (fun f => { f with fn := n }) (fun u => u.setReg 2 2) twoLaunches
      (fun s _ u => live n.toNat s u)) ++
    cases [.cancel] (fun f => { f with fn := 3 }) (fun u => u.setReg 2 0) id (fun s _ u => live 3 s u), c.Meets := meets_all (by decide +kernel)

def fullCore (s : State) : State := (List.range 15).foldl (fun s k => withUnit (33 + k) (.ready 0) s) s
theorem witness_ContextZeroControlsItsCore : (∀ c ∈
    cases [.ctxStart] (h := fullCore) (p := fun s r _ => decide (r.slot = 0) && (s.placeSlot r.core).isNone) ++
    cases [.ctxStart] (p := fun s r u => decide (r.slot = 0) && (s.placeSlot r.core).isSome && !s.inOwnCode (tileOf r.core) (u.reg 2)) ++
    cases [.ctxStart] (g := fun u => u.setReg 2 0x200000) (p := fun s r u => decide (r.slot = 0) && decide (s.placeSlot r.core = some 1) &&
      s.inOwnCode (tileOf r.core) (u.reg 2)) ++
    cases [.ctxReap] (fun f => { f with b := 15 }) (p := fun s r _ => decide (r.slot = 0) && decide (s.slotAt 47 = Slot.empty)) ++
    cases [.ctxReap] (fun f => { f with b := 3 }) (h := withUnit 35 (.ready 0)) (p := fun s r _ => decide (r.slot = 0) &&
      (s.slotAt 35).unit.isSome) ++
    cases [.ctxPart] (fun f => { f with b := 8 }) (h := withUnit 35 (.ready 0)) (p := fun s r _ => decide (r.slot = 0) &&
      decide (s.quiescence (tileOf r.core) ≠ 0)) ++
    ([0, 4, 5, 8, 16, 63] : List (BitVec 8)).flatMap (fun n => cases [.ctxPart] (fun f => { f with b := n }) (p := fun s r _ =>
      decide (r.slot = 0) && decide (s.quiescence (tileOf r.core) = 0))) ++
    cases [.ctxStart, .ctxReap, .ctxPart] (h := inSlot1) (p := fun _ r _ => r.slot ≠ 0), c.Meets) ∧
    (∀ n ∈ [(0 : BitVec 8), 63], checkFields .p16 (.ctxPart (legal .ctxPart fun f => { f with b := n })) = .ok) :=
  ⟨meets_all (by decide +kernel), by decide +kernel⟩

end Sys2Proof.Tests.UnitsWitness
end

