-- ==== Sys2Proof/Tests/WitnessVector.lean ====
section
/-!
SUPPORT. States and operands that meet the hypotheses of the statements about vector, conversion, matrix and state-space instructions.
Each theorem is named after its statement; a list has one case for each clause.
-/
namespace Sys2Proof.Tests.VectorWitness

open Sys2Proof Sys2Proof.Machine

set_option Elab.async false

/-- v4 to v7 carry the tags given, with bits in their lowest lanes; m1 selects even lanes, m2 none. -/
def rows (ts : List Nat) (u : Ctx) : Ctx :=
  (ts.zipIdx).foldl (fun u p => u.setRow (p.2 + 4) (BitVec.ofNat 2048 (0x4248420042084084 * (p.2 + 3))) (BitVec.ofNat 4 p.1))
    { u with masks := FMap.set 0 u.masks 1 (BitVec.ofNat 256 0x5555555555555555) }
/-- Every row carries one tag. -/
def rowsOf (t : Nat) : Ctx → Ctx := rows [t, t, t, t]
/-- Instructions of one shape under each type of a list, their rows carrying its tag. -/
def typed (mks : List (Fields → Instr)) (tys : List Nat) (g : Fields → Fields) (p : Fields → State → SlotRef → Ctx → Bool) : List Case :=
  mks.flatMap fun mk => tys.flatMap fun ty =>
    let h (f : Fields) : Fields := g { f with ty := BitVec.ofNat 5 ty }
    cases [mk] h (rowsOf (ty % 16)) id (p (legal mk h))
/-- The tags of the rows read are accepted, and those of a merged destination. -/
def tagsOk (rows : Fields → List Nat) (f : Fields) (_ : State) (_ : SlotRef) (u : Ctx) : Bool :=
  let t := tagOfTy f.ty.toNat
  decide (tagFault u (dataNeeds f [t] (rows f) ++ mergeNeed f false t) = none)
def rB (f : Fields) : List Nat := [f.b.toNat]
def rBC (f : Fields) : List Nat := [f.b.toNat, f.c.toNat]
def rBCD (f : Fields) : List Nat := [f.b.toNat, f.c.toNat, f.d.toNat]

/-- The rows an instruction of one to three sources reads: those whose fields it uses. -/
def rUsed (f : Fields) : List Nat := (rBCD f).filter (· ≠ 0)

def arithOps : List (Fields → Instr) := [.vadd, .vsub, .vmul, .vfma, .vfms, .vneg, .vabs, .vmin, .vmax]
def divOps : List (Fields → Instr) := [.vdiv, .vsqrt, .vrcp, .vrsq]
/-- Integer, IEEE, tapered and E64 lanes, saturated and merged, and a row with a tag that is not accepted. -/
theorem witness_VectorArithmeticLanes : ∀ c ∈
    typed arithOps [1, 4, 6, 9, 20] id (tagsOk rUsed) ++ typed [.vadd, .vsub, .vneg, .vabs, .vmin, .vmax] [13] id (tagsOk rUsed) ++
    typed (arithOps.take 7) [1, 20] (fun f => { f with sat := true }) (tagsOk rUsed) ++
    typed arithOps [6] (fun f => { f with lmask := 1 }) (tagsOk rUsed) ++
    typed divOps [6, 8, 10] id (fun f s r u => tagsOk rUsed f s r u && !isIntTy f.ty.toNat) ++
    cases arithOps (fun f => { f with ty := 6 }) (rowsOf 3) id (fun _ _ u => (tagFault u (dataNeeds ext [6] [5])).isSome),
    c.Meets := meets_all (by decide +kernel)

theorem witness_VectorFunctionAndBitLanes : ∀ c ∈
    typed [.vexp2, .vlog2, .vtanh, .vsig] [6, 9] id (tagsOk rB) ++
    typed [.vpopc, .vclz, .vshl, .vshr, .vsar, .vclmul] [1, 18] (fun f => { f with lmask := 2 }) (tagsOk rUsed) ++
    typed [.vshl, .vshr, .vsar] [2] (fun f => { f with c := 0xFF, imm := 15 }) (tagsOk rB) ++
    typed [.vbc] [2, 7] id (tagsOk fun _ => []) ++ typed [.vsel] [2, 6] id (tagsOk fun f => [f.c.toNat, f.d.toNat]), c.Meets :=
  meets_all (by decide +kernel)

/-- Whole rows and masked ones, every operation of `mop`, and a row whose upper bits are 0. -/
theorem witness_RowTagAndMaskResults : ∀ c ∈
    typed [.vand, .vor, .vxor, .vandn] [0] id (fun f _ _ u => decide (tagFault u (dataNeeds f anyTag (rBC f) ++ mergeNeed f false 0) = none)) ++
    cases [.vand, .vor, .vxor, .vandn] (fun f => { f with ty := 2, lmask := 1 }) (rows [0, 2, 2, 2]) id (fun _ _ u =>
      decide (tagFault u (mergeNeed (legal .vand fun f => { f with ty := 2, lmask := 1 }) false 0) = none)) ++
    cases [.vmov] (g := rowsOf 2) ++
    cases [.vmov] (fun f => { f with lmask := 1 }) (rowsOf 2) id (fun _ _ u => decide (tagFault u (mergeNeed
      (legal .vmov fun f => { f with lmask := 1 }) false 2) = none)) ++
    cases [.vtag, .mcnt] (g := rowsOf 2) ++ typed [.vretag] [3] id (tagsOk fun _ => []) ++
    cases [.vretag] (fun f => { f with ty := 14 }) (rowsOf 2) id (fun _ _ u => decide ((u.row 5).extractLsb' 256 1792 = 0)) ++
    (List.range 10).flatMap (fun n => cases [.mop] (fun f => { f with imm := BitVec.ofNat 22 n }) (rows [2, 14, 14, 14])
      (p := fun _ _ u => decide (u.tagOf 5 = 14))), c.Meets := meets_all (by decide +kernel)

def lanes (f : Fields) : Nat := lanesOf (tagOfTy f.ty.toNat)
/-- The last lane and one beyond it, active and inactive lanes, empty and full reductions. -/
theorem witness_LaneMoveCompareAndReduce : ∀ c ∈
    [127, 128].flatMap (fun n => cases [.vins, .vext] (fun f => { f with ty := 2 }) (fun u => (rowsOf 2 u).setReg 3 n) id
      (fun _ _ u => decide ((u.reg 3).toNat < 128) == decide (n = (127 : Word)) &&
        decide (tagFault u (dataNeeds ext [2] [5] ++ mergeNeed ext true 2) = none))) ++
    cases [.vins, .vext] (fun f => { f with ty := 2, lmask := 2 }) (rowsOf 2) id (fun _ _ u =>
      !laneActive u (legal .vext fun f => { f with ty := 2, lmask := 2 }) 5) ++
    cases [.vext] (fun f => { f with ty := 2, lmask := 2, pz := true }) (rowsOf 2) ++
    typed [.vcmp] [1, 6] id (tagsOk rBC) ++
    typed [.vred, .vscan, .vxscan] [1, 6, 18] (fun f => { f with lmask := 1 }) (tagsOk rB) ++
    typed [.vred, .vscan, .vxscan] [2] (fun f => { f with lmask := 2 }) (tagsOk rB) ++
    [1, 2, 3, 4, 5].flatMap (fun n => typed [.vred, .vscan, .vxscan] [2] (fun f => { f with imm := n, lmask := 1 }) (tagsOk rB)),
    c.Meets := meets_all (by decide +kernel)

/-- Without a mask, and with one whose sources are inactive, with and without PZ. -/
theorem witness_PermutesMoveLanes : ∀ c ∈
    typed [.vperm, .vshuf] [2] id (tagsOk rBC) ++ typed [.vrot] [2] id (tagsOk rB) ++
    [true, false].flatMap (fun z => typed [.vperm, .vshuf, .vrot] [2] (fun f => { f with lmask := 1, pz := z }) (tagsOk rB)) ++
    [1, 2, 3].flatMap (fun n => typed [.vshuf] [2] (fun f => { f with imm := n }) (tagsOk rBC)) ++
    [4, 5].flatMap (fun n => typed [.vshuf] [2] (fun f => { f with imm := n, c := 0 }) (tagsOk rB)) ++
    typed [.vrot] [2] (fun f => { f with c := 0xFF, imm := 255 }) (tagsOk rB), c.Meets := meets_all (by decide +kernel)

/-- Widening and narrowing, both grouped formats, first and last parts. -/
def convert (mk : Fields → Instr) (ty : BitVec 5) (st : BitVec 4) (imm : BitVec 22) (needs : Fields → List TagNeed) : List Case :=
  let g (f : Fields) : Fields := { f with ty := ty, etag := st, imm := imm }
  cases [mk] g (rows (if mk (legal mk g) = .vpack (legal mk g) then [tagOfTy ty.toNat, st.toNat, st.toNat, 1] else
      [tagOfTy ty.toNat, st.toNat, 5, 1])) id
    (fun _ _ u => decide (tagFault u (dataNeeds (legal mk g) [st.toNat] [5] ++ needs (legal mk g)) = none))
def groupNeeds (f : Fields) : List TagNeed := [⟨f.c.toNat, [5]⟩, ⟨f.d.toNat, [1]⟩]
theorem witness_ConversionsConvertLanes : ∀ c ∈
    convert .vcvt 6 2 0 (fun _ => []) ++ convert .vcvt 6 2 1 (fun _ => []) ++ convert .vcvt 9 6 1 (fun f => mergeNeed f true 9) ++
    convert .vquant 11 6 0 groupNeeds ++ convert .vquant 12 6 3 groupNeeds ++ convert .vdeq 6 11 7 groupNeeds ++
    convert .vdeq 6 12 0 groupNeeds ++ convert .vpack 1 2 0 (fun _ => []) ++ convert .vpack 11 12 0 (fun _ => []) ++
    convert .vunpk 2 1 1 (fun _ => []) ++ convert .vunpk 12 11 0 (fun _ => []), c.Meets := meets_all (by decide +kernel)

/-- The lanes are read, or the bytes of the lanes found. -/
def vecBytes (u : Ctx) : Ctx := (rowsOf 2 u).setReg 2 0xF000000000001000
def lanePlaces (f : Fields) (u : Ctx) (n : Nat) : List (Nat × Word) :=
  if f.ty = 0 then (List.range 16).map fun i => (i, u.reg 2 + BitVec.ofNat 64 (16 * i))
  else ((List.range (lanes f)).filter (laneActive u f)).map fun i => (i, u.reg 2 + BitVec.ofNat 64 (n * i))
def laneLoad (n : Nat) (f : Fields) (s : State) (r : SlotRef) (u : Ctx) : Bool :=
  decide (scopeTrap u f = none) && (match s.begun.readLanes ⟨r, f, 0⟩ u.begun n (lanePlaces f u n) with
    | .ok _ g => g.all (·.2.isSome) && decide (g.length = (lanePlaces f u n).length)
    | _ => false)
def laneStore (n : Nat) (f : Fields) (s : State) (r : SlotRef) (u : Ctx) : Bool :=
  decide (scopeTrap u f = none) && decide (s.buffered r.core < 32) && decide (watchTrap u n (lanePlaces f u n) = none) &&
    (match s.begun.storeCells ⟨r, f, 0⟩ u.begun n (lanePlaces f u n) with
    | .ok cells => decide (cells.length = n * (lanePlaces f u n).length)
    | _ => false)
/-- All lanes, some, none, and the sixteen pieces of TY 0. -/
def vecMem (mks : List (Fields → Instr)) (p : Nat → Fields → State → SlotRef → Ctx → Bool) (c : Fields → Fields) : List Case :=
  mks.flatMap fun mk => [0, 1, 2].flatMap fun m =>
    let g (f : Fields) : Fields := c { f with ty := 2, lmask := m }
    cases [mk] g vecBytes id (p 2 (legal mk g))
theorem witness_VectorLoadsAndStores : ∀ c ∈
    vecMem [.vld, .vlds, .vldg] laneLoad id ++ vecMem [.vst, .vsst, .vsct] laneStore id ++
    cases [.vld] (fun f => { f with ty := 0 }) vecBytes id (laneLoad 16 (legal .vld fun f => { f with ty := 0 })) ++
    cases [.vst] (fun f => { f with ty := 0 }) vecBytes id (laneStore 16 (legal .vst fun f => { f with ty := 0 })), c.Meets :=
  meets_all (by decide +kernel)

end Sys2Proof.Tests.VectorWitness
end

section
/-!
Contexts (R71, R239 to R241): what `ctx.start`, `ctx.reap` and `ctx.part` do when nothing stops them before their own effect, and that
any slot but context zero's traps on them.
-/
namespace Sys2Proof.Machine

open Sys2Proof

variable {s : State} {r : SlotRef} {u : Ctx} {f : Fields}

/-! ## The context that `ctx.start` makes -/

/-- Clearing bits 1 and 0 of an address rounds it down to a multiple of 4. -/
theorem alignPc_eq_div_mul (w : Word) : alignPc w = BitVec.ofNat 64 (w.toNat / 4 * 4) := by
  have hmask : alignPc w = w >>> 2 <<< 2 := by
    ext i hi
    match i with
    | 0 | 1 => simp [alignPc]
    | n + 2 =>
      have hbit : (3 : Word)[n + 2] = false := by simp [BitVec.getElem_eq_testBit_toNat, Nat.testBit_add_one]
      rw [alignPc, BitVec.getElem_and, BitVec.getElem_not, hbit]
      simp [Nat.add_comm 2 n, BitVec.getLsbD_eq_getElem hi]
  rw [hmask]
  apply BitVec.eq_of_toNat_eq
  simp [Nat.shiftLeft_eq, Nat.shiftRight_eq_div_pow]

@[simp] theorem startedUnit_pc (key core slot : Nat) (pc arg : Word) :
    (startedUnit key u core slot pc arg).pc = BitVec.ofNat 64 (pc.toNat / 4 * 4) := alignPc_eq_div_mul pc

@[simp] theorem startedUnit_reg_zero (key core slot : Nat) (pc arg : Word) :
    (startedUnit key u core slot pc arg).reg 0 = arg := Ctx.reg_setReg_self _ 0 arg rfl

@[simp] theorem startedUnit_tag (key core slot : Nat) (pc arg : Word) :
    (startedUnit key u core slot pc arg).tag = u.tag := rfl

@[simp] theorem startedUnit_job (key core slot : Nat) (pc arg : Word) :
    (startedUnit key u core slot pc arg).job = u.job := rfl

@[simp] theorem startedUnit_started (key core slot : Nat) (pc arg : Word) :
    (startedUnit key u core slot pc arg).started = true := rfl

/-! ## What each instruction makes of the state once it issues -/

/-- The state after `ctx.start` has placed a unit in slot `m` of its core: eligible from the next ck, and numbered. -/
def State.unitStarted (s : State) (r : SlotRef) (u : Ctx) (f : Fields) (m : Nat) : State :=
  s.numbered.setSlot (16 * r.core + m)
    ⟨.ready (s.ck + 1), none, some (startedUnit s.serial u.begun r.core m (u.reg f.b.toNat) (u.reg f.c.toNat))⟩

theorem execCtxStart_of_issues (h : Issues s (.ctxStart f) r u) : exec (.ctxStart f) s =
    .next (finish (.ctxStart f) (envOf (.ctxStart f) r u) u.begun
      (if r.slot ≠ 0 then .trap s.begun (illegalTrap (.ctxStart f))
      else match s.placeSlot r.core with
        | none => .ok s.begun (u.begun.setReg f.a.toNat 0x8000000000000001)
        | some m =>
          if !s.inOwnCode (tileOf r.core) (u.reg f.b.toNat) then .ok s.begun (u.begun.setReg f.a.toNat 0x8000000000000002)
          else .ok (s.unitStarted r u f m) (u.begun.setReg f.a.toNat (BitVec.ofNat 64 m)))) :=
  issueInstr_runs _ h

theorem execCtxReap_of_issues (h : Issues s (.ctxReap f) r u) : exec (.ctxReap f) s =
    .next (finish (.ctxReap f) (envOf (.ctxReap f) r u) u.begun
      (if r.slot ≠ 0 then .trap s.begun (illegalTrap (.ctxReap f))
      else .ok (s.begun.reap (16 * r.core + f.b.toNat)).1
        (u.begun.setReg f.a.toNat (BitVec.ofNat 64 (s.begun.reap (16 * r.core + f.b.toNat)).2)))) :=
  issueInstr_runs _ h

/-- The partition that `ctx.part` names, when it names one. -/
def partNamed (n : Nat) : Part := if n = 16 then .p16 else if n = 8 then .p8 else .p4

theorem execCtxPart_of_issues (h : Issues s (.ctxPart f) r u) : exec (.ctxPart f) s =
    .next (finish (.ctxPart f) (envOf (.ctxPart f) r u) u.begun
      (if r.slot ≠ 0 then .trap s.begun (illegalTrap (.ctxPart f))
      else if s.quiescence (tileOf r.core) ≠ 0 then
        .ok s.begun (u.begun.setReg f.a.toNat (BitVec.ofNat 64 (s.quiescence (tileOf r.core))))
      else if f.b.toNat ≠ 16 ∧ f.b.toNat ≠ 8 ∧ f.b.toNat ≠ 4 then .ok s.begun (u.begun.setReg f.a.toNat 4)
      else .ok (s.begun.repartition (tileOf r.core) (partNamed f.b.toNat))
        (if f.a.toNat < (partNamed f.b.toNat).scalars then (u.begun.trim (partNamed f.b.toNat)).setReg f.a.toNat 0
        else u.begun.trim (partNamed f.b.toNat)))) :=
  issueInstr_runs _ h

/-! ## How an issue ends -/

theorem finish_ok (i : Instr) (t : State) (v : Ctx) :
    finish i (envOf i r u) u.begun (.ok t v) = t.putUnit r { v with pc := npcOf i u } := rfl

theorem finish_illegal (i j : Instr) (t : State) :
    finish i (envOf i r u) u.begun (.trap t (illegalTrap j)) = t.trapsAt r u { cause := 1, aux := firstWord j } := rfl

theorem State.completes_begun (i : Instr) (v : Ctx) :
    s.begun.completes i r u v = s.begun.putUnit r { v with pc := npcOf i u } := rfl

/-! ## `ctx.start` (R239) -/

/-- The slot that `ctx.start` fills is not its own. -/
theorem startSlot_ne_key (h0 : r.slot = 0) {m : Nat} (hm : m ≠ 0) : 16 * r.core + m ≠ r.key := by
  simp only [SlotRef.key]
  omega

/-- The slot that `ctx.start` fills holds the new unit, eligible from the next ck. -/
theorem State.slotAt_unitStarted (m : Nat) : (s.unitStarted r u f m).slotAt (16 * r.core + m) =
    ⟨.ready (s.ck + 1), none, some (startedUnit s.serial u.begun r.core m (u.reg f.b.toNat) (u.reg f.c.toNat))⟩ :=
  State.slotAt_setSlot_self _ _ _ (by simp)

theorem ctxStart_noSlot (h : Issues s (.ctxStart f) r u) (h0 : r.slot = 0) (hp : s.placeSlot r.core = none) :
    exec (.ctxStart f) s =
      .next (s.begun.completes (.ctxStart f) r u (u.begun.setReg f.a.toNat 0x8000000000000001)) := by
  rw [execCtxStart_of_issues h, hp, if_neg (not_not_intro h0), finish_ok, State.completes_begun]

theorem ctxStart_outsideCode (h : Issues s (.ctxStart f) r u) (h0 : r.slot = 0) {m : Nat} (hp : s.placeSlot r.core = some m)
    (hc : s.inOwnCode (tileOf r.core) (u.reg f.b.toNat) = false) :
    exec (.ctxStart f) s =
      .next (s.begun.completes (.ctxStart f) r u (u.begun.setReg f.a.toNat 0x8000000000000002)) := by
  rw [execCtxStart_of_issues h, hp, hc, if_neg (not_not_intro h0)]
  rfl

theorem ctxStart_places (h : Issues s (.ctxStart f) r u) (h0 : r.slot = 0) {m : Nat} (hp : s.placeSlot r.core = some m)
    (hc : s.inOwnCode (tileOf r.core) (u.reg f.b.toNat) = true) :
    exec (.ctxStart f) s = .next ((s.unitStarted r u f m).putUnit r
      { u.begun.setReg f.a.toNat (BitVec.ofNat 64 m) with pc := npcOf (.ctxStart f) u }) := by
  rw [execCtxStart_of_issues h, hp, hc, if_neg (not_not_intro h0)]
  rfl

/-- The unit that `ctx.start` places, and what is left of the unit that issues it. -/
theorem ctxStart_effect (h : Issues s (.ctxStart f) r u) (h0 : r.slot = 0) {m : Nat} (hp : s.placeSlot r.core = some m)
    (hc : s.inOwnCode (tileOf r.core) (u.reg f.b.toNat) = true) (hm : m ≠ 0) :
    ∃ t v, exec (.ctxStart f) s = .next t ∧ t.unitAt ⟨r.core, m⟩ = some v ∧
      (t.slotAt (16 * r.core + m)).mode = .ready (s.ck + 1) ∧ v.started = true ∧
      v.pc = BitVec.ofNat 64 ((u.reg f.b.toNat).toNat / 4 * 4) ∧ v.reg 0 = u.reg f.c.toNat ∧ v.tag = u.tag ∧ v.job = u.job ∧
      (∃ w, t.unitAt r = some w ∧ w.pc = npcOf (.ctxStart f) u ∧
        (FMap.wf 0 u.regs = true → w.reg f.a.toNat = BitVec.ofNat 64 m) ∧ ∀ n, n ≠ f.a.toNat → w.reg n = u.reg n) ∧
      t.store = s.store := by
  have hslot (w : Ctx) := (State.slotAt_putUnit_ne (s.unitStarted r u f m) r w _ (startSlot_ne_key h0 hm)).trans
    (State.slotAt_unitStarted m)
  refine ⟨_, startedUnit s.serial u.begun r.core m (u.reg f.b.toNat) (u.reg f.c.toNat), ctxStart_places h h0 hp hc,
    congrArg Slot.unit (hslot _), congrArg Slot.mode (hslot _), startedUnit_started .., startedUnit_pc ..,
    startedUnit_reg_zero .., startedUnit_tag .., startedUnit_job .., ⟨_, State.unitAt_putUnit .., rfl, ?_, ?_⟩, rfl⟩
  · exact Ctx.reg_setReg_self u.begun _ _
  · exact fun n hn => Ctx.reg_setReg_ne u.begun _ _ _ hn

/-! ## `ctx.reap` (R240) -/

theorem State.reap_of_empty {k : Nat} (hk : s.slotAt k = Slot.empty) : s.reap k = (s, 1) := by
  rw [State.reap, hk]
  rfl

theorem State.reap_of_unit {k : Nat} (hk : (s.slotAt k).unit.isSome = true) : s.reap k = (s.endSlot k .cancel, 0) := by
  obtain ⟨v, hv⟩ := Option.isSome_iff_exists.mp hk
  rw [State.reap, hv]

theorem ctxReap_empty (h : Issues s (.ctxReap f) r u) (h0 : r.slot = 0)
    (hk : s.slotAt (16 * r.core + f.b.toNat) = Slot.empty) :
    exec (.ctxReap f) s = .next (s.begun.completes (.ctxReap f) r u (u.begun.setReg f.a.toNat 1)) := by
  rw [execCtxReap_of_issues h, if_neg (not_not_intro h0), State.reap_of_empty (s := s.begun) hk, finish_ok]
  rfl

theorem ctxReap_ends (h : Issues s (.ctxReap f) r u) (h0 : r.slot = 0)
    (hk : (s.slotAt (16 * r.core + f.b.toNat)).unit.isSome = true) :
    exec (.ctxReap f) s = .next ((s.begun.endSlot (16 * r.core + f.b.toNat) .cancel).putUnit r
      { u.begun.setReg f.a.toNat 0 with pc := npcOf (.ctxReap f) u }) := by
  rw [execCtxReap_of_issues h, if_neg (not_not_intro h0), State.reap_of_unit (s := s.begun) hk, finish_ok]
  rfl

/-! ## `ctx.part` (R71, R241) -/

theorem ctxPart_notQuiescent (h : Issues s (.ctxPart f) r u) (h0 : r.slot = 0) (hq : s.quiescence (tileOf r.core) ≠ 0) :
    exec (.ctxPart f) s = .next (s.begun.completes (.ctxPart f) r u
      (u.begun.setReg f.a.toNat (BitVec.ofNat 64 (s.quiescence (tileOf r.core))))) := by
  rw [execCtxPart_of_issues h, if_neg (not_not_intro h0), if_pos hq, finish_ok, State.completes_begun]

theorem ctxPart_noPartition (h : Issues s (.ctxPart f) r u) (h0 : r.slot = 0) (hq : s.quiescence (tileOf r.core) = 0)
    (hn : f.b.toNat ≠ 16 ∧ f.b.toNat ≠ 8 ∧ f.b.toNat ≠ 4) :
    exec (.ctxPart f) s = .next (s.begun.completes (.ctxPart f) r u (u.begun.setReg f.a.toNat 4)) := by
  rw [execCtxPart_of_issues h, if_neg (not_not_intro h0), if_neg (not_not_intro hq), if_pos hn, finish_ok, State.completes_begun]

theorem ctxPart_changes (h : Issues s (.ctxPart f) r u) (h0 : r.slot = 0) (hq : s.quiescence (tileOf r.core) = 0)
    (hn : f.b.toNat = 16 ∨ f.b.toNat = 8 ∨ f.b.toNat = 4) :
    exec (.ctxPart f) s = .next ((s.begun.repartition (tileOf r.core) (partNamed f.b.toNat)).putUnit r
      { (if f.a.toNat < (partNamed f.b.toNat).scalars then (u.begun.trim (partNamed f.b.toNat)).setReg f.a.toNat 0
        else u.begun.trim (partNamed f.b.toNat)) with pc := npcOf (.ctxPart f) u }) := by
  have hnamed : ¬ (f.b.toNat ≠ 16 ∧ f.b.toNat ≠ 8 ∧ f.b.toNat ≠ 4) := by omega
  rw [execCtxPart_of_issues h, if_neg (not_not_intro h0), if_neg (not_not_intro hq), if_neg hnamed, finish_ok]

/-- Fields that pass the checks of R93 pass step 4. -/
theorem fieldsOk_of_checkFields {p : Part} {i : Instr} (h : checkFields p i = .ok) : fieldsOk (opSpec i) p i.fields = true := by
  cases hf : fieldsOk (opSpec i) p i.fields with
  | true => rfl
  | false =>
    rw [checkFields, hf] at h
    exact nomatch h

/-- Of an instruction with no memory operand, a field B that passes holds a value its role allows. -/
theorem allows_b_of_fieldsOk {spec : OpSpec} {p : Part} (hm : spec.mem = false) (h : fieldsOk spec p f = true) :
    spec.b.allows p f.b = true := by
  simp only [fieldsOk, hm, Bool.false_eq_true, ↓reduceIte, Bool.and_eq_true] at h
  obtain ⟨⟨⟨⟨⟨⟨⟨-, hb⟩, -⟩, -⟩, -⟩, -⟩, -⟩, -⟩ := h
  exact hb

/-- The partition field of `ctx.part` holds 0 to 63. -/
theorem ctxPart_field_le {p : Part} (h : checkFields p (.ctxPart f) = .ok) : f.b.toNat ≤ 63 := by
  have hb : (Role.const 0 63).allows p f.b = true :=
    allows_b_of_fieldsOk (spec := opSpec (.ctxPart f)) rfl (fieldsOk_of_checkFields h)
  simpa [Role.allows] using hb

/-! ## Any other slot (R21, R71) -/

/-- An instruction whose effect is for context zero only traps as illegal in any other slot. -/
theorem exec_illegal_of_slot_ne_zero {i : Instr} {effect : Res}
    (hx : exec i s = .next (finish i (envOf i r u) u.begun
      (if r.slot ≠ 0 then .trap s.begun (illegalTrap i) else effect)))
    (h0 : r.slot ≠ 0) : exec i s = .next (s.begun.trapsAt r u { cause := 1, aux := firstWord i }) := by
  rw [hx, if_pos h0, finish_illegal]

end Sys2Proof.Machine

open Sys2Proof Sys2Proof.Machine

/-- Settles O47, from the effect of each instruction in context zero and the trap in any other slot. -/
theorem contextZeroControlsItsCore : Obligations.ContextZeroControlsItsCore := by
  intro s r u f
  refine ⟨fun h h0 => ⟨ctxStart_noSlot h h0, fun m hp hc => ctxStart_outsideCode h h0 hp hc,
      fun m hp hc hm _ => ctxStart_effect h h0 hp hc hm⟩,
    fun h h0 => ⟨ctxReap_empty h h0, ctxReap_ends h h0⟩,
    fun h h0 => ⟨ctxPart_notQuiescent h h0, fun hq h16 h8 h4 => ctxPart_noPartition h h0 hq ⟨h16, h8, h4⟩,
      ctxPart_changes h h0⟩,
    ?barredStart, ?barredReap, ?barredPart, fun p => ctxPart_field_le⟩
  case barredStart => exact fun h h0 => ⟨_, exec_illegal_of_slot_ne_zero (execCtxStart_of_issues h) h0⟩
  case barredReap => exact fun h h0 => ⟨_, exec_illegal_of_slot_ne_zero (execCtxReap_of_issues h) h0⟩
  case barredPart => exact fun h h0 => ⟨_, exec_illegal_of_slot_ne_zero (execCtxPart_of_issues h) h0⟩
end

section
/-!
Scalar results (R104, R107, R108): what `add`, `sub` and `mul` write under a type, what `cmp`, `tst` and `gop` write into a guard, and
the fields that these instructions accept (R93 steps 4 and 5).
-/
namespace Sys2Proof.Machine

open Sys2Proof

variable {s : State} {r : SlotRef} {u : Ctx} {f : Fields} {i : Instr} {p : Part} {spec : OpSpec}

/-! ## The field checks, taken apart -/

/-- Without a memory operand, step 4 checks each operand field by its role alone. -/
theorem fieldsOk_iff (hm : spec.mem = false) : fieldsOk spec p f = true ↔
    f.fn.toNat ≤ spec.fnMax ∧ spec.b.allows p f.b = true ∧ spec.c.allows p f.c = true ∧ spec.a.allows p f.a = true ∧
      spec.d.allows p f.d = true ∧ immOk f spec.imm = true ∧ codesOk spec p f = true ∧ spec.ok = true := by
  simp only [fieldsOk, hm, Bool.false_eq_true, ↓reduceIte, Bool.and_eq_true, decide_eq_true_eq, and_assoc]

/-- The function code of an instruction that passes is one it lists (R93 step 4). -/
theorem fn_le_of_checkFields (hm : (opSpec i).mem = false) (h : checkFields p i = .ok) :
    i.fields.fn.toNat ≤ (opSpec i).fnMax :=
  ((fieldsOk_iff hm).mp (fieldsOk_of_checkFields h)).1

/-- The type code is one the instruction lists, and so is one under SAT (R81). -/
theorem types_of_checkFields (h : checkFields p i = .ok) :
    i.fields.ty.toNat ∈ (opSpec i).tys ∧ (i.fields.sat = true → i.fields.ty.toNat ∈ (opSpec i).satTys) := by
  have hf := fieldsOk_of_checkFields h
  simp only [fieldsOk, Bool.and_eq_true] at hf
  obtain ⟨⟨-, hcodes⟩, -⟩ := hf
  simp only [codesOk, Bool.and_eq_true, Bool.or_eq_true, List.contains_iff_mem] at hcodes
  obtain ⟨⟨⟨⟨⟨⟨⟨⟨⟨⟨⟨hty, -⟩, hsat⟩, -⟩, -⟩, -⟩, -⟩, -⟩, -⟩, -⟩, -⟩, -⟩ := hcodes
  exact ⟨hty, fun hs => hsat.resolve_left (by simp [hs])⟩

/-- Fields that pass step 4, with an ordering code that the class accepts, pass. -/
theorem checkFields_eq_ok (hf : fieldsOk (opSpec i) p i.fields = true) (hlt : i.fields.ord.toNat < 5)
    (hord : (opSpec i).ord.accepts i.fields.ord.toNat = true) : checkFields p i = .ok := by
  simp only [checkFields, hf, hord, Bool.not_true, Bool.false_eq_true, ↓reduceIte, if_neg (Nat.not_le.mpr hlt)]

/-! ## An instruction that completes -/

/-- An instruction whose own effect changes the issuing unit alone completes with the changed context. -/
theorem issueInstr_completes (h : Issues s i r u) {body : Env → Ctx → State → Res} {v : Ctx}
    (hb : body (envOf i r u) u.begun s.begun = .ok s.begun v) : issueInstr i body s = .next (s.completes i r u v) := by
  rw [issueInstr_runs body h, hb, finish_ok, State.completes]

/-! ## Typed arithmetic (R104) -/

/-- The low bits of an operand, read as the type reads them. -/
def readTyped (ty : Nat) (v : Word) : Int :=
  let w := laneWidth (ty % 16)
  if ty ≤ 4 then signed (v.toNat % 2 ^ w) w else ((v.toNat % 2 ^ w : Nat) : Int)

/-- The low bits of a result, extended as the type extends them. -/
def extendTyped (ty : Nat) (c : Int) : Word :=
  let w := laneWidth (ty % 16)
  if ty ≤ 4 then BitVec.ofInt 64 (signed (lowBits c w) w) else BitVec.ofNat 64 (lowBits c w)

/-- An exact result, clamped to the range of the type under SAT. -/
def saturate (sat : Bool) (ty : Nat) (t : Int) : Int := if sat then max (intLo ty) (min (intHi ty) t) else t

/-- The unit after a typed instruction on x and y. -/
def Ctx.withTypedResult (v : Ctx) (f : Fields) (op : Int → Int → Int) (x y : Word) : Ctx :=
  let ty := f.ty.toNat
  let t := op (readTyped ty x) (readTyped ty y)
  if ty = 0 then v.setReg f.a.toNat (BitVec.ofInt 64 (op x.toInt y.toInt))
  else (v.setReg f.a.toNat (extendTyped ty (saturate f.sat ty t))).setFlags (if saturate f.sat ty t = t then 0 else flSAT)

/-- No integer type has an empty range. -/
theorem intLo_le_intHi (ty : Nat) : intLo ty ≤ intHi ty := by
  have hpos (k : Nat) : (0 : Int) < 2 ^ k := Int.pow_pos (by decide)
  unfold intLo intHi
  split
  · have := hpos (laneWidth (ty % 16) - 1)
    omega
  · exact Int.le_sub_one_of_lt (hpos _)

/-- A clamp to a range that is not empty, and SAT when it changes the value. -/
theorem clampInt_eq {y lo hi : Int} (h : lo ≤ hi) :
    clampInt y lo hi = (max lo (min hi y), if max lo (min hi y) = y then 0 else flSAT) := by
  unfold clampInt
  by_cases habove : hi < y
  · rw [if_pos habove, Int.min_eq_left (Int.le_of_lt habove), Int.max_eq_right h, if_neg (Int.ne_of_lt habove)]
  · by_cases hbelow : y < lo
    · rw [if_neg habove, if_pos hbelow, Int.min_eq_right (Int.not_lt.mp habove), Int.max_eq_left (Int.le_of_lt hbelow),
        if_neg (Int.ne_of_gt hbelow)]
    · rw [if_neg habove, if_neg hbelow, Int.min_eq_right (Int.not_lt.mp habove), Int.max_eq_right (Int.not_lt.mp hbelow),
        if_pos rfl]

theorem saturate_eq_clampInt (sat : Bool) (ty : Nat) (t : Int) :
    (if sat then clampInt t (intLo ty) (intHi ty) else (t, 0)) =
      (saturate sat ty t, if saturate sat ty t = t then 0 else flSAT) := by
  cases sat with
  | false => simp [saturate]
  | true => exact clampInt_eq (intLo_le_intHi ty)

theorem typedArith_of_ne_zero (op : Int → Int → Int) {ty : Nat} (sat : Bool) (a b : Word) (h : ty ≠ 0) :
    typedArith op ty sat a b =
      (extendTyped ty (saturate sat ty (op (readTyped ty a) (readTyped ty b))),
        if saturate sat ty (op (readTyped ty a) (readTyped ty b)) = op (readTyped ty a) (readTyped ty b) then 0 else flSAT) := by
  rw [typedArith, if_neg h]
  exact congrArg (fun c : Int × Flags => (extendTyped ty c.1, c.2)) (saturate_eq_clampInt sat ty _)

@[simp] theorem Ctx.setFlags_zero (v : Ctx) : v.setFlags 0 = v := by
  simp [Ctx.setFlags]

theorem Ctx.withTypedResult_eq (v : Ctx) (f : Fields) (op : Int → Int → Int) (x y : Word) :
    (v.setReg f.a.toNat (typedArith op f.ty.toNat f.sat x y).1).setFlags (typedArith op f.ty.toNat f.sat x y).2 =
      v.withTypedResult f op x y := by
  rw [Ctx.withTypedResult]
  split
  case isTrue h => rw [h]; exact Ctx.setFlags_zero _
  case isFalse h => rw [typedArith_of_ne_zero op f.sat x y h]

theorem scalarTyped_completes (h : Issues s i r u) (hf : i.fields = f) (op : Int → Int → Int) (b : Fields → Ctx → Word) :
    scalarTyped i op b s =
      .next (s.completes i r u (u.begun.withTypedResult f op (u.reg f.b.toNat) (b f u.begun))) := by
  subst hf
  exact issueInstr_completes h (congrArg (Res.ok s.begun) (Ctx.withTypedResult_eq u.begun i.fields op _ _))

/-! ## The types that typed arithmetic accepts (R104, R81) -/

theorem mem_intTys {n : Nat} : n ∈ intTys ↔ (1 ≤ n ∧ n ≤ 4) ∨ (17 ≤ n ∧ n ≤ 20) := by
  simp only [intTys, List.mem_cons, List.not_mem_nil, or_false]
  omega

/-- An instruction that accepts type 0 and the integer types, and SAT under the integer types alone (R104). -/
def TypedScalar (spec : OpSpec) : Prop := spec.tys = 0 :: intTys ∧ spec.satTys = intTys

theorem typedScalar_of_mem (hi : i ∈ [Instr.add f, .sub f, .mul f, .addImm f, .mulImm f]) :
    i.fields = f ∧ TypedScalar (opSpec i) := by
  simp only [List.mem_cons, List.not_mem_nil, or_false] at hi
  obtain rfl | rfl | rfl | rfl | rfl := hi <;> exact ⟨rfl, rfl, rfl⟩

theorem types_of_typedScalar (hf : i.fields = f) (hs : TypedScalar (opSpec i)) (h : checkFields p i = .ok) :
    (f.ty.toNat ≤ 4 ∨ 17 ≤ f.ty.toNat ∧ f.ty.toNat ≤ 20) ∧ (f.sat = true → f.ty.toNat ≠ 0) := by
  obtain ⟨htys, hsats⟩ := hs
  obtain ⟨hty, hsat⟩ := types_of_checkFields h
  rw [hf, htys, List.mem_cons, mem_intTys] at hty
  rw [hf, hsats, mem_intTys] at hsat
  refine ⟨by omega, fun hon => ?_⟩
  have := hsat hon
  omega

/-- The fields of an extended form that holds three operands, a type, SAT and an immediate, and zeros. -/
def typedFields (a b c : BitVec 8) (imm : BitVec 22) (ty : BitVec 5) (sat : Bool) : Fields :=
  { Fields.zero with form := .ext, a := a, b := b, c := c, imm := imm, ty := ty, sat := sat }

section Accepted

variable {a b c : BitVec 8} {imm : BitVec 22} {ty : BitVec 5} {sat : Bool}

/-- Every code of these fields is 0, but for a type that is listed and for SAT. -/
theorem codesOk_typedFields (hs : TypedScalar spec) (he : spec.e = .zero) (htag : spec.etag = .zero)
    (hty : ty.toNat ≤ 4 ∨ 17 ≤ ty.toNat ∧ ty.toNat ≤ 20) (hsat : sat = true → ty ≠ 0) :
    codesOk spec p (typedFields a b c imm ty sat) = true := by
  obtain ⟨htys, hsats⟩ := hs
  have hlisted : ty.toNat = 0 ∨ ty.toNat ∈ intTys := by
    rw [mem_intTys]
    omega
  have hclamps : sat = false ∨ ty.toNat ∈ intTys := by
    cases sat with
    | false => exact .inl rfl
    | true => exact .inr (hlisted.resolve_left fun h0 => hsat rfl (BitVec.eq_of_toNat_eq h0))
  simp [codesOk, typedFields, Fields.zero, Role.allows, htys, hsats, he, htag, hlisted, hclamps]

/-- The register forms accept every scalar of the partition, with each type and SAT as listed. -/
theorem checkFields_typedRegister (hspec : opSpec i = opSpec (.add f)) (hfields : i.fields = typedFields a b c 0 ty sat)
    (ha : a.toNat < p.scalars) (hb : b.toNat < p.scalars) (hc : c.toNat < p.scalars)
    (hty : ty.toNat ≤ 4 ∨ 17 ≤ ty.toNat ∧ ty.toNat ≤ 20) (hsat : sat = true → ty ≠ 0) : checkFields p i = .ok := by
  refine checkFields_eq_ok ?_ (by rw [hfields]; exact Nat.succ_pos 4) (by rw [hspec, hfields]; rfl)
  rw [hspec, hfields, fieldsOk_iff rfl]
  exact ⟨Nat.le_refl _, decide_eq_true hb, decide_eq_true hc, decide_eq_true ha, rfl, rfl,
    codesOk_typedFields ⟨rfl, rfl⟩ rfl rfl hty hsat, rfl⟩

/-- The immediate forms accept every immediate beside them. -/
theorem checkFields_typedImmediate (hspec : opSpec i = opSpec (.addImm f)) (hfields : i.fields = typedFields a b 0 imm ty sat)
    (ha : a.toNat < p.scalars) (hb : b.toNat < p.scalars)
    (hty : ty.toNat ≤ 4 ∨ 17 ≤ ty.toNat ∧ ty.toNat ≤ 20) (hsat : sat = true → ty ≠ 0) : checkFields p i = .ok := by
  refine checkFields_eq_ok ?_ (by rw [hfields]; exact Nat.succ_pos 4) (by rw [hspec, hfields]; rfl)
  rw [hspec, hfields, fieldsOk_iff rfl]
  exact ⟨Nat.le_refl _, decide_eq_true hb, rfl, decide_eq_true ha, rfl, rfl,
    codesOk_typedFields ⟨rfl, rfl⟩ rfl rfl hty hsat, rfl⟩

end Accepted

/-! ## Guards (R107, R108) -/

theorem guardOp_completes (h : Issues s i r u) (hf : i.fields = f) (g : Fields → Ctx → Bool) :
    guardOp i g s = .next (s.completes i r u (u.begun.setGuard f.a.toNat (g f u.begun))) := by
  subst hf
  exact issueInstr_completes h rfl

/-- The ten conditions of R90 on two words, in the order of their codes. -/
def conditions (a c : Word) : List Bool :=
  [a == c, a != c, decide (a.toInt < c.toInt), decide (a.toInt ≤ c.toInt), decide (c.toInt < a.toInt),
    decide (c.toInt ≤ a.toInt), decide (a.toNat < c.toNat), decide (a.toNat ≤ c.toNat), decide (c.toNat < a.toNat),
    decide (c.toNat ≤ a.toNat)]

theorem condHolds_eq_getD {n : Nat} (hn : n ≤ 9) (a c : Word) : condHolds n a c = (conditions a c).getD n false :=
  match n, hn with
  | 0, _ | 1, _ | 2, _ | 3, _ | 4, _ | 5, _ | 6, _ | 7, _ | 8, _ | 9, _ => rfl

/-- The eight functions of R108 on two guards, in the order of their codes. -/
def guardFunctions (g h : Bool) : List Bool := [g && h, g || h, g != h, g && !h, g || !h, !g, true, false]

theorem guardFn_eq_getD {n : Nat} (hn : n ≤ 7) (g h : Bool) : guardFn n g h = (guardFunctions g h).getD n false :=
  match n, hn with
  | 0, _ | 1, _ | 2, _ | 3, _ | 4, _ | 5, _ | 6, _ | 7, _ => rfl

/-- A comparison that issues writes the condition its code names; the operands are what `x` and `y` read. -/
theorem guardOp_condHolds (h : Issues s i r u) (hf : i.fields = f) (hm : (opSpec i).mem = false) (hmax : (opSpec i).fnMax = 9)
    (x y : Fields → Ctx → Word) :
    guardOp i (fun f u => condHolds f.fn.toNat (x f u) (y f u)) s =
      .next (s.completes i r u (u.begun.setGuard f.a.toNat
        ((conditions (x f u.begun) (y f u.begun)).getD f.fn.toNat false))) := by
  have hn : f.fn.toNat ≤ 9 := hmax ▸ hf ▸ fn_le_of_checkFields hm h.fields
  rw [guardOp_completes h hf, condHolds_eq_getD hn]

/-- A guard operation that issues writes the function of its two guards that its code names. -/
theorem execGop_of_issues (h : Issues s (.gop f) r u) :
    exec (.gop f) s = .next (s.completes (.gop f) r u (u.begun.setGuard f.a.toNat
      ((guardFunctions (u.guardOf f.b.toNat) (u.guardOf f.c.toNat)).getD f.fn.toNat false))) := by
  have hn : f.fn.toNat ≤ 7 := fn_le_of_checkFields (i := .gop f) rfl h.fields
  rw [← guardFn_eq_getD hn]
  exact guardOp_completes h rfl (fun f u => guardFn f.fn.toNat (u.guardOf f.b.toNat) (u.guardOf f.c.toNat))

/-- An operand field of `gop` holds a guard, and 0 when the function does not read it. -/
theorem guardField_of_allows {c : Prop} [Decidable c] {v : BitVec 8}
    (h : (if c then Role.guardS else Role.zero).allows p v = true) : v.toNat ≤ 7 ∧ (¬ c → v = 0) := by
  by_cases hc : c
  · rw [if_pos hc] at h
    exact ⟨of_decide_eq_true h, absurd hc⟩
  · rw [if_neg hc] at h
    have hv : v = 0 := BitVec.eq_of_toNat_eq (eq_of_beq h)
    exact ⟨hv ▸ Nat.zero_le 7, fun _ => hv⟩

/-- gA is from g1 to g7; gB and gC are from g0 to g7, and 0 where the function does not read them (R108). -/
theorem gop_operands (h : checkFields p (.gop f) = .ok) :
    1 ≤ f.a.toNat ∧ f.a.toNat ≤ 7 ∧ f.b.toNat ≤ 7 ∧ f.c.toNat ≤ 7 ∧ f.fn.toNat ≤ 7 ∧ (f.fn = 5 → f.c = 0) ∧
      (f.fn = 6 ∨ f.fn = 7 → f.b = 0 ∧ f.c = 0) := by
  have hf : fieldsOk (opSpec (.gop f)) p f = true := fieldsOk_of_checkFields h
  obtain ⟨hfn, hb, hc, ha, -⟩ := (fieldsOk_iff rfl).mp hf
  obtain ⟨hb7, hb0⟩ := guardField_of_allows hb
  obtain ⟨hc7, hc0⟩ := guardField_of_allows hc
  have ha17 : 1 ≤ f.a.toNat ∧ f.a.toNat ≤ 7 := by simpa [opSpec, Role.allows] using ha
  refine ⟨ha17.1, ha17.2, hb7, hc7, hfn, fun h5 => hc0 (by simp [h5]), ?_⟩
  rintro (h6 | h7)
  · exact ⟨hb0 (by simp [h6]), hc0 (by simp [h6])⟩
  · exact ⟨hb0 (by simp [h7]), hc0 (by simp [h7])⟩

end Sys2Proof.Machine

open Sys2Proof Sys2Proof.Machine

/-- Settles O3: the typed forms complete with the clamped result, and the field checks are those of their types. -/
theorem typedArithmeticResults : Obligations.TypedArithmeticResults := by
  intro s r u f
  refine ⟨fun h => scalarTyped_completes h rfl (· + ·) regC, fun h => scalarTyped_completes h rfl (· - ·) regC,
    fun h => scalarTyped_completes h rfl (· * ·) regC, fun h => scalarTyped_completes h rfl (· + ·) immB,
    fun h => scalarTyped_completes h rfl (· * ·) immB, ?restricts, ?accepts⟩
  case restricts =>
    intro p i hi
    obtain ⟨hf, hs⟩ := typedScalar_of_mem hi
    exact types_of_typedScalar hf hs
  case accepts =>
    intro p a b c y sat ha hb hc hty hsat e n i hi
    simp only [List.mem_cons, List.not_mem_nil, or_false] at hi
    obtain rfl | rfl | rfl | himm := hi
    iterate 3 exact checkFields_typedRegister (f := e) rfl rfl ha hb hc hty hsat
    · obtain rfl | rfl := himm <;> exact checkFields_typedImmediate (f := n) rfl rfl ha hb hty hsat

/-- Settles O4: each instruction writes the value its code names, and `gop` accepts the operands of R108. -/
theorem guardResults : Obligations.GuardResults := by
  intro s r u f
  exact ⟨fun h => guardOp_condHolds h rfl rfl rfl (fun f u => u.reg f.b.toNat) (fun f u => u.reg f.c.toNat),
    fun h => guardOp_condHolds h rfl rfl rfl (fun f u => u.reg f.b.toNat) (fun f _ => immSigned f),
    fun h => guardOp_completes h rfl (fun f u => u.reg f.b.toNat &&& u.reg f.c.toNat == 0),
    fun h => guardOp_completes h rfl (fun f u => u.reg f.b.toNat &&& u.reg f.c.toNat != 0),
    execGop_of_issues, fun p => gop_operands⟩
end

section
/-!
The encoder and the decoder (R72 to R77, R89, R93 steps 1 and 2): what the decoder reads back from the fields of an encoded word, and
the refusals of words that spell no instruction.
-/
namespace Sys2Proof

/-! ## The opcode map -/

/-- A major and a minor function that select an instruction fit their fields, and the function is 0 where FN does not choose. -/
def codeFits (op fn : Nat) : Bool :=
  decide (op < 256) && decide (fn < 16) && (majorOf op).any fun m => m.multi || fn == 0

/-- The opcode map gives back the instruction from its own major, minor function and fields. -/
theorem instrOf_codeOf {i : Instr} {op fn : Nat} {f : Fields} (h : i.codeOf = some (op, fn, f)) :
    instrOf op fn f = some i ∧ codeFits op fn = true := by
  cases i <;> simp only [Instr.codeOf, Option.some.injEq, Prod.mk.injEq, reduceCtorEq] at h
  all_goals
    obtain ⟨rfl, rfl, rfl⟩ := h
    exact ⟨rfl, rfl⟩

/-- A major whose FN chooses the mnemonic has FN in its base form too, when it has one (R74). -/
theorem fmt_of_multi {op : Nat} {m : Major} (h : majorOf op = some m) (hm : m.multi = true) : m.fmt = .r ∨ m.fmt = .none := by
  unfold majorOf at h
  split at h <;> cases h <;> simp at hm ⊢

/-! ## Fields of a word -/

@[simp] theorem formOf_code (x : Form) : formOf x.code = x := by cases x <;> rfl


/-- A slice that lies above the lower part of a word is one of the upper part. -/
theorem slice_append_high {v w s l : Nat} (x : BitVec v) (y : BitVec w) (h : w ≤ s) :
    (BitVec.append x y).extractLsb' s l = x.extractLsb' (s - w) l := BitVec.extractLsb'_append_eq_of_le h

/-- A slice that lies in the lower part of a word is one of it. -/
theorem slice_append_low {v w s l : Nat} (x : BitVec v) (y : BitVec w) (h : s + l ≤ w) :
    (BitVec.append x y).extractLsb' s l = y.extractLsb' s l := BitVec.extractLsb'_append_eq_of_add_le h


/-- A value that fits a narrower field is what the field holds, extended with zeros. -/
theorem setWidth_setWidth_of_lt {n k : Nat} (x : BitVec n) (h : x.toNat < 2 ^ k) : (x.setWidth k).setWidth n = x :=
  BitVec.eq_of_toNat_eq (by
    rw [BitVec.toNat_setWidth, BitVec.toNat_setWidth, Nat.mod_eq_of_lt h, Nat.mod_eq_of_lt x.isLt])

/-- A bit that lies above the lower part of a word is one of the upper part. -/
theorem getLsbD_append_high {v w k : Nat} (x : BitVec v) (y : BitVec w) (h : w ≤ k) :
    (BitVec.append x y).getLsbD k = x.getLsbD (k - w) := by
  rw [BitVec.append_eq, BitVec.getLsbD_append, if_neg (Nat.not_lt.mpr h)]

/-- The lowest bit of a word that ends in a one-bit field is that bit. -/
theorem getLsbD_append_ofBool {v : Nat} (x : BitVec v) (b : Bool) : (BitVec.append x (BitVec.ofBool b)).getLsbD 0 = b := by
  rw [BitVec.append_eq, BitVec.getLsbD_append, if_pos Nat.zero_lt_one]
  cases b <;> rfl

/-- The two halves of a literal, low word first, are the literal (R72). -/
theorem literal_halves (x : BitVec 64) : literal (x.extractLsb' 0 32) (x.extractLsb' 32 32) = x := by
  simp [literal, BitVec.extractLsb'_append_extractLsb'_eq_extractLsb' (by rfl : 32 = 0 + 32)]

/-! ## Base forms (R74, R75) -/

section Base
variable {m : Major} (op : Nat) (fn : BitVec 4) (f : Fields)

/-- A base word holds LEN and the major in its low bits. -/
theorem head_encodeBase (h : m.fmt ≠ .none) : (encodeBase m op fn f).extractLsb' 0 2 = f.form.code ∧
    (encodeBase m op fn f).extractLsb' 2 8 = BitVec.ofNat 8 op := by
  unfold encodeBase
  cases hfmt : m.fmt <;> dsimp only [HAppend.hAppend]
  case none => exact absurd hfmt h
  all_goals
    simp only [slice_append_high, slice_append_low, Nat.reduceLeDiff, Nat.reduceAdd, Nat.reduceSub,
      BitVec.extractLsb'_eq_self, and_self]

/-- Format R holds FN in its top bits. -/
theorem fnField_encodeBase (h : m.fmt = .r) : fnField (encodeBase m op fn f) = fn := by
  unfold encodeBase fnField
  rw [h]
  dsimp only [HAppend.hAppend]
  simp only [slice_append_high, Nat.reduceLeDiff, Nat.reduceSub, BitVec.extractLsb'_eq_self]

/-- The fields of a base word are those it was made of. -/
theorem baseFields_encodeBase (h : f.fitsBase m.fmt = true) (hm : m.fmt ≠ .none) :
    baseFields m.fmt (encodeBase m op fn f) = { f with form := .base, fn := 0, lit := 0 } := by
  unfold Fields.fitsBase at h
  unfold encodeBase baseFields
  cases hfmt : m.fmt <;> simp only [hfmt, Bool.and_eq_true, beq_iff_eq, decide_eq_true_eq] at h ⊢
  case none => exact absurd hfmt hm
  all_goals
    obtain ⟨⟨⟨⟨hf, ha⟩, hb⟩, hc⟩, himm⟩ := h
    rw [← hf]
    dsimp only [HAppend.hAppend]
    simp only [slice_append_high, slice_append_low, getLsbD_append_high, getLsbD_append_ofBool, Nat.reduceLeDiff, Nat.reduceAdd, Nat.reduceSub,
      BitVec.extractLsb'_eq_self, setWidth_setWidth_of_lt f.a (k := 6) ha, setWidth_setWidth_of_lt f.b (k := 6) hb,
      setWidth_setWidth_of_lt f.c (k := 6) hc, setWidth_setWidth_of_lt f.imm himm]
    rfl
end Base

/-! ## Extended forms (R77) -/

section Extended
variable (op : Nat) (fn : BitVec 4) (f : Fields)

/-- Word 0 of an extended form. -/
def extWord0 : IWord := fn ++ f.a ++ f.b ++ f.rm ++ BitVec.ofNat 8 op ++ f.form.code

/-- Word 0 holds LEN, the major and FN. -/
theorem head_extWord0 : (extWord0 op fn f).extractLsb' 0 2 = f.form.code ∧
    (extWord0 op fn f).extractLsb' 2 8 = BitVec.ofNat 8 op ∧ fnField (extWord0 op fn f) = fn := by
  unfold extWord0 fnField
  dsimp only [HAppend.hAppend]
  simp only [slice_append_high, slice_append_low, Nat.reduceLeDiff, Nat.reduceAdd, Nat.reduceSub,
      BitVec.extractLsb'_eq_self, and_self]

/-- The words of an extended form start with word 0, and their fields are those they were made of. -/
theorem exists_encodeExt (himm : f.imm.toNat < 256) : ∃ w1 w2, encodeExt op fn f = [extWord0 op fn f, w1, w2] ∧
    extFields (extWord0 op fn f) w1 w2 = { f with form := .base, fn := 0, lit := 0 } := by
  refine ⟨_, _, rfl, ?_⟩
  unfold extWord0 extFields
  dsimp only [HAppend.hAppend]
  simp only [slice_append_high, slice_append_low, getLsbD_append_high, getLsbD_append_ofBool, Nat.reduceLeDiff, Nat.reduceAdd,
    Nat.reduceSub, BitVec.extractLsb'_eq_self, setWidth_setWidth_of_lt f.imm (k := 8) himm]
  rfl

end Extended

/-! ## Decoding what was encoded -/

/-- Word 0 of an instruction whose form its major allows, and what the words parse to: every field but FN. -/
theorem parse_encoded {m : Major} {op : Nat} {fn : BitVec 4} {f : Fields} (hallow : m.allows f.form = true)
    (hlit : (f.form.hasLit || f.lit == 0) = true)
    (hfields : (if f.form.isExt then decide (f.imm.toNat < 256) else f.fitsBase m.fmt) = true) :
    ∃ w0 ws, (if f.form.isExt then encodeExt op fn f else [encodeBase m op fn f]) ++
        (if f.form.hasLit then [f.lit.extractLsb' 0 32, f.lit.extractLsb' 32 32] else []) = w0 :: ws ∧
      w0.extractLsb' 0 2 = f.form.code ∧ w0.extractLsb' 2 8 = BitVec.ofNat 8 op ∧
      (m.hasFn f.form = true → fnField w0 = fn) ∧ parse m f.form (w0 :: ws) = some { f with fn := 0 } := by
  obtain ⟨hlen, hop, hfn⟩ := head_extWord0 op fn f
  cases hform : f.form <;> rw [hform] at hallow hlit hfields hlen <;>
    simp only [Form.hasLit, Form.isExt, Bool.false_eq_true, ↓reduceIte, Bool.false_or, Bool.true_or, beq_iff_eq, decide_eq_true_eq,
      Major.hasFn, Major.allows, Bool.and_eq_true, bne_iff_ne] at hallow hlit hfields ⊢
  case base =>
    obtain ⟨blen, bop⟩ := head_encodeBase op fn f hallow
    refine ⟨encodeBase m op fn f, [], rfl, hform ▸ blen, bop, fnField_encodeBase op fn f, ?_⟩
    rw [parse, baseFields_encodeBase op fn f hfields hallow, ← hform, ← hlit]
  case baseLit =>
    obtain ⟨blen, bop⟩ := head_encodeBase op fn f hallow.1
    refine ⟨encodeBase m op fn f, [_, _], rfl, hform ▸ blen, bop, fnField_encodeBase op fn f, ?_⟩
    rw [parse, baseFields_encodeBase op fn f hfields hallow.1, ← hform, literal_halves]
  case ext =>
    obtain ⟨w1, w2, hws, hext⟩ := exists_encodeExt op fn f hfields
    refine ⟨extWord0 op fn f, [w1, w2], by rw [hws]; rfl, hlen, hop, fun _ => hfn, ?_⟩
    rw [parse, hext, ← hform, ← hlit]
  case extLit =>
    obtain ⟨w1, w2, hws, hext⟩ := exists_encodeExt op fn f hfields
    refine ⟨extWord0 op fn f, [w1, w2, _, _], by rw [hws]; rfl, hlen, hop, fun _ => hfn, ?_⟩
    rw [parse, hext, ← hform, literal_halves]

/-- A base form of any format but R has no FN (R74). -/
theorem fn_eq_zero_of_fitsBase {fmt : BaseFmt} {f : Fields} (h : f.fitsBase fmt = true) (hr : fmt ≠ .r) : f.fn = 0 := by
  unfold Fields.fitsBase at h
  cases fmt <;> simp only [Bool.and_eq_true, beq_iff_eq] at h
  case r => exact absurd rfl hr
  all_goals
    obtain ⟨⟨⟨⟨hf, -⟩, -⟩, -⟩, -⟩ := h
    rw [← hf]
    rfl

/-- The words of an instruction decode to what its major and minor function select, with the fields they parse to. -/
theorem decode_eq_instr {w0 : IWord} {ws : List IWord} {m : Major} {x : Form} {f : Fields} {i : Instr}
    (hm : majorOf (w0.extractLsb' 2 8).toNat = some m) (hform : w0.extractLsb' 0 2 = x.code) (hallow : m.allows x = true)
    (hparse : parse m x (w0 :: ws) = some f)
    (hi : instrOf (w0.extractLsb' 2 8).toNat (if m.multi then (if m.hasFn x then fnField w0 else 0).toNat else 0)
      { f with fn := if m.multi then 0 else if m.hasFn x then fnField w0 else 0 } = some i) :
    decode (w0 :: ws) = .instr i := by
  simp only [decode, hm, hform, formOf_code, hallow, hparse, hi, ↓reduceIte]

/-- What the decoder takes for the minor function and the field FN is what the encoder was given. -/
theorem fn_decoded {m : Major} {op fn : Nat} {f : Fields} {w0 : IWord} (hm : majorOf op = some m) (hfn : fn < 16)
    (hmulti : m.multi = true ∨ fn = 0) (hallow : m.allows f.form = true) (hzero : (!m.multi || f.fn == 0) = true)
    (hfields : (if f.form.isExt then decide (f.imm.toNat < 256) else f.fitsBase m.fmt) = true)
    (hfnw : m.hasFn f.form = true → fnField w0 = if m.multi then BitVec.ofNat 4 fn else f.fn) :
    (if m.multi then (if m.hasFn f.form then fnField w0 else 0).toNat else 0) = fn ∧
      (if m.multi then 0 else if m.hasFn f.form then fnField w0 else 0) = f.fn := by
  cases hmu : m.multi with
  | true =>
    have hr : m.hasFn f.form = true := by
      obtain hr | hnone := fmt_of_multi hm hmu
      · simp [Major.hasFn, hr]
      · cases hx : f.form <;> simp [Major.hasFn, Major.allows, Form.isExt, hx, hnone] at hallow ⊢
    rw [hmu] at hzero hfnw
    simp [hr, hfnw hr, Nat.mod_eq_of_lt hfn, (beq_iff_eq.mp hzero)]
  | false =>
    rw [hmu] at hmulti hfnw
    have hfn0 : fn = 0 := by simpa using hmulti
    refine ⟨by simp [hfn0], ?_⟩
    cases hr : m.hasFn f.form with
    | true => simpa using hfnw hr
    | false =>
      simp only [Major.hasFn, Bool.or_eq_false_iff, beq_eq_false_iff_ne] at hr
      rw [hr.1] at hfields
      exact (fn_eq_zero_of_fitsBase hfields hr.2).symm

/-- An instruction that some words spell is the one its own words decode to. -/
theorem decode_encode {i : Instr} (h : i.encodable = true) : decode (encode i) = .instr i := by
  cases hcode : i.codeOf with
  | none => simp [Instr.encodable, hcode] at h
  | some code =>
    obtain ⟨op, fn, f⟩ := code
    obtain ⟨hinstr, hfits⟩ := instrOf_codeOf hcode
    cases hm : majorOf op with
    | none => simp [Instr.encodable, hcode, hm] at h
    | some m =>
      simp only [codeFits, hm, Option.any_some, Bool.and_eq_true, decide_eq_true_eq, Bool.or_eq_true, beq_iff_eq] at hfits
      obtain ⟨⟨hop, hfn⟩, hmulti⟩ := hfits
      simp only [Instr.encodable, hcode, hm, Bool.and_eq_true] at h
      obtain ⟨⟨⟨hallow, hlit⟩, hzero⟩, hfields⟩ := h
      obtain ⟨w0, ws, hws, hform, hmajor, hfnw, hparse⟩ :=
        parse_encoded (op := op) (fn := if m.multi then BitVec.ofNat 4 fn else f.fn) hallow hlit hfields
      have hopw : (w0.extractLsb' 2 8).toNat = op := by
        rw [hmajor, BitVec.toNat_ofNat, Nat.mod_eq_of_lt hop]
      obtain ⟨hminor, hfield⟩ := fn_decoded hm hfn hmulti hallow hzero hfields hfnw
      have hencode : encode i = w0 :: ws := by simp only [encode, hcode, hm, hws]
      rw [hencode]
      refine decode_eq_instr (hopw ▸ hm) hform hallow hparse ?_
      rw [hopw, hminor, hfield, ← hinstr]

/-! ## Refusals (R72, R73, R93) -/

variable {w : IWord} {ws : List IWord}

/-- A major that is not assigned is illegal. -/
theorem decode_of_unassigned (h : majorOf (w.extractLsb' 2 8).toNat = none) : decode (w :: ws) = .illegal := by
  simp only [decode, h]

/-- A length that its major does not allow is illegal. -/
theorem decode_of_not_allowed {m : Major} (hm : majorOf (w.extractLsb' 2 8).toNat = some m)
    (h : m.allows (formOf (w.extractLsb' 0 2)) = false) : decode (w :: ws) = .illegal := by
  simp only [decode, hm, h, Bool.false_eq_true, ↓reduceIte]

/-- Too few words parse to nothing. -/
theorem parse_of_missing (m : Major) (x : Form) (h : (w :: ws).length < x.words) : parse m x (w :: ws) = none := by
  match x, ws, h with
  | .base, _, h => exact absurd h (by simp [Form.words])
  | .baseLit, [], _ | .baseLit, [_], _ => rfl
  | .baseLit, _ :: _ :: _, h => exact absurd h (by simp [Form.words])
  | .ext, [], _ | .ext, [_], _ => rfl
  | .ext, _ :: _ :: _, h => exact absurd h (by simp [Form.words])
  | .extLit, [], _ | .extLit, [_], _ | .extLit, [_, _], _ | .extLit, [_, _, _], _ => rfl
  | .extLit, _ :: _ :: _ :: _ :: _, h => exact absurd h (by simp [Form.words])

/-- An instruction of which a word is missing is illegal, whatever its major. -/
theorem decode_of_missing (h : (w :: ws).length < (formOf (w.extractLsb' 0 2)).words) : decode (w :: ws) = .illegal := by
  cases hm : majorOf (w.extractLsb' 2 8).toNat with
  | none => exact decode_of_unassigned hm
  | some m =>
    simp only [decode, hm, parse_of_missing m _ h, ite_self]

/-- Words beyond those of the form are not read. -/
theorem parse_append (m : Major) (x : Form) (more : List IWord) (h : (w :: ws).length = x.words) :
    parse m x (w :: (ws ++ more)) = parse m x (w :: ws) := by
  match x, ws, h with
  | .base, _, _ => rfl
  | .baseLit, [_, _], _ => rfl
  | .ext, [_, _], _ => rfl
  | .extLit, [_, _, _, _], _ => rfl

theorem decode_append (more : List IWord) (h : (w :: ws).length = (formOf (w.extractLsb' 0 2)).words) :
    decode (w :: ws ++ more) = decode (w :: ws) := by
  simp only [decode, List.cons_append, parse_append _ _ more h]

end Sys2Proof
end

/-- Settles O56: what the encoder lays out for each form parses back to the same fields. -/
theorem encodeDecodeRoundTrip : Obligations.EncodeDecodeRoundTrip := fun _ => Sys2Proof.decode_encode

/-- Settles O57: an unassigned major, a length that is not allowed and a missing word each refuse, and no word beyond the form is read. -/
theorem decodingRefusesAndStops : Obligations.DecodingRefusesAndStops :=
  ⟨fun _ _ => Sys2Proof.decode_of_unassigned, fun _ _ _ => Sys2Proof.decode_of_not_allowed, fun _ _ => Sys2Proof.decode_of_missing,
    fun _ _ => Sys2Proof.decode_append⟩

/-- Settles O55: each word decodes as it stands. -/
theorem decodesSpecWords : Obligations.DecodesSpecWords := by
  unfold Obligations.DecodesSpecWords
  decide

section
/-!
Scalar results (R103, R105, R106, R109, R110): the register forms, the forms with one source, the bit fields and the immediate forms.
-/
namespace Sys2Proof.Machine

open Sys2Proof

variable {s : State} {r : SlotRef} {u : Ctx} {f : Fields} {i : Instr}

/-! ## The shapes of the scalar instructions -/

theorem scalarRR_completes (h : Issues s i r u) (hf : i.fields = f) (g : Word → Word → Word) :
    scalarRR i g s = .next (s.completes i r u (u.begun.setReg f.a.toNat (g (u.reg f.b.toNat) (u.reg f.c.toNat)))) := by
  subst hf
  exact issueInstr_completes h rfl

theorem scalarR_completes (h : Issues s i r u) (hf : i.fields = f) (g : Word → Word) :
    scalarR i g s = .next (s.completes i r u (u.begun.setReg f.a.toNat (g (u.reg f.b.toNat)))) := by
  subst hf
  exact issueInstr_completes h rfl

theorem scalarRI_completes (h : Issues s i r u) (hf : i.fields = f) (g : Word → Word → Word) :
    scalarRI i g s = .next (s.completes i r u (u.begun.setReg f.a.toNat (g (u.reg f.b.toNat) (immSigned f)))) := by
  subst hf
  exact issueInstr_completes h rfl

theorem scalarRU_completes (h : Issues s i r u) (hf : i.fields = f) (g : Word → Word → Word) :
    scalarRU i g s = .next (s.completes i r u (u.begun.setReg f.a.toNat (g (u.reg f.b.toNat) (immUnsigned f)))) := by
  subst hf
  exact issueInstr_completes h rfl

/-! ## Operations of R103 on integers -/

theorem remUnsigned_eq (a b : Word) :
    remUnsigned a b = if b = 0 then a else BitVec.ofNat 64 (a.toNat - a.toNat / b.toNat * b.toNat) := by
  have hmod : a.toNat % b.toNat = a.toNat - a.toNat / b.toNat * b.toNat := by
    have := Nat.div_add_mod a.toNat b.toNat
    rw [Nat.mul_comm] at this
    omega
  rw [remUnsigned, hmod]

theorem shiftLeft_eq_mul (a : Word) (n : Nat) : a <<< n = BitVec.ofNat 64 (a.toNat * 2 ^ n) := by
  apply BitVec.eq_of_toNat_eq
  rw [BitVec.toNat_shiftLeft, Nat.shiftLeft_eq, BitVec.toNat_ofNat]

theorem shiftRight_eq_div (a : Word) (n : Nat) : a >>> n = BitVec.ofNat 64 (a.toNat / 2 ^ n) := by
  apply BitVec.eq_of_toNat_eq
  rw [BitVec.toNat_ushiftRight, Nat.shiftRight_eq_div_pow, BitVec.toNat_ofNat,
    Nat.mod_eq_of_lt (Nat.lt_of_le_of_lt (Nat.div_le_self _ _) a.isLt)]

theorem sshiftRight_eq_div (a : Word) (n : Nat) : a.sshiftRight n = BitVec.ofInt 64 (a.toInt / 2 ^ n) := by
  rw [BitVec.sshiftRight, Int.shiftRight_eq_div_pow]
  norm_cast

/-- A signed choice that takes either operand when they are equal. -/
theorem ite_slt_eq_ite_le {a b x y : Word} (h : a = b → x = y) :
    (if a.slt b then x else y) = if a.toInt ≤ b.toInt then x else y := by
  by_cases hlt : a.toInt < b.toInt
  · rw [if_pos (BitVec.slt_iff_toInt_lt.mpr hlt), if_pos (Int.le_of_lt hlt)]
  · rw [if_neg (mt BitVec.slt_iff_toInt_lt.mp hlt)]
    split
    · exact (h (BitVec.eq_of_toInt_eq (by omega))).symm
    · rfl

/-- An unsigned choice that takes either operand when they are equal. -/
theorem ite_ult_eq_ite_le {a b x y : Word} (h : a = b → x = y) :
    (if a.ult b then x else y) = if a.toNat ≤ b.toNat then x else y := by
  by_cases hlt : a.toNat < b.toNat
  · rw [if_pos (BitVec.ult_iff_toNat_lt.mpr hlt), if_pos (Nat.le_of_lt hlt)]
  · rw [if_neg (mt BitVec.ult_iff_toNat_lt.mp hlt)]
    split
    · exact (h (BitVec.eq_of_toNat_eq (by omega))).symm
    · rfl

/-! ## Immediates and addresses (R103, R109, R110) -/

/-- An immediate that its rule keeps at or below a bound is at or below it. -/
theorem immUnsigned_le {lo hi : Nat} (h : immOk f (.range lo hi) = true) : (immUnsigned f).toNat ≤ hi := by
  simp only [immOk, Bool.and_eq_true, decide_eq_true_eq] at h
  obtain ⟨-, -, hv⟩ := h
  unfold immUnsigned
  split at hv
  case isTrue hlit => rwa [if_pos hlit]
  case isFalse hlit =>
    rw [if_neg hlit, BitVec.toNat_setWidth]
    exact Nat.le_trans (Nat.mod_le _ _) hv

/-- The shift distance of an immediate form is from 0 to 63. -/
theorem shiftImm_le (h : Issues s i r u) (hf : i.fields = f) (hm : (opSpec i).mem = false)
    (himm : (opSpec i).imm = .range 0 63) : (immUnsigned f).toNat ≤ 63 := by
  subst hf
  obtain ⟨-, -, -, -, -, himmOk, -⟩ := (fieldsOk_iff hm).mp (fieldsOk_of_checkFields h.fields)
  exact immUnsigned_le (himm ▸ himmOk)

/-- The bytes of a displacement with unit 1 are the literal or the signed immediate. -/
theorem effAddr_one (u : Ctx) (f : Fields) : effAddr u f 1 =
    u.reg f.b.toNat + (if f.form.isExt && f.c != 0xFF then u.reg f.c.toNat <<< f.fn.toNat else 0) +
      (if f.form.hasLit then f.lit else immSigned f) := by
  have hone : immSigned f * BitVec.ofNat 64 1 = immSigned f := BitVec.mul_one _
  rw [effAddr, dispBytes, hone]

/-- `mov` of a register that is not pending copies it. -/
theorem execMov_of_not_pending (h : Issues s (.mov f) r u) (hp : u.pend.contains f.b.toNat = false) :
    exec (.mov f) s = .next (s.completes (.mov f) r u (u.begun.setReg f.a.toNat (u.reg f.b.toNat))) :=
  issueInstr_completes h (if_neg (by rw [Bool.not_eq_true]; exact hp))

/-- A shift by an immediate writes what its operation gives, and its distance is one that a register could hold. -/
theorem shiftImm_completes (h : Issues s i r u) (hf : i.fields = f) (hm : (opSpec i).mem = false)
    (himm : (opSpec i).imm = .range 0 63) (g : Word → Nat → Word) :
    scalarRU i (fun a b => g a (shiftDist b)) s = .next (s.completes i r u
      (u.begun.setReg f.a.toNat (g (u.reg f.b.toNat) (immUnsigned f).toNat))) ∧ (immUnsigned f).toNat ≤ 63 := by
  have hn := shiftImm_le h hf hm himm
  have hdist : shiftDist (immUnsigned f) = (immUnsigned f).toNat := Nat.mod_eq_of_lt (Nat.lt_succ_of_le hn)
  rw [scalarRU_completes h hf, hdist]
  exact ⟨rfl, hn⟩

end Sys2Proof.Machine

open Sys2Proof Sys2Proof.Machine

/-- Settles O1: each register form completes with the value of its row of R103. -/
theorem scalarRegisterResults : Obligations.ScalarRegisterResults := by
  intro s r u f
  refine ⟨fun h => scalarRR_completes h rfl mulHighSigned, fun h => scalarRR_completes h rfl mulHighUnsigned,
    fun h => scalarRR_completes h rfl divSigned, fun h => scalarRR_completes h rfl divUnsigned,
    fun h => scalarRR_completes h rfl remSigned, ?remn, fun h => scalarRR_completes h rfl (· &&& ·),
    fun h => scalarRR_completes h rfl (· ||| ·), fun h => scalarRR_completes h rfl (· ^^^ ·),
    fun h => scalarRR_completes h rfl fun a b => a &&& ~~~b, fun h => scalarRR_completes h rfl fun a b => a ||| ~~~b,
    ?clmul, ?clmulh, ?shl, ?shr, ?sar, fun h => scalarRR_completes h rfl rotLeft, fun h => scalarRR_completes h rfl rotRight,
    ?min, ?max, ?minn, ?maxn⟩
  case clmul => exact fun h => scalarRR_completes h rfl fun a b => BitVec.ofNat 64 (clMul a.toNat b.toNat 64)
  case clmulh => exact fun h => scalarRR_completes h rfl fun a b => BitVec.ofNat 64 (clMul a.toNat b.toNat 64 / 2 ^ 64)
  case remn => exact fun h => remUnsigned_eq _ _ ▸ scalarRR_completes h rfl remUnsigned
  case shl => exact fun h => shiftLeft_eq_mul _ _ ▸ scalarRR_completes h rfl fun a b => a <<< shiftDist b
  case shr => exact fun h => shiftRight_eq_div _ _ ▸ scalarRR_completes h rfl fun a b => a >>> shiftDist b
  case sar => exact fun h => sshiftRight_eq_div _ _ ▸ scalarRR_completes h rfl fun a b => a.sshiftRight (shiftDist b)
  case min => exact fun h => ite_slt_eq_ite_le (fun e => e) ▸ scalarRR_completes h rfl fun a b => if a.slt b then a else b
  case max => exact fun h => ite_slt_eq_ite_le Eq.symm ▸ scalarRR_completes h rfl fun a b => if a.slt b then b else a
  case minn => exact fun h => ite_ult_eq_ite_le (fun e => e) ▸ scalarRR_completes h rfl fun a b => if a.ult b then a else b
  case maxn => exact fun h => ite_ult_eq_ite_le Eq.symm ▸ scalarRR_completes h rfl fun a b => if a.ult b then b else a

/-- Settles O2: each form completes with the value of its row, and the shift distances are those the field checks accept. -/
theorem scalarUnaryAndImmediateResults : Obligations.ScalarUnaryAndImmediateResults := by
  refine ⟨fun s r u f => ⟨?clz, ?ctz, ?popc, fun h => scalarR_completes h rfl byteSwap, fun hp h => execMov_of_not_pending h hp,
    fun h => issueInstr_completes h rfl, fun h => issueInstr_completes h rfl, fun h => issueInstr_completes h rfl,
    fun h => issueInstr_completes h rfl, fun h => effAddr_one u f ▸ issueInstr_completes h rfl,
    fun h => issueInstr_completes h rfl⟩, fun s r u f => ⟨fun h => scalarRI_completes h rfl _,
    fun h => scalarRI_completes h rfl _, fun h => scalarRI_completes h rfl _, ?shl, ?shr, ?sar, ?rol, ?ror⟩⟩
  case clz => exact fun h => scalarR_completes h rfl fun a => BitVec.ofNat 64 (clzNat a.toNat 64)
  case ctz => exact fun h => scalarR_completes h rfl fun a => BitVec.ofNat 64 (ctzNat a.toNat 64)
  case popc => exact fun h => scalarR_completes h rfl fun a => BitVec.ofNat 64 (popcNat a.toNat 64)
  case shl => exact fun h => shiftLeft_eq_mul _ _ ▸ shiftImm_completes h rfl rfl rfl fun a n => a <<< n
  case shr => exact fun h => shiftRight_eq_div _ _ ▸ shiftImm_completes h rfl rfl rfl fun a n => a >>> n
  case sar => exact fun h => sshiftRight_eq_div _ _ ▸ shiftImm_completes h rfl rfl rfl fun a n => a.sshiftRight n
  case rol => exact fun h => shiftImm_completes h rfl rfl rfl fun a n => a.rotateLeft n
  case ror => exact fun h => shiftImm_completes h rfl rfl rfl fun a n => a.rotateRight n
end

section
/-!
What each scalar instruction leaves unchanged, addresses and geometry, pending sources of `mov`, control transfers and false guards
(R61, R94, R102, R112 to R117).
-/
namespace Sys2Proof.Machine

open Sys2Proof

variable {s : State} {r : SlotRef} {u : Ctx} {f : Fields} {i : Instr}

/-! ## Sets of numbers -/

theorem NSet.mem_insert {l : NSet} {n x : Nat} : x ∈ NSet.insert l n ↔ x = n ∨ x ∈ l := by
  induction l with
  | nil => simp [NSet.insert]
  | cons k rest ih =>
    simp only [NSet.insert]
    split
    · simp
    · split
      · subst_vars
        simp
      · simp only [List.mem_cons, ih]
        exact or_left_comm

theorem NSet.mem_erase {l : NSet} {n x : Nat} : x ∈ NSet.erase l n ↔ x ∈ l ∧ x ≠ n := by
  simp [NSet.erase]

/-! ## Addresses and geometry (R112, R113, R116) -/

theorem convertAperture_eq {n : BitVec 4} (hn : n.toNat ≤ 2) (code own : Nat) (a : Word) : convertAperture code n.toNat own a =
    if n = 0 then (if code = 0 then a else BitVec.allOnes 64)
    else if n = 1 then
      (if code = 1 then a
       else if code = 2 ∧ (a.extractLsb' 20 5).toNat = own then BitVec.ofNat 64 (0xF0 * 2 ^ 56 + (a.extractLsb' 0 20).toNat)
       else BitVec.allOnes 64)
    else
      (if code = 2 then a
       else if code = 1 then BitVec.ofNat 64 (0xF1 * 2 ^ 56 + own * 2 ^ 20 + (a.extractLsb' 0 20).toNat)
       else BitVec.allOnes 64) := by
  have hcases : n = 0 ∨ n = 1 ∨ n = 2 := by bv_omega
  unfold convertAperture
  obtain rfl | rfl | rfl := hcases
  · by_cases h0 : code = 0 <;> simp [h0]
  · by_cases h1 : code = 1 <;> simp [h1]
  · by_cases h2 : code = 2 <;> simp [h2]

theorem execCvta_of_issues (h : Issues s (.cvta f) r u) : exec (.cvta f) s = .next (s.completes (.cvta f) r u
    (u.begun.setReg f.a.toNat
      (convertAperture (s.apertureOf u (tileOf r.core) (u.reg f.b.toNat)) f.fn.toNat u.ownIndex (u.reg f.b.toNat)))) :=
  issueInstr_completes h rfl

theorem State.gridOf_of_launch {l : Launch} (hl : s.launch u.launchId = some l) : s.gridOf u = (l.desc.nx, l.desc.ny) := by
  rw [State.gridOf, hl]

theorem execGeorng_of_issues (h : Issues s (.georng f) r u) : exec (.georng f) s = .next (s.completes (.georng f) r u
    (u.begun.setReg f.a.toNat
      (georngValue u (s.gridOf u).1 (s.gridOf u).2 (u.reg f.b.toNat) (u.reg f.c.toNat)))) :=
  issueInstr_completes h rfl

/-! ## `mov` of a pending register (R61) -/

/-- The unit after `mov` has moved the token of register b to register a. -/
def Ctx.withTokenMoved (u : Ctx) (a b : Nat) : Ctx := { u.setReg b 0 with pend := NSet.insert (NSet.erase u.pend b) a }

theorem execMov_of_pending (h : Issues s (.mov f) r u) (hp : u.pend.contains f.b.toNat = true) : exec (.mov f) s =
    .next ((s.begun.modWork fun w => { w with ops := w.ops.map fun o => o.retoken u.key f.b.toNat f.a.toNat }).putUnit r
      { u.begun.withTokenMoved f.a.toNat f.b.toNat with pc := npcOf (.mov f) u }) := by
  have hrun := issueInstr_runs (fun e u s =>
    let a := e.f.a.toNat
    let b := e.f.b.toNat
    if u.pend.contains b then
      .ok (s.modWork fun w => { w with ops := w.ops.map fun o => o.retoken u.key b a })
        { u.setReg b 0 with pend := NSet.insert (NSet.erase u.pend b) a }
    else .ok s (u.setReg a (u.reg b))) h
  exact hrun.trans (congrArg (fun x => Host.Outcome.next (finish (.mov f) (envOf (.mov f) r u) u.begun x)) (if_pos hp))

/-! ## The frame of the scalar instructions (R102, R103) -/

/-- An instruction that writes one scalar and no flag but SAT. -/
def WritesOneScalar (s : State) (i : Instr) (r : SlotRef) (u : Ctx) : Prop :=
  ∃ x m, (m = 0 ∨ m = flSAT) ∧
    exec i s = .next (s.completes i r u ((u.begun.setReg i.fields.a.toNat x).setFlags m))

theorem WritesOneScalar.of_value {x : Word}
    (h : exec i s = .next (s.completes i r u (u.begun.setReg i.fields.a.toNat x))) : WritesOneScalar s i r u :=
  ⟨x, 0, .inl rfl, h.trans (by rw [Ctx.setFlags_zero])⟩

theorem clampInt_flag (y lo hi : Int) : (clampInt y lo hi).2 = 0 ∨ (clampInt y lo hi).2 = flSAT := by
  unfold clampInt
  split
  · exact .inr rfl
  · split
    · exact .inr rfl
    · exact .inl rfl

theorem typedArith_flag (op : Int → Int → Int) (ty : Nat) (sat : Bool) (a b : Word) :
    (typedArith op ty sat a b).2 = 0 ∨ (typedArith op ty sat a b).2 = flSAT := by
  unfold typedArith
  split
  · exact .inl rfl
  · cases sat with
    | false => exact .inl rfl
    | true => exact clampInt_flag _ _ _

theorem WritesOneScalar.of_typed (h : Issues s i r u) (op : Int → Int → Int) (b : Fields → Ctx → Word)
    (hx : exec i s = scalarTyped i op b s) : WritesOneScalar s i r u :=
  ⟨_, _, typedArith_flag op _ _ _ _, hx.trans (issueInstr_completes h rfl)⟩

theorem writesOneScalar (hi : i.writesScalar = true) (h : Issues s i r u) : WritesOneScalar s i r u := by
  cases i <;> simp only [Instr.writesScalar, Bool.false_eq_true] at hi
  case add | sub | mul | addImm | mulImm => exact .of_typed h _ _ rfl
  all_goals exact .of_value (issueInstr_completes h rfl)

/-- SAT is bit 5 of `stat`: setting no flag or SAT leaves every other bit. -/
theorem stat_or_flag (w : Word) {m : Flags} (hm : m = 0 ∨ m = flSAT) : w ||| m.setWidth 64 ||| 32 = w ||| 32 := by
  have hbits : (m.setWidth 64 : Word) ||| 32 = 32 := by
    obtain rfl | rfl := hm <;> rfl
  rw [BitVec.or_assoc, hbits]

/-- A scalar write is all that changes. -/
theorem WritesOneScalar.frame (h : WritesOneScalar s i r u) :
    ∃ t v, exec i s = .next t ∧ t.slotAt r.key = { s.slotAt r.key with unit := some v } ∧
      v = { u.begun with regs := v.regs, pois := NSet.erase u.pois i.fields.a.toNat, pc := npcOf i u, stat := v.stat } ∧
      (∀ n, n ≠ i.fields.a.toNat → v.reg n = u.reg n) ∧ v.stat ||| 32 = u.stat ||| 32 ∧
      (∀ k, k ≠ r.key → t.slotAt k = s.slotAt k) ∧ (∀ k, t.byteAt k = s.byteAt k) ∧
      t = { s.begun with fab := { s.fab with slots := t.fab.slots } } := by
  obtain ⟨x, m, hm, hx⟩ := h
  exact ⟨_, _, hx, State.slotAt_setSlot_self _ _ _ (by simp), rfl, fun n => Ctx.reg_setReg_ne u.begun _ n x,
    stat_or_flag u.stat hm, State.slotAt_completes_ne s i r u _, fun _ => rfl, rfl⟩

/-! ## Control transfer (R117) -/

/-- An instruction whose own effect jumps goes on at its target. -/
theorem issueInstr_jumps (h : Issues s i r u) {body : Env → Ctx → State → Res} {v : Ctx} {pc target : Word}
    (hb : body (envOf i r u) u.begun s.begun = .jump s.begun v pc) (hpc : pc = target) :
    issueInstr i body s = .next (s.begun.putUnit r { v with pc := target }) := by
  rw [issueInstr_runs body h, hb, ← hpc]
  rfl

/-- A branch offset counts words. -/
theorem branchTarget_eq (pc : Word) (f : Fields) (w : Nat) :
    branchTarget pc f w = pc + BitVec.ofInt 64 (4 * (BitVec.ofNat w f.imm.toNat).toInt) := by
  rw [branchTarget, BitVec.ofInt_mul]
  rfl

/-- `loop` counts down, and goes on at its target until the count is 0. -/
theorem execLoop_of_issues (h : Issues s (.loop f) r u) : exec (.loop f) s = .next (s.begun.putUnit r
    { u.begun.setReg f.a.toNat (u.reg f.a.toNat - 1) with
      pc := if u.reg f.a.toNat - 1 = 0 then npcOf (.loop f) u else branchTarget u.pc f 16 }) := by
  by_cases hzero : u.reg f.a.toNat - 1 = 0
  · rw [if_pos hzero]
    exact issueInstr_completes h (if_pos hzero)
  · rw [if_neg hzero]
    exact issueInstr_jumps h (if_neg hzero) rfl

/-! ## False guards (R94) -/

/-- An instruction with words issues through the shared operation. -/
theorem exec_eq_issueInstr (hi : i.codeOf.isSome = true) : ∃ body, exec i s = issueInstr i body s := by
  cases i <;> simp only [Instr.codeOf, Option.isSome_none, Bool.false_eq_true] at hi
  all_goals exact ⟨_, rfl⟩

/-- An instruction that passes its field checks and whose guards do not hold completes with no effect. -/
theorem issueInstr_passed (body : Env → Ctx → State → Res) (hs : s.issuing = some r) (hu : s.unitAt r = some u)
    (hk : kindLists (kindOf r.core) (opSpec i).ext = true) (hf : checkFields (s.partOf (tileOf r.core)) i = .ok)
    (hg : (guardHolds u i.fields.ga && guardHolds u i.fields.gb) = false) :
    issueInstr i body s = .next (s.completes i r u u.begun) := by
  have hf' : checkFields (s.begun.partOf (tileOf r.core)) i = .ok := hf
  have hg' : (guardHolds u.begun i.fields.ga && guardHolds u.begun i.fields.gb) = false := hg
  have hpass : runChecked i (envOf i r u) u.begun s.begun body = .ok s.begun u.begun := by
    simp only [runChecked, envOf, Env.tile, hf', hg', Bool.not_false, ↓reduceIte]
  simp only [issueInstr, hs, hu, hk, ↓reduceIte]
  exact congrArg (fun x => Host.Outcome.next (finish i (envOf i r u) u.begun x)) hpass

end Sys2Proof.Machine

open Sys2Proof Sys2Proof.Machine

/-- Settles O5: `tsta` and `georng` complete with their own definitions, `cvta` with its table for the three targets. -/
theorem addressAndGeometryResults : Obligations.AddressAndGeometryResults := by
  intro s r u f
  refine ⟨fun h => issueInstr_completes h rfl, fun h => ?cvta, fun l hl h => ?georng⟩
  case cvta =>
    have hfn : f.fn.toNat ≤ 2 := fn_le_of_checkFields (i := .cvta f) rfl h.fields
    rw [execCvta_of_issues h, convertAperture_eq hfn]
    rfl
  case georng => rw [execGeorng_of_issues h, State.gridOf_of_launch hl]

/-- Settles O6: the token is under the destination, and the source reads 0. -/
theorem movMovesPendingToken : Obligations.MovMovesPendingToken := by
  intro s r u f h hwf hp hne
  have hab : f.b.toNat ≠ f.a.toNat := fun e => hne (BitVec.eq_of_toNat_eq e.symm)
  refine ⟨_, _, execMov_of_pending h hp, State.unitAt_putUnit .., ?_, ?_, Ctx.reg_setReg_self u.begun _ _ hwf, rfl, rfl⟩
  · simp [Ctx.withTokenMoved, NSet.mem_insert]
  · simp [Ctx.withTokenMoved, NSet.mem_insert, NSet.mem_erase, hab]

/-- Settles O7: a scalar instruction completes with one scalar and at most SAT changed. -/
theorem scalarInstructionsChangeOneRegister : Obligations.ScalarInstructionsChangeOneRegister :=
  fun _ _ _ _ hi h => (writesOneScalar hi h).frame

/-- Settles O8: each transfer goes on at its target. -/
theorem controlTransferTargets : Obligations.ControlTransferTargets := by
  intro s r u f
  refine ⟨fun h => ?_, fun h => ?_, fun h => ?_, fun h => ?_, fun h => ?_, fun h => ?_, fun h => ?_⟩
  case refine_1 | refine_2 | refine_6 => exact issueInstr_jumps h rfl (branchTarget_eq ..)
  case refine_3 | refine_4 | refine_5 => exact issueInstr_jumps h rfl (alignPc_eq_div_mul _)
  case refine_7 => exact (execLoop_of_issues h).trans (by rw [branchTarget_eq])

/-- Settles O9: the shared operation passes an instruction whose guards do not hold. -/
theorem falseGuardHasNoEffect : Obligations.FalseGuardHasNoEffect := by
  intro i s r u hi hs hu hk hf hg
  obtain ⟨body, hx⟩ := exec_eq_issueInstr (s := s) hi
  exact hx.trans (issueInstr_passed body hs hu hk hf hg)
end

section
/-!
Control and system instructions (R67, R70, R119 to R128, R25, R328): progress, special registers, traps by program and `chk`.
-/
namespace Sys2Proof.Machine

open Sys2Proof

variable {s t : State} {r : SlotRef} {u v : Ctx} {f : Fields} {i : Instr}

/-! ## The state and the context in which an instruction acts -/

@[simp] theorem State.begun_ck (s : State) : s.begun.ck = s.ck := rfl
@[simp] theorem State.begun_store (s : State) : s.begun.store = s.store := rfl
@[simp] theorem State.begun_fab (s : State) : s.begun.fab = s.fab := rfl
@[simp] theorem State.begun_work (s : State) : s.begun.work = s.work := rfl
@[simp] theorem State.begun_firm (s : State) : s.begun.firm = s.firm := rfl
@[simp] theorem State.begun_agenda (s : State) : s.begun.agenda = s.agenda := rfl
@[simp] theorem State.begun_serial (s : State) : s.begun.serial = s.serial := rfl
@[simp] theorem State.begun_freeCtr (s : State) : s.begun.freeCtr = s.freeCtr := rfl
@[simp] theorem State.begun_cursor (s : State) : s.begun.cursor = s.cursor := rfl
@[simp] theorem Ctx.begun_key (u : Ctx) : u.begun.key = u.key := rfl
@[simp] theorem Ctx.begun_regs (u : Ctx) : u.begun.regs = u.regs := rfl
@[simp] theorem Ctx.begun_pend (u : Ctx) : u.begun.pend = u.pend := rfl
@[simp] theorem Ctx.begun_pois (u : Ctx) : u.begun.pois = u.pois := rfl
@[simp] theorem Ctx.begun_rows (u : Ctx) : u.begun.rows = u.rows := rfl
@[simp] theorem Ctx.begun_tags (u : Ctx) : u.begun.tags = u.tags := rfl
@[simp] theorem Ctx.begun_guards (u : Ctx) : u.begun.guards = u.guards := rfl
@[simp] theorem Ctx.begun_masks (u : Ctx) : u.begun.masks = u.masks := rfl
@[simp] theorem Ctx.begun_bounds (u : Ctx) : u.begun.bounds = u.bounds := rfl
@[simp] theorem Ctx.begun_pc (u : Ctx) : u.begun.pc = u.pc := rfl
@[simp] theorem Ctx.begun_stat (u : Ctx) : u.begun.stat = u.stat := rfl
@[simp] theorem Ctx.begun_arrival (u : Ctx) : u.begun.arrival = u.arrival := rfl
@[simp] theorem Ctx.begun_purposes (u : Ctx) : u.begun.purposes = u.purposes := rfl
@[simp] theorem Ctx.begun_held (u : Ctx) : u.begun.held = u.held := rfl
@[simp] theorem Ctx.begun_tag (u : Ctx) : u.begun.tag = u.tag := rfl
@[simp] theorem Ctx.begun_uid (u : Ctx) : u.begun.uid = u.uid := rfl

/-! ## What an instruction's own effect makes of the state -/

/-- An instruction that issues has the effect its own body gives. -/
theorem issueInstr_of_body (h : Issues s i r u) {body : Env → Ctx → State → Res} {x : Res}
    (hb : body (envOf i r u) u.begun s.begun = x) : issueInstr i body s = .next (finish i (envOf i r u) u.begun x) := by
  rw [issueInstr_runs body h, hb]

/-- It completes, whatever it has changed besides its own context. -/
theorem issueInstr_ok (h : Issues s i r u) {body : Env → Ctx → State → Res}
    (hb : body (envOf i r u) u.begun s.begun = .ok t v) :
    issueInstr i body s = .next (t.putUnit r { v with pc := npcOf i u }) := issueInstr_of_body h hb

/-- It traps with no effect. -/
theorem issueInstr_traps (h : Issues s i r u) {body : Env → Ctx → State → Res} {e : Trap}
    (hb : body (envOf i r u) u.begun s.begun = .trap t e) :
    issueInstr i body s = .next (t.takeTrap r u.begun ⟨e, u.pc, u.pc⟩) := issueInstr_of_body h hb

/-- It completes and then traps. -/
theorem issueInstr_traps_after (h : Issues s i r u) {body : Env → Ctx → State → Res} {e : Trap}
    (hb : body (envOf i r u) u.begun s.begun = .after t v e) :
    issueInstr i body s = .next (t.takeTrap r v ⟨e, u.pc, npcOf i u⟩) := issueInstr_of_body h hb

/-- It leaves the rotation for a wait. -/
theorem issueInstr_awaits (h : Issues s i r u) {body : Env → Ctx → State → Res} {w : Wait}
    (hb : body (envOf i r u) u.begun s.begun = .wait t u.begun w) :
    issueInstr i body s = .next (t.awaits i r u w) := issueInstr_of_body h hb

/-- Its reply is on its way. -/
theorem issueInstr_replies (h : Issues s i r u) {body : Env → Ctx → State → Res} {ws : List RegWrite} {watch : Option Trap}
    (hb : body (envOf i r u) u.begun s.begun = .reply t u.begun ws watch) :
    issueInstr i body s = .next (t.replies i r u ws watch) := issueInstr_of_body h hb

/-- Its unit has left its slot. -/
theorem issueInstr_gone (h : Issues s i r u) {body : Env → Ctx → State → Res}
    (hb : body (envOf i r u) u.begun s.begun = .gone t) : issueInstr i body s = .next t := issueInstr_of_body h hb

/-! ## Progress (R119 to R121, R67, R70) -/

theorem execSafe_of_pending (h : Issues s (.safe f) r u) (hp : u.pend ≠ []) :
    exec (.safe f) s = .next (s.completes (.safe f) r u u.begun) :=
  issueInstr_completes h (if_pos (by simpa using hp))

/-- A unit with no pending token, no plane load in flight and no request passes its safe point. -/
theorem execSafe_passes (h : Issues s (.safe f) r u) (hp : u.pend = []) (hreq : u.purposes = [])
    (hplane : s.planeBusy u.key = false) : exec (.safe f) s =
      .next ((s.begun.passSafe u.begun).1.putUnit r { (s.begun.passSafe u.begun).2 with pc := npcOf (.safe f) u }) := by
  have hpend : ¬ (!u.begun.pend.isEmpty) = true := by simpa using hp
  have hbusy : ¬ s.begun.planeBusy u.begun.key = true := ne_true_of_eq_false hplane
  have htake : ¬ u.begun.takePurpose.isSome = true := by simp [Ctx.takePurpose, hreq]
  exact issueInstr_ok h ((if_neg hpend).trans ((if_neg hbusy).trans (if_neg htake)))

theorem not_mem_units_of_passRevocations (s : State) (key : Nat) :
    ∀ x ∈ (s.passRevocations key).firm.revs, key ∉ x.units := by
  simp [State.passRevocations]

/-- `yield` goes on while it holds a token, or no unit of its launch waits for placement. -/
theorem execYield_completes (h : Issues s (.yield f) r u)
    (hy : u.pend ≠ [] ∨ ∀ l, s.launch u.launchId = some l → ∀ p ∈ l.queue, p.slot ≠ none) :
    exec (.yield f) s = .next (s.completes (.yield f) r u u.begun) := by
  have hwaits : ∀ l, s.launch u.launchId = some l → (∀ p ∈ l.queue, p.slot ≠ none) → l.queue.any (·.slot.isNone) = false := by
    intro l _ hq
    simpa [List.any_eq_false] using hq
  refine issueInstr_completes h (if_neg ?_)
  change ¬ ((match s.launch u.launchId with
      | some l => l.queue.any fun p => p.slot.isNone
      | none => false) && u.pend.isEmpty && u.launch != 1 && !u.started) = true
  obtain hp | hq := hy
  · simp [hp]
  · cases hl : s.launch u.launchId with
    | none => simp
    | some l => simp [hwaits l hl (hq l hl)]

theorem execSleep_of_arrival (h : Issues s (.sleep f) r u) (ha : u.arrival = true) :
    exec (.sleep f) s = .next (s.completes (.sleep f) r u u.begun) := issueInstr_completes h (if_pos ha)

/-- The state in which `sleep` waits: with a timeout, an event that ends it is due. -/
def State.sleepScheduled (s : State) (n : Nat) : State := if n = 0 then s else s.schedule (s.ck + n) .sleepTimeout

theorem execSleep_waits (h : Issues s (.sleep f) r u) (ha : u.arrival = false) :
    exec (.sleep f) s = .next ((s.begun.sleepScheduled (immUnsigned f).toNat).awaits (.sleep f) r u
      (.sleep (if (immUnsigned f).toNat = 0 then none else some (s.ck + (immUnsigned f).toNat)) (npcOf (.sleep f) u))) := by
  have harr : ¬ u.begun.arrival = true := ne_true_of_eq_false ha
  by_cases hz : (immUnsigned f).toNat = 0
  · rw [if_pos hz, State.sleepScheduled, if_pos hz]
    exact issueInstr_awaits h ((if_neg harr).trans (if_pos hz))
  · rw [if_neg hz, State.sleepScheduled, if_neg hz]
    exact issueInstr_awaits h ((if_neg harr).trans (if_neg hz))

/-- What `realign` does with the laggards of its slot. -/
theorem execRealign_of_issues (h : Issues s (.realign f) r u) : exec (.realign f) s =
    .next (finish (.realign f) (envOf (.realign f) r u) u.begun (match s.laggards r u.pc with
      | [] => .ok s.begun u.begun
      | units => if (immUnsigned f).toNat = 0 then .ok s.begun u.begun
        else .wait (s.begun.schedule (s.ck + (immUnsigned f).toNat) .realignTimeout) u.begun
          (.realign (s.ck + (immUnsigned f).toNat) units (npcOf (.realign f) u)))) :=
  issueInstr_of_body h rfl

theorem execRealign_completes (h : Issues s (.realign f) r u)
    (hr : (immUnsigned f).toNat = 0 ∨ s.laggards r u.pc = []) :
    exec (.realign f) s = .next (s.completes (.realign f) r u u.begun) := by
  rw [execRealign_of_issues h]
  cases hl : s.laggards r u.pc with
  | nil => rfl
  | cons x xs =>
    rw [hl] at hr
    have hz := hr.resolve_right (List.cons_ne_nil x xs)
    simp only [hz, ↓reduceIte]
    rfl

theorem execRealign_waits (h : Issues s (.realign f) r u) (hn : (immUnsigned f).toNat ≠ 0) (hl : s.laggards r u.pc ≠ []) :
    exec (.realign f) s = .next ((s.begun.schedule (s.ck + (immUnsigned f).toNat) .realignTimeout).awaits (.realign f) r u
      (.realign (s.ck + (immUnsigned f).toNat) (s.laggards r u.pc) (npcOf (.realign f) u))) := by
  rw [execRealign_of_issues h]
  cases hxs : s.laggards r u.pc with
  | nil => exact absurd hxs hl
  | cons x xs =>
    simp only [hn, ↓reduceIte]
    rfl

theorem State.mode_awaits (i : Instr) (w : Wait) : ((t.awaits i r u w).slotAt r.key).mode = .waiting w t.ck :=
  State.mode_putMode ..

/-- A unit with no entry in the buffer has nothing to perform. -/
theorem State.drain_of_no_entry {unit : Nat} (h : ∀ e ∈ s.fab.sbuf, e.who.unit ≠ unit) : s.drain unit = .ok s := by
  have hnone : (s.fab.sbuf.filter fun e => decide (e.who.unit = unit)) = [] := by
    simpa [List.filter_eq_nil_iff] using h
  rw [State.drain, hnone]
  rfl

theorem execHalt_retires (h : Issues s (.halt f) r u) (hbuf : ∀ e ∈ s.fab.sbuf, e.who.unit ≠ u.key)
    (ho : ¬ (r.slot = 0 ∧ s.othersOccupied r.core = true)) :
    exec (.halt f) s = .next (s.begun.retireUnit r.key u.begun .none) := by
  have hdrain : s.begun.drain u.begun.key = .ok s.begun := State.drain_of_no_entry hbuf
  refine issueInstr_gone h ((if_neg ho).trans ?_)
  rw [hdrain]
  rfl

end Sys2Proof.Machine

open Sys2Proof Sys2Proof.Machine

/-- Settles O10: each instruction completes, waits or retires its unit under the conditions of its rule. -/
theorem progressAndHaltComplete : Obligations.ProgressAndHaltComplete := by
  refine ⟨fun s r u f => ⟨fun h _ => issueInstr_completes h rfl, execSafe_of_pending, fun h hp hreq hplane => ?safe,
    execYield_completes, execSleep_of_arrival, execRealign_completes⟩, fun s r u f => ⟨fun h ha => ?sleep, fun h hn hl => ?realign⟩,
    fun s r u f h hbuf => ⟨execHalt_retires h hbuf, fun ho => issueInstr_completes h (if_pos ho)⟩⟩
  case safe =>
    exact ⟨_, _, execSafe_passes h hp hreq hplane, State.unitAt_putUnit .., rfl, rfl,
      not_mem_units_of_passRevocations s.begun u.key, rfl, rfl⟩
  case sleep =>
    refine ⟨_, execSleep_waits h ha, ?_, fun hn => ?_⟩
    · rw [State.mode_awaits, State.sleepScheduled]
      split <;> rfl
    · simp [State.awaits, State.sleepScheduled, hn, State.begun]
  case realign => exact ⟨_, execRealign_waits h hn hl, State.mode_awaits .., by simp [State.awaits, State.begun]⟩
end

section
/-!
Special registers, traps by program and the checks before the effect (R25, R61, R63, R93, R122 to R127, R328, R390).
-/
namespace Sys2Proof.Machine

open Sys2Proof

variable {s t : State} {r : SlotRef} {u v : Ctx} {f : Fields} {i : Instr}

/-! ## `rdsr` (R122, R25) -/

theorem execRdsr_of_issues (h : Issues s (.rdsr f) r u) : exec (.rdsr f) s =
    .next (s.completes (.rdsr f) r u (u.begun.setReg f.a.toNat (s.specialReg r u f.b.toNat))) :=
  issueInstr_completes h rfl

/-- The register that `rdsr` names is one of the fourteen. -/
theorem rdsr_field_le (h : Issues s (.rdsr f) r u) : f.b.toNat ≤ 13 := by
  have hb : (Role.const 0 13).allows (s.partOf (tileOf r.core)) f.b = true :=
    allows_b_of_fieldsOk (spec := opSpec (.rdsr f)) rfl (fieldsOk_of_checkFields h.fields)
  simpa [Role.allows] using hb

theorem specialReg_slot (s : State) (r : SlotRef) (u : Ctx) : s.specialReg r u 2 =
    BitVec.ofNat 64 (r.slot + (match s.partOf (tileOf r.core) with
      | .p16 => 0
      | .p8 => 16
      | .p4 => 32)) := by
  simp only [State.specialReg]
  cases s.partOf (tileOf r.core) <;> rfl

theorem specialReg_maint (s : State) (r : SlotRef) (u : Ctx) : s.specialReg r u 11 = if s.firm.maint then 1 else 0 := by
  simp only [State.specialReg, boolNat]
  split <;> rfl

/-! ## `wrsr` (R122, R123, R328) -/

/-- Clearing the low m bits rounds an address down to a multiple of 2^m. -/
theorem and_not_lowBits_eq_div_mul (w : Word) (m : Nat) (hm : m ≤ 64) :
    w &&& ~~~(BitVec.ofNat 64 (2 ^ m - 1)) = BitVec.ofNat 64 (w.toNat / 2 ^ m * 2 ^ m) := by
  have hmask : w &&& ~~~(BitVec.ofNat 64 (2 ^ m - 1)) = w >>> m <<< m := by
    ext i hi
    have hbit : (BitVec.ofNat 64 (2 ^ m - 1))[i] = decide (i < m) := by
      have hlt : 2 ^ m - 1 < 2 ^ 64 := by
        have := Nat.pow_le_pow_right (n := 2) (by decide) hm
        omega
      rw [BitVec.getElem_eq_testBit_toNat, BitVec.toNat_ofNat, Nat.mod_eq_of_lt hlt]
      exact Nat.testBit_two_pow_sub_one m i
    rw [BitVec.getElem_and, BitVec.getElem_not, hbit]
    by_cases hlow : i < m
    · simp [hlow]
    · simp [hlow, BitVec.getLsbD_eq_getElem hi, Nat.add_sub_of_le (Nat.le_of_not_lt hlow)]
  rw [hmask]
  apply BitVec.eq_of_toNat_eq
  simp [Nat.shiftLeft_eq, Nat.shiftRight_eq_div_pow]

theorem and_not_4095_eq_div_mul (w : Word) : w &&& ~~~(4095#64) = BitVec.ofNat 64 (w.toNat / 4096 * 4096) :=
  and_not_lowBits_eq_div_mul w 12 (by decide)

/-- The bits of `stat` that `wrsr` writes: the six flags, WEN, WB and MOVED. -/
theorem statWritable_bit (n : Nat) : statWritable.getLsbD n = decide (n ∈ [0, 1, 2, 3, 4, 5, 8, 9, 10, 11, 24]) := by
  by_cases hn : n < 64
  · have hall : ∀ k : Fin 64, statWritable.getLsbD k = decide ((k : Nat) ∈ [0, 1, 2, 3, 4, 5, 8, 9, 10, 11, 24]) := by decide
    exact hall ⟨n, hn⟩
  · rw [BitVec.getLsbD_of_ge _ _ (Nat.le_of_not_lt hn)]
    simp only [List.mem_cons, List.not_mem_nil, or_false]
    exact (decide_eq_false (by omega)).symm

/-- A word with its writable bits replaced. -/
theorem statWritten_bit (old new : Word) (n : Nat) : ((old &&& ~~~statWritable) ||| (new &&& statWritable)).getLsbD n =
    if n ∈ [0, 1, 2, 3, 4, 5, 8, 9, 10, 11, 24] then new.getLsbD n else old.getLsbD n := by
  rw [BitVec.getLsbD_or, BitVec.getLsbD_and, BitVec.getLsbD_and, BitVec.getLsbD_not, statWritable_bit]
  by_cases hn : n < 64
  · split <;> simp_all
  · rw [BitVec.getLsbD_of_ge _ _ (Nat.le_of_not_lt hn), BitVec.getLsbD_of_ge _ _ (Nat.le_of_not_lt hn)]
    simp

theorem recordAreaOk_iff {tag : Nat} {a : Word} : s.recordAreaOk tag a = true ↔
    ∃ t, s.tenant tag = some t ∧ ∃ g ∈ t.reach, g.base ≤ a.toNat ∧ a.toNat + 4096 ≤ g.limit ∧ g.rd = true ∧ g.wr = true := by
  unfold State.recordAreaOk
  cases s.tenant tag <;> simp [and_assoc]

/-- What `wrsr` does by the register it names. -/
theorem execWrsr_of_issues (h : Issues s (.wrsr f) r u) : exec (.wrsr f) s =
    .next (finish (.wrsr f) (envOf (.wrsr f) r u) u.begun
      (if f.a = 13 then
        .ok s.begun { u.begun with stat := (u.stat &&& ~~~statWritable) ||| (u.reg f.b.toNat &&& statWritable) }
      else if f.a = 8 ∧ r.slot = 0 then
        (if s.recordAreaOk u.tag (u.reg f.b.toNat &&& ~~~(4095#64)) then
          .ok (s.begun.modFab fun m => { m with tvec := FMap.set 0 m.tvec r.core (u.reg f.b.toNat &&& ~~~(4095#64)) }) u.begun
        else .trap s.begun { cause := 7, addr := u.reg f.b.toNat &&& ~~~(4095#64), aux := 4096 })
      else .trap s.begun (illegalTrap (.wrsr f)))) := issueInstr_of_body h rfl

/-! ## `chk` (R127) -/

theorem Bound.within_iff {b : Bound} {a : Word} {n : Nat} :
    b.within a n = true ↔ b.base.toNat ≤ a.toNat ∧ a.toNat + n ≤ b.limit.toNat := by
  simp [Bound.within]

/-! ## The checks before the effect (R93, R61, R390) -/

/-- An instruction that its core lists ends as its checks say. -/
theorem exec_runChecked (hi : i.codeOf.isSome = true) (hs : s.issuing = some r) (hu : s.unitAt r = some u)
    (hk : kindLists (kindOf r.core) (opSpec i).ext = true) : ∃ body, exec i s =
      .next (finish i (envOf i r u) u.begun (runChecked i (envOf i r u) u.begun s.begun body)) := by
  obtain ⟨body, hx⟩ := exec_eq_issueInstr (s := s) hi
  refine ⟨body, hx.trans ?_⟩
  simp only [issueInstr, hs, hu, hk, ↓reduceIte]
  rfl

section Checks
variable {body : Env → Ctx → State → Res}

theorem runChecked_illegal (hf : checkFields (s.partOf (tileOf r.core)) i = .illegal) :
    runChecked i (envOf i r u) u.begun s.begun body = .trap s.begun (illegalTrap i) := by
  have hf' : checkFields (s.begun.partOf (envOf i r u).tile) i = .illegal := hf
  simp only [runChecked, hf', illegalTrap]

theorem runChecked_ordering (hf : checkFields (s.partOf (tileOf r.core)) i = .ordering) :
    runChecked i (envOf i r u) u.begun s.begun body = .trap s.begun { cause := 2, aux := firstWord i } := by
  have hf' : checkFields (s.begun.partOf (envOf i r u).tile) i = .ordering := hf
  simp only [runChecked, hf']

/-- With its fields passed and its guards holding, what is left is the registers' own checks. -/
theorem runChecked_registers (hf : checkFields (s.partOf (tileOf r.core)) i = .ok)
    (hg : (guardHolds u i.fields.ga && guardHolds u i.fields.gb) = true) :
    runChecked i (envOf i r u) u.begun s.begun body =
      match i.dests.find? (u.pend.contains ·) with
      | some n => .trap s.begun { cause := 13, aux := BitVec.ofNat 64 n }
      | none =>
        if i.waitSources.any (u.pend.contains ·) || ((opSpec i).allTokens && !u.pend.isEmpty) then
          .wait s.begun u.begun (.token (if (opSpec i).allTokens then u.pend else i.waitSources.filter (u.pend.contains ·)))
        else if i.sources.any (u.pois.contains ·) then .trap s.begun { cause := 11, aux := 8 }
        else body (envOf i r u) u.begun s.begun := by
  have hf' : checkFields (s.begun.partOf (envOf i r u).tile) i = .ok := hf
  have hg' : (guardHolds u.begun (envOf i r u).f.ga && guardHolds u.begun (envOf i r u).f.gb) = true := hg
  simp only [runChecked, hf', hg', Bool.not_true, Bool.false_eq_true, ↓reduceIte]
  rfl

end Checks

/-! ## Migration (R63) -/

theorem exec_migrates (hi : i.codeOf.isSome = true) (hs : s.issuing = some r) (hu : s.unitAt r = some u)
    (hk : kindLists (kindOf r.core) (opSpec i).ext = false) :
    exec i s = .next (s.begun.migrate r u.begun (opSpec i).ext) := by
  obtain ⟨body, hx⟩ := exec_eq_issueInstr (s := s) hi
  refine hx.trans ?_
  simp only [issueInstr, hs, hu, hk, Bool.false_eq_true, ↓reduceIte]
  rfl

theorem State.slotAt_setSlot_of_ne_empty (s : State) (k : Nat) (v : Slot) (h : v ≠ Slot.empty) :
    (s.setSlot k v).slotAt k = v := FMap.get_set_listed Slot.empty s.fab.slots k v h

/-- A unit that finds an empty slot on a usable core starts its transfer there. -/
theorem State.migrate_starts {e : Ext} {c n : Nat} (h0 : r.slot ≠ 0)
    (hfind : (s.usableCores r.core e).findSome? (fun c => (s.emptySlot c).map fun n => (c, n)) = some (c, n)) :
    s.migrate r u e = s.startMigration r u c n := by
  have hne : s.usableCores r.core e ≠ [] := by
    intro hnil
    rw [hnil] at hfind
    exact nomatch hfind
  simp only [State.migrate, h0, hne, or_self, ↓reduceIte, hfind]

end Sys2Proof.Machine

open Sys2Proof Sys2Proof.Machine

/-- Settles O11: `rdsr` names one of the fourteen registers, and each reads as its definition says. -/
theorem rdsrReadsEveryRegister : Obligations.RdsrReadsEveryRegister := by
  intro s r u f h
  have hle := rdsr_field_le h
  have hx := execRdsr_of_issues h
  revert hx hle
  generalize f.b.toNat = n
  intro hle hx
  match n, hle with
  | 0, _ | 1, _ | 3, _ | 4, _ | 5, _ | 6, _ | 7, _ | 8, _ | 9, _ | 10, _ | 12, _ | 13, _ => exact hx
  | 2, _ =>
    rw [specialReg_slot] at hx
    exact hx
  | 11, _ =>
    rw [specialReg_maint] at hx
    exact hx

/-- Settles O12: `stat` takes its writable bits, `tvec` an area within reach, and every other write traps. -/
theorem wrsrWritesOnlyWhatItMay : Obligations.WrsrWritesOnlyWhatItMay := by
  intro s r u f h
  have hx := execWrsr_of_issues h
  rw [and_not_4095_eq_div_mul] at hx
  refine ⟨fun ha => ⟨_, hx.trans ?_, statWritten_bit _ _⟩, fun ha h0 hr => hx.trans ?_, fun ha h0 hr => hx.trans ?_,
    fun hother => ⟨firstWord (.wrsr f), hx.trans ?_⟩⟩
  · rw [if_pos ha]
    rfl
  · rw [if_neg (by rw [ha]; decide), if_pos ⟨ha, h0⟩, if_pos (recordAreaOk_iff.mpr hr)]
    rfl
  · rw [if_neg (by rw [ha]; decide), if_pos ⟨ha, h0⟩, if_neg (mt recordAreaOk_iff.mp hr)]
    rfl
  · have h13 : f.a ≠ 13 := by
      obtain ⟨h13, -⟩ | ⟨h8, -⟩ := hother
      · exact h13
      · rw [h8]
        decide
    have h8 : ¬ (f.a = 8 ∧ r.slot = 0) := fun h8 => hother.elim (fun h => h.2 h8.1) fun h => h.2 h8.2
    rw [if_neg h13, if_neg h8]
    rfl

/-- Settles O13: each trap carries its code, and `chk` compares with the bound register. -/
theorem programTrapsAndChk : Obligations.ProgramTrapsAndChk := by
  refine ⟨fun s r u f => ⟨fun h => issueInstr_traps_after h rfl, fun h => issueInstr_traps_after h rfl⟩, fun s r u f h => ⟨?_, ?_⟩⟩
  · exact fun hin => issueInstr_completes h (if_pos (Bound.within_iff.mpr hin))
  · exact fun hout => issueInstr_traps h (if_neg (mt Bound.within_iff.mp hout))

/-- Settles O15: the shared issue operation makes its checks in order, and migrates a unit before any of them. -/
theorem checksBeforeTheEffect : Obligations.ChecksBeforeTheEffect := by
  refine ⟨fun i s r u hi hs hu hk => ⟨fun hf => ?illegal, fun hf => ?ordering⟩, fun i s r u hi hs hu hk hf hg => ?registers,
    fun i s r u c n hi hs hu hk h0 hfind => ?migrates⟩
  case illegal =>
    obtain ⟨body, hx⟩ := exec_runChecked hi hs hu hk
    rw [hx, runChecked_illegal hf]
    rfl
  case ordering =>
    obtain ⟨body, hx⟩ := exec_runChecked hi hs hu hk
    rw [hx, runChecked_ordering hf]
    rfl
  case registers =>
    obtain ⟨body, hx⟩ := exec_runChecked hi hs hu hk
    rw [runChecked_registers hf hg] at hx
    refine ⟨fun n hn => ?_, fun hn hall hwait => ?_, fun hn hwait hall hpois => ?_⟩
    · rw [hx, hn]
      rfl
    · have hany : i.waitSources.any (u.pend.contains ·) = true := by
        obtain ⟨n, hmem⟩ := List.exists_mem_of_ne_nil _ hwait
        obtain ⟨hin, hp⟩ := List.mem_filter.mp hmem
        exact List.any_eq_true.mpr ⟨n, hin, hp⟩
      simp only [hn, hany, hall, Bool.true_or, Bool.false_eq_true, ↓reduceIte] at hx
      exact hx
    · simp only [hn, hwait, hall, hpois, Bool.or_self, Bool.false_eq_true, ↓reduceIte] at hx
      exact hx
  case migrates =>
    refine ⟨_, exec_migrates hi hs hu hk, ?_⟩
    have hstart : s.begun.migrate r u.begun (opSpec i).ext = s.begun.startMigration r u.begun c n :=
      State.migrate_starts (s := s.begun) h0 hfind
    rw [hstart]
    exact ⟨congrArg Slot.mode (State.slotAt_setSlot_of_ne_empty _ _ _ (by simp [Slot.empty])), by simp [State.startMigration],
      rfl, rfl⟩
end

section
/-!
Traps (R330 to R337, R125, R136): what a store of the device leaves unchanged, how a slot parks, and how `tret` restarts it.
-/
namespace Sys2Proof.Machine

open Sys2Proof

variable {s t x : State} {r : SlotRef} {u v : Ctx} {f : Fields} {i : Instr}

/-! ## What operations over memory leave unchanged -/

/-- Between the two states memory, the log, the agenda and free values may differ, and nothing else: neither the fabric, nor the work,
nor the tenants, nor the links, nor what flash holds, nor the clock. -/
structure State.KeepsMachine (s t : State) : Prop where
  ck      : t.ck = s.ck
  fab     : t.fab = s.fab
  work    : t.work = s.work
  tenants : t.firm.tenants = s.firm.tenants
  links   : t.firm.links = s.firm.links
  boot    : t.firm.boot = s.firm.boot

namespace State.KeepsMachine

theorem refl (s : State) : s.KeepsMachine s := ⟨rfl, rfl, rfl, rfl, rfl, rfl⟩

theorem trans (h : s.KeepsMachine t) (h' : t.KeepsMachine x) : s.KeepsMachine x :=
  ⟨h'.ck.trans h.ck, h'.fab.trans h.fab, h'.work.trans h.work, h'.tenants.trans h.tenants, h'.links.trans h.links,
    h'.boot.trans h.boot⟩

theorem foldl {α : Type} (f : State → α → State) (hf : ∀ (s : State) x, s.KeepsMachine (f s x)) (l : List α) :
    ∀ s : State, s.KeepsMachine (l.foldl f s) := by
  induction l with
  | nil => exact refl
  | cons a rest ih => exact fun s => (hf s a).trans (ih _)

theorem modStore (s : State) (g : Store → Store) : s.KeepsMachine (s.modStore g) := ⟨rfl, rfl, rfl, rfl, rfl, rfl⟩

theorem scheduleFree (s : State) (n : Nat) (i : Instr) : s.KeepsMachine (s.scheduleFree n i) := ⟨rfl, rfl, rfl, rfl, rfl, rfl⟩

end State.KeepsMachine

/-- Logging an event touches no tenant. -/
@[simp] theorem State.logEvent_tenants (s : State) (ty src addr aux uid : Nat) (tag : Option Nat) :
    (s.logEvent ty src addr aux uid tag).firm.tenants = s.firm.tenants := by
  simp only [State.logEvent, State.modFirm_firm]
  split
  · split
    · rfl
    · split <;> rfl
  · rfl

@[simp] theorem State.logEvent_links (s : State) (ty src addr aux uid : Nat) (tag : Option Nat) :
    (s.logEvent ty src addr aux uid tag).firm.links = s.firm.links := by
  simp only [State.logEvent, State.modFirm_firm]
  split
  · split
    · rfl
    · split <;> rfl
  · rfl

@[simp] theorem State.logEvent_boot (s : State) (ty src addr aux uid : Nat) (tag : Option Nat) :
    (s.logEvent ty src addr aux uid tag).firm.boot = s.firm.boot := by
  simp only [State.logEvent, State.modFirm_firm]
  split
  · split
    · rfl
    · split <;> rfl
  · rfl

namespace State.KeepsMachine

theorem logEvent (s : State) (ty src addr aux uid : Nat) (tag : Option Nat) :
    s.KeepsMachine (s.logEvent ty src addr aux uid tag) := ⟨rfl, rfl, rfl, by simp, by simp, by simp⟩

theorem requestExtent (s : State) (n die : Nat) (low : Bool) : s.KeepsMachine (s.requestExtent n die low) := by
  unfold State.requestExtent
  split
  · split
    · exact refl s
    · exact modStore ..
  · exact (modStore s _).trans (scheduleFree ..)

theorem openExtent (s : State) (tile n : Nat) : s.KeepsMachine (s.openExtent tile n) := by
  unfold State.openExtent
  simp only
  split
  · exact (modStore s _).trans (requestExtent ..)
  · exact refl s

theorem findWord (s : State) (word reach : Nat) (b : Blame) : s.KeepsMachine (s.findWord word reach b) := by
  unfold State.findWord
  simp only
  split
  · exact refl s
  · split
    · exact (modStore s _).trans (logEvent ..)
    · exact ((modStore s _).trans (modStore _ _)).trans (logEvent ..)

theorem findLine (s : State) (line reach : Nat) (b : Blame) (type : Nat) : s.KeepsMachine (s.findLine line reach b type).1 := by
  unfold State.findLine
  simp only
  split
  · exact refl s
  · split
    · exact (modStore s _).trans (logEvent ..)
    · exact ((modStore s _).trans (modStore _ _)).trans (logEvent ..)

theorem l2Evict (s : State) (line : Nat) : s.KeepsMachine (s.l2Evict line) := by
  unfold State.l2Evict
  split
  · exact refl s
  · exact modStore ..

theorem l2Use (s : State) (line : Nat) : s.KeepsMachine (s.l2Use line) := by
  unfold State.l2Use
  split
  · exact modStore ..
  · exact refl s

theorem l2Fill (s : State) (tag line : Nat) : s.KeepsMachine (s.l2Fill tag line) := by
  unfold State.l2Fill
  split
  · exact refl s
  · split
    · exact refl s
    · refine trans ?_ (modStore _ _)
      split
      · exact l2Evict ..
      · exact refl s

theorem l2Access (s : State) (tag line hint : Nat) : s.KeepsMachine (s.l2Access tag line hint) := by
  unfold State.l2Access
  split
  · split
    · exact l2Use ..
    · exact refl s
  · split
    · exact refl s
    · exact l2Fill ..

theorem homeWritten (s : State) (line : Nat) : s.KeepsMachine (s.homeWritten line) := by
  unfold State.homeWritten
  split <;> exact modStore ..

theorem wakeReached (s : State) (tag line hint : Nat) : s.KeepsMachine (s.wakeReached tag line hint) := by
  unfold State.wakeReached
  split
  · unfold State.wakeWay
    split
    · exact modStore ..
    · exact (foldl _ (fun _ _ => findLine ..) _ s).trans (modStore ..)
  · exact refl s

theorem mergeLine (s : State) (l : L1Line) (hint : Nat) : s.KeepsMachine (s.mergeLine l hint) := by
  have put (s : State) : s.KeepsMachine (((l.dirty.foldl (fun s e => match e.2 with
      | some b => s.setByte (l.line * 128 + e.1) b
      | none => s) (s.l2Access l.tag l.line hint)).setSeal l.line (s.dataSeal l.tag)).homeWritten l.line) := by
    refine ((l2Access ..).trans (foldl _ (fun s e => ?_) _ _)).trans ((modStore _ _).trans (homeWritten ..))
    split
    · exact modStore ..
    · exact refl s
  unfold State.mergeLine
  simp only
  refine (wakeReached s l.tag l.line hint).trans ?_
  split
  · exact (put _).trans (modStore ..)
  · refine (findLine _ l.line 1 ⟨l.uid.toNat, some l.tag⟩ 2).trans ?_
    split
    · exact logEvent ..
    · split
      · exact put _
      · exact (((logEvent ..).trans (modStore _ _)).trans (logEvent ..)).trans (put _)

theorem evictCopy (s : State) (l : L1Line) (hint : Nat) : s.KeepsMachine (s.evictCopy l hint) := by
  unfold State.evictCopy
  simp only
  split
  · exact modStore ..
  · exact (modStore s _).trans (mergeLine ..)

theorem writeBackWhere (s : State) (p : L1Line → Bool) (hint : Nat) : s.KeepsMachine (s.writeBackWhere p hint) :=
  foldl _ (fun _ _ => evictCopy ..) _ s

theorem l1Alloc (s : State) (l1 line : Nat) (who : Who) (takes : Bool) : s.KeepsMachine (s.l1Alloc l1 line who takes) := by
  unfold State.l1Alloc
  split
  · exact modStore ..
  · refine trans ?_ (modStore _ _)
    split
    · split
      · exact evictCopy ..
      · exact refl s
    · exact refl s

theorem checkWords (who : Who) (lanes : Option (Nat × Nat)) (keys : List Nat) (l : List (Nat × Nat)) :
    ∀ s : State, s.KeepsMachine (s.checkWords who lanes keys l).after := by
  induction l with
  | nil => exact refl
  | cons e rest ih =>
    intro s
    simp only [State.checkWords]
    split
    · split
      · exact findWord ..
      · exact (findWord ..).trans (ih _)
    · exact ih s

theorem writeWord (s : State) (keys : List Nat) (k : Nat) (b : Byte) : s.KeepsMachine (s.writeWord keys k b) := by
  unfold State.writeWord State.setByte
  refine trans ?_ (modStore _ _)
  split
  · exact (modStore s _).trans (modStore _ _)
  · exact refl s

theorem dirtyByte (s : State) (who : Who) (k : Nat) (b : Byte) : s.KeepsMachine (s.dirtyByte who k b) := ⟨rfl, rfl, rfl, rfl, rfl, rfl⟩

theorem putBytes (who : Who) (keys : List Nat) (l : List (Nat × Byte)) : ∀ s : State, s.KeepsMachine (s.putBytes who keys l) := by
  induction l with
  | nil => exact refl
  | cons e rest ih =>
    intro s
    refine trans ?_ (ih _)
    split
    · exact writeWord ..
    · exact dirtyByte ..

theorem settleHint (s : State) (who : Who) (hint : Nat) (lines missed : List Nat) :
    s.KeepsMachine (s.settleHint who hint lines missed) := by
  unfold State.settleHint
  simp only
  split
  · exact foldl _ (fun _ _ => (writeBackWhere ..).trans (l2Evict ..)) _ s
  · split
    · exact foldl _ (fun _ _ => writeBackWhere ..) _ s
    · exact refl s

theorem writeKeys (s : State) (who : Who) (hint : Nat) (keys : List Nat) (bs : List Byte) (lanes : Option (Nat × Nat)) :
    s.KeepsMachine (s.writeKeys who hint keys bs lanes).after := by
  have hc := checkWords who lanes keys keys.zipIdx s
  unfold State.writeKeys
  split
  · rename_i s1 v1 e1
    rw [e1] at hc
    refine hc.trans (trans (foldl _ (fun _ _ => ?_) _ _) ((putBytes ..).trans (settleHint ..)))
    exact (writeBackWhere ..).trans (l1Alloc ..)
  · exact hc

/-- A store of the device itself changes memory alone. -/
theorem deviceStore (s : State) (who : Who) (a : Word) (bs : List Byte) : s.KeepsMachine (s.deviceStore who a bs) := by
  have opened (lines : List Nat) : s.KeepsMachine (lines.foldl (fun s l => s.openExtent who.tile (extentOf (128 * l))) s) :=
    foldl _ (fun _ _ => openExtent ..) lines s
  have after (y : State) (a : Acc) : y.KeepsMachine a.after → y.KeepsMachine (match a with
      | .ok s _ => s
      | .fail s _ _ _ => s
      | .wait s _ => s) := by cases a <;> exact id
  unfold State.deviceStore
  simp only
  refine ((opened _).trans (after _ _ (writeKeys ..))).trans (foldl _ (fun s l => ?_) _ _)
  refine (writeBackWhere s (fun x => decide (x.line = l)) 0).trans ?_
  split
  · exact refl _
  · exact l2Evict ..

end State.KeepsMachine

/-! ## A trap that parks (R333) -/

theorem State.KeepsMachine.writeRecord (s : State) (r : SlotRef) (u : Ctx) (t : TrapAt) (addr : Word) (held : Option Nat) (esc : Bool) :
    s.KeepsMachine (s.writeRecord r u t addr held esc).1 := .deviceStore ..

/-- The state in which the slot of a trap is parked and its message is not yet queued. -/
def State.parked (s : State) (r : SlotRef) (u : Ctx) (t : TrapAt) (addr : Word) : State :=
  (s.writeRecord r u t addr none false).1.putMode r
    { (s.writeRecord r u t addr none false).2 with pc := t.rpc } (.parked (.trap t.rpc))

theorem State.takeTrap_parks (u : Ctx) (t : TrapAt) (h0 : r.slot ≠ 0) (hz : s.zeroTaken r.core = false) :
    ∃ m, s.takeTrap r u t =
      (s.parked r u t (s.tvecOf r.core + BitVec.ofNat 64 (256 * r.slot))).queueTrapMsg r.core m := by
  rw [State.takeTrap, if_neg h0, if_neg (ne_true_of_eq_false hz)]
  exact ⟨_, rfl⟩

theorem State.KeepsMachine.slotAt (h : s.KeepsMachine t) (k : Nat) : t.slotAt k = s.slotAt k := by
  rw [State.slotAt, h.fab, State.slotAt]

/-- Parking a slot replaces its entry alone. -/
theorem State.parked_slots (s : State) (r : SlotRef) (u : Ctx) (t : TrapAt) (addr : Word) :
    (s.parked r u t addr).fab.slots = FMap.set Slot.empty s.fab.slots r.key { s.slotAt r.key with
      mode := .parked (.trap t.rpc), unit := some { u with trec := addr, seq := u.seq + 1, pc := t.rpc } } := by
  have hw := State.KeepsMachine.writeRecord s r u t addr none false
  rw [State.parked, State.putMode_slots, hw.fab, hw.slotAt]
  rfl

/-- A class 7 message finds the unit that has context zero's number, and sets its arrival bit; one that sleeps wakes besides (R70). -/
theorem State.arrive_seven {core k : Nat} {z w : Ctx} {sl : Slot} (hz : (s.slotAt (16 * core)).unit = some z)
    (hf : s.findUnit z.key = some (k, sl, w)) (hm : ∀ due npc n, sl.mode ≠ .waiting (.sleep due npc) n) :
    s.arrive core 7 = s.setSlot k { sl with unit := some { w with arrival := true } } := by
  simp only [State.arrive, hz, ↓reduceIte, Option.map_some, hf]

/-! ### A list of slots that is not canonical

The first clause of O14 says nothing of the form of the list of slots. In a list with a second entry for the trapped slot, whose unit has the
serial number of context zero's, the message of the trap wakes that entry's unit in its place. -/

/-- A ready slot of a unit numbered 7. -/
def readySlot : Slot := ⟨.ready 0, none, some (Ctx.fresh 7 0 0 0 0 0 0 0 0 false)⟩

/-- Slot 1 of core 1 stands twice in the list of slots, and each entry's unit has the serial number of context zero's. -/
def twiceListed : State := State.reset.modFab fun f => { f with slots := [(17, readySlot), (17, readySlot), (16, readySlot)] }

/-- With a parked unit of another number in the first entry, the message of a trap finds the second entry of the slot. -/
theorem mode_queueTrapMsg_twiceListed {y : State} {m : Msg} {md : SlotMode} {is : Option Nat} (hu : u.key ≠ 7)
    (hy : y.fab.slots = [(17, ⟨md, is, some u⟩), (17, readySlot), (16, readySlot)]) :
    ((y.queueTrapMsg 1 m).slotAt 17).mode = .ready 0 := by
  have hzero : ((y.setMsgs 1 (y.msgsOf 1 ++ [m])).slotAt (16 * 1)).unit = some (Ctx.fresh 7 0 0 0 0 0 0 0 0 false) := by
    simp [State.slotAt, State.setMsgs, hy, FMap.get, readySlot]
  have hfind : (y.setMsgs 1 (y.msgsOf 1 ++ [m])).findUnit 7 = some (17, readySlot, Ctx.fresh 7 0 0 0 0 0 0 0 0 false) := by
    simp [State.findUnit, State.setMsgs, hy, findUnit, hu, readySlot, Ctx.fresh]
  rw [State.queueTrapMsg, State.arrive_seven hzero hfind (by simp [readySlot]),
    State.slotAt_setSlot_of_ne_empty _ _ _ (by simp [Slot.empty])]
  rfl

end Sys2Proof.Machine

open Sys2Proof Sys2Proof.Machine

/-- Refutes O14: its first clause fails in a state whose list of slots names the trapped slot twice. -/
theorem not_takingATrapParksOrEscalates : ¬ Obligations.TakingATrapParksOrEscalates := by
  rintro ⟨h, -⟩
  let r : SlotRef := ⟨1, 1⟩
  let u := Ctx.fresh 1 0 0 0 0 0 0 0 0 false
  let t : TrapAt := ⟨{ cause := 1 }, 0, 4⟩
  obtain ⟨v, -, hmode, -⟩ := h twiceListed r u t (by decide) (by decide) (by decide)
  obtain ⟨m, hm⟩ := State.takeTrap_parks (s := twiceListed) (r := r) u t (by decide) (by decide)
  have hslots := State.parked_slots twiceListed r u t (twiceListed.tvecOf r.core + BitVec.ofNat 64 (256 * r.slot))
  have hready : ((twiceListed.takeTrap r u t).slotAt r.key).mode = .ready 0 := by
    rw [hm]
    exact mode_queueTrapMsg_twiceListed (u := { u with trec := _, seq := _, pc := t.rpc }) (by decide) hslots
  rw [hready] at hmode
  exact nomatch hmode
end

section
/-!
`tret` (R125, R136, R347): what it asks for, and the restart behind the cancels of its ck.
-/
namespace Sys2Proof.Machine

open Sys2Proof

variable {s t : State} {r : SlotRef} {u w : Ctx} {f : Fields} {k n core slot : Nat} {redirect : Option Word}

/-- A slot that a delivered trap has parked is due to restart. -/
theorem State.askTret_of_parked {rpc : Word} (h : (s.slotAt (16 * core + slot)).mode = .parked (.trap rpc)) :
    s.askTret core slot redirect = s.modWork fun w => { w with late := w.late ++ [.tret core slot redirect] } := by
  simp only [State.askTret, h]

/-- Any other slot stays. -/
theorem State.askTret_of_not_parked (h : ∀ rpc, (s.slotAt (16 * core + slot)).mode ≠ .parked (.trap rpc)) :
    s.askTret core slot redirect = s := by
  unfold State.askTret
  split
  · exact absurd ‹_› (h _)
  · rfl

/-! ## Entries that enter the buffer again -/

theorem State.foldl_enterBuffer (g : StoreEntry → StoreEntry) (es : List StoreEntry) : ∀ s : State,
    (es.foldl (fun s e => s.enterBuffer (g e)) s).fab = { s.fab with sbuf := s.fab.sbuf ++ es.map g } ∧
      (es.foldl (fun s e => s.enterBuffer (g e)) s).store = s.store := by
  induction es with
  | nil => exact fun s => ⟨by simp, rfl⟩
  | cons e rest ih =>
    intro s
    obtain ⟨hfab, hstore⟩ := ih (s.enterBuffer (g e))
    refine ⟨?_, hstore⟩
    rw [List.foldl_cons, hfab]
    simp [State.enterBuffer]

/-- The slot that `tret` restarts: ready in the next ck, at the resume PC or the new one. -/
def restartedSlot (ck : Nat) (sl : Slot) (w : Ctx) (rpc : Word) (redirect : Option Word) : Slot :=
  { sl with
    mode := .ready (ck + 1)
    unit := some { w with pc := redirect.getD rpc, held := if redirect.isNone && w.trapsNext then w.held else [] } }

/-- What `tret` makes of a parked slot: the slot is ready, and its held stores enter the buffer, unless it is redirected or has a trap
yet to take. -/
theorem State.tret_restarts {rpc : Word} (hm : (s.slotAt (16 * core + slot)).mode = .parked (.trap rpc))
    (hu : (s.slotAt (16 * core + slot)).unit = some w) :
    (s.tret core slot redirect).fab = { (s.setSlot (16 * core + slot)
        (restartedSlot s.ck (s.slotAt (16 * core + slot)) w rpc redirect)).fab with
      sbuf := s.fab.sbuf ++ (if redirect.isNone && !w.trapsNext then w.held.map (·.moveTo core) else []) } ∧
    (s.tret core slot redirect).store = s.store := by
  have hkept : (redirect.isNone && !(redirect.isNone && w.trapsNext)) = (redirect.isNone && !w.trapsNext) := by
    cases redirect.isNone <;> simp
  simp only [State.tret, hm, hu, hkept]
  split
  case isTrue =>
    exact State.foldl_enterBuffer (·.moveTo core) w.held _
  case isFalse =>
    rw [List.append_nil]
    exact ⟨rfl, rfl⟩

/-- The restart, read slot by slot. -/
theorem State.actLate_tret {rpc : Word} (hm : (s.slotAt (16 * core + slot)).mode = .parked (.trap rpc))
    (hu : (s.slotAt (16 * core + slot)).unit = some w) :
    let x := s.actLate (.tret core slot redirect)
    x.slotAt (16 * core + slot) = restartedSlot s.ck (s.slotAt (16 * core + slot)) w rpc redirect ∧
    x.fab.sbuf = s.fab.sbuf ++ (if redirect.isNone && !w.trapsNext then w.held.map (·.moveTo core) else []) ∧
    (∀ n, n ≠ 16 * core + slot → x.slotAt n = s.slotAt n) ∧ x.store = s.store := by
  obtain ⟨hfab, hstore⟩ := State.tret_restarts (redirect := redirect) hm hu
  have hslots (n : Nat) : (s.tret core slot redirect).slotAt n = (s.setSlot (16 * core + slot)
      (restartedSlot s.ck (s.slotAt (16 * core + slot)) w rpc redirect)).slotAt n := by
    rw [State.slotAt, hfab]
    rfl
  refine ⟨(hslots _).trans (State.slotAt_setSlot_self _ _ _ (by simp [restartedSlot])), congrArg Fabric.sbuf hfab,
    fun n hn => (hslots n).trans (State.slotAt_setSlot_ne _ _ _ _ hn), hstore⟩

/-! ## The instructions -/

theorem execTret_of_issues (h : Issues s (.tret f) r u) : exec (.tret f) s =
    .next (finish (.tret f) (envOf (.tret f) r u) u.begun
      (if r.slot = 0 then .ok (s.begun.askTret r.core f.b.toNat none) u.begun
      else .trap s.begun (illegalTrap (.tret f)))) := issueInstr_of_body h rfl

theorem execTretRedirect_of_issues (h : Issues s (.tretRedirect f) r u) : exec (.tretRedirect f) s =
    .next (finish (.tretRedirect f) (envOf (.tretRedirect f) r u) u.begun
      (if r.slot = 0 then
        .ok (s.begun.askTret r.core f.b.toNat (some (BitVec.ofNat 64 ((u.reg f.c.toNat).toNat / 4 * 4)))) u.begun
      else .trap s.begun (illegalTrap (.tretRedirect f)))) := by
  rw [← alignPc_eq_div_mul]
  exact issueInstr_of_body h rfl

/-- An instruction that asks for a restart from context zero, and traps in any other slot. -/
theorem exec_askTret {i : Instr} (hx : exec i s = .next (finish i (envOf i r u) u.begun
      (if r.slot = 0 then .ok (s.begun.askTret r.core n redirect) u.begun else .trap s.begun (illegalTrap i))))
    (h0 : r.slot = 0) :
    (∀ rpc, (s.slotAt (16 * r.core + n)).mode = .parked (.trap rpc) → exec i s = .next ((s.modWork fun w => { w with
      late := w.late ++ [.tret r.core n redirect] }).completes i r u u.begun)) ∧
    ((∀ rpc, (s.slotAt (16 * r.core + n)).mode ≠ .parked (.trap rpc)) → exec i s = .next (s.completes i r u u.begun)) := by
  rw [if_pos h0] at hx
  refine ⟨fun rpc hm => ?_, fun hm => ?_⟩
  · rw [hx, State.askTret_of_parked (s := s.begun) hm]
    rfl
  · rw [hx, State.askTret_of_not_parked (s := s.begun) hm]
    rfl

end Sys2Proof.Machine

open Sys2Proof Sys2Proof.Machine

/-- Settles O16: the request of `tret`, the restart it leads to, and the trap in any other slot. -/
theorem tretResumesAParkedSlot : Obligations.TretResumesAParkedSlot := by
  intro s r u f
  refine ⟨fun h => exec_askTret (execTret_of_issues h), fun h => exec_askTret (execTretRedirect_of_issues h),
    fun t rpc w => State.actLate_tret, fun t rpc w => State.actLate_tret, fun h h0 => ⟨firstWord (.tret f), ?_⟩,
    fun h h0 => ⟨firstWord (.tretRedirect f), ?_⟩⟩
  · rw [execTret_of_issues h, if_neg h0]
    rfl
  · rw [execTretRedirect_of_issues h, if_neg h0]
    rfl
end

section
/-!
Scalar loads and stores (R130 steps 1 to 3, R135, R137 to R139, R128).
-/
namespace Sys2Proof.Machine

open Sys2Proof

variable {s t x : State} {r : SlotRef} {u v : Ctx} {f : Fields} {i : Instr} {e : Env} {a : Word} {keys : List Nat} {k : AccKind}
  {bs : List Byte} {n : Nat}

/-! ## The checks of an access (R130 steps 1 to 3) -/

/-- The trap of an access that leaves its aperture, or that stores to the description block. -/
def apertureTrap (a : Word) (n : Nat) : Trap := { cause := 7, addr := a, aux := BitVec.ofNat 64 n }

theorem accTrap_aperture (a : Word) (n : Nat) : accTrap 7 a n 0 none = apertureTrap a n := by
  simp [accTrap, apertureTrap]

theorem State.checkAccess_scope {c : Trap} (hs : scopeTrap u e.f = some c) : s.checkAccess u e a k = .trap c := by
  simp only [State.checkAccess, hs]

theorem State.checkAccess_aperture (hs : scopeTrap u e.f = none) (hk : s.keysOf u e.tile a k.size = none) :
    s.checkAccess u e a k = .trap (apertureTrap a k.size) := by
  simp only [State.checkAccess, hs, State.checkAddr, hk, accTrap_aperture]

theorem State.checkAccess_desc (hs : scopeTrap u e.f = none) (hk : s.keysOf u e.tile a k.size = some keys)
    (hw : k.write = true) (hd : keys.any isDescKey = true) : s.checkAccess u e a k = .trap (apertureTrap a k.size) := by
  simp only [State.checkAccess, hs, State.checkAddr, hk, hw, hd, Bool.and_self, ↓reduceIte, accTrap_aperture]

/-- An access passes its checks: its scope and its aperture, no write to the description block, no device register where none may be
reached, and its alignment. -/
theorem State.checkAccess_ok (hs : scopeTrap u e.f = none) (hk : s.keysOf u e.tile a k.size = some keys)
    (hd : k.write = true → keys.any isDescKey = false) (hv : k.dev = true ∨ keys.any isDevKey = false)
    (ha : a.toNat % k.align = 0) : s.checkAccess u e a k = .ok keys := by
  have hdesc : (k.write && keys.any isDescKey) = false := by
    cases hw : k.write with
    | false => rfl
    | true => exact hd hw
  have hdev : (!k.dev && keys.any isDevKey) = false := by
    rcases hv with h | h <;> simp only [h, Bool.not_true, Bool.false_and, Bool.and_false]
  simp only [State.checkAccess, hs, State.checkAddr, hk, hdesc, hdev, ha, ne_eq, not_true, Bool.false_eq_true, ↓reduceIte]

/-- A plain access has no alignment of its own, and may reach a device register. -/
theorem State.checkAccess_plain {w : Bool} (hs : scopeTrap u e.f = none) (hk : s.keysOf u e.tile a n = some keys)
    (hd : w = true → keys.any isDescKey = false) : s.checkAccess u e a (plainAcc n w) = .ok keys :=
  State.checkAccess_ok hs hk hd (Or.inl rfl) (Nat.mod_one _)

theorem length_of_mapM_eq_some {α β : Type} {g : α → Option β} {l : List α} {ys : List β} (h : l.mapM g = some ys) :
    ys.length = l.length := by
  induction l generalizing ys with
  | nil =>
    obtain rfl : ys = [] := by simpa using h.symm
    rfl
  | cons y l ih =>
    obtain ⟨z, -, zs, hzs, rfl⟩ : ∃ z, g y = some z ∧ ∃ zs, l.mapM g = some zs ∧ z :: zs = ys := by
      simpa [Option.bind_eq_some_iff] using h
    simp [ih hzs]

theorem State.keysOf_length {here : Nat} (h : s.keysOf u here a n = some keys) : keys.length = n := by
  rw [State.keysOf] at h
  simpa using length_of_mapM_eq_some h

/-! ## An entry enters the store buffer, or waits while it is full (R135) -/

/-- The entry that a unit's instruction puts into the store buffer. -/
def State.entryOf (s : State) (r : SlotRef) (u : Ctx) (f : Fields) (n : Nat) (kind : StoreKind) : StoreEntry :=
  ⟨s.serial, s.who r.core u, u.launchId, u.pc, n, none, f.hint.toNat, kind⟩

variable {kind : StoreKind} {watch : Option Trap} {w : Trap}

theorem State.postEntry_enters (hb : s.buffered r.core < 32) :
    s.begun.postEntry (envOf i r u) u.begun n kind none =
      .ok (s.numbered.enterBuffer (s.entryOf r u i.fields n kind)) u.begun := if_neg (Nat.not_le.mpr hb)

theorem State.postEntry_watched (hb : s.buffered r.core < 32) :
    s.begun.postEntry (envOf i r u) u.begun n kind (some w) =
      .after (s.numbered.enterBuffer (s.entryOf r u i.fields n kind)) u.begun w := if_neg (Nat.not_le.mpr hb)

theorem State.postEntry_full (hb : 32 ≤ s.buffered r.core) :
    s.begun.postEntry (envOf i r u) u.begun n kind watch = .wait s.begun u.begun .bufferFull := if_pos hb

/-! ## Reading on the core path (R130, R135) -/

/-- What an instruction does after its unit's buffered stores. -/
theorem State.afterDrain_of_drains {need : Bool} (h : s.Drains u.key need x) (rest : State → Res) :
    s.afterDrain u need rest = rest x := by
  cases need with
  | false => exact congrArg rest h.symm
  | true =>
    change s.drain u.key = .ok x at h
    simp only [State.afterDrain, h, ↓reduceIte]

theorem State.coreRead_ok {lane : Nat} (hp : x.performRead (x.who e.core u) keys e.f.hint.toNat = .ok t bs)
    (rest : State → List Byte → Res) : x.coreRead e u a keys n lane rest = rest t (t.forwarded u.key keys bs) := by
  simp only [State.coreRead, hp, State.forwarded]

/-- An access answers one byte for each key. -/
def Acc.Answers (n : Nat) : Acc → Prop
  | .ok _ bs => bs.length = n
  | _ => True

theorem State.readFlat_answers (s : State) (who : Who) (k idx : Nat) : (s.readFlat who k idx).Answers 1 := by
  unfold State.readFlat State.readDesc
  dsimp only
  repeat' split
  all_goals trivial

theorem State.readOne_answers (s : State) (who : Who) (l1 : Nat → Nat) (reach : State → Nat → Nat → List Nat → Acc)
    (opened : Option Nat) (k idx : Nat) (ks : List Nat) : (s.readOne who l1 reach opened k idx ks).Answers 1 := by
  unfold State.readOne
  split
  · exact State.readFlat_answers ..
  · split
    · exact rfl
    · split
      · exact rfl
      · rename_i hno
        revert hno
        cases reach s (k / 128) idx (ks.filter isCachedKey) with
        | ok s v => exact fun hno => absurd rfl (hno s v)
        | fail => exact fun _ => trivial
        | wait => exact fun _ => trivial

theorem State.readKeys_answers (who : Who) (l1 : Nat → Nat) (reach : State → Nat → Nat → List Nat → Acc) (l : List (Nat × Nat)) :
    ∀ (s : State) (opened : Option Nat), (s.readKeys who l1 reach opened l).Answers l.length := by
  induction l with
  | nil => exact fun _ _ => rfl
  | cons p l ih =>
    intro s opened
    have hone := State.readOne_answers s who l1 reach opened p.1 p.2 (p.1 :: l.map (·.1))
    rw [State.readKeys]
    revert hone
    cases s.readOne who l1 reach opened p.1 p.2 (p.1 :: l.map (·.1)) with
    | fail => exact fun _ => trivial
    | wait => exact fun _ => trivial
    | ok s b =>
      intro hb
      have hrest := ih s (if isCachedKey p.1 then some (p.1 / 128) else none)
      dsimp only
      revert hrest
      cases s.readKeys who l1 reach (if isCachedKey p.1 then some (p.1 / 128) else none) l with
      | fail => exact fun _ => trivial
      | wait => exact fun _ => trivial
      | ok s bs =>
        intro hbs
        change b.length = 1 at hb
        change bs.length = l.length at hbs
        change (b ++ bs).length = l.length + 1
        rw [List.length_append, hb, hbs, Nat.add_comm]

theorem State.performRead_length {who : Who} {hint : Nat} (h : s.performRead who keys hint = .ok t bs) :
    bs.length = keys.length := by
  unfold State.performRead at h
  split at h
  next y _ _ =>
    have hlen := State.readKeys_answers who (y.l1Of who.tile) (fun s line idx ks => s.loadLine who hint line idx ks) keys.zipIdx y none
    rw [State.readCore] at h
    rw [h] at hlen
    simpa [Acc.Answers] using hlen
  next hno => exact absurd h (hno t bs)

theorem State.forwarded_length (h : bs.length = keys.length) (unit : Nat) : (s.forwarded unit keys bs).length = keys.length := by
  simp [State.forwarded, h]

/-! ## Loads (R137, R139, R128) -/

/-- A unit whose load passes its checks, and whose own stores are performed where the load asks for it, has read its bytes. -/
structure Loads (s : State) (i : Instr) (r : SlotRef) (u : Ctx) (a : Word) (n : Nat) (keys : List Nat) (x t : State) (bs : List Byte) :
    Prop where
  issues : Issues s i r u
  scope  : scopeTrap u i.fields = none
  named  : s.keysOf u (tileOf r.core) a n = some keys
  nodev  : keys.any isDevKey = false
  drains : s.begun.Drains u.key (s.loadDrains u i.fields.ord.toNat keys) x
  reads  : x.performRead (x.who r.core u) keys i.fields.hint.toNat = .ok t bs

theorem Loads.length (h : Loads s i r u a n keys x t bs) : (t.forwarded u.key keys bs).length = n := by
  rw [State.forwarded_length (State.performRead_length h.reads), State.keysOf_length h.named]

/-- Its reply is on its way with what the load's code makes of the bytes. -/
theorem Loads.replies (h : Loads s i r u a n keys x t bs) (code : Nat) (dsts : List Nat) (watched : Bool) :
    s.begun.load (envOf i r u) u.begun a n code dsts watched = .reply t u.begun (loadWrites code dsts (t.forwarded u.key keys bs))
      (if watched then watchTrap u n [(0, a)] else none) := by
  have hcheck : s.begun.checkAccess u.begun (envOf i r u) a (plainAcc n false) = .ok keys :=
    State.checkAccess_plain h.scope h.named nofun
  rw [State.load, hcheck]
  dsimp only
  refine (State.afterDrain_of_drains (s := s.begun) (u := u.begun) h.drains _).trans ?_
  exact (if_neg (ne_true_of_eq_false h.nodev)).trans (State.coreRead_ok (e := envOf i r u) (u := u.begun) h.reads _)

theorem Loads.exec_signed (h : Loads s i r u a n keys x t bs) {code : Nat} (hc : code % 2 = 0 ∧ code < 6)
    (hx : exec i s = issueInstr i (fun e u s => s.load e u (effAddr u e.f n) n code [e.f.a.toNat] true) s)
    (ha : effAddr u i.fields n = a) :
    exec i s = .next (t.replies i r u
      [.scalar i.fields.a.toNat (BitVec.ofInt 64 (signed (natOfBytes (t.forwarded u.key keys bs)) (8 * n)))]
      (watchTrap u n [(0, a)])) := by
  subst ha
  have hw : loadWrites code [i.fields.a.toNat] (t.forwarded u.key keys bs) =
      [.scalar i.fields.a.toNat (BitVec.ofInt 64 (signed (natOfBytes (t.forwarded u.key keys bs)) (8 * n)))] := by
    rw [loadWrites, if_neg (by omega), if_neg (by omega), if_neg (by omega), if_pos hc, h.length]
    rfl
  rw [hx, ← hw]
  exact issueInstr_replies h.issues (h.replies code _ true)

/-! ## Stores (R138, R139) -/

/-- A unit whose store passes its checks. -/
structure Stores (s : State) (i : Instr) (r : SlotRef) (u : Ctx) (a : Word) (n : Nat) (keys : List Nat) : Prop where
  issues : Issues s i r u
  scope  : scopeTrap u i.fields = none
  named  : s.keysOf u (tileOf r.core) a n = some keys
  nodesc : keys.any isDescKey = false

/-- It posts its bytes to the core's buffer. -/
theorem Stores.posts (h : Stores s i r u a bs.length keys) : s.begun.storeBytes (envOf i r u) u.begun a bs =
    s.begun.postEntry (envOf i r u) u.begun bs.length (.bytes [⟨0, a, keys.zip bs⟩]) (watchTrap u bs.length [(0, a)]) := by
  have hcheck : s.begun.checkAccess u.begun (envOf i r u) a (plainAcc bs.length true) = .ok keys :=
    State.checkAccess_plain h.scope h.named fun _ => h.nodesc
  rw [State.storeBytes, hcheck]
  rfl

@[simp] theorem length_bytesOfNat (v n : Nat) : (bytesOfNat v n).length = n := by
  induction n generalizing v with
  | zero => rfl
  | succ n ih => simp [bytesOfNat, ih]

section StoreOutcomes

variable (h : Stores s i r u a n keys) (hn : bs.length = n) {body : Env → Ctx → State → Res}
  (hb : body (envOf i r u) u.begun s.begun = s.begun.storeBytes (envOf i r u) u.begun a bs)

include h hn hb

/-- A store completes with its entry in the buffer. -/
theorem Stores.completes (hroom : s.buffered r.core < 32) (hw : watchTrap u n [(0, a)] = none) : issueInstr i body s =
    .next ((s.numbered.enterBuffer (s.entryOf r u i.fields n (.bytes [⟨0, a, keys.zip bs⟩]))).completes i r u u.begun) := by
  subst hn
  exact issueInstr_ok h.issues (hb.trans (h.posts.trans (hw ▸ State.postEntry_enters hroom)))

/-- A watched store traps after it. -/
theorem Stores.traps_after (hroom : s.buffered r.core < 32) (hw : watchTrap u n [(0, a)] = some w) : issueInstr i body s =
    .next ((s.numbered.enterBuffer (s.entryOf r u i.fields n (.bytes [⟨0, a, keys.zip bs⟩]))).trapsAfter i r u u.begun w) := by
  subst hn
  exact issueInstr_traps_after h.issues (hb.trans (h.posts.trans (hw ▸ State.postEntry_watched hroom)))

/-- A store waits while the buffer is full. -/
theorem Stores.waits (hfull : 32 ≤ s.buffered r.core) : issueInstr i body s = .next (s.begun.awaits i r u .bufferFull) := by
  subst hn
  exact issueInstr_awaits h.issues (hb.trans (h.posts.trans (State.postEntry_full hfull)))

/-- A completed store changes nothing but the PC of its unit, the buffer and the agenda. -/
theorem Stores.frame (hroom : s.buffered r.core < 32) (hw : watchTrap u n [(0, a)] = none) :
    ∃ t e p, issueInstr i body s = .next t ∧ t.unitAt r = some { u.begun with pc := npcOf i u } ∧
      (∀ k, k ≠ r.key → t.slotAt k = s.slotAt k) ∧ t.slotAt r.key = { s.slotAt r.key with unit := (t.slotAt r.key).unit } ∧
      t.fab = { s.fab with slots := t.fab.slots, sbuf := s.fab.sbuf ++ [e] } ∧
      e.kind = .bytes [p] ∧ p.cells.map (fun c => c.1) = keys ∧ e.who.unit = u.key ∧
      (∃ due, s.ck < due ∧ t = { s.numbered with fab := t.fab, agenda := s.agenda ++ [(due, e.event)], freeCtr := s.freeCtr + 1 }) := by
  have hlen : keys.length ≤ bs.length := Nat.le_of_eq ((State.keysOf_length h.named).trans hn.symm)
  refine ⟨_, _, _, h.completes hn hb hroom hw, State.unitAt_completes .., fun k hk => State.slotAt_completes_ne _ _ _ _ _ _ hk,
    ?slot, rfl, rfl, List.map_fst_zip hlen, rfl, _, ?due, rfl⟩
  case slot =>
    have hself := State.slotAt_setSlot_self s r.key { s.slotAt r.key with unit := some { u.begun with pc := npcOf i u } } nofun
    exact hself.trans (congrArg (fun x => { s.slotAt r.key with unit := x }) (congrArg Slot.unit hself).symm)
  case due =>
    change s.ck < s.ck + 1 + Config.latency s.freeCtr
    omega

end StoreOutcomes

/-! ## Accesses that fail their checks (R130) -/

/-- An access of a size at an address fails the checks of its scope, its aperture, or the description block with their traps. -/
def FailsChecks (s : State) (i : Instr) (r : SlotRef) (u : Ctx) (a : Word) (n : Nat) (write : Bool) : Prop :=
  let trap : State := s.begun.trapsAt r u (apertureTrap a n)
  (∀ t, scopeTrap u i.fields = some t → exec i s = .next (s.begun.trapsAt r u t)) ∧
  (scopeTrap u i.fields = none → s.keysOf u (tileOf r.core) a n = none → exec i s = .next trap) ∧
  (∀ keys, scopeTrap u i.fields = none → s.keysOf u (tileOf r.core) a n = some keys → write = true →
    keys.any isDescKey = true → exec i s = .next trap)

/-- An instruction whose effect begins with the checks of an access fails them with no effect of its own. -/
theorem failsChecks_of_issues (h : Issues s i r u) {write : Bool} {body : Env → Ctx → State → Res} (hx : exec i s = issueInstr i body s)
    (hb : ∀ c, s.begun.checkAccess u.begun (envOf i r u) a (plainAcc n write) = .trap c →
      body (envOf i r u) u.begun s.begun = .trap s.begun c) : FailsChecks s i r u a n write := by
  have trapping : ∀ c, s.begun.checkAccess u.begun (envOf i r u) a (plainAcc n write) = .trap c →
      exec i s = .next (s.begun.trapsAt r u c) := fun c hc => hx.trans (issueInstr_traps h (hb c hc))
  exact ⟨fun c hs => trapping c (State.checkAccess_scope hs), fun hs hk => trapping _ (State.checkAccess_aperture hs hk),
    fun keys hs hk hw hd => trapping _ (State.checkAccess_desc hs hk hw hd)⟩

theorem State.load_traps {code : Nat} {dsts : List Nat} {watched : Bool} (hc : s.checkAccess u e a (plainAcc n false) = .trap w) :
    s.load e u a n code dsts watched = .trap s w := by
  rw [State.load, hc]

theorem State.storeBytes_traps (hn : bs.length = n) (hc : s.checkAccess u e a (plainAcc n true) = .trap w) :
    s.storeBytes e u a bs = .trap s w := by
  subst hn
  rw [State.storeBytes, hc]

end Sys2Proof.Machine

open Sys2Proof Sys2Proof.Machine

/-- Settles O18: every load replies with what its code makes of the bytes that its unit reads. -/
theorem loadsReplyWithWhatTheyRead : Obligations.LoadsReplyWithWhatTheyRead := by
  intro s r u f keys x t bs
  refine ⟨?i8, ?n8, ?i16, ?n16, ?i32, ?n32, ?i64, ?ldp, ?bnd⟩
  case bnd =>
    intro hi hs hk hv hd hp
    have hl : Loads s (.bndLd f) r u _ 16 keys x t bs := ⟨hi, hs, hk, hv, hd, hp⟩
    have haddr : u.reg f.b.toNat &&& ~~~(15#64) = BitVec.ofNat 64 ((u.reg f.b.toNat).toNat / 16 * 16) :=
      and_not_lowBits_eq_div_mul _ 4 (by decide)
    rw [← haddr] at hl
    exact issueInstr_replies hi (hl.replies 8 [f.a.toNat] false)
  all_goals intro hi hs hk hv hd hp
  case i8 => exact (Loads.mk (i := .ldI8 f) hi hs hk hv hd hp).exec_signed (code := 0) (by decide) rfl rfl
  case i16 => exact (Loads.mk (i := .ldI16 f) hi hs hk hv hd hp).exec_signed (code := 2) (by decide) rfl rfl
  case i32 => exact (Loads.mk (i := .ldI32 f) hi hs hk hv hd hp).exec_signed (code := 4) (by decide) rfl rfl
  case n8 => exact issueInstr_replies hi ((Loads.mk (i := .ldN8 f) hi hs hk hv hd hp).replies 1 _ true)
  case n16 => exact issueInstr_replies hi ((Loads.mk (i := .ldN16 f) hi hs hk hv hd hp).replies 3 _ true)
  case n32 => exact issueInstr_replies hi ((Loads.mk (i := .ldN32 f) hi hs hk hv hd hp).replies 5 _ true)
  case i64 => exact issueInstr_replies hi ((Loads.mk (i := .ldI64 f) hi hs hk hv hd hp).replies 6 _ true)
  case ldp => exact issueInstr_replies hi ((Loads.mk (i := .ldp f) hi hs hk hv hd hp).replies 7 _ true)

/-- Settles O20: a store that passes its checks posts its bytes; no byte of memory changes with it. -/
theorem storesEnterTheBuffer : Obligations.StoresEnterTheBuffer := by
  intro s r u f keys
  refine ⟨?b8, ?b16, ?b32, ?b64, ?pair⟩
  all_goals
    intro hi hs hk hd
    have hstore : Stores s _ r u _ _ keys := ⟨hi, hs, hk, hd⟩
    exact ⟨hstore.completes rfl rfl, fun w => hstore.traps_after rfl rfl, hstore.waits rfl rfl, fun k => rfl⟩

/-- Settles O21: a completed store leaves everything but the PC, the buffer and the agenda as it was. -/
theorem storesChangeNoRegister : Obligations.StoresChangeNoRegister := by
  intro s r u f keys
  refine ⟨?b8, ?b16, ?b32, ?b64, ?pair⟩
  all_goals
    intro hi hs hk hd hroom hw
    have hstore : Stores s _ r u _ _ keys := ⟨hi, hs, hk, hd⟩
    exact hstore.frame rfl rfl hroom hw

/-- Settles O22: each scalar load and store begins with the checks of its access, and fails them with no effect of its own. -/
theorem accessChecksTrapBeforeAnyEffect : Obligations.AccessChecksTrapBeforeAnyEffect := by
  intro s r u f
  refine ⟨?i8, ?n8, ?i16, ?n16, ?i32, ?n32, ?i64, ?ldp, ?b8, ?b16, ?b32, ?b64, ?pair⟩
  all_goals intro hi
  case b8 | b16 | b32 | b64 | pair => exact failsChecks_of_issues hi rfl fun c hc => State.storeBytes_traps rfl hc
  all_goals exact failsChecks_of_issues hi rfl fun c hc => State.load_traps hc

end

section
/-!
Replies (R59), prefetches, cleans and invalidates (R140, R141), atomics (R142 to R146), fences, semaphores, barriers and counters (R148
to R157).
-/
namespace Sys2Proof.Machine

open Sys2Proof

variable {s t x : State} {r : SlotRef} {u v : Ctx} {f : Fields} {i : Instr} {e : Env} {a : Word} {keys : List Nat} {bs : List Byte}
  {n : Nat}

/-! ## Units in their slots, and the end of a wait (R59) -/

/-- A unit that is found stands in the slot it is found in. -/
theorem State.unit_of_findUnit {key k : Nat} {sl : Slot} (h : s.findUnit key = some (k, sl, u)) : sl.unit = some u ∧ u.key = key := by
  unfold State.findUnit at h
  generalize s.fab.slots = m at h
  induction m with
  | nil => simp [Machine.findUnit] at h
  | cons p rest ih =>
    obtain ⟨k', sl'⟩ := p
    unfold Machine.findUnit at h
    split at h
    · split at h
      · next hu hk =>
        obtain ⟨rfl, rfl, rfl⟩ : k' = k ∧ sl' = sl ∧ _ = u := by simpa using h
        exact ⟨hu, hk⟩
      · exact ih h
    · exact ih h

/-- A wait that ends puts its unit back in the rotation in the next ck, at the next instruction. -/
theorem State.complete_of_running {k : Nat} {npc : Word} {g : Ctx → Ctx} (hu : (s.slotAt k).unit = some u)
    (hh : s.haltedTag u.tag = false) : s.complete k npc g =
      s.setSlot k { s.slotAt k with unit := some { g u with pc := npc }, mode := .ready (s.ck + 1) } := by
  simp only [State.complete, hu, hh, Bool.false_eq_true, ↓reduceIte]

theorem State.complete_of_halted {k : Nat} {npc : Word} {g : Ctx → Ctx} (hu : (s.slotAt k).unit = some u)
    (hh : s.haltedTag u.tag = true) : s.complete k npc g = s := by
  simp only [State.complete, hu, hh, ↓reduceIte]

/-- What a reply does for the unit that waits for it. -/
theorem execMemoryReply_of_waiting {k since : Nat} {sl : Slot} {rep : Reply} (hf : s.findUnit u.key = some (k, sl, u))
    (hm : sl.mode = .waiting (.reply rep) since) : exec (.memoryReply u.key) s = .next (if s.haltedTag u.tag then s else
      match rep.watch with
      | none => s.complete k rep.npc fun v => v.applyReply rep
      | some t => s.takeTrap (refOfKey k) (u.applyReply rep) ⟨t, u.pc, rep.npc⟩) := by
  change execMemoryReply u.key s = _
  simp only [execMemoryReply, hf, hm] <;> rfl

/-! ## Accesses at the home of their bytes (R142) -/

theorem State.atHome_ok {g : List Byte → Option (List Byte)} {write : Bool} (hd : s.drain u.key = .ok x)
    (hp : x.performAtHome (x.who e.core u) keys write g = .ok t bs) (rest : State → List Byte → Res) :
    s.atHome e u a keys write g rest = rest t bs := by
  rw [State.atHome, State.afterDrain_of_drains (x := x) (by exact hd)]
  simp only [hp]

/-! ## Fences (R148, R149) -/

theorem State.fenceRes_replies (hs : scopeTrap u e.f = none) (hd : s.Drains u.key (e.f.ord != 1 || s.rmwBuffered u.key) x) :
    s.fenceRes e u = .reply x u [] none := by
  rw [State.fenceRes, hs]
  exact State.afterDrain_of_drains hd _

/-! ## The object an instruction names with a register and its displacement -/

/-- A unit's instruction passes the checks of its access at the address in the register that a field names; it reaches no device register. -/
structure Reaches (s : State) (i : Instr) (r : SlotRef) (u : Ctx) (reg : Fields → BitVec 8) (acc : AccKind) (keys : List Nat) : Prop where
  issues  : Issues s i r u
  scope   : scopeTrap u i.fields = none
  named   : s.keysOf u (tileOf r.core) (regAddr u (reg i.fields) i.fields) acc.size = some keys
  nodev   : keys.any isDevKey = false
  nodesc  : acc.write = true → keys.any isDescKey = false
  aligned : (regAddr u (reg i.fields) i.fields).toNat % acc.align = 0

theorem Reaches.checks {reg : Fields → BitVec 8} {acc : AccKind} (h : Reaches s i r u reg acc keys) :
    s.begun.checkAccess u.begun (envOf i r u) (regAddr u.begun (reg (envOf i r u).f) (envOf i r u).f) acc = .ok keys :=
  State.checkAccess_ok (s := s.begun) h.scope h.named h.nodesc (Or.inr h.nodev) h.aligned

/-! ## Barriers (R150 to R152) -/

theorem natOfBytes_bytesOfNat (v n : Nat) : natOfBytes (bytesOfNat v n) = v % 256 ^ n := by
  induction n generalizing v with
  | zero => simp [bytesOfNat, natOfBytes, Nat.mod_one]
  | succ n ih =>
    rw [bytesOfNat, natOfBytes, ih, BitVec.toNat_ofNat]
    exact (Nat.mod_mul (x := v) (a := 256) (b := 256 ^ n)).symm.trans (by rw [Nat.pow_succ'])

/-- The number a barrier's object holds after an arrival. -/
def barrierArrived (o : Nat) : Nat :=
  let ex := o / 2 ^ 64 % 2 ^ 32
  let c := o / 2 ^ 32 % 2 ^ 32 + 1
  o / 2 ^ 64 * 2 ^ 64 + (if max ex 1 ≤ c then (o % 2 ^ 32 + 1) % 2 ^ 32 else c * 2 ^ 32 + o % 2 ^ 32)

theorem barArrived_eq (old : List Byte) : barArrived old = bytesOfNat (barrierArrived (natOfBytes old)) 16 := by
  unfold barArrived barrierArrived
  dsimp only
  split
  · rfl
  · rw [Nat.add_assoc]

/-- The generation of a barrier is the low half word of its object. -/
theorem barGenOf_bytesOfNat (v : Nat) : barGenOf (bytesOfNat v 16) = BitVec.ofNat 32 v := by
  rw [barGenOf, natOfBytes_bytesOfNat]
  apply BitVec.eq_of_toNat_eq
  rw [BitVec.toNat_ofNat, BitVec.toNat_ofNat]
  exact Nat.mod_mod_of_dvd v ⟨256 ^ 12, by decide⟩

theorem setWidth_barGenOf (old : List Byte) : (barGenOf old).setWidth 64 = BitVec.ofNat 64 (natOfBytes old % 2 ^ 32) := by
  apply BitVec.eq_of_toNat_eq
  simp [barGenOf]

theorem barGenOf_eq_setWidth_iff (old : List Byte) (w : Word) :
    barGenOf old = w.setWidth 32 ↔ w.toNat % 2 ^ 32 = natOfBytes old % 2 ^ 32 := by
  rw [← BitVec.toNat_inj, barGenOf, BitVec.toNat_ofNat, BitVec.toNat_setWidth, eq_comm]

section Barriers

variable {k : Nat} {old : List Byte} {write : Bool} {g : List Byte → Option (List Byte)} (hd : s.begun.drain u.key = .ok x)
  (hp : x.performAtHome (x.who r.core u) (k :: keys) write g = .ok t old)

include hd hp

/-- The bytes of an object reach the rest of an instruction that reads or changes it at its home. -/
theorem atHome_issued (rest : State → List Byte → Res) :
    s.begun.atHome (envOf i r u) u.begun a (k :: keys) write g rest = rest t old :=
  State.atHome_ok (s := s.begun) (u := u.begun) (e := envOf i r u) hd hp rest

theorem execBarArrive_replies (h : Reaches s (.barArrive f) r u (·.b) (barAcc true) (k :: keys)) (hw : write = true)
    (hg : g = fun b => some (barArrived b)) : exec (.barArrive f) s =
      .next ((t.wakeBarrier k (BitVec.ofNat 32 (barrierArrived (natOfBytes old)))).replies (.barArrive f) r u
        [.scalar f.a.toNat (BitVec.ofNat 64 (natOfBytes old % 2 ^ 32))] none) := by
  subst hw hg
  rw [← setWidth_barGenOf, ← barGenOf_bytesOfNat, ← barArrived_eq]
  refine issueInstr_replies h.issues ?_
  dsimp only
  rw [h.checks]
  exact atHome_issued hd hp _

theorem execBarWait_replies (h : Reaches s (.barWait f) r u (·.b) (barAcc false) (k :: keys)) (hw : write = false)
    (hg : g = fun _ => none) (hv : (u.reg f.c.toNat).toNat % 2 ^ 32 ≠ natOfBytes old % 2 ^ 32) : exec (.barWait f) s =
      .next (t.replies (.barWait f) r u [.scalar f.a.toNat (BitVec.ofNat 64 (natOfBytes old % 2 ^ 32))] none) := by
  subst hw hg
  rw [← setWidth_barGenOf]
  refine issueInstr_replies h.issues ?_
  dsimp only
  rw [h.checks]
  exact (atHome_issued hd hp _).trans (if_pos (mt (barGenOf_eq_setWidth_iff old _).mp hv))

theorem execBarWait_waits (h : Reaches s (.barWait f) r u (·.b) (barAcc false) (k :: keys)) (hw : write = false)
    (hg : g = fun _ => none) (hv : (u.reg f.c.toNat).toNat % 2 ^ 32 = natOfBytes old % 2 ^ 32) : exec (.barWait f) s =
      .next (t.awaits (.barWait f) r u
        (.bar (regAddr u f.b f) k (BitVec.ofNat 32 (natOfBytes old)) f.a.toNat (npcOf (.barWait f) u))) := by
  subst hw hg
  refine issueInstr_awaits h.issues ?_
  dsimp only
  rw [h.checks]
  exact (atHome_issued hd hp _).trans (if_neg (not_not_intro ((barGenOf_eq_setWidth_iff old _).mpr hv)))

theorem execBarGen_replies (h : Reaches s (.barGen f) r u (·.b) (barAcc false) (k :: keys)) (hw : write = false)
    (hg : g = fun _ => none) : exec (.barGen f) s =
      .next (t.replies (.barGen f) r u [.scalar f.a.toNat (BitVec.ofNat 64 (natOfBytes old % 2 ^ 32))] none) := by
  subst hw hg
  rw [← setWidth_barGenOf]
  refine issueInstr_replies h.issues ?_
  dsimp only
  rw [h.checks]
  exact atHome_issued hd hp _

/-! ## Counters (R156, R157) -/

theorem execCntAdd_replies (h : Reaches s (.cntAdd f) r u (·.a) (cntAcc true) (k :: keys)) (hw : write = true)
    (hg : g = fun b => some (bytesOfNat (cntSum (natOfBytes b) (u.reg f.b.toNat)) 8)) (hord : posted f.ord.toNat = false) :
    exec (.cntAdd f) s =
      .next ((t.wakeCounter k (cntSum (natOfBytes old) (u.reg f.b.toNat))).replies (.cntAdd f) r u [] none) := by
  subst hw hg
  refine issueInstr_replies h.issues ?_
  dsimp only
  rw [h.checks]
  exact (if_neg (ne_true_of_eq_false hord)).trans (atHome_issued hd hp _)

theorem execCntWait_replies (h : Reaches s (.cntWait f) r u (·.a) (cntAcc false) (k :: keys)) (hw : write = false)
    (hg : g = fun _ => none) (hv : (u.reg f.b.toNat).toNat ≤ natOfBytes old) :
    exec (.cntWait f) s = .next (t.replies (.cntWait f) r u [] none) := by
  subst hw hg
  refine issueInstr_replies h.issues ?_
  dsimp only
  rw [h.checks]
  exact (atHome_issued hd hp _).trans (if_pos hv)

theorem execCntWait_waits (h : Reaches s (.cntWait f) r u (·.a) (cntAcc false) (k :: keys)) (hw : write = false)
    (hg : g = fun _ => none) (hv : natOfBytes old < (u.reg f.b.toNat).toNat) : exec (.cntWait f) s =
      .next (t.awaits (.cntWait f) r u (.cnt (regAddr u f.a f) k (u.reg f.b.toNat) (npcOf (.cntWait f) u))) := by
  subst hw hg
  refine issueInstr_awaits h.issues ?_
  dsimp only
  rw [h.checks]
  exact (atHome_issued hd hp _).trans (if_neg (Nat.not_le.mpr hv))

theorem execCntRd_replies (h : Reaches s (.cntRd f) r u (·.b) (cntAcc false) (k :: keys)) (hw : write = false)
    (hg : g = fun _ => none) : exec (.cntRd f) s =
      .next (t.replies (.cntRd f) r u [.scalar f.a.toNat (BitVec.ofNat 64 (natOfBytes old))] none) := by
  subst hw hg
  refine issueInstr_replies h.issues ?_
  dsimp only
  rw [h.checks]
  exact atHome_issued hd hp _

end Barriers

/-- A discarded result under no ordering or release alone enters the store buffer. -/
theorem posted_iff (o : BitVec 3) : posted o.toNat = true ↔ o = 0 ∨ o = 2 := by
  revert o
  decide

theorem execCntAdd_posts (h : Reaches s (.cntAdd f) r u (·.a) (cntAcc true) keys) (hord : f.ord = 0 ∨ f.ord = 2)
    (hb : s.buffered r.core < 32) : exec (.cntAdd f) s = .next ((s.numbered.enterBuffer
      (s.entryOf r u f 8 (.cntAdd (regAddr u f.a f) keys (u.reg f.b.toNat)))).completes (.cntAdd f) r u u.begun) := by
  refine issueInstr_ok h.issues ?_
  dsimp only
  rw [h.checks]
  exact (if_pos ((posted_iff f.ord).mpr hord)).trans (State.postEntry_enters hb)

/-! ## Atomics (R142 to R146) -/

section Atomics

variable {fn m code : Nat} {y z : Word} {new : Nat → Option Nat} {res : Nat → Word} {fl : Nat → Flags}

/-- The access of an atomic on an object of m bytes. -/
def amoAcc (m : Nat) : AccKind := ⟨m, true, false, m⟩

/-- What an atomic of a function does with its object: its size, its operands, and its new value, result and flags by the old value. -/
structure AmoMeans (f : Fields) (u : Ctx) (fn m : Nat) (y z : Word) (new : Nat → Option Nat) (res : Nat → Word) (fl : Nat → Flags) :
    Prop where
  size   : amoSize fn f.ty.toNat = m
  left   : (if fn = 14 then 0 else u.reg f.c.toNat) = y
  right  : (if fn = 9 then u.reg f.d.toNat else 0) = z
  effect : ∀ o, amoEffect fn f.ty.toNat f.rm.toNat o y z = (new o, res o, fl o)

theorem amoInstr_posts (hx : exec i s = amoInstr i fn s) (hm : AmoMeans i.fields u fn m y z new res fl)
    (h : Reaches s i r u (·.b) (amoAcc m) keys) (ha : i.fields.a = 0xFF) (ho : i.fields.ord = 0 ∨ i.fields.ord = 2)
    (hb : s.buffered r.core < 32) (hw : watchTrap u m [(0, regAddr u i.fields.b i.fields)] = none) :
    exec i s = .next ((s.numbered.enterBuffer (s.entryOf r u i.fields m
      (.amo fn i.fields.ty.toNat (regAddr u i.fields.b i.fields) keys y z))).completes i r u u.begun) := by
  obtain ⟨rfl, rfl, rfl, -⟩ := hm
  have hposted : (i.fields.a == 0xFF && posted i.fields.ord.toNat) = true := by
    rw [(posted_iff _).mpr ho, ha]
    rfl
  rw [hx]
  refine issueInstr_ok h.issues ?_
  dsimp only
  rw [show s.begun.checkAccess u.begun (envOf i r u) (regAddr u.begun (envOf i r u).f.b (envOf i r u).f)
    ⟨amoSize fn (envOf i r u).f.ty.toNat, true, false, amoSize fn (envOf i r u).f.ty.toNat⟩ = .ok keys from h.checks]
  exact (if_pos hposted).trans ((congrArg (State.postEntry _ _ _ _ _ · none) hw).trans (State.postEntry_enters hb))

theorem amoInstr_replies (hx : exec i s = amoInstr i fn s) (hm : AmoMeans i.fields u fn m y z new res fl)
    (h : Reaches s i r u (·.b) (amoAcc m) keys) (ho : ¬ (i.fields.a = 0xFF ∧ (i.fields.ord = 0 ∨ i.fields.ord = 2)))
    (hd : s.begun.drain u.key = .ok x) {old : List Byte} (hp : x.performAtHome (x.who r.core u) keys (fn != 14)
      (fun b => (new (natOfBytes b)).map fun v => bytesOfNat v m) = .ok t old) :
    exec i s = .next (t.replies i r u ((if i.fields.a = 0xFF then [] else [.scalar i.fields.a.toNat (res (natOfBytes old))]) ++
      [.flags (fl (natOfBytes old))]) (watchTrap u m [(0, regAddr u i.fields.b i.fields)])) := by
  obtain ⟨rfl, rfl, rfl, he⟩ := hm
  have hposted : ¬ (i.fields.a == 0xFF && posted i.fields.ord.toNat) = true := by
    simpa [posted_iff] using ho
  have hg : (fun b => (new (natOfBytes b)).map fun v => bytesOfNat v (amoSize fn i.fields.ty.toNat)) =
      fun b => (amoEffect fn i.fields.ty.toNat i.fields.rm.toNat (natOfBytes b) (if fn = 14 then 0 else u.reg i.fields.c.toNat)
        (if fn = 9 then u.reg i.fields.d.toNat else 0)).1.map fun v => bytesOfNat v (amoSize fn i.fields.ty.toNat) := by
    funext b
    rw [he]
  have hres := he (natOfBytes old)
  rw [hg] at hp
  rw [hx]
  refine issueInstr_replies h.issues ?_
  dsimp only
  rw [show s.begun.checkAccess u.begun (envOf i r u) (regAddr u.begun (envOf i r u).f.b (envOf i r u).f)
    ⟨amoSize fn (envOf i r u).f.ty.toNat, true, false, amoSize fn (envOf i r u).f.ty.toNat⟩ = .ok keys from h.checks]
  refine (if_neg hposted).trans ((State.atHome_ok (s := s.begun) (u := u.begun) (e := envOf i r u) hd hp _).trans ?_)
  simp only [beq_iff_eq]
  exact congrArg (fun p : Option Nat × Word × Flags => Res.reply t u.begun ((if i.fields.a = 0xFF then []
    else [.scalar i.fields.a.toNat p.2.1]) ++ [.flags p.2.2]) (watchTrap u _ [(0, regAddr u i.fields.b i.fields)])) hres

/-- The size of an object that a function other than `amo.xadd` and `amo.xrd` acts on. -/
def amoWidth (ty : Nat) : Nat := if ty = 3 ∨ ty = 19 ∨ ty = 6 then 4 else 8

/-- The old value of an object as a register takes it. -/
def amoOld (ty v : Nat) : Word := if ty = 3 then BitVec.ofInt 64 (signed v 32) else BitVec.ofNat 64 v

theorem amoMeans_int (f : Fields) (u : Ctx) (hfn : fn ≤ 9) : AmoMeans f u fn (amoWidth f.ty.toNat) (u.reg f.c.toNat)
    (if fn = 9 then u.reg f.d.toNat else 0) (fun o => amoInt fn (8 * amoWidth f.ty.toNat) o
      ((u.reg f.c.toNat).toNat % 2 ^ (8 * amoWidth f.ty.toNat))
      ((if fn = 9 then u.reg f.d.toNat else 0).toNat % 2 ^ (8 * amoWidth f.ty.toNat))) (amoOld f.ty.toNat) (fun _ => 0) := by
  have hsize : amoSize fn f.ty.toNat = amoWidth f.ty.toNat := if_neg (by omega)
  refine ⟨hsize, if_neg (by omega), rfl, fun o => ?_⟩
  rw [amoEffect, if_neg (by omega), if_neg (by omega), hsize]
  exact if_pos hfn

theorem amoMeans_float (f : Fields) (u : Ctx) (hfn : 10 ≤ fn) (hle : fn ≤ 12) : AmoMeans f u fn (amoWidth f.ty.toNat) (u.reg f.c.toNat) 0
    (fun o => some (amoFloat fn f.ty.toNat o ((u.reg f.c.toNat).toNat % 2 ^ (8 * amoWidth f.ty.toNat))).1) (amoOld f.ty.toNat)
    (fun o => (amoFloat fn f.ty.toNat o ((u.reg f.c.toNat).toNat % 2 ^ (8 * amoWidth f.ty.toNat))).2) := by
  have hsize : amoSize fn f.ty.toNat = amoWidth f.ty.toNat := if_neg (by omega)
  refine ⟨hsize, if_neg (by omega), if_neg (by omega), fun o => ?_⟩
  rw [amoEffect, if_neg (by omega), if_neg (by omega), hsize]
  exact if_neg (by omega)

theorem amoMeans_xadd (f : Fields) (u : Ctx) : AmoMeans f u 13 32 (u.reg f.c.toNat) 0
    (fun o => (amoEffect 13 f.ty.toNat f.rm.toNat o (u.reg f.c.toNat) 0).1)
    (fun o => (amoEffect 13 f.ty.toNat f.rm.toNat o (u.reg f.c.toNat) 0).2.1)
    (fun o => (amoEffect 13 f.ty.toNat f.rm.toNat o (u.reg f.c.toNat) 0).2.2) := ⟨rfl, rfl, rfl, fun _ => rfl⟩

theorem amoMeans_xrd (f : Fields) (u : Ctx) : AmoMeans f u 14 32 0 0 (fun _ => none)
    (fun o => BitVec.ofNat 64 (roundVal f.ty.toNat (cellVal o) f.rm.toNat).1)
    (fun o => (roundVal f.ty.toNat (cellVal o) f.rm.toNat).2) := by
  refine ⟨rfl, rfl, rfl, fun o => ?_⟩
  rw [amoEffect]
  exact if_pos rfl

/-- An atomic of the model does with its object what `AmoMeans` says, posted or at once. -/
theorem amoInstr_acts {old : List Byte} (hx : exec i s = amoInstr i fn s) (hm : AmoMeans i.fields u fn m y z new res fl)
    (hi : Issues s i r u) (hs : scopeTrap u i.fields = none)
    (hk : s.keysOf u (tileOf r.core) (regAddr u i.fields.b i.fields) m = some keys) (hdesc : keys.any isDescKey = false)
    (hdev : keys.any isDevKey = false) (ha : (regAddr u i.fields.b i.fields).toNat % m = 0) :
    (i.fields.a = 0xFF → (i.fields.ord = 0 ∨ i.fields.ord = 2) → s.buffered r.core < 32 →
      watchTrap u m [(0, regAddr u i.fields.b i.fields)] = none → exec i s = .next ((s.numbered.enterBuffer (s.entryOf r u i.fields m
        (.amo fn i.fields.ty.toNat (regAddr u i.fields.b i.fields) keys y z))).completes i r u u.begun)) ∧
    (¬ (i.fields.a = 0xFF ∧ (i.fields.ord = 0 ∨ i.fields.ord = 2)) → s.begun.drain u.key = .ok x →
      x.performAtHome (x.who r.core u) keys (fn != 14) (fun b => (new (natOfBytes b)).map fun v => bytesOfNat v m) = .ok t old →
      exec i s = .next (t.replies i r u ((if i.fields.a = 0xFF then [] else [.scalar i.fields.a.toNat (res (natOfBytes old))]) ++
        [.flags (fl (natOfBytes old))]) (watchTrap u m [(0, regAddr u i.fields.b i.fields)]))) := by
  have hreach : Reaches s i r u (·.b) (amoAcc m) keys := ⟨hi, hs, hk, hdev, fun _ => hdesc, ha⟩
  exact ⟨fun ha ho hb hw => amoInstr_posts hx hm hreach ha ho hb hw, fun ho hd hp => amoInstr_replies hx hm hreach ho hd hp⟩

end Atomics

end Sys2Proof.Machine

open Sys2Proof Sys2Proof.Machine

/-- Settles O19: a reply ends the wait of its unit with its writes, or traps after them; a halted unit keeps its wait. -/
theorem repliesDeliverTheirWrites : Obligations.RepliesDeliverTheirWrites := by
  intro s k sl u rep since hf hslot hm
  have hunit := (State.unit_of_findUnit hf).1
  have hx := execMemoryReply_of_waiting hf hm
  refine ⟨fun hh => ?_, fun hh hw => ?_, fun w hh hw => ?_⟩
  · rw [hx, if_pos hh]
  · rw [hx, if_neg (ne_true_of_eq_false hh), hw]
    dsimp only
    rw [State.complete_of_running (by rw [hslot, hunit]) hh, hslot]
    exact ⟨_, rfl, State.slotAt_setSlot_self _ _ _ nofun, rfl⟩
  · rw [hx, if_neg (ne_true_of_eq_false hh), hw]

/-- Settles O26: fences reply once their unit's entries are performed; semaphores count by their value. -/
theorem fencesAndSemaphores : Obligations.FencesAndSemaphores := by
  refine ⟨fun s r u f x => ⟨fun hi hs hd => ?_, fun hi hs hd => ?_⟩, fun s r u f => ⟨fun hi hb => ?post, fun hi hc => ?_, fun hi hc => ?_,
    fun hi hc => ?_, fun hi hc => ?_⟩⟩
  case post => exact issueInstr_ok hi (State.postEntry_enters hb)
  · exact issueInstr_replies hi (State.fenceRes_replies (s := s.begun) (u := u.begun) hs hd)
  · exact issueInstr_replies hi (State.fenceRes_replies (s := s.begun) (u := u.begun) hs hd)
  · exact issueInstr_ok hi (if_neg hc)
  · exact issueInstr_awaits hi (if_pos hc)
  · exact issueInstr_ok hi (if_neg hc)
  · exact issueInstr_completes hi (if_pos hc)

/-- Settles O27: each instruction on a barrier or a counter acts on its object as its rule says. -/
theorem barriersAndCounters : Obligations.BarriersAndCounters := by
  intro s r u f k keys x t old
  refine ⟨?arrive, fun hv => ?wait, fun hv => ?waits, ?gen, fun h0 h2 => ?add, fun hi hs hk hv hd ha ho hb => ?post, fun hv => ?cwait,
    fun hv => ?cwaits, ?rd⟩
  case post => exact execCntAdd_posts ⟨hi, hs, hk, hv, fun _ => hd, ha⟩ ho hb
  all_goals intro hi hs hk hdev hdesc ha hdr hp
  case arrive => exact execBarArrive_replies hdr hp ⟨hi, hs, hk, hdev, hdesc, ha⟩ rfl (funext fun b => congrArg some (barArrived_eq b).symm)
  case wait => exact execBarWait_replies hdr hp ⟨hi, hs, hk, hdev, hdesc, ha⟩ rfl rfl hv
  case waits => exact execBarWait_waits hdr hp ⟨hi, hs, hk, hdev, hdesc, ha⟩ rfl rfl hv
  case gen => exact execBarGen_replies hdr hp ⟨hi, hs, hk, hdev, hdesc, ha⟩ rfl rfl
  case add =>
    have hord : posted f.ord.toNat = false := Bool.eq_false_iff.mpr fun h => ((posted_iff f.ord).mp h).elim h0 h2
    exact execCntAdd_replies hdr hp ⟨hi, hs, hk, hdev, hdesc, ha⟩ rfl rfl hord
  case cwait => exact execCntWait_replies hdr hp ⟨hi, hs, hk, hdev, hdesc, ha⟩ rfl rfl hv
  case cwaits => exact execCntWait_waits hdr hp ⟨hi, hs, hk, hdev, hdesc, ha⟩ rfl rfl hv
  case rd => exact execCntRd_replies hdr hp ⟨hi, hs, hk, hdev, hdesc, ha⟩ rfl rfl

/-- Settles O25: each atomic is the model's `amoInstr` with the function that its rule gives it. -/
theorem atomicsReadModifyWrite : Obligations.AtomicsReadModifyWrite := by
  intro s r u f keys x t old
  refine ⟨?add, ?and, ?or, ?xor, ?min, ?max, ?minn, ?maxn, ?swap, ?cas, ?fadd, ?fmin, ?fmax, ?xadd, ?xrd⟩
  all_goals intro hi hs hk hdesc hdev ha
  case add => exact amoInstr_acts (i := .amoAdd f) rfl (amoMeans_int f u (fn := 0) (by decide)) hi hs hk hdesc hdev ha
  case and => exact amoInstr_acts (i := .amoAnd f) rfl (amoMeans_int f u (fn := 1) (by decide)) hi hs hk hdesc hdev ha
  case or => exact amoInstr_acts (i := .amoOr f) rfl (amoMeans_int f u (fn := 2) (by decide)) hi hs hk hdesc hdev ha
  case xor => exact amoInstr_acts (i := .amoXor f) rfl (amoMeans_int f u (fn := 3) (by decide)) hi hs hk hdesc hdev ha
  case min => exact amoInstr_acts (i := .amoMin f) rfl (amoMeans_int f u (fn := 4) (by decide)) hi hs hk hdesc hdev ha
  case max => exact amoInstr_acts (i := .amoMax f) rfl (amoMeans_int f u (fn := 5) (by decide)) hi hs hk hdesc hdev ha
  case minn => exact amoInstr_acts (i := .amoMinn f) rfl (amoMeans_int f u (fn := 6) (by decide)) hi hs hk hdesc hdev ha
  case maxn => exact amoInstr_acts (i := .amoMaxn f) rfl (amoMeans_int f u (fn := 7) (by decide)) hi hs hk hdesc hdev ha
  case swap => exact amoInstr_acts (i := .amoSwap f) rfl (amoMeans_int f u (fn := 8) (by decide)) hi hs hk hdesc hdev ha
  case cas => exact amoInstr_acts (i := .amoCas f) rfl (amoMeans_int f u (fn := 9) (by decide)) hi hs hk hdesc hdev ha
  case fadd => exact amoInstr_acts (i := .amoFadd f) rfl (amoMeans_float f u (fn := 10) (by decide) (by decide)) hi hs hk hdesc hdev ha
  case fmin => exact amoInstr_acts (i := .amoFmin f) rfl (amoMeans_float f u (fn := 11) (by decide) (by decide)) hi hs hk hdesc hdev ha
  case fmax => exact amoInstr_acts (i := .amoFmax f) rfl (amoMeans_float f u (fn := 12) (by decide) (by decide)) hi hs hk hdesc hdev ha
  case xadd => exact amoInstr_acts (i := .amoXadd f) rfl (amoMeans_xadd f u) hi hs hk hdesc hdev ha
  case xrd => exact amoInstr_acts (i := .amoXrd f) rfl (amoMeans_xrd f u) hi hs hk hdesc hdev ha

end

section
/-!
Prefetches, cleans and invalidates (R140, R141), accesses of scratchpad bytes that nothing delays (R130 step 4, R133, R142), and buffered
entries as they are performed (R135, R136, R155).
-/
namespace Sys2Proof.Machine

open Sys2Proof

variable {s t x y : State} {r : SlotRef} {u v : Ctx} {f : Fields} {i : Instr} {e : Env} {a : Word} {keys : List Nat} {bs : List Byte}
  {n : Nat}

/-! ## Prefetches (R140) -/

/-- A prefetch always completes, and changes nothing of its own unit. -/
theorem execPf_completes (h : Issues s (.pf f) r u) : ∃ t : State, exec (.pf f) s = .next (t.putUnit r { u.begun with pc := npcOf (.pf f) u }) := by
  have hbody : ∃ t, (match s.begun.keyOf u.begun (tileOf r.core) (effAddr u.begun f 1) with
      | some k => if isGlobalKey k && !isDevKey k then
          Res.ok (s.begun.prefetch (s.begun.who r.core u.begun) f.hint.toNat (k / 128)) u.begun
        else .ok s.begun u.begun
      | none => .ok s.begun u.begun) = .ok t u.begun := by
    split
    · split
      · exact ⟨_, rfl⟩
      · exact ⟨_, rfl⟩
    · exact ⟨_, rfl⟩
  obtain ⟨t, ht⟩ := hbody
  exact ⟨t, issueInstr_ok h ht⟩

theorem execPf_of_no_key (h : Issues s (.pf f) r u) (hk : s.keyOf u (tileOf r.core) (effAddr u f 1) = none) :
    exec (.pf f) s = .next (s.completes (.pf f) r u u.begun) := by
  refine issueInstr_completes h ?_
  rw [show s.begun.keyOf u.begun (envOf (.pf f) r u).tile (effAddr u.begun (envOf (.pf f) r u).f 1) = none from hk]

/-! ## Ways that serve an access at once (R246) -/

theorem State.wayOne_ok {w : Nat} (h : s.wayOne w = .ok t bs) : t = s.setWay w (.awake s.ck) := by
  unfold State.wayOne at h
  cases hw : s.wayAt w <;> simp [hw, BankState.reach] at h
  exact h.1.symm

theorem State.waysAll_ok {ws : List Nat} (h : s.waysAll ws = .ok t bs) :
    ∃ ways, t = s.modStore fun m => { m with ways := ways } := by
  induction ws generalizing s with
  | nil =>
    obtain ⟨rfl, -⟩ : s = t ∧ [] = bs := by simpa [State.waysAll] using h
    exact ⟨s.store.ways, rfl⟩
  | cons w ws ih =>
    unfold State.waysAll at h
    split at h
    next z _ hone =>
      obtain ⟨ways, rfl⟩ := ih h
      rw [State.wayOne_ok hone]
      exact ⟨ways, rfl⟩
    next hno => exact absurd h (hno t bs)

/-! ## Cleans and invalidates (R141) -/

section Clean

variable {k : Nat} {discard : Bool} {line : Word}

/-- `cln` or `inv` of a scratchpad line, or of a device register, has no effect. -/
theorem State.cleanLine_flat (hs : scopeTrap u e.f = none) (hk : s.keysOf u e.tile (a &&& ~~~(127#64)) 128 = some (k :: keys))
    (hg : isGlobalKey k = false) : s.cleanLine e u a discard = .reply s u [] none := by
  rw [State.cleanLine, State.checkAccess_plain (w := false) hs hk nofun]
  exact if_pos (by simp [hg])

/-- On a present line of global memory the copies are cleaned once the unit's stores are performed and the ways serve the access. -/
theorem State.cleanLine_present {ws : List Nat} (hs : scopeTrap u e.f = none) (hk : s.keysOf u e.tile (a &&& ~~~(127#64)) 128 = some (k :: keys))
    (hg : isGlobalKey k = true) (hv : isDevKey k = false) (hp : (s.extentAt (extentOf k)).state = .present)
    (hd : s.drain u.key = .ok x) (hc : x.cleanWays (x.who e.core u) (k / 128) (scopeWide u e.f) = ws) (hw : x.waysAll ws = .ok y bs) :
    s.cleanLine e u a discard =
      .reply (y.cleanCopies (x.who e.core u) (k / 128) (scopeWide u e.f) discard) u [] none := by
  have hflat : ¬ (!isGlobalKey k || isDevKey k) = true := by simp [hg, hv]
  rw [State.cleanLine, State.checkAccess_plain (w := false) hs hk nofun]
  refine (if_neg hflat).trans ?_
  rw [show (s.extentAt (extentOf ((k :: keys).headD 0))).state = .present from hp]
  refine (State.afterDrain_of_drains (need := true) hd _).trans ?_
  simp only [List.headD_cons, hc, hw]
  rfl

/-- The ways that a clean reaches: the line's, when the unit's L1 or, at a scope that reaches far enough, the L2 has bytes to move. -/
theorem State.cleanWays_own {l : L1Line} {who : Who} {line : Nat} {wide : Bool} (hown : s.l1Copy (s.l1Of who.tile line) line = some l)
    (hl : l.dirty ≠ []) : s.cleanWays who line wide = (s.reachedWay who.tag line 0).toList := by
  have hdirty : (!l.dirty.isEmpty) = true := by simpa using hl
  simp only [State.cleanWays, hown, hdirty, Bool.true_or, ↓reduceIte]

theorem State.cleanWays_none {who : Who} {line : Nat} {wide : Bool} (hown : s.l1Copy (s.l1Of who.tile line) line = none) :
    s.cleanWays who line wide = if wide && (s.l2Line line).isSome then (s.reachedWay who.tag line 0).toList else [] := by
  simp only [State.cleanWays, hown, Bool.false_or]

theorem State.cleanCopies_own {l : L1Line} {who : Who} {line : Nat} (hown : s.l1Copy (s.l1Of who.tile line) line = some l)
    (hl : l.dirty ≠ []) : s.cleanCopies who line false discard = if discard then s.evictCopy l else s.cleanCopy line := by
  have hdirty : l.dirty.isEmpty = false := by simpa using hl
  simp only [State.cleanCopies, hown, hdirty, Bool.not_false, Bool.false_eq_true, ↓reduceIte]

theorem State.cleanCopies_none {who : Who} {line : Nat} {wide : Bool} (hown : s.l1Copy (s.l1Of who.tile line) line = none) :
    s.cleanCopies who line wide discard = if !wide then s else if discard then s.l2Evict line else s.l2Clean line := by
  simp only [State.cleanCopies, hown]

/-- A way that serves an access at once changes no L1 copy. -/
theorem State.l1Copy_of_waysAll {ws : List Nat} (h : s.waysAll ws = .ok t bs) (tile line : Nat) :
    t.l1Copy (t.l1Of tile line) line = s.l1Copy (s.l1Of tile line) line := by
  obtain ⟨ways, rfl⟩ := State.waysAll_ok h
  rfl

/-- `cln` and `inv` act on the line that holds their address. -/
theorem clean_acts (hx : exec i s = issueInstr i (fun e u s => s.cleanLine e u (regAddr u e.f.b e.f) discard) s) (h : Issues s i r u)
    (hs : scopeTrap u i.fields = none) (hk : s.keysOf u (tileOf r.core)
      (BitVec.ofNat 64 ((regAddr u i.fields.b i.fields).toNat / 128 * 128)) 128 = some (k :: keys)) :
    (isGlobalKey k = false → exec i s = .next (s.begun.replies i r u [] none)) ∧
    (∀ x y v, isGlobalKey k = true → isDevKey k = false → (s.extentAt (extentOf k)).state = .present → s.begun.drain u.key = .ok x →
      let own := x.l1Copy (x.l1Of (tileOf r.core) (k / 128)) (k / 128)
      let awake : Prop := x.waysAll (x.reachedWay (x.who r.core u).tag (k / 128) 0).toList = .ok y v
      (own = none → scopeWide u i.fields = false → exec i s = .next (x.replies i r u [] none)) ∧
      (∀ l, own = some l → l.dirty ≠ [] → scopeWide u i.fields = false → awake →
        exec i s = .next ((if discard then y.evictCopy l else y.cleanCopy (k / 128)).replies i r u [] none)) ∧
      (own = none → (x.l2Line (k / 128)).isSome → scopeWide u i.fields = true → awake →
        exec i s = .next ((if discard then y.l2Evict (k / 128) else y.l2Clean (k / 128)).replies i r u [] none))) := by
  have hline : regAddr u i.fields.b i.fields &&& ~~~(127#64) =
      BitVec.ofNat 64 ((regAddr u i.fields.b i.fields).toNat / 128 * 128) := and_not_lowBits_eq_div_mul _ 7 (by decide)
  have hreg : regAddr u.begun (envOf i r u).f.b (envOf i r u).f = regAddr u i.fields.b i.fields := rfl
  replace hk : s.begun.keysOf u.begun (envOf i r u).tile (regAddr u.begun (envOf i r u).f.b (envOf i r u).f &&& ~~~(127#64)) 128 =
      some (k :: keys) := by
    rw [hreg, hline]
    exact hk
  rw [hx]
  refine ⟨fun hg => issueInstr_replies h (State.cleanLine_flat (s := s.begun) (u := u.begun) (e := envOf i r u) hs hk hg),
    fun x y v hg hv hp hd => ?_⟩
  have present (ws : List Nat) (z : State) (bs : List Byte)
      (hc : x.cleanWays (x.who r.core u) (k / 128) (scopeWide u i.fields) = ws) (hw : x.waysAll ws = .ok z bs) :
      issueInstr i (fun e u s => s.cleanLine e u (regAddr u e.f.b e.f) discard) s =
        .next ((z.cleanCopies (x.who r.core u) (k / 128) (scopeWide u i.fields) discard).replies i r u [] none) := by
    have hb : s.begun.cleanLine (envOf i r u) u.begun (regAddr u.begun (envOf i r u).f.b (envOf i r u).f) discard =
        .reply (z.cleanCopies (x.who r.core u) (k / 128) (scopeWide u i.fields) discard) u.begun [] none :=
      State.cleanLine_present (s := s.begun) (u := u.begun) (e := envOf i r u) hs hk hg hv hp hd hc hw
    exact issueInstr_replies h hb
  refine ⟨fun hown hwide => ?_, fun l hown hl hwide hw => ?_, fun hown hl2 hwide hw => ?_⟩
  · have hways : x.cleanWays (x.who r.core u) (k / 128) (scopeWide u i.fields) = [] := by
      rw [State.cleanWays_none (who := x.who r.core u) hown, hwide]
      rfl
    rw [present [] x [] hways rfl, State.cleanCopies_none (who := x.who r.core u) hown, hwide]
    rfl
  · have hcopy := (State.l1Copy_of_waysAll hw (tileOf r.core) (k / 128)).trans hown
    rw [present _ y v (State.cleanWays_own (who := x.who r.core u) hown hl) hw, hwide, State.cleanCopies_own (who := x.who r.core u) hcopy hl]
  · have hcopy := (State.l1Copy_of_waysAll hw (tileOf r.core) (k / 128)).trans hown
    have hways : x.cleanWays (x.who r.core u) (k / 128) (scopeWide u i.fields) =
        (x.reachedWay (x.who r.core u).tag (k / 128) 0).toList := by
      rw [State.cleanWays_none (who := x.who r.core u) hown, hwide, hl2]
      rfl
    rw [present _ y v hways hw, hwide, State.cleanCopies_none (who := x.who r.core u) hcopy]
    rfl

end Clean

end Sys2Proof.Machine

open Sys2Proof Sys2Proof.Machine

/-- Settles O24: a prefetch completes, and `cln` and `inv` act on the line that holds their address. -/
theorem prefetchCleanAndInvalidateComplete : Obligations.PrefetchCleanAndInvalidateComplete := by
  intro s r u f
  refine ⟨execPf_of_no_key, fun hi => ?_, fun keys k hi hs hk => clean_acts rfl hi hs hk, fun keys k hi hs hk => clean_acts rfl hi hs hk⟩
  obtain ⟨t, ht⟩ := execPf_completes hi
  exact ⟨_, _, ht, State.unitAt_putUnit .., rfl, rfl, rfl, rfl⟩

end

section
/-!
Accesses of scratchpad bytes that nothing delays (R130 step 4, R133, R142, R246, R253).
-/
namespace Sys2Proof.Machine

open Sys2Proof

variable {s t : State} {who : Who} {keys : List Nat} {bs : List Byte} {k : Nat}

/-! ## The keys of a scratchpad -/

theorem not_isGlobalKey_of_scratch (h : isScratchKey k = true) : isGlobalKey k = false := by
  simp only [isScratchKey, Bool.and_eq_true, Bool.not_eq_true'] at h
  exact h.1

theorem not_isDescKey_of_scratch (h : isScratchKey k = true) : isDescKey k = false := by
  simp only [isScratchKey, Bool.and_eq_true, Bool.not_eq_true'] at h
  exact h.2

theorem not_isDevKey_of_scratch (h : isScratchKey k = true) : isDevKey k = false := by
  simp [isDevKey, not_isGlobalKey_of_scratch h]

theorem not_isCachedKey_of_scratch (h : isScratchKey k = true) : isCachedKey k = false := by
  simp [isCachedKey, not_isGlobalKey_of_scratch h]

theorem extentsOf_scratch (h : ∀ k ∈ keys, isScratchKey k = true) : extentsOf keys = [] := by
  unfold extentsOf
  suffices hfold : ∀ l : List (Nat × Nat), (∀ p ∈ l, isScratchKey p.1 = true) →
      (l.foldl (fun acc (k, i) => if isGlobalKey k ∧ ¬ acc.any (fun e => decide (e.1 = extentOf k)) then acc ++ [(extentOf k, i)]
        else acc) []) = [] from
    hfold keys.zipIdx fun p hp => h p.1 (List.fst_mem_of_mem_zipIdx hp)
  intro l hl
  induction l with
  | nil => rfl
  | cons p l ih =>
    obtain ⟨k, i⟩ := p
    have hk := not_isGlobalKey_of_scratch (hl (k, i) List.mem_cons_self)
    simp only [List.foldl_cons, hk, Bool.false_eq_true, false_and, ↓reduceIte]
    exact ih fun q hq => hl q (List.mem_cons_of_mem _ hq)

theorem cachedLines_scratch (h : ∀ k ∈ keys, isScratchKey k = true) : cachedLines keys = [] := by
  have hnone : keys.filter isCachedKey = [] :=
    List.filter_eq_nil_iff.mpr fun k hk => ne_true_of_eq_false (not_isCachedKey_of_scratch (h k hk))
  simp [cachedLines, hnone]

/-! ## The banks of an access (R246) -/

theorem nodup_eraseDups {α : Type} [BEq α] [LawfulBEq α] : ∀ l : List α, l.eraseDups.Nodup
  | [] => by simp
  | a :: l => by
    rw [List.eraseDups_cons, List.nodup_cons]
    exact ⟨by simp, nodup_eraseDups _⟩
termination_by l => l.length
decreasing_by exact Nat.lt_succ_of_le (List.length_filter_le _ _)


/-- Banks are accessed in this ck. -/
def State.touchBanks (s : State) (bs : List Nat) : State := bs.foldl (fun s b => s.setBank b (.awake s.ck)) s

theorem State.touchBanks_eq (bs : List Nat) (s : State) :
    s.touchBanks bs = { s with store := { s.store with banks := (s.touchBanks bs).store.banks } } := by
  induction bs generalizing s with
  | nil => rfl
  | cons b bs ih => exact ih (s.setBank b (.awake s.ck))

theorem State.bankOne_awake {b n : Nat} (h : s.bankAt b = .awake n) : s.bankOne b = .ok (s.setBank b (.awake s.ck)) [] := by
  simp [State.bankOne, h, BankState.reach]

theorem State.bankAt_setBank_ne (s : State) {b c : Nat} (x : BankState) (h : c ≠ b) : (s.setBank b x).bankAt c = s.bankAt c :=
  FMap.get_set_ne _ _ _ _ _ h

/-- Awake banks serve an access at once. -/
theorem State.banksAll_awake {l : List Nat} (hnd : l.Nodup) (h : ∀ b ∈ l, ∃ n, s.bankAt b = .awake n) :
    s.banksAll l = .ok (s.touchBanks l) [] := by
  induction l generalizing s with
  | nil => rfl
  | cons b l ih =>
    obtain ⟨n, hn⟩ := h b List.mem_cons_self
    obtain ⟨hb, hl⟩ := List.nodup_cons.mp hnd
    rw [State.banksAll, State.bankOne_awake hn]
    refine ih hl fun c hc => ?_
    rw [State.bankAt_setBank_ne s _ (ne_of_mem_of_not_mem hc hb)]
    exact h c (List.mem_cons_of_mem b hc)

/-- What the banks hold after an access. -/
theorem State.bankAt_touchBanks (l : List Nat) (b : Nat) (h : FMap.wf (.awake 0) s.store.banks = true) :
    (s.touchBanks l).bankAt b = if b ∈ l then .awake s.ck else s.bankAt b := by
  induction l generalizing s with
  | nil => rfl
  | cons c l ih =>
    rw [State.touchBanks, List.foldl_cons]
    refine (ih (FMap.set_wf _ _ _ _ h)).trans ?_
    by_cases hb : b ∈ l
    · simp [hb, State.setBank]
    · by_cases hc : b = c
      · subst hc
        have hself : (s.setBank b (.awake s.ck)).bankAt b = .awake s.ck := FMap.get_set_self _ _ _ _ h
        simpa [hb] using hself
      · simpa [hb, hc] using State.bankAt_setBank_ne s _ hc

theorem State.PlainKey.touchOne (h : s.PlainKey k) (idx : Nat) : s.touchOne who k idx = .ok s [] := by
  simp only [State.touchOne, h.free]

theorem State.touchAll_plain (l : List (Nat × Nat)) (h : ∀ p ∈ l, s.PlainKey p.1) : s.touchAll who l = .ok s [] := by
  induction l with
  | nil => rfl
  | cons p l ih =>
    have hp := h p List.mem_cons_self
    rw [State.touchAll, if_pos hp.scratch, hp.touchOne]
    exact ih fun q hq => h q (List.mem_cons_of_mem p hq)

/-- The banks of an access of scratchpad bytes, each once. -/
def banksOf (keys : List Nat) : List Nat := (keys.map bankOf).eraseDups

/-- Nothing delays an access of plain bytes: it is its banks' last access. -/
theorem State.mayAccess_plain (h : ∀ k ∈ keys, s.PlainKey k) (write touch : Bool) (via : Via) :
    s.mayAccess who keys write touch via = .ok (s.touchBanks (banksOf keys)) [] := by
  have hscratch : ∀ k ∈ keys, isScratchKey k = true := fun k hk => (h k hk).scratch
  have htouch : (if touch then s.touchAll who keys.zipIdx else .ok s []) = .ok s [] := by
    split
    · exact State.touchAll_plain _ fun p hp => h p.1 (List.fst_mem_of_mem_zipIdx hp)
    · rfl
  have hkeys : keys.filter isScratchKey = keys := List.filter_eq_self.mpr hscratch
  have hbanks : s.banksAll (banksOf keys) = .ok (s.touchBanks (banksOf keys)) [] := by
    refine State.banksAll_awake (nodup_eraseDups _) fun b hb => ?_
    obtain ⟨k, hk, rfl⟩ : ∃ k ∈ keys, bankOf k = b := by simpa [banksOf] using hb
    exact (h k hk).awake
  rw [State.mayAccess, extentsOf_scratch hscratch]
  simp only [State.placeAll, htouch, State.bankAll, hkeys, cachedLines_scratch hscratch, List.flatMap_nil]
  rw [show s.banksAll ((keys.map bankOf).eraseDups) = _ from hbanks]
  rfl

/-! ## Reading plain bytes -/

/-- A byte of a scratchpad whose word holds no error and no poison mark. -/
structure State.SoundKey (s : State) (k : Nat) : Prop where
  scratch : isScratchKey k = true
  clean   : s.poisoned (k / 8) = false
  sound   : FMap.get 0 s.store.errors (k / 8) = 0

theorem State.SoundKey.findWord (h : s.SoundKey k) (b : Blame) : s.findWord (k / 8) 1 b = s := by
  simp [State.findWord, h.sound]

theorem State.SoundKey.readOne (h : s.SoundKey k) (l1 : Nat → Nat) (reach : State → Nat → Nat → List Nat → Acc) (opened : Option Nat)
    (idx : Nat) (ks : List Nat) : s.readOne who l1 reach opened k idx ks = .ok s [s.byteAt k] := by
  simp [State.readOne, State.readFlat, not_isCachedKey_of_scratch h.scratch, not_isDescKey_of_scratch h.scratch,
    not_isDevKey_of_scratch h.scratch, h.findWord, h.clean]

theorem State.readKeys_sound (l1 : Nat → Nat) (reach : State → Nat → Nat → List Nat → Acc) (l : List (Nat × Nat)) :
    ∀ opened : Option Nat, (∀ p ∈ l, s.SoundKey p.1) → s.readKeys who l1 reach opened l = .ok s (l.map fun p => s.byteAt p.1) := by
  induction l with
  | nil => exact fun _ _ => rfl
  | cons p l ih =>
    intro opened h
    obtain ⟨k, idx⟩ := p
    rw [State.readKeys, (h (k, idx) List.mem_cons_self).readOne]
    dsimp only
    rw [ih _ fun q hq => h q (List.mem_cons_of_mem _ hq)]
    rfl

theorem State.readKeys_zipIdx (l1 : Nat → Nat) (reach : State → Nat → Nat → List Nat → Acc) (h : ∀ k ∈ keys, s.SoundKey k) :
    s.readKeys who l1 reach none keys.zipIdx = .ok s (keys.map s.byteAt) := by
  rw [State.readKeys_sound l1 reach keys.zipIdx none fun p hp => h p.1 (List.fst_mem_of_mem_zipIdx hp)]
  simp [← Function.comp_def s.byteAt Prod.fst, ← List.map_map]

/-! ## Writing plain bytes -/

theorem State.checkWords_sound (lanes : Option (Nat × Nat)) (ks : List Nat) (l : List (Nat × Nat)) (h : ∀ p ∈ l, s.SoundKey p.1) :
    s.checkWords who lanes ks l = .ok s [] := by
  induction l with
  | nil => rfl
  | cons p l ih =>
    have hp := h p List.mem_cons_self
    have hrest := ih fun q hq => h q (List.mem_cons_of_mem p hq)
    rw [State.checkWords, hp.findWord]
    dsimp only
    rw [if_neg (ne_true_of_eq_false hp.clean), hrest, ite_self]

/-- Bytes are put at keys, one after the other. -/
def State.setBytes (s : State) (l : List (Nat × Byte)) : State := l.foldl (fun s p => s.setByte p.1 p.2) s

theorem State.setBytes_eq (l : List (Nat × Byte)) (s : State) :
    s.setBytes l = { s with store := { s.store with mem := (s.setBytes l).store.mem } } := by
  induction l generalizing s with
  | nil => rfl
  | cons p l ih => exact ih (s.setByte p.1 p.2)

theorem State.setBytes_memoryOk (l : List (Nat × Byte)) (h : s.memoryOk) : (s.setBytes l).memoryOk :=
  foldl_memoryOk _ (fun _ p hs => State.setByte_memoryOk p.1 p.2 hs) l s h

theorem State.byteAt_setBytes_of_not_mem (l : List (Nat × Byte)) (h : ∀ p ∈ l, p.1 ≠ k) : (s.setBytes l).byteAt k = s.byteAt k := by
  induction l generalizing s with
  | nil => rfl
  | cons p l ih =>
    exact (ih fun q hq => h q (List.mem_cons_of_mem p hq)).trans
      (State.byteAt_setByte_ne s p.1 k p.2 (h p List.mem_cons_self).symm)

theorem State.byteAt_setBytes_zip (hs : s.memoryOk) (hnd : keys.Nodup) (hlen : keys.length = bs.length) :
    keys.map (s.setBytes (keys.zip bs)).byteAt = bs := by
  induction keys generalizing s bs with
  | nil =>
    obtain rfl : bs = [] := by simpa using hlen.symm
    rfl
  | cons k keys ih =>
    obtain _ | ⟨b, bs⟩ := bs
    · simp at hlen
    · obtain ⟨hk, hnd⟩ := List.nodup_cons.mp hnd
      have hother : ∀ p ∈ keys.zip bs, p.1 ≠ k := fun p hp => ne_of_mem_of_not_mem (List.of_mem_zip hp).1 hk
      have hfirst : ((s.setByte k b).setBytes (keys.zip bs)).byteAt k = b :=
        (State.byteAt_setBytes_of_not_mem _ hother).trans (State.byteAt_setByte_self s k b hs)
      exact congr (congrArg List.cons hfirst) (ih (State.setByte_memoryOk k b hs) hnd (by simpa using hlen))

theorem State.SoundKey.setByte (h : s.SoundKey k) (n : Nat) (b : Byte) : (s.setByte n b).SoundKey k := ⟨h.scratch, h.clean, h.sound⟩

theorem State.SoundKey.writeWord (h : s.SoundKey k) (ks : List Nat) (b : Byte) : s.writeWord ks k b = s.setByte k b := by
  simp [State.writeWord, h.clean, h.sound]

theorem State.putBytes_sound (ks : List Nat) (l : List (Nat × Byte)) (h : ∀ p ∈ l, s.SoundKey p.1) :
    s.putBytes who ks l = s.setBytes l := by
  induction l generalizing s with
  | nil => rfl
  | cons p l ih =>
    have hp := h p List.mem_cons_self
    rw [State.putBytes, if_pos hp.scratch, hp.writeWord]
    exact ih fun q hq => (h q (List.mem_cons_of_mem p hq)).setByte p.1 p.2

theorem State.writeKeys_sound (hint : Nat) (lanes : Option (Nat × Nat)) (h : ∀ k ∈ keys, s.SoundKey k) :
    s.writeKeys who hint keys bs lanes = .ok (s.setBytes (keys.zip bs)) [] := by
  have hsettle : ∀ t : State, t.settleHint who hint [] [] = t := fun t => by simp [State.settleHint]
  rw [State.writeKeys, State.checkWords_sound lanes keys _ fun p hp => h p.1 (List.fst_mem_of_mem_zipIdx hp)]
  simp only [cachedLines_scratch fun k hk => (h k hk).scratch, List.filter_nil, List.foldl_nil, hsettle]
  rw [State.putBytes_sound keys _ fun p hp => h p.1 (List.of_mem_zip hp).1]

theorem State.putHome_sound (h : ∀ k ∈ keys, s.SoundKey k) : s.putHome who keys bs = s.setBytes (keys.zip bs) := by
  have hfold : ∀ (l : List (Nat × Byte)) (t : State), (∀ p ∈ l, t.SoundKey p.1) →
      l.foldl (fun s e => if isScratchKey e.1 then s.writeWord keys e.1 e.2 else s.setByte e.1 e.2) t = t.setBytes l := by
    intro l
    induction l with
    | nil => exact fun _ _ => rfl
    | cons p l ih =>
      intro t ht
      have hp := ht p List.mem_cons_self
      rw [List.foldl_cons, if_pos hp.scratch, hp.writeWord]
      exact ih _ fun q hq => (ht q (List.mem_cons_of_mem p hq)).setByte p.1 p.2
  rw [State.putHome, cachedLines_scratch fun k hk => (h k hk).scratch]
  exact hfold _ s fun p hp => h p.1 (List.of_mem_zip hp).1

/-! ## Accesses that nothing delays -/

theorem State.PlainKey.sound_touchBanks (h : s.PlainKey k) (l : List Nat) : (s.touchBanks l).SoundKey k := by
  rw [State.touchBanks_eq]
  exact ⟨h.scratch, h.clean, h.sound⟩

theorem State.byteAt_touchBanks (l : List Nat) (k : Nat) : (s.touchBanks l).byteAt k = s.byteAt k := by
  rw [State.touchBanks_eq]
  rfl

theorem State.memoryOk_touchBanks (l : List Nat) (h : s.memoryOk) : (s.touchBanks l).memoryOk := by
  rw [State.touchBanks_eq]
  exact h

theorem State.performRead_plain (hint : Nat) (h : ∀ k ∈ keys, s.PlainKey k) :
    s.performRead who keys hint = .ok (s.touchBanks (banksOf keys)) (keys.map s.byteAt) := by
  rw [State.performRead, State.mayAccess_plain h]
  dsimp only
  rw [State.readCore, State.readKeys_zipIdx _ _ fun k hk => (h k hk).sound_touchBanks _]
  exact congrArg (Acc.ok _) (List.map_congr_left fun k _ => State.byteAt_touchBanks _ k)

theorem State.performWrite_plain (hint : Nat) (lanes : Option (Nat × Nat)) (h : ∀ k ∈ keys, s.PlainKey k) :
    s.performWrite who hint keys bs lanes = .ok ((s.touchBanks (banksOf keys)).setBytes (keys.zip bs)) [] := by
  rw [State.performWrite, State.mayAccess_plain h]
  cases keys with
  | nil => rfl
  | cons k keys =>
    refine (if_neg (ne_true_of_eq_false (not_isDevKey_of_scratch (h k List.mem_cons_self).scratch))).trans ?_
    exact State.writeKeys_sound hint lanes fun k hk => (h k hk).sound_touchBanks _

theorem State.performAtHome_plain (write touch : Bool) (g : List Byte → Option (List Byte)) (h : ∀ k ∈ keys, s.PlainKey k) :
    s.performAtHome who keys write g touch = .ok ((s.touchBanks (banksOf keys)).setBytes
      (keys.zip ((g (keys.map s.byteAt)).getD []))) (keys.map s.byteAt) := by
  have hsound : ∀ k ∈ keys, (s.touchBanks (banksOf keys)).SoundKey k := fun k hk => (h k hk).sound_touchBanks _
  have hread : (s.touchBanks (banksOf keys)).readHome who keys.zipIdx = .ok (s.touchBanks (banksOf keys)) (keys.map s.byteAt) := by
    rw [State.readHome, State.readKeys_zipIdx _ _ hsound]
    exact congrArg (Acc.ok _) (List.map_congr_left fun k _ => State.byteAt_touchBanks _ k)
  rw [State.performAtHome, State.mayAccess_plain h]
  simp only [cachedLines_scratch fun k hk => (h k hk).scratch, List.foldl_nil, hread]
  cases g (keys.map s.byteAt) with
  | none => simp [State.setBytes]
  | some new => exact congrArg (Acc.ok · _) (State.putHome_sound hsound)

/-- What an access of plain bytes that writes `l` leaves: its banks' last access, and nothing else but those bytes. -/
theorem State.bankAt_setBytes_touchBanks (l : List (Nat × Byte)) (h : FMap.wf (.awake 0) s.store.banks = true) (b : Nat) :
    ((s.touchBanks (banksOf keys)).setBytes l).bankAt b = if b ∈ keys.map bankOf then .awake s.ck else s.bankAt b := by
  rw [State.setBytes_eq]
  refine (State.bankAt_touchBanks (banksOf keys) b h).trans ?_
  simp [banksOf]

theorem State.setBytes_touchBanks_eq (l : List (Nat × Byte)) (bks : List Nat) : (s.touchBanks bks).setBytes l =
    { s with store := { s.store with banks := ((s.touchBanks bks).setBytes l).store.banks
                                     mem := ((s.touchBanks bks).setBytes l).store.mem } } := by
  rw [State.setBytes_eq, State.touchBanks_eq]

end Sys2Proof.Machine

open Sys2Proof Sys2Proof.Machine

/-- Settles O17: accesses of scratchpad bytes that nothing delays touch their banks, and read and write their bytes alone. -/
theorem scratchpadAccessesReadAndWrite : Obligations.ScratchpadAccessesReadAndWrite := by
  refine ⟨fun s who hint keys h => ?read, fun s who hint keys bs hs h hnd hlen => ?write, fun s who keys write g hs h hnd hlen => ?rmw⟩
  case read =>
    exact ⟨_, State.performRead_plain hint h, State.byteAt_touchBanks _, fun hb b => State.bankAt_setBytes_touchBanks [] hb b,
      State.touchBanks_eq _ s⟩
  case write =>
    exact ⟨_, State.performWrite_plain hint none h, State.byteAt_setBytes_zip (State.memoryOk_touchBanks _ hs) hnd hlen,
      fun k hk => (State.byteAt_setBytes_of_not_mem _ fun p hp => ne_of_mem_of_not_mem (List.of_mem_zip hp).1 hk).trans
        (State.byteAt_touchBanks _ k), State.setBytes_memoryOk _ (State.memoryOk_touchBanks _ hs),
      fun hb b => State.bankAt_setBytes_touchBanks _ hb b, State.setBytes_touchBanks_eq _ _⟩
  case rmw =>
    refine ⟨_, State.performAtHome_plain write true g h, ?_, fun k hk => (State.byteAt_setBytes_of_not_mem _ fun p hp =>
      ne_of_mem_of_not_mem (List.of_mem_zip hp).1 hk).trans (State.byteAt_touchBanks _ k),
      fun hb b => State.bankAt_setBytes_touchBanks _ hb b, State.setBytes_touchBanks_eq _ _⟩
    cases hg : g (keys.map s.byteAt) with
    | none =>
      simp only [Option.getD_none, List.zip_nil_right]
      exact List.map_congr_left fun k _ => State.byteAt_touchBanks _ k
    | some new => exact State.byteAt_setBytes_zip (State.memoryOk_touchBanks _ hs) hnd (hlen new hg)
end

section
/-!
Buffered entries as they are performed (R135, R136): a list of banks that is not canonical.

O23 says nothing of the form of the list of banks. In a list with a second, retained entry for the bank of a plain byte, the access of the
first piece of a store at ck 0 removes the first entry, since an unlisted bank reads as awake at ck 0; the second piece then meets the
retained entry and waits.
-/
namespace Sys2Proof.Machine

open Sys2Proof

/-- The first two bytes of the scratchpad of tile 0. -/
def firstBytes : List Nat := [scratchKey 0 0, scratchKey 0 1]

/-- A store of core 0 that writes them as two pieces. -/
def twoPieces : StoreEntry :=
  ⟨0, ⟨0, 0, 1, 1, 0, 0⟩, ⟨0, 0⟩, 0, 2, none, 0, .bytes [⟨0, 0, [(scratchKey 0 0, 1)]⟩, ⟨1, 1, [(scratchKey 0 1, 1)]⟩]⟩

/-- The bank of the bytes stands twice in the list of banks, first awake and then retained. -/
def bankTwiceListed : State :=
  { State.reset with
    fab := { State.reset.fab with sbuf := [twoPieces] }
    store := { State.reset.store with banks := [(0, .awake 3), (0, .retained)] } }

theorem plainKey_bankTwiceListed : ∀ k ∈ firstBytes, bankTwiceListed.PlainKey k := by
  simp only [firstBytes, List.forall_mem_cons, List.not_mem_nil, false_imp_iff, implies_true, and_true]
  exact ⟨⟨rfl, rfl, ⟨3, rfl⟩, rfl, rfl⟩, ⟨rfl, rfl, ⟨3, rfl⟩, rfl, rfl⟩⟩

/-- The entry stays in the buffer with its second piece. -/
theorem length_sbuf_bankTwiceListed : (match exec (.storeBufferEntryPerformed 0) bankTwiceListed with
    | .next t => t.fab.sbuf.length
    | _ => 0) = 1 := by
  decide +kernel

end Sys2Proof.Machine

open Sys2Proof Sys2Proof.Machine

/-- Refutes O23: a store of two pieces is not performed as a whole where the list of banks names their bank twice. -/
theorem not_bufferedEntriesArePerformed : ¬ Obligations.BufferedEntriesArePerformed := by
  intro h
  obtain ⟨hbytes, -⟩ := h bankTwiceListed 0 twoPieces [] [] rfl rfl rfl nofun
  obtain ⟨t, ht, -, -, hsbuf, -⟩ := hbytes _ rfl plainKey_bankTwiceListed (by decide)
  have hlen := length_sbuf_bankTwiceListed
  rw [ht] at hlen
  simp [hsbuf] at hlen
end

section
/-!
Vector instructions on registers: lane-wise arithmetic (R168 to R170), special functions and bit operations (R167, R171, R173 to R175).
-/
namespace Sys2Proof.Machine

open Sys2Proof

variable {s : State} {r : SlotRef} {u v : Ctx} {f : Fields} {i : Instr}

/-! ## A vector instruction whose tags pass, or do not -/

theorem vecInstr_completes (h : Issues s i r u) {needs : Fields → Ctx → List TagNeed} {g : Env → Ctx → Ctx}
    (ht : tagFault u (needs i.fields u.begun) = none) (hv : g (envOf i r u) u.begun = v) :
    vecInstr i needs g s = .next (s.completes i r u v) := by
  refine issueInstr_completes h ?_
  rw [show tagFault u.begun (needs (envOf i r u).f u.begun) = none from ht, hv]

theorem vecInstr_traps (h : Issues s i r u) {needs : Fields → Ctx → List TagNeed} {g : Env → Ctx → Ctx} {e : Trap}
    (ht : tagFault u (needs i.fields u.begun) = some e) : vecInstr i needs g s = .next (s.begun.trapsAt r u e) := by
  refine issueInstr_traps h ?_
  rw [show tagFault u.begun (needs (envOf i r u).f u.begun) = some e from ht]

/-! ## Lanes under a mask (R160, R161) -/

/-- The lanes of a destination, with the flags of each: an active lane takes its result, every other one keeps its bits. -/
def mergedLanes (u : Ctx) (f : Fields) (w n : Nat) (g : Nat → Nat × Flags) : List (Nat × Flags) :=
  (List.range n).map fun k => if laneActive u f k then g k else (laneAt (u.row f.a.toNat).toNat w k, 0)

theorem getD_ite_some {α : Type} (p : Prop) [Decidable p] (x y : α) : (if p then some x else none).getD y = if p then x else y := by
  split <;> rfl

theorem mergeLanes_active (u : Ctx) (f : Fields) (w n : Nat) (g : Nat → Nat × Flags) :
    mergeLanes (u.row f.a.toNat) w n (fun k => if laneActive u f k then some (g k) else none) =
      (rowOfLanes w ((mergedLanes u f w n g).map (·.1)), (mergedLanes u f w n g).foldl (fun acc p => acc ||| p.2) 0) := by
  simp only [mergeLanes, mergedLanes, getD_ite_some]

theorem writeLanes_eq (u : Ctx) (f : Fields) (t : Nat) (g : Nat → Nat × Flags) : writeLanes u f t g =
    (u.setRow f.a.toNat (rowOfLanes (laneWidth t) ((mergedLanes u f (laneWidth t) (lanesOf t) g).map (·.1))) (BitVec.ofNat 4 t)).setFlags
      ((mergedLanes u f (laneWidth t) (lanesOf t) g).foldl (fun acc p => acc ||| p.2) 0) := by
  simp only [writeLanes, mergeLanes_active]

/-- The tags that a lane-wise instruction asks of its rows. -/
def laneNeeds (f : Fields) (rows : List Nat) : List TagNeed :=
  dataNeeds f [tagOfTy f.ty.toNat] rows ++ mergeNeed f false (tagOfTy f.ty.toNat)

section LaneWise

variable {rows : Fields → List Nat} {g : Fields → List Nat → Nat × Flags} {g' : Nat → Nat × Flags}

/-- The lanes of an instruction's rows. -/
def lanesAt (u : Ctx) (f : Fields) (rows : List Nat) (k : Nat) : List Nat :=
  rows.map fun n => laneAt (u.row n).toNat (laneWidth (tagOfTy f.ty.toNat)) k

/-- A lane-wise instruction whose tags pass writes what its function gives for each active lane. -/
theorem laneWise_completes (h : Issues s i r u) (ht : tagFault u (laneNeeds i.fields (rows i.fields)) = none)
    (hg : ∀ k, g i.fields (lanesAt u i.fields (rows i.fields) k) = g' k) :
    laneWise i rows g s = .next (s.completes i r u (writeLanes u.begun i.fields (tagOfTy i.fields.ty.toNat) g')) := by
  refine vecInstr_completes h ht ?_
  obtain rfl : g' = fun k => g i.fields (lanesAt u i.fields (rows i.fields) k) := funext fun k => (hg k).symm
  simp only [lanesAt, List.map_map]
  rfl

theorem laneWise_traps (h : Issues s i r u) {e : Trap} (ht : tagFault u (laneNeeds i.fields (rows i.fields)) = some e) :
    laneWise i rows g s = .next (s.begun.trapsAt r u e) := vecInstr_traps h ht

end LaneWise

/-! ## Lane-wise arithmetic (R168 to R170) -/

/-- An element of a type's lanes as an integer. -/
def readLane (ty p : Nat) : Int := if ty ≤ 4 then signed p (laneWidth (tagOfTy ty)) else (p : Int)

/-- An integer result as a lane holds it, with SAT when a clamp changed it. -/
def intLane (ty : Nat) (sat : Bool) (x : Int) : Nat × Flags :=
  let c := if sat then max (intLo ty) (min (intHi ty) x) else x
  (lowBits c (laneWidth (tagOfTy ty)), if c = x then 0 else flSAT)

/-- Another result, rounded once. -/
def valLane (ty rm : Nat) (x : Val × Flags) : Nat × Flags :=
  let p := roundVal ty x.1 (if ty = 13 then 0 else rm)
  (p.1, x.2 ||| p.2)

theorem arithLane_int {ty : Nat} (hi : isIntTy ty = true) (fn rm : Nat) (sat : Bool) (a b c : Nat) :
    arithLane fn ty rm sat a b c = intLane ty sat (arithInt fn (readLane ty a) (readLane ty b) (readLane ty c)) := by
  rw [arithLane, if_pos hi]
  cases sat with
  | false => simp [intLane, readLane]
  | true => simp [intLane, readLane, clampInt_eq (intLo_le_intHi ty)]

theorem arithLane_val {ty : Nat} (hi : isIntTy ty = false) (fn rm : Nat) (sat : Bool) (a b c : Nat) :
    arithLane fn ty rm sat a b c = valLane ty rm
      (arithVal fn (if ty = 13 then 0 else rm) (isTfTag ty) (decodeVal ty a) (decodeVal ty b) (decodeVal ty c)) := by
  rw [arithLane, if_neg (ne_true_of_eq_false hi)]
  rfl

theorem arithLane_eq (fn ty rm : Nat) (sat : Bool) (a b c : Nat) : arithLane fn ty rm sat a b c =
    if isIntTy ty then intLane ty sat (arithInt fn (readLane ty a) (readLane ty b) (readLane ty c))
    else valLane ty rm
      (arithVal fn (if ty = 13 then 0 else rm) (isTfTag ty) (decodeVal ty a) (decodeVal ty b) (decodeVal ty c)) := by
  split
  next hi => exact arithLane_int hi ..
  next hi => exact arithLane_val (Bool.eq_false_iff.mpr hi) ..

section Arithmetic

variable {int : Nat → Int} {val : Nat → Val × Flags}

/-- The three operands of a lane, by a reading of its patterns. -/
def operandAt {α : Type} (u : Ctx) (f : Fields) (rows : List Nat) (rd : Nat → α) (n k : Nat) : α :=
  rd (((lanesAt u f rows k).drop n).headD 0)

/-- The result of a lane: an integer type's is exact, any other's is rounded. -/
def arithResult (f : Fields) (int : Nat → Int) (val : Nat → Val × Flags) (k : Nat) : Nat × Flags :=
  if isIntTy f.ty.toNat then intLane f.ty.toNat f.sat (int k) else valLane f.ty.toNat f.rm.toNat (val k)

/-- An arithmetic instruction writes each active lane with its exact or rounded result, or traps on a tag. -/
theorem vecArith_acts (fn : Nat) (rows : Fields → List Nat) (hx : exec i s = vecArith i fn rows s)
    (hint : isIntTy i.fields.ty.toNat = true → ∀ k,
      let at_ := operandAt u i.fields (rows i.fields) (readLane i.fields.ty.toNat)
      arithInt fn (at_ 0 k) (at_ 1 k) (at_ 2 k) = int k)
    (hval : ∀ k,
      let at_ := operandAt u i.fields (rows i.fields) (decodeVal i.fields.ty.toNat)
      arithVal fn (if i.fields.ty.toNat = 13 then 0 else i.fields.rm.toNat) (isTfTag i.fields.ty.toNat)
        (at_ 0 k) (at_ 1 k) (at_ 2 k) = val k) (h : Issues s i r u) :
    let t := tagOfTy i.fields.ty.toNat
    let lanes := mergedLanes u i.fields (laneWidth t) (lanesOf t) (arithResult i.fields int val)
    (tagFault u (laneNeeds i.fields (rows i.fields)) = none → exec i s = .next (s.completes i r u
      ((u.begun.setRow i.fields.a.toNat (rowOfLanes (laneWidth t) (lanes.map (·.1))) (BitVec.ofNat 4 t)).setFlags
        (lanes.foldl (fun acc p => acc ||| p.2) 0)))) ∧
    (∀ e, tagFault u (laneNeeds i.fields (rows i.fields)) = some e → exec i s = .next (s.begun.trapsAt r u e)) := by
  rw [hx]
  refine ⟨fun ht => ?_, fun e ht => laneWise_traps h ht⟩
  refine (laneWise_completes h ht fun k => ?_).trans
    (congrArg (fun v => Host.Outcome.next (s.completes i r u v)) (writeLanes_eq u.begun ..))
  rw [arithLane_eq, arithResult]
  split
  next hi => rw [← hint hi k]; rfl
  next => rw [← hval k]; rfl

end Arithmetic

/-! ## Functions and bit operations on lanes (R167, R171, R173 to R175) -/

/-- An instruction that completes with merged lanes, written out. -/
theorem completes_writeLanes {t : Nat} {g : Nat → Nat × Flags}
    (hx : exec i s = .next (s.completes i r u (writeLanes u.begun i.fields t g))) : exec i s = .next (s.completes i r u
      ((u.begun.setRow i.fields.a.toNat (rowOfLanes (laneWidth t)
          ((mergedLanes u i.fields (laneWidth t) (lanesOf t) g).map (·.1))) (BitVec.ofNat 4 t)).setFlags
        ((mergedLanes u i.fields (laneWidth t) (lanesOf t) g).foldl (fun acc p => acc ||| p.2) 0))) :=
  hx.trans (congrArg (fun v => Host.Outcome.next (s.completes i r u v)) (writeLanes_eq u.begun ..))

theorem head_lanesAt_rowShift (u : Ctx) (f : Fields) (k : Nat) :
    (lanesAt u f (rowShift f) k).headD 0 = laneAt (u.row f.b.toNat).toNat (laneWidth (tagOfTy f.ty.toNat)) k := by
  unfold rowShift
  split <;> rfl

/-- The distance of a shift: the lane of the distance row, or IMM8 when there is none. -/
theorem distance_lanesAt_rowShift (u : Ctx) (f : Fields) (k : Nat) :
    (if f.c = 0xFF then f.imm.toNat else ((lanesAt u f (rowShift f) k).drop 1).headD 0) =
      if f.c = 0xFF then f.imm.toNat else laneAt (u.row f.c.toNat).toNat (laneWidth (tagOfTy f.ty.toNat)) k := by
  unfold rowShift
  split <;> rfl

/-- The context after a shift: each active lane is shifted by its distance, modulo the lane width. -/
def shiftedLanes (u : Ctx) (f : Fields) (g : Nat → Nat → Nat → Nat) : Ctx :=
  writeLanes u.begun f (tagOfTy f.ty.toNat) fun k =>
    let w := laneWidth (tagOfTy f.ty.toNat)
    (g w (laneAt (u.row f.b.toNat).toNat w k)
      ((if f.c = 0xFF then f.imm.toNat else laneAt (u.row f.c.toNat).toNat w k) % w), 0)

theorem vecShift_completes {g : Nat → Nat → Nat → Nat} (h : Issues s i r u)
    (ht : tagFault u (laneNeeds i.fields (rowShift i.fields)) = none) : vecShift i g s =
      .next (s.completes i r u (shiftedLanes u i.fields g)) := by
  refine laneWise_completes h ht fun k => ?_
  dsimp only
  rw [head_lanesAt_rowShift, distance_lanesAt_rowShift]

theorem execVpopc_completes (h : Issues s (.vpopc f) r u) (ht : tagFault u (laneNeeds f (rowB f)) = none) :
    exec (.vpopc f) s = .next (s.completes (.vpopc f) r u (writeLanes u.begun f (tagOfTy f.ty.toNat) fun k =>
      (popcNat (laneAt (u.row f.b.toNat).toNat (laneWidth (tagOfTy f.ty.toNat)) k) (laneWidth (tagOfTy f.ty.toNat)), 0))) := by
  unfold exec execVpopc
  exact laneWise_completes h ht fun _ => rfl

theorem execVclz_completes (h : Issues s (.vclz f) r u) (ht : tagFault u (laneNeeds f (rowB f)) = none) :
    exec (.vclz f) s = .next (s.completes (.vclz f) r u (writeLanes u.begun f (tagOfTy f.ty.toNat) fun k =>
      (clzNat (laneAt (u.row f.b.toNat).toNat (laneWidth (tagOfTy f.ty.toNat)) k) (laneWidth (tagOfTy f.ty.toNat)), 0))) := by
  unfold exec execVclz
  exact laneWise_completes h ht fun _ => rfl

theorem execVexp2_completes (h : Issues s (.vexp2 f) r u) (ht : tagFault u (laneNeeds f (rowB f)) = none) :
    exec (.vexp2 f) s = .next (s.completes (.vexp2 f) r u (writeLanes u.begun f (tagOfTy f.ty.toNat) fun k =>
      exp2Lane f.ty.toNat (laneAt (u.row f.b.toNat).toNat (laneWidth (tagOfTy f.ty.toNat)) k))) := by
  unfold exec execVexp2
  exact laneWise_completes h ht fun _ => rfl

theorem execVlog2_completes (h : Issues s (.vlog2 f) r u) (ht : tagFault u (laneNeeds f (rowB f)) = none) :
    exec (.vlog2 f) s = .next (s.completes (.vlog2 f) r u (writeLanes u.begun f (tagOfTy f.ty.toNat) fun k =>
      specialLane (log2Val (isTfTag f.ty.toNat)) f.ty.toNat f.rm.toNat
        (laneAt (u.row f.b.toNat).toNat (laneWidth (tagOfTy f.ty.toNat)) k))) := by
  unfold exec execVlog2
  exact laneWise_completes h ht fun _ => rfl

theorem execVtanh_completes (h : Issues s (.vtanh f) r u) (ht : tagFault u (laneNeeds f (rowB f)) = none) :
    exec (.vtanh f) s = .next (s.completes (.vtanh f) r u (writeLanes u.begun f (tagOfTy f.ty.toNat) fun k =>
      specialLane tanhVal f.ty.toNat f.rm.toNat (laneAt (u.row f.b.toNat).toNat (laneWidth (tagOfTy f.ty.toNat)) k))) := by
  unfold exec execVtanh
  exact laneWise_completes h ht fun _ => rfl

theorem execVsig_completes (h : Issues s (.vsig f) r u) (ht : tagFault u (laneNeeds f (rowB f)) = none) :
    exec (.vsig f) s = .next (s.completes (.vsig f) r u (writeLanes u.begun f (tagOfTy f.ty.toNat) fun k =>
      specialLane sigmoidVal f.ty.toNat f.rm.toNat (laneAt (u.row f.b.toNat).toNat (laneWidth (tagOfTy f.ty.toNat)) k))) := by
  unfold exec execVsig
  exact laneWise_completes h ht fun _ => rfl

theorem execVshl_completes (h : Issues s (.vshl f) r u) (ht : tagFault u (laneNeeds f (rowShift f)) = none) :
    exec (.vshl f) s = .next (s.completes (.vshl f) r u (shiftedLanes u f fun w x n => x * 2 ^ n % 2 ^ w)) := by
  unfold exec execVshl
  exact vecShift_completes h ht

theorem execVshr_completes (h : Issues s (.vshr f) r u) (ht : tagFault u (laneNeeds f (rowShift f)) = none) :
    exec (.vshr f) s = .next (s.completes (.vshr f) r u (shiftedLanes u f fun _ x n => x / 2 ^ n)) := by
  unfold exec execVshr
  exact vecShift_completes h ht

theorem execVsar_completes (h : Issues s (.vsar f) r u) (ht : tagFault u (laneNeeds f (rowShift f)) = none) :
    exec (.vsar f) s = .next (s.completes (.vsar f) r u (shiftedLanes u f fun w x n => lowBits (signed x w / 2 ^ n) w)) := by
  unfold exec execVsar
  exact vecShift_completes h ht

theorem execVclmul_completes (h : Issues s (.vclmul f) r u) (ht : tagFault u (laneNeeds f (rowBC f)) = none) : exec (.vclmul f) s =
    .next (s.completes (.vclmul f) r u (writeLanes u.begun f (tagOfTy f.ty.toNat) fun k =>
      let w := laneWidth (tagOfTy f.ty.toNat)
      (clMul (laneAt (u.row f.b.toNat).toNat w (k / 2 * 2)) (laneAt (u.row f.c.toNat).toNat w (k / 2 * 2)) w / 2 ^ (w * (k % 2)) % 2 ^ w,
        0))) := by
  unfold exec execVclmul
  exact vecInstr_completes h ht rfl

theorem execVbc_completes (h : Issues s (.vbc f) r u) (ht : tagFault u (mergeNeed f false (tagOfTy f.ty.toNat)) = none) :
    exec (.vbc f) s = .next (s.completes (.vbc f) r u (writeLanes u.begun f (tagOfTy f.ty.toNat) fun _ =>
      ((u.reg f.b.toNat).toNat % 2 ^ laneWidth (tagOfTy f.ty.toNat), 0))) := by
  unfold exec execVbc
  exact vecInstr_completes h ht rfl

theorem execVsel_completes (h : Issues s (.vsel f) r u) (ht : tagFault u (laneNeeds f [f.c.toNat, f.d.toNat]) = none) :
    exec (.vsel f) s = .next (s.completes (.vsel f) r u (writeLanes u.begun f (tagOfTy f.ty.toNat) fun k =>
      let w := laneWidth (tagOfTy f.ty.toNat)
      (if (u.maskOf f.b.toNat).getLsbD k then laneAt (u.row f.c.toNat).toNat w k else laneAt (u.row f.d.toNat).toNat w k, 0))) := by
  unfold exec execVsel
  exact vecInstr_completes h ht rfl

end Sys2Proof.Machine

open Sys2Proof Sys2Proof.Machine

/-- Settles O28: each instruction is the model's lane-wise arithmetic with its own function. -/
theorem vectorArithmeticLanes : Obligations.VectorArithmeticLanes := by
  intro s r u f
  have noInt (hty : isIntTy f.ty.toNat = false) {p : Prop} (h : isIntTy f.ty.toNat = true) : p :=
    absurd h (ne_true_of_eq_false hty)
  exact ⟨vecArith_acts 0 rowBC rfl (fun _ _ => rfl) fun _ => rfl, vecArith_acts 1 rowBC rfl (fun _ _ => rfl) fun _ => rfl,
    vecArith_acts 2 rowBC rfl (fun _ _ => rfl) fun _ => rfl, vecArith_acts 3 rowBCD rfl (fun _ _ => rfl) fun _ => rfl,
    vecArith_acts 4 rowBCD rfl (fun _ _ => rfl) fun _ => rfl, vecArith_acts 5 rowB rfl (fun _ _ => rfl) fun _ => rfl,
    vecArith_acts 6 rowB rfl (fun _ _ => rfl) fun _ => rfl, vecArith_acts 7 rowBC rfl (fun _ _ => rfl) fun _ => rfl,
    vecArith_acts 8 rowBC rfl (fun _ _ => rfl) fun _ => rfl, fun hty =>
    ⟨vecArith_acts (int := fun _ => 0) 9 rowBC rfl (noInt hty) fun _ => rfl,
      vecArith_acts (int := fun _ => 0) 10 rowB rfl (noInt hty) fun _ => rfl,
      vecArith_acts (int := fun _ => 0) 11 rowB rfl (noInt hty) fun _ => rfl,
      vecArith_acts (int := fun _ => 0) 12 rowB rfl (noInt hty) fun _ => rfl⟩⟩

/-- Settles O29: each instruction is lane-wise with the function of its rule. -/
theorem vectorFunctionAndBitLanes : Obligations.VectorFunctionAndBitLanes := by
  intro s r u f
  refine ⟨?exp2, ?log2, ?tanh, ?sig, ?popc, ?clz, ?shl, ?shr, ?sar, ?clmul, ?bc, ?sel⟩
  all_goals intro hi ht
  case shl => exact completes_writeLanes (i := .vshl f) (execVshl_completes hi ht)
  case shr => exact completes_writeLanes (i := .vshr f) (execVshr_completes hi ht)
  case sar => exact completes_writeLanes (i := .vsar f) (execVsar_completes hi ht)
  case clmul => exact completes_writeLanes (i := .vclmul f) (execVclmul_completes hi ht)
  case bc => exact completes_writeLanes (i := .vbc f) (execVbc_completes hi ht)
  case sel => exact completes_writeLanes (i := .vsel f) (execVsel_completes hi ht)
  case popc => exact completes_writeLanes (i := .vpopc f) (execVpopc_completes hi ht)
  case clz => exact completes_writeLanes (i := .vclz f) (execVclz_completes hi ht)
  case exp2 => exact completes_writeLanes (i := .vexp2 f) (execVexp2_completes hi ht)
  case log2 => exact completes_writeLanes (i := .vlog2 f) (execVlog2_completes hi ht)
  case tanh => exact completes_writeLanes (i := .vtanh f) (execVtanh_completes hi ht)
  case sig => exact completes_writeLanes (i := .vsig f) (execVsig_completes hi ht)
end

section
/-!
Vector instructions on whole rows, tags and masks (R167, R174, R180 to R182), on single lanes and across lanes (R172, R176 to R179).
-/
namespace Sys2Proof.Machine

open Sys2Proof

variable {s : State} {r : SlotRef} {u v : Ctx} {f : Fields} {i : Instr}

/-- A vector instruction whose tag needs are a given list, and pass. -/
theorem vecInstr_completes_of (h : Issues s i r u) {needs : Fields → Ctx → List TagNeed} {g : Env → Ctx → Ctx} {ns : List TagNeed}
    (hn : needs i.fields u.begun = ns) (ht : tagFault u ns = none) (hv : g (envOf i r u) u.begun = v) :
    vecInstr i needs g s = .next (s.completes i r u v) := vecInstr_completes h (hn ▸ ht) hv

/-! ## Whole rows (R167, R174) -/

/-- Lanes without flags: an active lane takes its value, every other one keeps its bits. -/
def mergedValues (u : Ctx) (f : Fields) (w n : Nat) (g : Nat → Nat) : List Nat :=
  (List.range n).map fun k => if laneActive u f k then g k else laneAt (u.row f.a.toNat).toNat w k

theorem fst_mergedLanes (u : Ctx) (f : Fields) (w n : Nat) (g : Nat → Nat × Flags) :
    (mergedLanes u f w n g).map (·.1) = mergedValues u f w n fun k => (g k).1 := by
  simp only [mergedLanes, mergedValues, List.map_map]
  refine List.map_congr_left fun k _ => ?_
  simp only [Function.comp, apply_ite Prod.fst]

theorem mergeLanes_values (u : Ctx) (f : Fields) (w n : Nat) (g : Nat → Nat) :
    (mergeLanes (u.row f.a.toNat) w n fun k => if laneActive u f k then some (g k, 0) else none).1 =
      rowOfLanes w (mergedValues u f w n g) := by
  rw [mergeLanes_active u f w n fun k => (g k, 0), fst_mergedLanes]

/-- The row that a bitwise function gives: all of it, or its active lanes. -/
def logicRow (u : Ctx) (f : Fields) (v : Row) : Row :=
  let w := laneWidth (tagOfTy f.ty.toNat)
  if f.lmask = 0 then v else rowOfLanes w (mergedValues u f w (lanesOf (tagOfTy f.ty.toNat)) fun k => laneAt v.toNat w k)

/-- The tags that a bitwise function asks of its rows. -/
def logicNeeds (f : Fields) : List TagNeed := dataNeeds f anyTag (rowBC f) ++ mergeNeed f false 0

theorem vecLogic_completes {g : Row → Row → Row} (h : Issues s i r u)
    (ht : tagFault u (logicNeeds i.fields) = none) :
    vecLogic i g s = .next (s.completes i r u (u.begun.setRow i.fields.a.toNat
      (logicRow u i.fields (g (u.row i.fields.b.toNat) (u.row i.fields.c.toNat))) 0)) := by
  refine vecInstr_completes h ht ?_
  by_cases hm : i.fields.lmask = 0
  · rw [logicRow, if_pos hm]
    exact if_pos hm
  · rw [logicRow, if_neg hm]
    refine (if_neg hm).trans (congrArg (fun x => u.begun.setRow i.fields.a.toNat x 0) ?_)
    exact mergeLanes_values u.begun i.fields _ _ _

theorem execVand_completes (h : Issues s (.vand f) r u) (ht : tagFault u (logicNeeds f) = none) : exec (.vand f) s =
    .next (s.completes (.vand f) r u (u.begun.setRow f.a.toNat (logicRow u f (u.row f.b.toNat &&& u.row f.c.toNat)) 0)) := by
  unfold exec execVand
  exact vecLogic_completes h ht

theorem execVor_completes (h : Issues s (.vor f) r u) (ht : tagFault u (logicNeeds f) = none) : exec (.vor f) s =
    .next (s.completes (.vor f) r u (u.begun.setRow f.a.toNat (logicRow u f (u.row f.b.toNat ||| u.row f.c.toNat)) 0)) := by
  unfold exec execVor
  exact vecLogic_completes h ht

theorem execVxor_completes (h : Issues s (.vxor f) r u) (ht : tagFault u (logicNeeds f) = none) : exec (.vxor f) s =
    .next (s.completes (.vxor f) r u (u.begun.setRow f.a.toNat (logicRow u f (u.row f.b.toNat ^^^ u.row f.c.toNat)) 0)) := by
  unfold exec execVxor
  exact vecLogic_completes h ht

theorem execVandn_completes (h : Issues s (.vandn f) r u) (ht : tagFault u (logicNeeds f) = none) : exec (.vandn f) s =
    .next (s.completes (.vandn f) r u (u.begun.setRow f.a.toNat (logicRow u f (u.row f.b.toNat &&& ~~~u.row f.c.toNat)) 0)) := by
  unfold exec execVandn
  exact vecLogic_completes h ht

theorem execVmov_whole (h : Issues s (.vmov f) r u) (hm : f.lmask = 0)
    (ht : tagFault u (dataNeeds f anyTag [f.b.toNat]) = none) : exec (.vmov f) s =
      .next (s.completes (.vmov f) r u (u.begun.setRow f.a.toNat (u.row f.b.toNat) (u.tagOf f.b.toNat))) := by
  unfold exec execVmov
  exact vecInstr_completes_of h (if_pos hm) ht (if_pos hm)

theorem execVmov_lanes (h : Issues s (.vmov f) r u) (hm : f.lmask ≠ 0)
    (ht : tagFault u (dataNeeds f (anyTag.drop 1) [f.b.toNat] ++ mergeNeed f false (u.tagOf f.b.toNat).toNat) = none) :
    exec (.vmov f) s = .next (s.completes (.vmov f) r u (u.begun.setRow f.a.toNat
      (rowOfLanes (movLanes (u.tagOf f.b.toNat).toNat).1 (mergedValues u f (movLanes (u.tagOf f.b.toNat).toNat).1
        (movLanes (u.tagOf f.b.toNat).toNat).2 fun k => laneAt (u.row f.b.toNat).toNat (movLanes (u.tagOf f.b.toNat).toNat).1 k))
      (u.tagOf f.b.toNat))) := by
  unfold exec execVmov
  refine vecInstr_completes_of h (if_neg hm) ht ((if_neg hm).trans ?_)
  exact congrArg (fun x => u.begun.setRow f.a.toNat x _) (mergeLanes_values u.begun f _ _ _)

/-! ## Tags and masks (R180 to R182) -/

theorem execVtag_completes (h : Issues s (.vtag f) r u) : exec (.vtag f) s =
    .next (s.completes (.vtag f) r u (u.begun.setReg f.a.toNat ((u.tagOf f.b.toNat).setWidth 64))) := by
  unfold exec execVtag
  exact vecInstr_completes h rfl rfl

theorem execVretag_completes (h : Issues s (.vretag f) r u) (hu : f.ty ≠ 14 ∨ (u.row f.b.toNat).extractLsb' 256 1792 = 0)
    (ht : tagFault u (dataNeeds f anyTag [f.b.toNat]) = none) : exec (.vretag f) s =
      .next (s.completes (.vretag f) r u (u.begun.setRow f.a.toNat (u.row f.b.toNat) (BitVec.ofNat 4 (tagOfTy f.ty.toNat)))) := by
  unfold exec execVretag
  have hupper : ¬ (f.ty = 14 ∧ (u.row f.b.toNat).extractLsb' 256 1792 ≠ 0) := fun hn => hu.elim (· hn.1) hn.2
  exact vecInstr_completes_of h ((congrArg (_ ++ ·) (if_neg hupper)).trans (List.append_nil _)) ht rfl

/-- A mask operation that reads no row and writes a mask. -/
theorem execMop_mask (h : Issues s (.mop f) r u) (h8 : f.imm ≠ 8) (h9 : f.imm ≠ 9) :
    exec (.mop f) s = .next (s.completes (.mop f) r u (u.begun.setMask f.a.toNat (maskOp f.imm.toNat u f))) := by
  unfold exec execMop
  exact vecInstr_completes_of h (if_neg h9) rfl (if_neg h8)

theorem execMop_toRow (h : Issues s (.mop f) r u) (h8 : f.imm = 8) : exec (.mop f) s =
    .next (s.completes (.mop f) r u (u.begun.setRow f.a.toNat ((u.maskOf f.b.toNat).setWidth 2048) 14)) := by
  unfold exec execMop
  have h9 : f.imm ≠ 9 := by
    rw [h8]
    decide
  exact vecInstr_completes_of h (if_neg h9) rfl (if_pos h8)

theorem execMop_fromRow (h : Issues s (.mop f) r u) (h9 : f.imm = 9) (ht : tagFault u [⟨f.b.toNat, [14]⟩] = none) :
    exec (.mop f) s = .next (s.completes (.mop f) r u (u.begun.setMask f.a.toNat ((u.row f.b.toNat).setWidth 256))) := by
  unfold exec execMop
  have h8 : f.imm ≠ 8 := by
    rw [h9]
    decide
  have hop : maskOp f.imm.toNat u f = (u.row f.b.toNat).setWidth 256 := by
    rw [h9]
    rfl
  exact vecInstr_completes_of h (if_pos h9) ht ((if_neg h8).trans (congrArg (u.begun.setMask f.a.toNat) hop))

theorem execMcnt_completes (h : Issues s (.mcnt f) r u) : exec (.mcnt f) s =
    .next (s.completes (.mcnt f) r u (u.begun.setReg f.a.toNat (BitVec.ofNat 64
      (popcNat (u.maskOf f.b.toNat).toNat 256 + ctzNat (u.maskOf f.b.toNat).toNat 256 * 2 ^ 16)))) := by
  unfold exec execMcnt
  refine vecInstr_completes h rfl ?_
  rw [show u.begun.maskOf (envOf (.mcnt f) r u).f.b.toNat = u.maskOf f.b.toNat from rfl]
  rfl

/-! ## Single lanes (R167) -/

/-- The lanes of a row with one of them replaced. -/
def replaceLane (old : Row) (w L n x : Nat) : List Nat := (List.range L).map fun i => if i = n then x else laneAt old.toNat w i

theorem mergeLanes_one (old : Row) (w L n x : Nat) :
    (mergeLanes old w L fun i => if i = n then some (x, 0) else none).1 = rowOfLanes w (replaceLane old w L n x) := by
  simp only [mergeLanes, getD_ite_some, replaceLane, List.map_map]
  refine congrArg (rowOfLanes w) (List.map_congr_left fun k _ => ?_)
  simp only [Function.comp, apply_ite Prod.fst]

theorem execVins_of_issues (h : Issues s (.vins f) r u) (ht : tagFault u (mergeNeed f true (tagOfTy f.ty.toNat)) = none) :
    exec (.vins f) s = .next (finish (.vins f) (envOf (.vins f) r u) u.begun
      (if lanesOf (tagOfTy f.ty.toNat) ≤ (u.reg f.c.toNat).toNat then .trap s.begun (laneFault u f (u.reg f.c.toNat).toNat)
        else if laneActive u f (u.reg f.c.toNat).toNat then .ok s.begun (u.begun.setRow f.a.toNat
          (rowOfLanes (laneWidth (tagOfTy f.ty.toNat)) (replaceLane (u.row f.a.toNat) (laneWidth (tagOfTy f.ty.toNat))
            (lanesOf (tagOfTy f.ty.toNat)) (u.reg f.c.toNat).toNat ((u.reg f.b.toNat).toNat % 2 ^ laneWidth (tagOfTy f.ty.toNat))))
          (BitVec.ofNat 4 (tagOfTy f.ty.toNat)))
        else .ok s.begun u.begun)) := by
  rw [← mergeLanes_one]
  unfold exec execVins
  refine issueInstr_of_body h ?_
  dsimp only
  rw [show tagFault u.begun (mergeNeed (envOf (.vins f) r u).f true (tagOfTy (envOf (.vins f) r u).f.ty.toNat)) = none from ht]
  rfl

theorem execVext_of_issues (h : Issues s (.vext f) r u) (ht : tagFault u (dataNeeds f [tagOfTy f.ty.toNat] [f.b.toNat]) = none) :
    exec (.vext f) s = .next (finish (.vext f) (envOf (.vext f) r u) u.begun
      (if lanesOf (tagOfTy f.ty.toNat) ≤ (u.reg f.c.toNat).toNat ∨ (¬ laneActive u f (u.reg f.c.toNat).toNat ∧ ¬ f.pz)
        then .trap s.begun (laneFault u f (u.reg f.c.toNat).toNat)
        else .ok s.begun (u.begun.setReg f.a.toNat (if laneActive u f (u.reg f.c.toNat).toNat then
          laneScalar f.ty.toNat (laneAt (u.row f.b.toNat).toNat (laneWidth (tagOfTy f.ty.toNat)) (u.reg f.c.toNat).toNat) else 0)))) := by
  unfold exec execVext
  refine issueInstr_of_body h ?_
  dsimp only
  rw [show tagFault u.begun (dataNeeds (envOf (.vext f) r u).f [tagOfTy (envOf (.vext f) r u).f.ty.toNat]
    [(envOf (.vext f) r u).f.b.toNat]) = none from ht]
  rfl

/-- A lane as a scalar has the width of its type's tag. -/
theorem laneScalar_eq (ty p : Nat) : laneScalar ty p =
    if 1 ≤ ty ∧ ty ≤ 4 then BitVec.ofInt 64 (signed p (laneWidth (tagOfTy ty))) else BitVec.ofNat 64 p := by
  unfold laneScalar
  split
  next h => rw [tagOfTy, Nat.mod_eq_of_lt (by omega)]
  next => rfl

/-! ## Compares, reductions and scans (R172, R178, R179) -/

/-- The operands of a reduction: the canonical lanes that are active. -/
def reduceLanes (u : Ctx) (f : Fields) : List (Option Nat × Flags) :=
  (List.range (lanesOf (tagOfTy f.ty.toNat))).map fun i =>
    let p := canonLane (tagOfTy f.ty.toNat) (laneAt (u.row f.b.toNat).toNat (laneWidth (tagOfTy f.ty.toNat)) i)
    if laneActive u f i then (some p.1, p.2) else (none, 0)

theorem execVred_completes (h : Issues s (.vred f) r u) (ht : tagFault u (dataNeeds f [tagOfTy f.ty.toNat] [f.b.toNat]) = none) :
    let red := reduceTree (combine f.imm.toNat f.ty.toNat f.rm.toNat f.sat) 8 (reduceLanes u f)
    exec (.vred f) s = .next (s.completes (.vred f) r u ((u.begun.setReg f.a.toNat (match red.1 with
      | some p => laneScalar f.ty.toNat p
      | none => 0)).setFlags red.2)) := by
  unfold exec execVred
  exact vecInstr_completes h ht rfl

theorem execVred_some (h : Issues s (.vred f) r u) (ht : tagFault u (dataNeeds f [tagOfTy f.ty.toNat] [f.b.toNat]) = none) {p : Nat}
    (hp : (reduceTree (combine f.imm.toNat f.ty.toNat f.rm.toNat f.sat) 8 (reduceLanes u f)).1 = some p) : exec (.vred f) s =
      .next (s.completes (.vred f) r u ((u.begun.setReg f.a.toNat (if 1 ≤ f.ty.toNat ∧ f.ty.toNat ≤ 4 then
          BitVec.ofInt 64 (signed p (laneWidth (tagOfTy f.ty.toNat))) else BitVec.ofNat 64 p)).setFlags
        (reduceTree (combine f.imm.toNat f.ty.toNat f.rm.toNat f.sat) 8 (reduceLanes u f)).2)) := by
  have hx := execVred_completes h ht
  dsimp only at hx
  rw [hp] at hx
  rw [← laneScalar_eq]
  exact hx

theorem execVred_none (h : Issues s (.vred f) r u) (ht : tagFault u (dataNeeds f [tagOfTy f.ty.toNat] [f.b.toNat]) = none)
    (hp : (reduceTree (combine f.imm.toNat f.ty.toNat f.rm.toNat f.sat) 8 (reduceLanes u f)).1 = none) : exec (.vred f) s =
      .next (s.completes (.vred f) r u ((u.begun.setReg f.a.toNat 0).setFlags
        (reduceTree (combine f.imm.toNat f.ty.toNat f.rm.toNat f.sat) 8 (reduceLanes u f)).2)) := by
  have hx := execVred_completes h ht
  dsimp only at hx
  rw [hp] at hx
  exact hx

/-- The flags and the truth of a compared lane. -/
def comparedLane (u : Ctx) (f : Fields) (i : Nat) : Bool × Flags :=
  let w := laneWidth (tagOfTy f.ty.toNat)
  if laneActive u f i then
    cmpLane f.fn.toNat f.ty.toNat (laneAt (u.row f.b.toNat).toNat w i) (laneAt (u.row f.c.toNat).toNat w i)
  else (false, 0)

theorem execVcmp_completes (h : Issues s (.vcmp f) r u) (ht : tagFault u (dataNeeds f [tagOfTy f.ty.toNat] (rowBC f)) = none) :
    exec (.vcmp f) s = .next (s.completes (.vcmp f) r u
      ((u.begun.setMask f.a.toNat (maskOfBits (lanesOf (tagOfTy f.ty.toNat)) fun i => (comparedLane u f i).1)).setFlags
        ((List.range (lanesOf (tagOfTy f.ty.toNat))).foldl (fun acc i => acc ||| (comparedLane u f i).2) 0))) := by
  unfold exec execVcmp
  exact vecInstr_completes h ht rfl

/-- The lanes and flags of a scan. -/
def scanned (u : Ctx) (f : Fields) (exclusive : Bool) : List Nat × Flags :=
  let t := tagOfTy f.ty.toNat
  scanLanes (combine f.imm.toNat f.ty.toNat f.rm.toNat f.sat) exclusive (identityOf f.imm.toNat f.ty.toNat) none
    ((List.range (lanesOf t)).map fun i => (laneActive u f i, canonLane t (laneAt (u.row f.b.toNat).toNat (laneWidth t) i),
      laneAt (u.row f.a.toNat).toNat (laneWidth t) i))

theorem vecScan_completes {ex : Bool} (h : Issues s i r u) (ht : tagFault u (laneNeeds i.fields (rowB i.fields)) = none) :
    vecScan i ex s = .next (s.completes i r u ((u.begun.setRow i.fields.a.toNat
      (rowOfLanes (laneWidth (tagOfTy i.fields.ty.toNat)) (scanned u i.fields ex).1)
      (BitVec.ofNat 4 (tagOfTy i.fields.ty.toNat))).setFlags (scanned u i.fields ex).2)) :=
  vecInstr_completes h ht rfl

end Sys2Proof.Machine

open Sys2Proof Sys2Proof.Machine

/-- Settles O30: whole-row logic and moves, tags and mask operations write what their rules say. -/
theorem rowTagAndMaskResults : Obligations.RowTagAndMaskResults := by
  intro s r u f
  have mask {op : BitVec 22} (h8 : op ≠ 8) (h9 : op ≠ 9) (hop : f.imm = op) (hi : Issues s (.mop f) r u) :
      exec (.mop f) s = .next (s.completes (.mop f) r u (u.begun.setMask f.a.toNat (maskOp op.toNat u f))) :=
    hop ▸ execMop_mask hi (hop ▸ h8) (hop ▸ h9)
  refine ⟨?l1, ?l2, ?l3, ?l4, ?mw, ?mov, ?tag, ?retag, ?m0, ?m1, ?m2, ?m3, ?m4, ?m5, ?m6, ?m7, ?toRow, ?fromRow, ?mcnt⟩
  case l1 => exact fun hi ht => execVand_completes hi ht
  case l2 => exact fun hi ht => execVor_completes hi ht
  case l3 => exact fun hi ht => execVxor_completes hi ht
  case l4 => exact fun hi ht => execVandn_completes hi ht
  case mw => exact fun hm hi ht => execVmov_whole hi hm ht
  case mov =>
    intro hm tag lw lanes hi ht
    have hx := execVmov_lanes hi hm ht
    simp only [movLanes, mergedValues, apply_ite Prod.fst, apply_ite Prod.snd] at hx
    exact hx
  case tag => exact fun hi _ => execVtag_completes hi
  case retag => exact fun hu hi ht => execVretag_completes hi hu ht
  case toRow => exact fun h8 hi _ => execMop_toRow hi h8
  case fromRow => exact fun h9 hi ht => execMop_fromRow hi h9 ht
  case mcnt => exact fun hi _ => execMcnt_completes hi
  case m0 => exact fun hop hi _ => mask (op := 0) (by decide) (by decide) hop hi
  case m1 => exact fun hop hi _ => mask (op := 1) (by decide) (by decide) hop hi
  case m2 => exact fun hop hi _ => mask (op := 2) (by decide) (by decide) hop hi
  case m3 => exact fun hop hi _ => mask (op := 3) (by decide) (by decide) hop hi
  case m4 => exact fun hop hi _ => mask (op := 4) (by decide) (by decide) hop hi
  case m5 => exact fun hop hi _ => mask (op := 5) (by decide) (by decide) hop hi
  case m6 => exact fun hop hi _ => mask (op := 6) (by decide) (by decide) hop hi
  case m7 => exact fun hop hi _ => mask (op := 7) (by decide) (by decide) hop hi

/-- Settles O31: single lanes, compares, reductions and scans. -/
theorem laneMoveCompareAndReduce : Obligations.LaneMoveCompareAndReduce := by
  intro s r u f
  refine ⟨?insIn, ?insOff, ?insOut, ?extIn, ?extZero, ?extOut, ?cmp, ?red, ?redNone, ?scan, ?xscan⟩
  case insIn =>
    intro hn ha hi ht
    rw [execVins_of_issues hi ht, if_neg (Nat.not_le.mpr hn), if_pos ha]
    rfl
  case insOff =>
    intro hn ha hi ht
    rw [execVins_of_issues hi ht, if_neg (Nat.not_le.mpr hn), if_neg (ne_true_of_eq_false ha)]
    rfl
  case insOut =>
    intro hn hi ht
    rw [execVins_of_issues hi ht, if_pos hn]
    rfl
  case extIn =>
    intro hn ha hi ht
    rw [execVext_of_issues hi ht, if_neg (by simp [hn, ha]), if_pos ha, laneScalar_eq]
    rfl
  case extZero =>
    intro hn ha hz hi ht
    rw [execVext_of_issues hi ht, if_neg (by simp [hn, hz]), if_neg (ne_true_of_eq_false ha)]
    rfl
  case extOut =>
    intro hbad hi ht
    rw [execVext_of_issues hi ht, if_pos (by simpa using hbad)]
    rfl
  case cmp => exact fun hi ht => execVcmp_completes hi ht
  case red => exact fun p hp hi ht => execVred_some hi ht hp
  case redNone => exact fun hp hi ht => execVred_none hi ht hp
  case scan => exact fun hi ht => by unfold exec execVscan; exact vecScan_completes hi ht
  case xscan => exact fun hi ht => by unfold exec execVxscan; exact vecScan_completes hi ht
end

section
/-!
Permutes (R176, R177) and conversions (R183 to R186).
-/
namespace Sys2Proof.Machine

open Sys2Proof

variable {s : State} {r : SlotRef} {u v : Ctx} {f : Fields} {i : Instr}

/-! ## Permutes (R176, R177) -/

/-- Whether an active lane reads an inactive one. -/
def badLane (u : Ctx) (f : Fields) (src : Nat → Nat × Nat) (k : Nat) : Bool := laneActive u f k && !laneActive u f (src k).2

/-- The lanes a permute gives: each active lane takes its source, or 0 for an inactive one. -/
def permuted (u : Ctx) (f : Fields) (src : Nat → Nat × Nat) : List Nat :=
  let w := laneWidth (tagOfTy f.ty.toNat)
  mergedValues u f w (lanesOf (tagOfTy f.ty.toNat)) fun k =>
    if laneActive u f (src k).2 then laneAt (u.row (src k).1).toNat w (src k).2 else 0

/-- Lanes without flags set none. -/
theorem foldl_flags_zero (l : List (Nat × Flags)) (h : ∀ p ∈ l, p.2 = 0) : l.foldl (fun acc p => acc ||| p.2) (0 : Flags) = 0 := by
  induction l with
  | nil => rfl
  | cons p l ih =>
    rw [List.foldl_cons, h p List.mem_cons_self]
    exact ih fun q hq => h q (List.mem_cons_of_mem p hq)

theorem writeLanes_values (u : Ctx) (f : Fields) (t : Nat) (g : Nat → Nat) : writeLanes u f t (fun k => (g k, 0)) =
    (u.setRow f.a.toNat (rowOfLanes (laneWidth t) (mergedValues u f (laneWidth t) (lanesOf t) g)) (BitVec.ofNat 4 t)).setFlags 0 := by
  rw [writeLanes_eq, fst_mergedLanes, foldl_flags_zero]
  simp only [mergedLanes, List.mem_map]
  rintro p ⟨k, -, rfl⟩
  split <;> rfl

section Permutes

variable {rows : Fields → List Nat} {more : Fields → List TagNeed} {from_ : Fields → Ctx → Nat → Nat × Nat} {src : Nat → Nat × Nat}

/-- The tags that a permute asks of its rows. -/
def permuteNeeds (f : Fields) (rows : List Nat) (more : List TagNeed) : List TagNeed :=
  dataNeeds f [tagOfTy f.ty.toNat] rows ++ more ++ mergeNeed f false (tagOfTy f.ty.toNat)

variable (h : Issues s i r u) (ht : tagFault u (permuteNeeds i.fields (rows i.fields) (more i.fields)) = none)
  (hsrc : ∀ k, from_ i.fields u.begun k = src k)

include h ht hsrc

/-- What a permute whose tags pass does. -/
theorem vecPermute_of_issues : vecPermute i rows more from_ s = .next (finish i (envOf i r u) u.begun
    (match (if i.fields.pz then none else (List.range (lanesOf (tagOfTy i.fields.ty.toNat))).find? (badLane u i.fields src)) with
      | some n => .trap s.begun (laneFault u i.fields n)
      | none => .ok s.begun ((u.begun.setRow i.fields.a.toNat (rowOfLanes (laneWidth (tagOfTy i.fields.ty.toNat))
          (permuted u i.fields src)) (BitVec.ofNat 4 (tagOfTy i.fields.ty.toNat))).setFlags 0))) := by
  obtain rfl : from_ i.fields u.begun = src := funext hsrc
  refine issueInstr_of_body h ?_
  dsimp only
  rw [show tagFault u.begun (dataNeeds (envOf i r u).f [tagOfTy (envOf i r u).f.ty.toNat] (rows (envOf i r u).f) ++
    more (envOf i r u).f ++ mergeNeed (envOf i r u).f false (tagOfTy (envOf i r u).f.ty.toNat)) = none from ht]
  have hwrite := writeLanes_values u.begun i.fields (tagOfTy i.fields.ty.toNat) fun k =>
    if laneActive u i.fields (from_ i.fields u.begun k).2 then
      laneAt (u.row (from_ i.fields u.begun k).1).toNat (laneWidth (tagOfTy i.fields.ty.toNat)) (from_ i.fields u.begun k).2 else 0
  exact congrArg (fun v => match (if i.fields.pz then none else
    (List.range (lanesOf (tagOfTy i.fields.ty.toNat))).find? (badLane u i.fields (from_ i.fields u.begun))) with
      | some n => Res.trap s.begun (laneFault u i.fields n)
      | none => .ok s.begun v) hwrite

theorem vecPermute_moves :
    (i.fields.pz = true ∨ (List.range (lanesOf (tagOfTy i.fields.ty.toNat))).find? (badLane u i.fields src) = none →
      vecPermute i rows more from_ s = .next (s.completes i r u ((u.begun.setRow i.fields.a.toNat
        (rowOfLanes (laneWidth (tagOfTy i.fields.ty.toNat)) (permuted u i.fields src))
        (BitVec.ofNat 4 (tagOfTy i.fields.ty.toNat))).setFlags 0))) ∧
    (∀ n, i.fields.pz = false → (List.range (lanesOf (tagOfTy i.fields.ty.toNat))).find? (badLane u i.fields src) = some n →
      vecPermute i rows more from_ s = .next (s.begun.trapsAt r u (laneFault u i.fields n))) := by
  rw [vecPermute_of_issues h ht hsrc]
  refine ⟨fun hbad => ?_, fun n hz hbad => ?_⟩
  · have hnone : (if i.fields.pz then none else
        (List.range (lanesOf (tagOfTy i.fields.ty.toNat))).find? (badLane u i.fields src)) = none := by
      obtain hz | hn := hbad
      · rw [if_pos hz]
      · rw [hn, ite_self]
    rw [hnone]
    rfl
  · rw [if_neg (ne_true_of_eq_false hz), hbad]
    rfl

end Permutes

/-- The source of a destination lane of `vshuf`, by its code (R177). -/
theorem shufFrom_eq (code l i : Nat) : shufFrom code l i =
    if code = 0 then (i % 2 == 1, i / 2) else if code = 1 then (i % 2 == 1, l / 2 + i / 2)
    else if code = 2 then (decide (l / 2 ≤ i), 2 * (i % (l / 2)))
    else if code = 3 then (decide (l / 2 ≤ i), 2 * (i % (l / 2)) + 1)
    else if code = 4 then (false, if i % 2 = 0 then i + 1 else i - 1) else (false, l - 1 - i) := by
  match code with
  | 0 | 1 | 2 | 3 | 4 => rfl
  | n + 5 => rfl

/-! ## Conversions (R183 to R186) -/

theorem ofNat_tagOfTy (ty : Nat) : BitVec.ofNat 4 (tagOfTy ty) = BitVec.ofNat 4 ty := by
  apply BitVec.eq_of_toNat_eq
  simp [tagOfTy]

/-- The context after a conversion: each lane takes what its rule gives, or keeps its bits. -/
def converted (u : Ctx) (f : Fields) (w n : Nat) (g : Nat → Option (Nat × Flags)) : Ctx :=
  let r := mergeLanes (u.row f.a.toNat) w n g
  (u.begun.setRow f.a.toNat r.1 (BitVec.ofNat 4 (tagOfTy f.ty.toNat))).setFlags r.2

theorem execVcvt_completes (h : Issues s (.vcvt f) r u) (ht : tagFault u (dataNeeds f [f.etag.toNat] (rowB f) ++
      mergeNeed f (decide (lanesOf f.etag.toNat < lanesOf (tagOfTy f.ty.toNat))) (tagOfTy f.ty.toNat)) = none) :
    exec (.vcvt f) s = .next (s.completes (.vcvt f) r u (converted u f (laneWidth (tagOfTy f.ty.toNat)) (lanesOf (tagOfTy f.ty.toNat))
      fun k => if laneActive u f k then
        (cvtFrom (lanesOf f.etag.toNat) (lanesOf (tagOfTy f.ty.toNat)) (f.imm.toNat % 8) k).map fun j =>
          let v := decodeVal (if f.imm.getLsbD 7 then f.etag.toNat + 16 else f.etag.toNat)
            (laneAt (u.row f.b.toNat).toNat (laneWidth f.etag.toNat) j)
          let q := roundVal f.ty.toNat v f.rm.toNat
          (q.1, sigFlags v ||| q.2)
        else none)) := by
  unfold exec execVcvt
  exact vecInstr_completes h ht rfl

theorem execVquant_completes (h : Issues s (.vquant f) r u)
    (ht : tagFault u (dataNeeds f [f.etag.toNat] (rowB f) ++ (groupNeeds f ++ mergeNeed f true f.ty.toNat)) = none) :
    exec (.vquant f) s = .next (s.completes (.vquant f) r u (converted u f (codeBits f.ty.toNat) (groupCodes f.ty.toNat)
      fun c => let lo := f.imm.toNat % 16 * lanesOf f.etag.toNat
        if lo ≤ c ∧ c < lo + lanesOf f.etag.toNat ∧ laneActive u f (c - lo) then
          some (quantCode (codeBits f.ty.toNat) f.rm.toNat
            (decodeVal f.etag.toNat (laneAt (u.row f.b.toNat).toNat (laneWidth f.etag.toNat) (c - lo)))
            (groupScale u f (c / groupSize f)) (groupZero u f (codeBits f.ty.toNat) (c / groupSize f)))
        else none)) := by
  rw [← List.append_assoc] at ht
  rw [converted, ofNat_tagOfTy]
  unfold exec execVquant
  exact vecInstr_completes h ht rfl

theorem execVdeq_completes (h : Issues s (.vdeq f) r u)
    (ht : tagFault u (dataNeeds f [f.etag.toNat] (rowB f) ++ (groupNeeds f ++ mergeNeed f false f.ty.toNat)) = none) :
    exec (.vdeq f) s = .next (s.completes (.vdeq f) r u (converted u f (laneWidth f.ty.toNat) (lanesOf f.ty.toNat)
      fun k => if laneActive u f k then
          let c := f.imm.toNat % 16 * lanesOf f.ty.toNat + k
          let x := groupedVal (laneAt (u.row f.b.toNat).toNat (codeBits f.etag.toNat) c)
            (groupZero u f (codeBits f.etag.toNat) (c / groupSize f)) (groupScale u f (c / groupSize f))
          let q := roundVal f.ty.toNat x.1 f.rm.toNat
          some (q.1, x.2 ||| q.2)
        else none)) := by
  rw [← List.append_assoc] at ht
  rw [converted, ofNat_tagOfTy]
  unfold exec execVdeq
  exact vecInstr_completes h ht rfl

theorem execVpack_completes (h : Issues s (.vpack f) r u)
    (ht : tagFault u (dataNeeds f [f.etag.toNat] (rowBC f) ++ mergeNeed f false (tagOfTy f.ty.toNat)) = none) :
    exec (.vpack f) s = .next (s.completes (.vpack f) r u (converted u f
      (if tagOfTy f.ty.toNat = 11 then 4 else laneWidth (tagOfTy f.ty.toNat)) (2 * lanesOf f.etag.toNat)
      fun k => if laneActive u f (if tagOfTy f.ty.toNat = 11 then k / 2 else k) then
          let p := if k < lanesOf f.etag.toNat then laneAt (u.row f.b.toNat).toNat (laneWidth f.etag.toNat) k
            else laneAt (u.row f.c.toNat).toNat (laneWidth f.etag.toNat) (k - lanesOf f.etag.toNat)
          let c := if tagOfTy f.ty.toNat = 11 then clampInt (p : Int) 0 15
            else clampInt (packRead f.ty.toNat (laneWidth f.etag.toNat) p) (intLo f.ty.toNat) (intHi f.ty.toNat)
          some (lowBits c.1 (if tagOfTy f.ty.toNat = 11 then 4 else laneWidth (tagOfTy f.ty.toNat)), c.2)
        else none)) := by
  unfold exec execVpack
  refine vecInstr_completes h ht ?_
  simp only [decide_eq_true_eq]
  rfl

theorem execVunpk_completes (h : Issues s (.vunpk f) r u)
    (ht : tagFault u (dataNeeds f [f.etag.toNat] (rowB f) ++ mergeNeed f false (tagOfTy f.ty.toNat)) = none) :
    exec (.vunpk f) s = .next (s.completes (.vunpk f) r u (converted u f (laneWidth (tagOfTy f.ty.toNat)) (lanesOf (tagOfTy f.ty.toNat))
      fun k => if laneActive u f k then
          let w := if tagOfTy f.ty.toNat = 12 then 4 else laneWidth f.etag.toNat
          let p := laneAt (u.row f.b.toNat).toNat w (f.imm.toNat % 2 * lanesOf (tagOfTy f.ty.toNat) + k)
          some (if tagOfTy f.ty.toNat = 12 then p else lowBits (packRead f.ty.toNat w p) (laneWidth (tagOfTy f.ty.toNat)), 0)
        else none)) := by
  unfold exec execVunpk
  exact vecInstr_completes h ht rfl

end Sys2Proof.Machine

open Sys2Proof Sys2Proof.Machine

/-- Settles O32: each permute takes its lanes from the sources of its rule, and faults on the lowest inactive one. -/
theorem permutesMoveLanes : Obligations.PermutesMoveLanes := by
  intro s r u f
  refine ⟨?perm, ?shuf, ?rot⟩
  case perm =>
    intro hi ht
    have hneeds : tagFault u (permuteNeeds f (rowB f) [⟨f.c.toNat, [indexTag (laneWidth f.ty.toNat)]⟩]) = none := ht
    unfold exec execVperm
    exact vecPermute_moves hi hneeds fun _ => rfl
  case shuf =>
    intro hi ht
    have hneeds : tagFault u (permuteNeeds f (rowShuf f) []) = none := ht
    have hsrc (k : Nat) := congrArg (fun p : Bool × Nat => (if p.1 then f.c.toNat else f.b.toNat, p.2))
      (shufFrom_eq f.imm.toNat (lanesOf f.ty.toNat) k)
    unfold exec execVshuf
    exact vecPermute_moves hi hneeds hsrc
  case rot =>
    intro hi ht
    have hneeds : tagFault u (permuteNeeds f (rowB f) []) = none := ht
    unfold exec execVrot
    exact vecPermute_moves hi hneeds fun _ => rfl

/-- Settles O33: each conversion gives every lane what its rule says. -/
theorem conversionsConvertLanes : Obligations.ConversionsConvertLanes := by
  intro s r u f
  refine ⟨?cvt, ?quant, ?deq, ?pack, ?unpk⟩
  case cvt => exact fun hi ht => execVcvt_completes hi ht
  case quant => exact fun hi ht => execVquant_completes hi ht
  case deq => exact fun hi ht => execVdeq_completes hi ht
  case pack => exact fun hi ht => execVpack_completes hi ht
  case unpk => exact fun hi ht => execVunpk_completes hi ht
end

section
/-!
Vector memory instructions (R163 to R166).
-/
namespace Sys2Proof.Machine

open Sys2Proof

variable {s t x : State} {r : SlotRef} {u v : Ctx} {f : Fields} {i : Instr} {e : Env} {a : Word} {keys : List Nat} {bs : List Byte}
  {n k : Nat}

/-! ## Lanes that are read (R166) -/

theorem State.checkAddr_read {here : Nat} (hk : s.keysOf u here a n = some keys) : s.checkAddr u here a (plainAcc n false) = .ok keys := by
  simp [State.checkAddr, plainAcc, hk, Nat.mod_one]

/-- A lane is read with the unit's own buffered stores forwarded. -/
theorem State.readLane_ok (hk : s.keysOf u e.tile a n = some keys) (hv : keys.any isDevKey = false)
    (hp : s.performRead (s.who e.core u) keys e.f.hint.toNat = .ok t bs) :
    s.readLane e u n k a = .ok t [(k, some (natOfBytes (t.forwarded u.key keys bs)))] := by
  rw [State.readLane, State.checkAddr_read hk]
  refine (if_neg (ne_true_of_eq_false hv)).trans ?_
  rw [hp]
  rfl

theorem fillLanes_known (w : Nat) (l : List Nat) (bs : List Byte) : fillLanes w (l.map (· + 1)) bs = l := by
  induction l with
  | nil => rfl
  | cons x l ih => exact congrArg (x :: ·) ih

/-- The lanes of a destination row after a load: what was read, and its old bits elsewhere. -/
def loadedLanes (u : Ctx) (f : Fields) (got : List (Nat × Nat)) : List Nat :=
  (List.range (2048 / (8 * laneBytes f))).map fun i =>
    ((got.find? (·.1 = i)).map (·.2)).getD (laneAt (u.row f.a.toNat).toNat (8 * laneBytes f) i)

/-- Lanes that were all read fill the row with no byte of a device register. -/
theorem fillEntries_known (u : Ctx) (f : Fields) (got : List (Nat × Nat)) :
    fillEntries u f (got.map fun g => (g.1, some g.2)) = (loadedLanes u f got).map (· + 1) := by
  rw [fillEntries, loadedLanes, List.map_map]
  refine List.map_congr_left fun i _ => ?_
  rw [List.find?_map]
  simp only [Function.comp_def]
  cases got.find? (·.1 = i) <;> rfl

theorem devices_known (ls : List (Nat × Word)) (got : List (Nat × Nat)) :
    (ls.filter fun l => (got.map fun g => (g.1, some g.2)).any fun r => decide (r.1 = l.1) && r.2.isNone) = [] := by
  simp

/-- The write of a vector load: the row of its lanes with its tag. -/
theorem loadWrites_row (dsts : List Nat) (bs : List Byte) : loadWrites 9 dsts bs =
    [.row (dsts.headD 0) (rowOfLanes ((dsts.drop 2).headD 8) (fillLanes ((dsts.drop 2).headD 8) (dsts.drop 3) bs))
      (BitVec.ofNat 4 ((dsts.drop 1).headD 0))] := rfl

theorem State.vecLoad_replies {needs : List TagNeed} {ls : List (Nat × Word)} {got : List (Nat × Nat)}
    (ht : tagFault u (needs ++ mergeNeed e.f false (tagOfTy e.f.ty.toNat)) = none) (hs : scopeTrap u e.f = none)
    (hd : s.Drains u.key (s.loadDrains u e.f.ord.toNat (s.laneKeys e u (laneBytes e.f) ls)) x)
    (hr : x.readLanes e u (laneBytes e.f) ls = .ok t (got.map fun g => (g.1, some g.2))) : s.vecLoad e u needs ls =
      .reply t u [.row e.f.a.toNat (rowOfLanes (8 * laneBytes e.f) (loadedLanes u e.f got)) (BitVec.ofNat 4 (tagOfTy e.f.ty.toNat))]
        (watchTrap u (laneBytes e.f) ls) := by
  rw [State.vecLoad]
  dsimp only
  rw [ht, hs]
  refine (State.afterDrain_of_drains hd _).trans ?_
  rw [hr]
  dsimp only
  rw [devices_known, fillEntries_known]
  refine congrArg (Res.reply t u · _) ((loadWrites_row _ _).trans ?_)
  exact congrArg (fun l => [RegWrite.row _ (rowOfLanes _ l) _]) (fillLanes_known _ _ _)

/-! ## Stores of lanes (R166) -/

/-- The pieces of a store hold its bytes, in order. -/
theorem flatMap_cells_piecesBy (place : StoreCell → Nat) (cells : List StoreCell) :
    (piecesBy place cells).flatMap (fun p => p.cells) = cells.map fun c => (c.key, c.byte) := by
  induction cells with
  | nil => rfl
  | cons c rest ih =>
    rw [List.map_cons, ← ih, piecesBy.eq_def]
    dsimp only
    split
    next hp =>
      rw [hp]
      split <;> rfl
    next => rfl

section Stores

variable {needs : List TagNeed} {place : StoreCell → Nat} {ls : List (Nat × Word)} {lanes : Option (Nat × Nat)} {cells : List StoreCell}
  (ht : tagFault u (dataNeeds e.f (if e.f.ty = 0 then anyTag else [tagOfTy e.f.ty.toNat]) [e.f.a.toNat] ++ needs) = none)
  (hs : scopeTrap u e.f = none) (hc : s.storeCells e u (laneBytes e.f) ls = .ok cells)

include ht hs hc

theorem State.vecStore_of_cells : s.vecStore e u needs place ls lanes = if cells.isEmpty then .ok s u
    else s.postEntry e u (laneBytes e.f) (.bytes (piecesBy place cells)) (watchTrap u (laneBytes e.f) ls) lanes := by
  rw [State.vecStore]
  simp only [ht, hs, hc]

end Stores

/-- The entry of a vector store whose bytes stand in pieces. -/
def State.laneEntry (s : State) (r : SlotRef) (u : Ctx) (f : Fields) (place : StoreCell → Nat) (cells : List StoreCell)
    (lanes : Option (Nat × Nat)) : StoreEntry :=
  ⟨s.serial, s.who r.core u, u.launchId, u.pc, laneBytes f, lanes, f.hint.toNat, .bytes (piecesBy place cells)⟩

/-- A vector store whose checks pass completes, with an entry for its active lanes if there are any. -/
theorem vecStore_acts {needs : List TagNeed} {place : StoreCell → Nat} {ls : List (Nat × Word)} {lanes : Option (Nat × Nat)}
    {cells : List StoreCell} {body : Env → Ctx → State → Res} (h : Issues s i r u)
    (hb : body (envOf i r u) u.begun s.begun = s.begun.vecStore (envOf i r u) u.begun needs place ls lanes)
    (ht : tagFault u (dataNeeds i.fields (if i.fields.ty = 0 then anyTag else [tagOfTy i.fields.ty.toNat]) [i.fields.a.toNat] ++ needs) =
      none) (hs : scopeTrap u i.fields = none) (hc : s.begun.storeCells (envOf i r u) u.begun (laneBytes i.fields) ls = .ok cells) :
    (cells = [] → issueInstr i body s = .next (s.completes i r u u.begun)) ∧
    (cells ≠ [] → s.buffered r.core < 32 → watchTrap u (laneBytes i.fields) ls = none → issueInstr i body s =
      .next ((s.numbered.enterBuffer (s.laneEntry r u i.fields place cells lanes)).completes i r u u.begun)) ∧
    (s.numbered.enterBuffer (s.laneEntry r u i.fields place cells lanes)).store = s.store ∧
    (piecesBy place cells).flatMap (fun p => p.cells) = cells.map (fun c => (c.key, c.byte)) := by
  have hstore := hb.trans (State.vecStore_of_cells (s := s.begun) (e := envOf i r u) (u := u.begun) (place := place) (lanes := lanes) ht hs hc)
  refine ⟨fun hnil => issueInstr_ok h (hstore.trans (if_pos (by simp [hnil]))), fun hcons hroom hw => ?_, rfl,
    flatMap_cells_piecesBy place cells⟩
  refine issueInstr_ok h (hstore.trans ((if_neg (by simpa using hcons)).trans ?_))
  exact (congrArg (fun w => State.postEntry _ _ _ _ _ w lanes) hw).trans (if_neg (Nat.not_le.mpr hroom))

end Sys2Proof.Machine

open Sys2Proof Sys2Proof.Machine

/-- Settles O34: vector loads reply with the lanes they read; vector stores buffer the bytes of their active lanes. -/
theorem vectorLoadsAndStores : Obligations.VectorLoadsAndStores := by
  refine ⟨fun s r u f x t got => ⟨?ld, ?lds, ?ldg, fun e k i a keys y z bs => State.readLane_ok⟩,
    fun s r u f cells => ⟨?st, ?sst, ?sct⟩⟩
  case ld => exact fun hi ht hs hd hr => issueInstr_replies hi (State.vecLoad_replies (s := s.begun) (u := u.begun) ht hs hd hr)
  case lds => exact fun hi ht hs hd hr => issueInstr_replies hi (State.vecLoad_replies (s := s.begun) (u := u.begun) ht hs hd hr)
  case ldg => exact fun hi ht hs hd hr => issueInstr_replies hi (State.vecLoad_replies (s := s.begun) (u := u.begun) ht hs hd hr)
  all_goals
    intro hi ht hs hc
  case st =>
    unfold exec execVst
    exact vecStore_acts hi rfl ht hs hc
  case sst =>
    unfold exec execVsst
    exact vecStore_acts hi rfl ht hs hc
  case sct =>
    unfold exec execVsct
    exact vecStore_acts hi rfl ht hs hc
end

section
/-!
Plane loads, swaps, `mclr` and `mcsum` (R189 to R195, R200, R201).
-/
namespace Sys2Proof.Machine

open Sys2Proof

variable {s t x : State} {r : SlotRef} {u v : Ctx} {f : Fields} {i : Instr} {e : Env}

/-! ## Plane loads and swaps enter the port (R191, R193 to R195) -/

/-- A plane load whose pieces pass their checks is posted after the unit's own stores. -/
theorem postPieces_posts {pieces : List (Word × Nat)} {parts : List (List Nat)} {l : List (List Nat) → PlaneLoad}
    (hp : s.matPieces u e.tile pieces = .ok parts) (hd : s.drain u.key = .ok x) :
    postPieces s e u pieces l = .ok (x.postLoad e.core (x.issuedAt e.ref.key) (l parts)) u := by
  simp only [postPieces, hp]
  exact State.afterDrain_of_drains (s := s) (u := u) (need := true) hd _

theorem execMwld_posts {parts : List (List Nat)} (h : Issues s (.mwld f) r u)
    (hp : s.begun.matPieces u.begun (tileOf r.core) ((List.range (matCols f.ty.toNat)).map fun c =>
      (u.reg f.b.toNat + BitVec.ofNat 64 c * strideOf u f.c (colBytes f.ty.toNat), colBytes f.ty.toNat)) = .ok parts)
    (hd : s.begun.drain u.key = .ok x) : exec (.mwld f) s = .next
      ((x.postLoad r.core (x.issuedAt r.key) ⟨s.who r.core u, false, f.ty.toNat, 0, 0, parts⟩).putUnit r
        { u.begun with pc := npcOf (.mwld f) u }) := by
  unfold exec execMwld
  exact issueInstr_ok h (postPieces_posts hp hd)

/-- The scale words and the sums of a scale load, by portion and column. -/
def scaleCells (f : Fields) : List (Nat × Nat) :=
  (List.range (portions (mwscGroup f))).flatMap fun j => (List.range 64).map fun c => (j, c)

theorem execMwsc_posts {parts : List (List Nat)} (h : Issues s (.mwsc f) r u)
    (hp : s.begun.matPieces u.begun (tileOf r.core)
      ((scaleCells f).map (fun p => (u.reg f.b.toNat + BitVec.ofNat 64 p.1 * strideOf u f.c 256 + BitVec.ofNat 64 (4 * p.2), 4)) ++
        (scaleCells f).map (fun p => (u.reg f.d.toNat + BitVec.ofNat 64 (2 * (64 * p.1 + p.2)), 2))) = .ok parts)
    (hd : s.begun.drain u.key = .ok x) : exec (.mwsc f) s = .next
      ((x.postLoad r.core (x.issuedAt r.key) ⟨s.who r.core u, true, f.ty.toNat, mwscGroup f, f.imm.toNat / 4 % 2, parts⟩).putUnit r
        { u.begun with pc := npcOf (.mwsc f) u }) := by
  unfold exec execMwsc
  exact issueInstr_ok h (postPieces_posts hp hd)

theorem execMwsw_waits (h : Issues s (.mwsw f) r u) : exec (.mwsw f) s =
    .next ((s.begun.postPort r.core (.swap u.key (s.issuedAt r.key))).awaits (.mwsw f) r u (.swapPlanes (npcOf (.mwsw f) u))) := by
  unfold exec execMwsw
  exact issueInstr_awaits h rfl

/-! ## `mclr` (R200) -/

/-- Clear the first rows of a tile, and give them a tag. -/
@[irreducible] def Ctx.clearRows (u : Ctx) (first : Nat) (tag : BitVec 4) (n : Nat) : Ctx :=
  (List.range n).foldl (fun (u : Ctx) i => u.setRow (first + i) 0 tag) u

section ClearRows

variable {first n : Nat} {tag : BitVec 4}

theorem Ctx.clearRows_zero : u.clearRows first tag 0 = u := by
  simp only [Ctx.clearRows, List.range_zero, List.foldl_nil]

theorem Ctx.clearRows_succ : u.clearRows first tag (n + 1) = (u.clearRows first tag n).setRow (first + n) 0 tag := by
  simp only [Ctx.clearRows, List.range_succ, List.foldl_append, List.foldl_cons, List.foldl_nil]

/-- Clearing rows changes nothing of a unit but its rows and their tags. -/
theorem Ctx.clearRows_frame : u.clearRows first tag n =
    { u with rows := (u.clearRows first tag n).rows, tags := (u.clearRows first tag n).tags } := by
  induction n with
  | zero => rw [Ctx.clearRows_zero]
  | succ n ih =>
    rw [Ctx.clearRows_succ, ih]
    rfl

theorem Ctx.clearRows_other {k : Nat} (hk : k < first ∨ first + n ≤ k) :
    (u.clearRows first tag n).row k = u.row k ∧ (u.clearRows first tag n).tagOf k = u.tagOf k := by
  induction n with
  | zero => simp only [Ctx.clearRows_zero, and_self]
  | succ n ih =>
    have hne : k ≠ first + n := by omega
    obtain ⟨hrow, htag⟩ := ih (by omega)
    rw [Ctx.clearRows_succ]
    exact ⟨(FMap.get_set_ne _ _ _ _ _ hne).trans hrow, (FMap.get_set_ne _ _ _ _ _ hne).trans htag⟩

theorem Ctx.clearRows_wf (hr : FMap.wf 0 u.rows = true) : FMap.wf 0 (u.clearRows first tag n).rows = true := by
  induction n with
  | zero => rwa [Ctx.clearRows_zero]
  | succ n ih =>
    rw [Ctx.clearRows_succ]
    exact FMap.set_wf _ _ _ _ ih

theorem Ctx.clearRows_tags_wf (ht : FMap.wf 0 u.tags = true) : FMap.wf 0 (u.clearRows first tag n).tags = true := by
  induction n with
  | zero => rwa [Ctx.clearRows_zero]
  | succ n ih =>
    rw [Ctx.clearRows_succ]
    exact FMap.set_wf _ _ _ _ ih

theorem Ctx.clearRows_row (hr : FMap.wf 0 u.rows = true) {j : Nat} (hj : j < n) : (u.clearRows first tag n).row (first + j) = 0 := by
  induction n with
  | zero => omega
  | succ n ih =>
    rw [Ctx.clearRows_succ]
    by_cases hjn : j = n
    · subst hjn
      exact FMap.get_set_self _ _ _ _ (Ctx.clearRows_wf hr)
    · exact (FMap.get_set_ne _ _ _ _ _ (by omega)).trans (ih (by omega))

theorem Ctx.clearRows_tagOf (ht : FMap.wf 0 u.tags = true) {j : Nat} (hj : j < n) :
    (u.clearRows first tag n).tagOf (first + j) = tag := by
  induction n with
  | zero => omega
  | succ n ih =>
    rw [Ctx.clearRows_succ]
    by_cases hjn : j = n
    · subst hjn
      exact FMap.get_set_self _ _ _ _ (Ctx.clearRows_tags_wf ht)
    · exact (FMap.get_set_ne _ _ _ _ _ (by omega)).trans (ih (by omega))

end ClearRows

/-- What `mclr` finds: the saturation mark and whether a carry is held. -/
def Ctx.tileFound (u : Ctx) (q : Nat) : Word :=
  BitVec.ofNat 64 ((if u.tileSat.contains q then 1 else 0) + (if (u.carryOf q).isEmpty then 0 else 2))

/-- The context with a tile cleared. -/
def Ctx.cleared (u : Ctx) (q : Nat) (tag : BitVec 4) : Ctx :=
  { (u.clearRows (16 * q) tag 16).setCarry q [] with tileSat := NSet.erase u.tileSat q }

/-- The context that `mclr` leaves. -/
def Ctx.mclr (u : Ctx) (f : Fields) : Ctx :=
  if f.a = 0xFF then u.cleared f.b.toNat (BitVec.ofNat 4 f.ty.toNat)
  else (u.cleared f.b.toNat (BitVec.ofNat 4 f.ty.toNat)).setReg f.a.toNat (u.tileFound f.b.toNat)

theorem execMclr_completes (h : Issues s (.mclr f) r u) : exec (.mclr f) s = .next (s.completes (.mclr f) r u (u.begun.mclr f)) := by
  unfold exec execMclr
  refine issueInstr_completes h ?_
  simp only [Ctx.mclr, Ctx.cleared, Ctx.clearRows, Ctx.tileFound, apply_ite (Res.ok s.begun)]
  rfl

/-- Of a cleared context everything but the tile's rows, tags, carry and mark is as it was. -/
theorem Ctx.cleared_frame {q : Nat} {tag : BitVec 4} : u.cleared q tag =
    { u with
      rows := (u.clearRows (16 * q) tag 16).rows
      tags := (u.clearRows (16 * q) tag 16).tags
      carries := FMap.set [] u.carries q []
      tileSat := NSet.erase u.tileSat q } :=
  congrArg (fun w : Ctx => ({ w.setCarry q [] with tileSat := NSet.erase u.tileSat q } : Ctx)) Ctx.clearRows_frame

/-- The answer of `mclr` is all it writes besides. -/
theorem Ctx.mclr_frame : u.mclr f = { u.cleared f.b.toNat (BitVec.ofNat 4 f.ty.toNat) with
    regs := (u.mclr f).regs, pois := (u.mclr f).pois } := by
  unfold Ctx.mclr
  split <;> rfl

theorem Ctx.mclr_regs_kept (ha : f.a = 0xFF) : (u.mclr f).regs = u.regs := by
  rw [Ctx.mclr, if_pos ha, Ctx.cleared_frame]

theorem Ctx.mclr_regs (ha : f.a ≠ 0xFF) : (u.mclr f).regs = FMap.set 0 u.regs f.a.toNat (u.tileFound f.b.toNat) := by
  rw [Ctx.mclr, if_neg ha, Ctx.cleared_frame]
  rfl

theorem Ctx.mclr_reg_ne {n : Nat} (hn : n ≠ f.a.toNat) : (u.mclr f).reg n = u.reg n := by
  by_cases ha : f.a = 0xFF
  · rw [Ctx.reg, Ctx.mclr_regs_kept ha]
    rfl
  · rw [Ctx.reg, Ctx.mclr_regs ha]
    exact FMap.get_set_ne _ _ _ _ _ hn

theorem NSet.contains_erase_self (l : NSet) (n : Nat) : (NSet.erase l n).contains n = false := by
  simp [NSet.erase]

theorem NSet.contains_erase_ne {l : NSet} {n k : Nat} (hk : k ≠ n) : (NSet.erase l n).contains k = l.contains k := by
  rw [Bool.eq_iff_iff, List.contains_iff_mem, List.contains_iff_mem, NSet.mem_erase]
  exact and_iff_left hk

/-! ## `mcsum` (R201) -/

/-- The sums that `mcsum` computes from the codes of a plane. -/
theorem execMcsum_computed {p : Plane} (h : Issues s (.mcsum f) r u) (hw : s.planesWait r.key (.mcsum f) = false)
    (hp : s.planeAt r.core (if f.imm.getLsbD 1 then 0 else 1) = p) (hty : groupedTy p.wfmt = true) (hi : f.imm.getLsbD 0 = true)
    (hg : p.g ≠ 0) (hf : p.failc = none) : exec (.mcsum f) s = .next (s.completes (.mcsum f) r u
      (u.begun.setRow f.a.toNat (rowOfLanes 16 ((List.range 128).map fun i =>
        if i / 64 < portions p.g then p.codeSum (i / 64) (i % 64) else 0)) 2)) := by
  unfold exec execMcsum
  refine issueInstr_completes h ?_
  have hw' : s.begun.planesWait (envOf (.mcsum f) r u).ref.key (.mcsum (envOf (.mcsum f) r u).f) = false := hw
  have hp' : s.begun.planeAt (envOf (.mcsum f) r u).core (if (envOf (.mcsum f) r u).f.imm.getLsbD 1 = true then 0 else 1) = p := hp
  have hi' : (envOf (.mcsum f) r u).f.imm.getLsbD 0 = true := hi
  have hg' : (p.g == 0) = false := by simpa using hg
  simp only [hw', hp', hty, hi', hg', hf, Bool.false_eq_true, ↓reduceIte, Bool.not_true, Bool.or_self]
  rfl

/-- The sums that `mcsum` takes from the plane. -/
theorem execMcsum_loaded {p : Plane} (h : Issues s (.mcsum f) r u) (hw : s.planesWait r.key (.mcsum f) = false)
    (hp : s.planeAt r.core (if f.imm.getLsbD 1 then 0 else 1) = p) (hty : groupedTy p.wfmt = true) (hi : f.imm.getLsbD 0 = false)
    (hg : p.sf = true) (hf : p.fails = none) : exec (.mcsum f) s = .next (s.completes (.mcsum f) r u
      (u.begun.setRow f.a.toNat (rowOfLanes 16 ((List.range 128).map fun i =>
        if i / 64 < portions p.g then (FMap.get 0 p.sums i).toNat else 0)) 2)) := by
  unfold exec execMcsum
  refine issueInstr_completes h ?_
  have hw' : s.begun.planesWait (envOf (.mcsum f) r u).ref.key (.mcsum (envOf (.mcsum f) r u).f) = false := hw
  have hp' : s.begun.planeAt (envOf (.mcsum f) r u).core (if (envOf (.mcsum f) r u).f.imm.getLsbD 1 = true then 0 else 1) = p := hp
  have hi' : (envOf (.mcsum f) r u).f.imm.getLsbD 0 = false := hi
  simp only [hw', hp', hty, hi', hg, hf, Bool.false_eq_true, ↓reduceIte, Bool.not_true, Bool.or_self]
  rfl

theorem groupedTy_iff (n : Nat) : groupedTy n = true ↔ n = 11 ∨ n = 12 := by
  simp [groupedTy]

end Sys2Proof.Machine

open Sys2Proof Sys2Proof.Machine

/-- Settles O35: plane loads and swaps enter the port, and `mclr` and `mcsum` answer at once. -/
theorem planeAndTileInstructions : Obligations.PlaneAndTileInstructions := by
  refine ⟨fun s r u f parts x => ⟨?mwld, ?mwsc, fun hi => execMwsw_waits hi⟩, fun s r u f => ⟨?mclr, ?mcsum⟩⟩
  case mwld => exact fun hi hp hd => execMwld_posts hi hp hd
  case mwsc => exact fun hi hp hd => execMwsc_posts hi hp hd
  case mclr =>
    intro hi
    refine ⟨u.begun.mclr f, execMclr_completes hi, ?rows, ?tags, ?others, ?mark, ?marks, ?regs, ?carry, ?found, ?kept, ?frame⟩
    case regs => exact fun n hn => Ctx.mclr_reg_ne (u := u.begun) hn
    case kept => exact fun ha => Ctx.mclr_regs_kept (u := u.begun) ha
    all_goals rw [Ctx.mclr_frame, Ctx.cleared_frame]
    case rows => exact fun hwf j hj => Ctx.clearRows_row (u := u.begun) hwf hj
    case tags => exact fun hwf j hj => Ctx.clearRows_tagOf (u := u.begun) hwf hj
    case others => exact fun n hn => Ctx.clearRows_other (u := u.begun) hn
    case mark => exact NSet.contains_erase_self _ _
    case marks => exact fun n hn => ⟨NSet.contains_erase_ne hn, FMap.get_set_ne _ _ _ _ _ hn⟩
    case carry => exact fun hwf => FMap.get_set_self _ _ _ _ hwf
    case found =>
      intro hwf ha
      rw [Ctx.mclr_regs ha]
      refine (FMap.get_set_self _ _ _ _ hwf).trans ?_
      simp only [Ctx.tileFound, List.isEmpty_iff]
      rfl
    case frame => exact ⟨rfl, rfl, rfl⟩
  case mcsum =>
    intro hi hw hty
    have hg := (groupedTy_iff _).mpr hty
    exact ⟨fun himm hz hf => execMcsum_computed hi hw rfl hg himm hz hf, fun himm hsf hf => execMcsum_loaded hi hw rfl hg himm hsf hf⟩
end

section
/-!
Multiply-accumulate and the state-space instructions (R196 to R199, R203 to R210).
-/
namespace Sys2Proof.Machine

open Sys2Proof

variable {s t x y z : State} {r : SlotRef} {u v : Ctx} {f : Fields} {i : Instr} {e : Env} {p : Word} {bs hs : List Byte}

/-! ## The INT8 lane (R197) -/

/-- The dot product of exact values is the sum of their products. -/
theorem dotProduct_int8 {xs ys : List Nat} (h : xs.length = ys.length) :
    dotProduct (xs.map (matValue 1)) (ys.map (matValue 1)) = some ((xs.zip ys).map fun p => signed p.1 8 * signed p.2 8).sum := by
  induction xs generalizing ys with
  | nil => cases ys <;> rfl
  | cons a xs ih =>
    cases ys with
    | nil => simp at h
    | cons b ys =>
      have hrest := ih (ys := ys) (by simpa using h)
      simp only [List.map_cons, List.zip_cons_cons, List.sum_cons]
      exact congrArg (fun d => Option.map (signed a 8 * signed b 8 + ·) d) hrest

theorem macPlain_int8 (acc : Nat) (d : Int) : macPlain 1 acc (some d) =
    (lowBits (max (-(2 ^ 31)) (min (2 ^ 31 - 1) (signed acc 32 + d))) 32,
      if max (-(2 ^ 31)) (min (2 ^ 31 - 1) (signed acc 32 + d)) = signed acc 32 + d then 0 else flSAT,
      decide (max (-(2 ^ 31)) (min (2 ^ 31 - 1) (signed acc 32 + d)) ≠ signed acc 32 + d)) := by
  have hc := clampInt_eq (y := signed acc 32 + d) (lo := -(2 ^ 31)) (hi := 2 ^ 31 - 1) (by decide)
  unfold macPlain
  rw [if_pos rfl, Option.getD_some, hc]
  dsimp only
  split <;> simp_all [flSAT]

/-! ## The occupancy of the array (R196 to R199) -/

/-- The bytes of an activation row: 64 elements, and the side words of a grouped format. -/
theorem actRowBytes_eq (q : Plane) (ty : Nat) : actRowBytes q ty = 8 * (if ty = 9 then 16 else if ty = 10 then 32 else 8) +
    (if ty = 11 ∨ ty = 12 then 4 * (if q.g = 32 then 2 else 1) else 0) := by
  have helem : codeWidth (actTag ty) = if ty = 9 then 16 else if ty = 10 then 32 else 8 := by
    unfold codeWidth actTag
    by_cases h : ty = 11
    · subst h
      rfl
    · rw [if_neg h, if_neg h]
  simp only [actRowBytes, actBytes, helem, groupedTy_iff, portions]

section Mac

variable {zero : Bool} {acts : List Nat} (h : Issues s i r u) (hx : exec i s = macInstr i zero s)
  (hw : s.planesWait r.key i = false)

include h hx hw

/-- A failing check of a multiply-accumulate traps. -/
theorem macInstr_traps {w : Trap} (ht : macTrap (s.planeAt r.core 0) u i.fields.ty.toNat i.fields.a.toNat zero = some w) :
    exec i s = .next (s.begun.trapsAt r u w) := by
  rw [hx]
  refine issueInstr_traps (t := s.begun) (e := w) h ?_
  refine (if_neg (Bool.eq_false_iff.mp hw)).trans ?_
  have ht' : macTrap (s.begun.planeAt (envOf i r u).core 0) u.begun (envOf i r u).f.ty.toNat (envOf i r u).f.a.toNat zero = some w := ht
  dsimp only
  rw [ht']

/-- One whose checks pass reads its activation rows and occupies the array. -/
theorem macInstr_streams (ht : macTrap (s.planeAt r.core 0) u i.fields.ty.toNat i.fields.a.toNat zero = none)
    (hd : s.begun.drain u.key = .ok x)
    (hr : x.readActs (envOf i r u) u.begun (actRowBytes (s.planeAt r.core 0) i.fields.ty.toNat)
      (actRows u.begun i.fields (actRowBytes (s.planeAt r.core 0) i.fields.ty.toNat)) = .ok (t, acts)) {last : Nat}
    (hl : max (t.ck + 1) ((s.arrayAt r.core).lastE + 1) + occupancy i.fields.ty.toNat - 1 = last) :
    exec i s = .next (((t.setArray r.core { t.arrayAt r.core with lastE := last }).schedule (max (t.ck + 23) (last + 7))
      (.mmacWrite r.core)).awaits i r u (.mmac ⟨macWrites (s.planeAt r.core 0) i.fields.a.toNat
        (macRows (s.planeAt r.core 0) u i.fields.a.toNat zero acts), npcOf i u, none⟩)) := by
  subst hl
  rw [hx]
  refine issueInstr_awaits h ?_
  refine (if_neg (Bool.eq_false_iff.mp hw)).trans ?_
  have ht' : macTrap (s.begun.planeAt (envOf i r u).core 0) u.begun (envOf i r u).f.ty.toNat (envOf i r u).f.a.toNat zero = none := ht
  dsimp only
  rw [ht']
  refine (State.afterDrain_of_drains (s := s.begun) (u := u.begun) (need := true) hd _).trans ?_
  have hr' : x.readActs (envOf i r u) u.begun (actRowBytes (s.begun.planeAt (envOf i r u).core 0) (envOf i r u).f.ty.toNat)
    (actRows u.begun (envOf i r u).f (actRowBytes (s.begun.planeAt (envOf i r u).core 0) (envOf i r u).f.ty.toNat)) = .ok (t, acts) := hr
  rw [hr']
  rfl

end Mac

/-! ## The state-space instructions (R203, R204, R208, R210) -/

section Block

variable (hd : s.begun.drain u.key = .ok x) (hr : x.blockRead r.core u.begun p 128 128 = .ok t bs)

include hd hr

/-- A block that can be read is read after the unit's own stores. -/
theorem State.readBytes_ok (rest : State → List Byte → Res) :
    s.begun.readBytes (envOf i r u) u.begun p rest = rest t bs := by
  refine (State.afterDrain_of_drains (s := s.begun) (u := u.begun) (need := true) hd _).trans ?_
  have hr' : x.blockRead (envOf i r u).core u.begun p 128 128 = .ok t bs := hr
  rw [hr']

theorem execSsmCfg_replies (h : Issues s (.ssmCfg f) r u) (hp : p = u.reg f.b.toNat) : exec (.ssmCfg f) s =
    .next (t.replies (.ssmCfg f) r (if ssmCheck p (ssmBlock bs) = 0 then { u with ssmPtr := some p } else u)
      [.scalar f.a.toNat (BitVec.ofNat 64 (ssmCheck p (ssmBlock bs)))] none) := by
  subst hp
  unfold exec execSsmCfg
  have hbody := State.readBytes_ok (i := .ssmCfg f) hd hr fun s bs => .reply s
    (if ssmCheck (u.reg f.b.toNat) (ssmBlock bs) = 0 then { u.begun with ssmPtr := some (u.reg f.b.toNat) } else u.begun)
    [.scalar f.a.toNat (BitVec.ofNat 64 (ssmCheck (u.reg f.b.toNat) (ssmBlock bs)))] none
  refine (issueInstr_of_body h hbody).trans ?_
  dsimp only
  split <;> rfl

end Block

/-- What `ssm.run` does once it has read its block: it answers, waits in line, or starts a chunk. -/
def State.runBlock (t : State) (r : SlotRef) (u : Ctx) (f : Fields) (p : Word) (bs : List Byte) : Res :=
  let b := ssmBlock bs
  let a := t.arrayAt r.core
  let line (s : State) (w : Wait) : Res :=
    .wait (s.setArray r.core { s.arrayAt r.core with
      waiters := if a.waiters.contains u.key then a.waiters else a.waiters ++ [u.key] }) u w
  if ssmCheck p b ≠ 0 then .reply t u [.scalar f.a.toNat (ssmCode (ssmCheck p b))] none
  else if b.tdone = b.t then .reply t u [.scalar f.a.toNat (BitVec.ofNat 64 b.tdone)] none
  else if a.holder.isNone ∧ (a.waiters.head? = none ∨ a.waiters.head? = some u.key) then
    if b.matrix && t.planesWait r.key (.ssmRun f) then line t .planeLoad
    else
      match t.readState r.core u b with
      | .trap s w => .trap s w
      | .wait s w => line s w
      | .ok s h0 => .wait ((s.setArray r.core { s.arrayAt r.core with
          holder := some u.key, waiters := a.waiters.filter (· ≠ u.key), ran := 0 }).startChunk r.core bs h0) u
          (.ssmRun (u.reg f.b.toNat).toNat f.a.toNat (npcOf (.ssmRun f) u))
  else line t .ssmEngine

theorem execSsmRun_of_block (h : Issues s (.ssmRun f) r u) (hp : u.ssmPtr = some p) (hd : s.begun.drain u.key = .ok x)
    (hr : x.blockRead r.core u.begun p 128 128 = .ok t bs) : exec (.ssmRun f) s =
    .next (finish (.ssmRun f) (envOf (.ssmRun f) r u) u.begun ((t.runBlock r u.begun f p bs).leaveLine r.core u.key)) := by
  unfold exec execSsmRun
  refine issueInstr_of_body h ?_
  have hp' : u.begun.ssmPtr = some p := hp
  dsimp only
  rw [hp']
  exact congrArg (Res.leaveLine r.core u.key) (State.readBytes_ok (i := .ssmRun f) hd hr _)

section RunBlock

variable (hfree : ssmCheck p (ssmBlock bs) = 0) (hmore : (ssmBlock bs).tdone ≠ (ssmBlock bs).t)

theorem State.runBlock_refused (hk : ssmCheck p (ssmBlock bs) ≠ 0) : t.runBlock r u f p bs =
    .reply t u [.scalar f.a.toNat (ssmCode (ssmCheck p (ssmBlock bs)))] none := if_pos hk

include hfree

theorem State.runBlock_finished (ht : (ssmBlock bs).tdone = (ssmBlock bs).t) : t.runBlock r u f p bs =
    .reply t u [.scalar f.a.toNat (BitVec.ofNat 64 (ssmBlock bs).tdone)] none :=
  (if_neg (not_not_intro hfree)).trans (if_pos ht)

include hmore

/-- While another unit holds the engine, a unit joins its line. -/
theorem State.runBlock_waits {o : Nat} (ho : (t.arrayAt r.core).holder = some o)
    (hw : (t.arrayAt r.core).waiters.contains u.key = false) : t.runBlock r u f p bs =
    .wait (t.setArray r.core { t.arrayAt r.core with waiters := (t.arrayAt r.core).waiters ++ [u.key] }) u .ssmEngine := by
  refine (if_neg (not_not_intro hfree)).trans ((if_neg hmore).trans ((if_neg (by simp [ho])).trans ?_))
  dsimp only
  rw [if_neg (Bool.eq_false_iff.mp hw)]

/-- When the engine is free and nobody waits for it, a chunk starts from the state that is read. -/
theorem State.runBlock_starts (ho : (t.arrayAt r.core).holder = none) (hw : (t.arrayAt r.core).waiters = [])
    (hm : (ssmBlock bs).matrix = true → t.planesWait r.key (.ssmRun f) = false)
    (hy : t.readState r.core u (ssmBlock bs) = .ok y hs) : t.runBlock r u f p bs =
    .wait ((y.setArray r.core { y.arrayAt r.core with holder := some u.key, waiters := [], ran := 0 }).startChunk r.core bs hs) u
      (.ssmRun (u.reg f.b.toNat).toNat f.a.toNat (npcOf (.ssmRun f) u)) := by
  have hplanes : ((ssmBlock bs).matrix && t.planesWait r.key (.ssmRun f)) = false := by
    cases hb : (ssmBlock bs).matrix with
    | false => rfl
    | true => exact hm hb
  refine (if_neg (not_not_intro hfree)).trans ((if_neg hmore).trans ((if_pos ⟨by simp [ho], Or.inl (by simp [hw])⟩).trans
    ((if_neg (Bool.eq_false_iff.mp hplanes)).trans ?_)))
  rw [hy, hw]
  rfl

end RunBlock

/-- Without a pointer the answer is the code 1, or nothing happens. -/
theorem execSsmRun_of_none (h : Issues s (.ssmRun f) r u) (hp : u.ssmPtr = none) :
    exec (.ssmRun f) s = .next (s.completes (.ssmRun f) r u (u.begun.setReg f.a.toNat (ssmCode 1))) := by
  unfold exec execSsmRun
  refine issueInstr_completes h ?_
  have hp' : u.begun.ssmPtr = none := hp
  dsimp only
  rw [hp']
  rfl

theorem execSsmSt_of_none (h : Issues s (.ssmSt f) r u) (hp : u.ssmPtr = none) :
    exec (.ssmSt f) s = .next (s.completes (.ssmSt f) r u u.begun) := by
  unfold exec execSsmSt
  refine issueInstr_completes h ?_
  have hp' : u.begun.ssmPtr = none := hp
  rw [hp']

theorem execSsmStat_of_none (h : Issues s (.ssmStat f) r u) (hp : u.ssmPtr = none) :
    exec (.ssmStat f) s = .next (s.completes (.ssmStat f) r u (u.begun.setReg f.a.toNat (ssmCode 1))) := by
  unfold exec execSsmStat
  refine issueInstr_completes h ?_
  have hp' : u.begun.ssmPtr = none := hp
  rw [hp']
  rfl

/-- `ssm.stat` answers the quad of TDONE. -/
theorem execSsmStat_replies (h : Issues s (.ssmStat f) r u) (hp : u.ssmPtr = some p) (hd : s.begun.drain u.key = .ok x)
    (hr : x.blockRead r.core u.begun (p + 72) 8 8 = .ok t bs) :
    exec (.ssmStat f) s = .next (t.replies (.ssmStat f) r u [.scalar f.a.toNat (BitVec.ofNat 64 (natOfBytes bs))] none) := by
  unfold exec execSsmStat
  refine issueInstr_replies h ?_
  have hp' : u.begun.ssmPtr = some p := hp
  have hr' : x.blockRead (envOf (.ssmStat f) r u).core u.begun (p + 72) 8 8 = .ok t bs := hr
  rw [hp']
  refine (State.afterDrain_of_drains (s := s.begun) (u := u.begun) (need := true) hd _).trans ?_
  rw [hr']
  rfl

/-- The elements that `ssm.st` stores for a state, with their flags. -/
def roundedState (ty : Nat) (vs : List Nat) : List (Nat × Flags) :=
  vs.map fun h => ((roundVal ty (decodeIeee 6 h) 0).1, sigFlags (decodeIeee 6 h) ||| (roundVal ty (decodeIeee 6 h) 0).2)

section SsmSt

variable (h : Issues s (.ssmSt f) r u) (hp : u.ssmPtr = some p) (hd : s.begun.drain u.key = .ok x)
  (hr : x.blockRead r.core u.begun p 128 128 = .ok t bs)

include h hp hd hr

/-- A block that is refused stores nothing. -/
theorem execSsmSt_refused (hk : ssmCheck p (ssmBlock bs) ≠ 0) : exec (.ssmSt f) s = .next (t.replies (.ssmSt f) r u [] none) := by
  unfold exec execSsmSt
  refine issueInstr_replies h ?_
  have hp' : u.begun.ssmPtr = some p := hp
  dsimp only
  rw [hp']
  exact (State.readBytes_ok (i := .ssmSt f) hd hr _).trans (if_pos hk)

/-- `ssm.st` stores the state, rounded. -/
theorem execSsmSt_stores (hk : ssmCheck p (ssmBlock bs) = 0) (hy : t.readState r.core u.begun (ssmBlock bs) = .ok y hs)
    (hz : y.blockWrite r.core u.begun (u.reg f.b.toNat)
      ((roundedState f.ty.toNat (elements 4 ((ssmBlock bs).n * (ssmBlock bs).p) hs)).flatMap
        fun v => bytesOfNat v.1 (laneWidth f.ty.toNat / 8)) (laneWidth f.ty.toNat / 8) = .ok z []) :
    exec (.ssmSt f) s = .next (z.replies (.ssmSt f) r u
      [.flags ((roundedState f.ty.toNat (elements 4 ((ssmBlock bs).n * (ssmBlock bs).p) hs)).foldl (fun acc v => acc ||| v.2) 0)]
      none) := by
  unfold exec execSsmSt
  refine issueInstr_replies h ?_
  have hp' : u.begun.ssmPtr = some p := hp
  have hy' : t.readState (envOf (.ssmSt f) r u).core u.begun (ssmBlock bs) = .ok y hs := hy
  dsimp only
  rw [hp']
  refine (State.readBytes_ok (i := .ssmSt f) hd hr _).trans ((if_neg (not_not_intro hk)).trans ?_)
  rw [hy']
  dsimp only
  split
  · next hw => exact BlockAcc.noConfusion (hw.symm.trans hz)
  · next hw => exact BlockAcc.noConfusion (hw.symm.trans hz)
  · next hw =>
    obtain ⟨rfl, -⟩ := BlockAcc.ok.inj (hw.symm.trans hz)
    rfl

end SsmSt

end Sys2Proof.Machine

open Sys2Proof Sys2Proof.Machine

/-- Settles O38: the INT8 lane is the exact sum, clamped to 32 bits. -/
theorem integerMacIsExactThenClamped : Obligations.IntegerMacIsExactThenClamped := by
  intro acc xs ys hlen
  rw [dotProduct_int8 hlen]
  exact macPlain_int8 acc _

/-- Settles O37: a multiply-accumulate occupies the array, or traps. -/
theorem multiplyAccumulateOccupiesTheArray : Obligations.MultiplyAccumulateOccupiesTheArray := by
  intro s r u f x t acts ty q p bytes rows ck mac
  refine ⟨fun hi hw => ⟨fun e ht => ?_, fun ht hd hr => ⟨_, _, rfl, rfl, ?_⟩⟩, fun hi hw => ⟨fun e ht => ?_, fun ht hd hr => ⟨_, _, rfl, rfl, ?_⟩⟩⟩
  · exact macInstr_traps hi rfl hw ht
  · exact macInstr_streams hi rfl hw ht hd (by rw [actRowBytes_eq]; exact hr) rfl
  · exact macInstr_traps hi rfl hw ht
  · exact macInstr_streams hi rfl hw ht hd (by rw [actRowBytes_eq]; exact hr) rfl

/-- Settles O39: the state-space instructions answer and act by the block. -/
theorem stateSpaceInstructions : Obligations.StateSpaceInstructions := by
  intro s r u f x t bs b code reads a
  refine ⟨?cfg, fun hi hp => execSsmRun_of_none hi hp, ?run, fun hi hp => execSsmSt_of_none hi hp, ?refused, ?st,
    fun hi hp => execSsmStat_of_none hi hp, fun p hi hp hd hr => execSsmStat_replies hi hp hd hr⟩
  case cfg => exact fun hi hreads => execSsmCfg_replies hreads.1 hreads.2 hi rfl
  case refused => exact fun p hi hp hreads hk => execSsmSt_refused hi hp hreads.1 hreads.2 hk
  case st => exact fun p y z hs hi hp hreads hk hy hz => execSsmSt_stores hi hp hreads.1 hreads.2 hk hy hz
  case run =>
    intro p hi hp hreads
    obtain ⟨hd, hr⟩ := hreads
    have hrun := execSsmRun_of_block hi hp hd hr
    refine ⟨fun hk => ?_, fun hk ht => ?_, fun y hs hk ht ho hw hm hy => ?_, fun o hk ht ho hw => ?_⟩
    · rw [hrun, State.runBlock_refused hk]
      rfl
    · rw [hrun, State.runBlock_finished hk ht]
      rfl
    · rw [hrun, State.runBlock_starts hk ht ho hw hm hy]
      rfl
    · rw [hrun, State.runBlock_waits (u := u.begun) hk ht ho hw]
      rfl
end

section
/-!
What happens in the matrix array and the state-space engine: loads, swaps, tile writes and chunk commits (R193, R195, R199, R208, R209).
-/
namespace Sys2Proof.Machine

open Sys2Proof

variable {s t y : State} {u v : Ctx} {c k : Nat} {p npc : Word} {bs hs : List Byte}

/-! ## The port goes on (R195, R202) -/

theorem execPlaneLoadComplete_fills {l : PlaneLoad} {n : Nat} {rest : List PortEntry} {data : List (List Byte)}
    (hport : (s.arrayAt c).port = .load l n :: rest) (hr : s.readParts l.who l.parts = (.ok t bs, data)) :
    exec (.planeLoadComplete c) s = .next ((t.setPlane c 1 ((t.planeAt c 1).fill l data)).advancePort c) := by
  change Host.Outcome.next (s.loadPlane c) = _
  simp only [State.loadPlane, hport, hr]

/-- A slot that is ready in the next ck holds a unit whose partition runs: a wake-up leaves it as it is. -/
structure State.Ready (s : State) (k : Nat) (sl : Slot) : Prop where
  slot  : s.slotAt k = sl
  mode  : sl.mode = .ready (s.ck + 1)
  unit  : sl.unit ≠ none

theorem State.Ready.rejoin {sl : Slot} (h : s.Ready k sl) (n : Nat) : (s.rejoin n).Ready k sl := by
  obtain ⟨hslot, hmode, hunit⟩ := h
  unfold State.rejoin
  dsimp only
  split
  · exact ⟨hslot, hmode, hunit⟩
  · refine ⟨?_, hmode, hunit⟩
    by_cases hk : k = n
    · subst hk
      obtain ⟨mode, unit⟩ := sl
      obtain rfl : mode = .ready (s.ck + 1) := hmode
      rw [hslot]
      exact State.slotAt_setSlot_self _ _ _ hunit
    · exact (State.slotAt_setSlot_ne _ _ _ _ hk).trans hslot

/-- A wake-up leaves the planes as they are. -/
theorem State.rejoin_planes (n : Nat) : (s.rejoin n).fab.planes = s.fab.planes := by
  unfold State.rejoin
  dsimp only
  split <;> rfl

/-- The slots that the planes let go on are woken: whatever a wake-up keeps stays. -/
theorem State.planesChanged_keeps {P : State → Prop} (hrejoin : ∀ s n, P s → P (State.rejoin s n)) (h : P s) :
    P (s.planesChanged c) := by
  unfold State.planesChanged
  refine List.foldlRecOn _ _ h fun x hx e _ => ?_
  split
  · split
    · exact hrejoin _ _ hx
    · exact hx
  · exact hx

theorem State.advancePort_keeps {P : State → Prop} (hrejoin : ∀ s n, P s → P (State.rejoin s n))
    (hsched : ∀ s d i, P s → P (State.schedule s d i)) (hfree : ∀ s d i, P s → P (State.scheduleFree s d i))
    (harray : ∀ s n a, P s → P (State.setArray s n a)) (h : P s) : P (s.advancePort c) := by
  refine State.planesChanged_keeps hrejoin ?_
  unfold State.startPort
  dsimp only
  split
  · exact hsched _ _ _ (harray _ _ _ h)
  · exact hfree _ _ _ (harray _ _ _ h)
  · exact harray _ _ _ h

theorem State.Ready.advancePort {sl : Slot} (h : s.Ready k sl) : (s.advancePort c).Ready k sl :=
  State.advancePort_keeps (P := fun s => s.Ready k sl) (fun _ n hx => hx.rejoin n) (fun _ _ _ ⟨a, b, d⟩ => ⟨a, b, d⟩)
    (fun _ _ _ ⟨a, b, d⟩ => ⟨a, b, d⟩) (fun _ _ _ ⟨a, b, d⟩ => ⟨a, b, d⟩) h

theorem State.planeAt_advancePort (n w : Nat) : (s.advancePort c).planeAt n w = s.planeAt n w := by
  have hplanes : (s.advancePort c).fab.planes = s.fab.planes :=
    State.advancePort_keeps (P := fun x => x.fab.planes = s.fab.planes) (fun _ _ hx => (State.rejoin_planes _).trans hx)
      (fun _ _ _ hx => hx) (fun _ _ _ hx => hx) (fun _ _ _ hx => hx) rfl
  rw [State.planeAt, hplanes]
  rfl

/-! ## Swaps (R195) -/

theorem codes_recordHeld (q : Plane) (rest : List PortEntry) : (recordHeld q rest).codes = q.codes := by
  induction rest generalizing q with
  | nil => rfl
  | cons e rest ih =>
    cases e with
    | swap unit n => rfl
    | load l n =>
      refine (ih _).trans ?_
      unfold Plane.record
      split <;> rfl

theorem State.planeAt_setPlane_ne {n w : Nat} {q : Plane} (h : 2 * n + w ≠ 2 * c + k) : (s.setPlane c k q).planeAt n w = s.planeAt n w :=
  FMap.get_set_ne _ _ _ _ _ h

theorem State.planeAt_setPlane_self {q : Plane} (h : FMap.wf Plane.empty s.fab.planes = true) : (s.setPlane c k q).planeAt c k = q :=
  FMap.get_set_self _ _ _ _ h

theorem State.setPlane_wf {q : Plane} (h : FMap.wf Plane.empty s.fab.planes = true) :
    FMap.wf Plane.empty (s.setPlane c k q).fab.planes = true := FMap.set_wf _ _ _ _ h

/-- The planes exchange; the marks of what becomes the shadow are gone. -/
def State.swapped (s : State) (c : Nat) : State :=
  (s.setPlane c 0 (s.planeAt c 1)).setPlane c 1 { s.planeAt c 0 with cf := false, sf := false }

/-- A swap whose turn it is exchanges the planes, and its unit is ready; the loads behind it make their records. -/
theorem execMwswTakesEffect_swaps {rest : List PortEntry} {at_ n : Nat} (hport : (s.arrayAt c).port = .swap u.key at_ :: rest)
    (hlast : (s.arrayAt c).lastE < s.ck) (hheld : s.heldEarlier c at_ usesPlanes = false) (htag : s.haltedTag u.tag = false)
    (hfind : s.findUnit u.key = some (k, s.slotAt k, u)) (hmode : (s.slotAt k).mode = .waiting (.swapPlanes npc) n)
    (htrap : swapTrap (s.planeAt c 1) = none) : exec (.mwswTakesEffect c) s =
    .next ((((s.swapped c).complete k npc id).setPlane c 1
      (recordHeld (((s.swapped c).complete k npc id).planeAt c 1) rest)).advancePort c) := by
  have hturn : ¬ (s.ck ≤ (s.arrayAt c).lastE ∨ s.heldEarlier c at_ usesPlanes = true) := by
    simp only [hheld, Bool.false_eq_true, or_false]
    omega
  change execMwswTakesEffect c s = _
  simp only [execMwswTakesEffect, hport, hturn, hfind, htag, hmode, htrap, Bool.false_eq_true, ↓reduceIte]
  rfl

/-- What a swap leaves. -/
theorem State.swap_settles {rest : List PortEntry} (hwf : FMap.wf Plane.empty s.fab.planes = true) (hu : (s.slotAt k).unit = some u)
    (htag : s.haltedTag u.tag = false) {x : State} (hx : x = (s.swapped c).complete k npc id) :
    ((x.setPlane c 1 (recordHeld (x.planeAt c 1) rest)).advancePort c).planeAt c 0 = s.planeAt c 1 ∧
    (((x.setPlane c 1 (recordHeld (x.planeAt c 1) rest)).advancePort c).planeAt c 1).codes = (s.planeAt c 0).codes ∧
    ((x.setPlane c 1 (recordHeld (x.planeAt c 1) rest)).advancePort c).slotAt k =
      { s.slotAt k with unit := some { u with pc := npc }, mode := .ready (s.ck + 1) } := by
  have hcomplete : x = (s.swapped c).setSlot k { s.slotAt k with unit := some { u with pc := npc }, mode := .ready (s.ck + 1) } :=
    hx.trans (State.complete_of_running (s := s.swapped c) hu htag)
  have hplanes : x.fab.planes = (s.swapped c).fab.planes := by rw [hcomplete]; rfl
  have hwf1 : FMap.wf Plane.empty (s.setPlane c 0 (s.planeAt c 1)).fab.planes = true := State.setPlane_wf hwf
  have hwfx : FMap.wf Plane.empty x.fab.planes = true := hplanes ▸ State.setPlane_wf hwf1
  have hat (w : Nat) : x.planeAt c w = (s.swapped c).planeAt c w := by rw [State.planeAt, hplanes]; rfl
  have hne : 2 * c + 0 ≠ 2 * c + 1 := by omega
  refine ⟨?_, ?_, ?_⟩
  · rw [State.planeAt_advancePort, State.planeAt_setPlane_ne hne, hat, State.swapped, State.planeAt_setPlane_ne hne,
      State.planeAt_setPlane_self hwf]
  · rw [State.planeAt_advancePort, State.planeAt_setPlane_self hwfx, codes_recordHeld, hat, State.swapped,
      State.planeAt_setPlane_self hwf1]
  · have hready : (x.setPlane c 1 (recordHeld (x.planeAt c 1) rest)).Ready k
        { s.slotAt k with unit := some { u with pc := npc }, mode := .ready (s.ck + 1) } := by
      rw [hcomplete]
      exact ⟨State.slotAt_setSlot_self _ _ _ (by simp), rfl, by simp⟩
    exact hready.advancePort.slot

/-! ## Tile writes (R199) -/

theorem execMmacWrite_writes {rep : Reply} {n : Nat} (hu : (s.slotAt k).unit = some u) (hdoomed : u.doomed = none)
    (htag : s.haltedTag u.tag = false) (hnext : s.nextMmac c = some (k, s.slotAt k))
    (hmode : (s.slotAt k).mode = .waiting (.mmac rep) n) : exec (.mmacWrite c) s =
    .next (s.setSlot k { s.slotAt k with unit := some { u.applyReply rep with pc := rep.npc }, mode := .ready (s.ck + 1) }) := by
  change execMmacWrite c s = _
  simp only [execMmacWrite, hnext, hu, hmode, htag, hdoomed, Bool.false_eq_true, ↓reduceIte]
  rw [State.complete_of_running hu htag]

/-! ## The end of a chunk (R208, R209) -/

section Chunk

variable {sl : Slot} {limit dst since : Nat} (hholder : (s.arrayAt c).holder = some u.key) (hfind : s.findUnit u.key = some (k, sl, u))
  (hmode : sl.mode = .waiting (.ssmRun limit dst npc) since) (hptr : u.ssmPtr = some p) (htag : s.haltedTag u.tag = false)

include hholder hfind hmode hptr htag

theorem execSsmChunkCommit_commits {d : Committed} (hblock : (s.arrayAt c).block ≠ [])
    (hd : s.ssmChunk c u p (ssmBlock (s.arrayAt c).block) (s.arrayAt c).h0 = .ok d) : exec (.ssmChunkCommit c) s =
    .next ((d.state.modUnit u.key fun v => { v.setFlags d.flags with pass := [] }).afterCommit c k p limit dst npc d) := by
  obtain ⟨b, bs, hb⟩ := List.exists_cons_of_ne_nil hblock
  rw [hb] at hd
  change execSsmChunkCommit c s = _
  simp only [execSsmChunkCommit, hholder, Option.bind_some, hfind, hmode, hptr, htag, hb, hd, Bool.false_eq_true, ↓reduceIte]

/-- A run that waited to read its block reads it. -/
theorem execSsmChunkCommit_reads (hblock : (s.arrayAt c).block = []) :
    exec (.ssmChunkCommit c) s = .next (s.nextChunk c k u p dst npc) := by
  change execSsmChunkCommit c s = _
  simp only [execSsmChunkCommit, hholder, Option.bind_some, hfind, hmode, hptr, htag, hblock, Bool.false_eq_true, ↓reduceIte]

end Chunk

section NextChunk

variable {dst : Nat} (hr : s.blockRead c u p 128 128 = .ok t bs)

include hr

theorem State.nextChunk_refused (hk : ssmCheck p (ssmBlock bs) ≠ 0) :
    s.nextChunk c k u p dst npc = t.endRun c k npc dst (ssmCode (ssmCheck p (ssmBlock bs))) := by
  unfold State.nextChunk
  rw [hr]
  exact if_pos hk

theorem State.nextChunk_finished (hk : ssmCheck p (ssmBlock bs) = 0) (ht : (ssmBlock bs).tdone = (ssmBlock bs).t) :
    s.nextChunk c k u p dst npc = t.endRun c k npc dst (BitVec.ofNat 64 (ssmBlock bs).tdone) := by
  unfold State.nextChunk
  rw [hr]
  exact (if_neg (not_not_intro hk)).trans (if_pos ht)

theorem State.nextChunk_starts (hk : ssmCheck p (ssmBlock bs) = 0) (ht : (ssmBlock bs).tdone ≠ (ssmBlock bs).t)
    (hy : t.readState c u (ssmBlock bs) = .ok y hs) :
    s.nextChunk c k u p dst npc = (y.modUnit u.key fun v => { v with pass := [] }).startChunk c bs hs := by
  unfold State.nextChunk
  rw [hr]
  refine (if_neg (not_not_intro hk)).trans ((if_neg ht).trans ?_)
  rw [hy]

end NextChunk

end Sys2Proof.Machine

open Sys2Proof Sys2Proof.Machine

/-- Settles O36: plane loads, swaps, tile writes and chunk commits take effect. -/
theorem arrayAndStateSpaceEvents : Obligations.ArrayAndStateSpaceEvents := by
  refine ⟨fun s c => ⟨?load, ?swap, ?write⟩, ?chunk⟩
  case load => exact fun l n rest t bs data hport hr => execPlaneLoadComplete_fills hport hr
  case swap =>
    intro rest k at_ u npc n hport hlast hheld htag hwf hfind hu hmode htrap
    exact ⟨_, execMwswTakesEffect_swaps hport hlast hheld htag hfind hmode htrap, State.swap_settles hwf hu htag rfl⟩
  case write =>
    intro k u rep n hu hdoomed htag hnext hmode
    exact ⟨_, execMmacWrite_writes hu hdoomed htag hnext hmode, rfl, State.slotAt_setSlot_self _ _ _ (by simp)⟩
  case chunk =>
    intro s c k sl u limit dst since npc p t bs hholder hfind hmode hptr htag b ends
    refine ⟨fun d hblock hd => execSsmChunkCommit_commits hholder hfind hmode hptr htag hblock hd, fun hblock hr => ?_⟩
    have hreads := execSsmChunkCommit_reads hholder hfind hmode hptr htag hblock
    refine ⟨fun hk => ?_, fun hk ht => ?_, fun y hs hk ht hy => ?_⟩
    · exact hreads.trans (congrArg Host.Outcome.next (State.nextChunk_refused hr hk))
    · exact hreads.trans (congrArg Host.Outcome.next (State.nextChunk_finished hr hk ht))
    · exact hreads.trans (congrArg Host.Outcome.next (State.nextChunk_starts hr hk ht hy))
end

section
/-!
Where copies and merges start (R214 to R221).
-/
namespace Sys2Proof.Machine

open Sys2Proof

variable {s t x : State} {r : SlotRef} {u v : Ctx} {f : Fields} {i : Instr} {e : Env} {kind : OpKind}

/-! ## Splitting a unit's weight (R214) -/

/-- A split changes the launches and the phases, and of the unit its status word. -/
theorem State.split_frame (s : State) (u : Ctx) : ∃ ls ps st,
    (s.split u).1 = { s with work := { s.work with launches := ls, phases := ps } } ∧ (s.split u).2.1 = { u with stat := st } := by
  unfold State.split State.ensureWeight
  cases u.weight with
  | some k => exact ⟨_, _, _, rfl, rfl⟩
  | none =>
    cases (s.launch u.launchId).bind (·.holds) with
    | some k => exact ⟨_, _, _, rfl, rfl⟩
    | none => exact ⟨_, _, _, rfl, rfl⟩

/-! ## The start of a copy or a merge (R214, R215) -/

/-- What the start of an operation leaves: its token is pending, the operation has moved no byte, and its first burst is due. -/
structure State.Starts (s : State) (i : Instr) (r : SlotRef) (u : Ctx) (kind : OpKind) (counter : Option Word) (t : State) (v : Ctx)
    (o : Op) : Prop where
  unit    : t.unitAt r = some v
  pc      : v.pc = npcOf i u
  pend    : v.pend = NSet.insert u.pend i.fields.a.toNat
  regs    : v.regs = u.regs
  rows    : v.rows = u.rows
  ops     : t.work.ops = s.work.ops ++ [o]
  kind    : o.kind = kind
  id      : o.id = s.serial
  owner   : o.unit = u.key
  token   : o.token = i.fields.a.toNat
  done    : o.done = 0
  counter : o.counter = counter
  weight  : o.weight.isSome = i.fields.imm.getLsbD 7
  stop    : o.stop = none
  dead    : o.dead = false
  store   : t.store = s.store
  due     : ∃ due, s.ck < due ∧ (due, Instr.copyBurst o.id) ∈ t.agenda

/-- An event that is due at a free time after the present ck. -/
theorem State.due_scheduleFree (s : State) (j : Instr) : ∃ due, s.ck < due ∧ (due, j) ∈ (s.scheduleFree 1 j).agenda :=
  ⟨s.ck + 1 + Config.latency s.freeCtr, by omega, List.mem_append_right _ (List.mem_singleton_self _)⟩

/-- The counter that an operation of a kind adds to at its end. -/
def counterOf (f : Fields) (u : Ctx) (kind : OpKind) : Option Word :=
  if f.e = 0xFF || (match kind with
    | .merge .. => true
    | _ => false) then none else some (u.reg f.e.toNat)

theorem counterOf_merge {a b c : Word} {na nb ty k l : Nat} {bs : List Byte} :
    counterOf f u (.merge a b c na nb ty k l bs) = none := if_pos (Bool.or_true _)

/-- Every other kind adds to the counter that its fifth operand names. -/
theorem counterOf_copy (hk : ∀ a b c na nb ty k l bs, kind ≠ .merge a b c na nb ty k l bs) :
    counterOf f u kind = if f.e = 0xFF then none else some (u.reg f.e.toNat) := by
  cases kind with
  | merge a b c na nb ty k l bs => exact (hk a b c na nb ty k l bs rfl).elim
  | _ => simp [counterOf]

/-- A copy starts one operation, with a part of the unit's weight when bit 7 of IMM8 is set and the unit need not borrow. -/
theorem startCopy_starts (h : Issues s i r u) {body : Env → Ctx → State → Res}
    (hb : body (envOf i r u) u.begun s.begun = s.begun.startCopy (envOf i r u) u.begun kind)
    (hw : i.fields.imm.getLsbD 7 = false ∨ s.mustBorrow u = false) :
    ∃ t v o, issueInstr i body s = .next t ∧ s.Starts i r u kind (counterOf i.fields u kind) t v o := by
  cases hsplit : i.fields.imm.getLsbD 7 with
  | false =>
    have hgo := hb.trans (if_neg (Bool.eq_false_iff.mp hsplit))
    exact ⟨_, _, _, issueInstr_ok h hgo, State.unitAt_putUnit _ _ _, rfl, rfl, rfl, rfl, rfl, rfl, rfl, rfl, rfl, rfl, rfl, hsplit.symm,
      rfl, rfl, rfl, State.due_scheduleFree s _⟩
  | true =>
    have hborrow : s.begun.mustBorrow u.begun = false := hw.resolve_left (by simp [hsplit])
    obtain ⟨ls, ps, st, hs, hu⟩ := State.split_frame s.begun u.begun
    have hgo := hb.trans ((if_pos hsplit).trans (if_neg (Bool.eq_false_iff.mp hborrow)))
    dsimp only at hgo
    rw [hs, hu] at hgo
    exact ⟨_, _, _, issueInstr_ok h hgo, State.unitAt_putUnit _ _ _, rfl, rfl, rfl, rfl, rfl, rfl, rfl, rfl, rfl, rfl, rfl, hsplit.symm,
      rfl, rfl, rfl, State.due_scheduleFree s _⟩

/-- A counter operand that is absent or passes its check stops nothing. -/
theorem State.counterCheck_none (hc : i.fields.e = 0xFF ∨
    ∃ keys, s.checkAddr u (tileOf r.core) (u.reg i.fields.e.toNat) ⟨8, true, false, 8⟩ = .ok keys) :
    s.begun.counterCheck (envOf i r u) u.begun = none := by
  by_cases he : i.fields.e = 0xFF
  · exact if_pos he
  · obtain ⟨keys, hkeys⟩ := hc.resolve_left he
    refine (if_neg he).trans ?_
    have hkeys' : s.begun.checkAddr u.begun (envOf i r u).tile (u.begun.reg (envOf i r u).f.e.toNat) ⟨8, true, false, 8⟩ = .ok keys :=
      hkeys
    rw [hkeys']

section CopyInstr

variable {now : Env → Ctx → Option Word} {kindOf : Env → Ctx → OpKind} (h : Issues s i r u)
  (hc : s.begun.counterCheck (envOf i r u) u.begun = none)

include h hc

theorem copyInstr_ends {w : Word} (hn : now (envOf i r u) u.begun = some w) :
    copyInstr i now kindOf s = .next (s.completes i r u (u.begun.setReg i.fields.a.toNat w)) := by
  unfold copyInstr
  refine issueInstr_completes h ?_
  simp only [hc, hn]
  rfl

theorem copyInstr_starts (hn : now (envOf i r u) u.begun = none) (hw : i.fields.imm.getLsbD 7 = false ∨ s.mustBorrow u = false) :
    ∃ t v o, copyInstr i now kindOf s = .next t ∧
      s.Starts i r u (kindOf (envOf i r u) u.begun) (counterOf i.fields u (kindOf (envOf i r u) u.begun)) t v o := by
  unfold copyInstr
  refine startCopy_starts h ?_ hw
  simp only [hc, hn]

end CopyInstr

/-- The lengths that end a copy at issue. -/
theorem lengthNow_zero (hn : u.reg i.fields.d.toNat = 0) : lengthNow (envOf i r u) u.begun = some 0 := by
  have hn' : u.begun.reg (envOf i r u).f.d.toNat = 0 := hn
  simp [lengthNow, hn']

theorem lengthNow_long (hn : 2 ^ 40 ≤ (u.reg i.fields.d.toNat).toNat) : lengthNow (envOf i r u) u.begun = some (errToken 7 0) := if_pos hn

theorem lengthNow_fits (hn : u.reg i.fields.d.toNat ≠ 0) (hlt : (u.reg i.fields.d.toNat).toNat < 2 ^ 40) :
    lengthNow (envOf i r u) u.begun = none :=
  (if_neg (Nat.not_le.mpr hlt)).trans (if_neg fun h0 => hn (BitVec.eq_of_toNat_eq h0))

/-- A copy by length, as `cp` and `cp.fill` are. -/
theorem copyInstr_sized {kindOf : Env → Ctx → OpKind} (hx : exec i s = copyInstr i lengthNow kindOf s) (h : Issues s i r u)
    (hc : s.begun.counterCheck (envOf i r u) u.begun = none) :
    (u.reg i.fields.d.toNat = 0 → exec i s = .next (s.completes i r u (u.begun.setReg i.fields.a.toNat 0))) ∧
    (2 ^ 40 ≤ (u.reg i.fields.d.toNat).toNat →
      exec i s = .next (s.completes i r u (u.begun.setReg i.fields.a.toNat (errToken 7 0)))) ∧
    (u.reg i.fields.d.toNat ≠ 0 → (u.reg i.fields.d.toNat).toNat < 2 ^ 40 →
      i.fields.imm.getLsbD 7 = false ∨ s.mustBorrow u = false → ∃ t v o, exec i s = .next t ∧
        s.Starts i r u (kindOf (envOf i r u) u.begun) (counterOf i.fields u (kindOf (envOf i r u) u.begun)) t v o) := by
  rw [hx]
  exact ⟨fun hn => copyInstr_ends h hc (lengthNow_zero hn), fun hn => copyInstr_ends h hc (lengthNow_long hn),
    fun hn hlt hw => copyInstr_starts h hc (lengthNow_fits hn hlt) hw⟩

/-- A copy by element lists, as `cp.gth` and `cp.sct` are. -/
theorem copyInstr_elements {kindOf : Env → Ctx → OpKind} (hx : exec i s = copyInstr i elementNow kindOf s) (h : Issues s i r u)
    (hc : s.begun.counterCheck (envOf i r u) u.begun = none) :
    (12 < i.fields.imm.toNat % 16 → exec i s = .next (s.completes i r u (u.begun.setReg i.fields.a.toNat (errToken 7 0)))) ∧
    (i.fields.imm.toNat % 16 ≤ 12 → i.fields.imm.getLsbD 7 = false ∨ s.mustBorrow u = false → ∃ t v o, exec i s = .next t ∧
      s.Starts i r u (kindOf (envOf i r u) u.begun) (counterOf i.fields u (kindOf (envOf i r u) u.begun)) t v o) := by
  rw [hx]
  exact ⟨fun hn => copyInstr_ends h hc (if_pos hn), fun hn hw => copyInstr_starts h hc (if_neg (Nat.not_lt.mpr hn)) hw⟩

/-! ## `cp.slab` and `smerge` (R218, R221) -/

section Slab

variable (h : Issues s (.cpSlab f) r u) (hc : s.begun.counterCheck (envOf (.cpSlab f) r u) u.begun = none)

include h hc

/-- A destination that is neither local nor shared traps. -/
theorem execCpSlab_traps (h1 : s.apertureOf u (tileOf r.core) (u.reg f.b.toNat) ≠ 1)
    (h2 : s.apertureOf u (tileOf r.core) (u.reg f.b.toNat) ≠ 2) :
    exec (.cpSlab f) s = .next (s.begun.trapsAt r u (apertureTrap (u.reg f.b.toNat) 0)) := by
  unfold exec execCpSlab
  refine issueInstr_traps (t := s.begun) h ?_
  dsimp only
  rw [hc, ← accTrap_aperture]
  exact if_pos ⟨h1, h2⟩

variable (hcode : s.apertureOf u (tileOf r.core) (u.reg f.b.toNat) = 1 ∨ s.apertureOf u (tileOf r.core) (u.reg f.b.toNat) = 2)

include hcode

theorem execCpSlab_ends (hok : slabOk (u.reg f.d.toNat) = false) :
    exec (.cpSlab f) s = .next (s.completes (.cpSlab f) r u (u.begun.setReg f.a.toNat (errToken 7 0))) := by
  unfold exec execCpSlab
  refine issueInstr_completes h ?_
  dsimp only
  rw [hc]
  refine (if_neg ?_).trans (if_pos ?_)
  · exact fun hne => hcode.elim hne.1 hne.2
  · exact Bool.not_eq_true' _ ▸ hok

theorem execCpSlab_starts (hok : slabOk (u.reg f.d.toNat) = true) (hw : f.imm.getLsbD 7 = false ∨ s.mustBorrow u = false) :
    let p := u.reg f.d.toNat
    let kind : OpKind := .slab ((u.reg f.b.toNat).extractLsb' 0 20).toNat (u.reg f.c.toNat) (f.imm.getLsbD 0)
      ((p.extractLsb' 48 16).toNat + 1) (p.extractLsb' 0 21).toNat (p.extractLsb' 32 3).toNat (p.extractLsb' 36 2).toNat
      (p.extractLsb' 40 3).toNat (p.extractLsb' 44 2).toNat
    ∃ t v o, exec (.cpSlab f) s = .next t ∧ s.Starts (.cpSlab f) r u kind (counterOf f u kind) t v o := by
  intro p kind
  unfold exec execCpSlab
  refine startCopy_starts (i := .cpSlab f) h ?_ hw
  dsimp only
  rw [hc]
  refine (if_neg ?_).trans (if_neg ?_)
  · exact fun hne => hcode.elim hne.1 hne.2
  · intro hbad
    exact Bool.noConfusion (hok.symm.trans (Bool.not_eq_true' _ ▸ hbad))

end Slab

theorem execSmerge_ends (h : Issues s (.smerge f) r u) (hn : u.reg f.e.toNat = 0) :
    exec (.smerge f) s = .next (s.completes (.smerge f) r u (u.begun.setReg f.a.toNat 0)) := by
  unfold exec execSmerge
  exact issueInstr_completes h (if_pos hn)

theorem execSmerge_starts (h : Issues s (.smerge f) r u) (hn : u.reg f.e.toNat ≠ 0)
    (hw : f.imm.getLsbD 7 = false ∨ s.mustBorrow u = false) :
    let kind : OpKind := .merge (u.reg f.b.toNat) (u.reg f.c.toNat) (u.reg f.d.toNat)
      ((u.reg f.e.toNat).extractLsb' 0 32).toNat ((u.reg f.e.toNat).extractLsb' 32 32).toNat f.ty.toNat 0 0 []
    ∃ t v o, exec (.smerge f) s = .next t ∧ s.Starts (.smerge f) r u kind (counterOf f u kind) t v o := by
  intro kind
  unfold exec execSmerge
  refine startCopy_starts (i := .smerge f) h ?_ hw
  exact if_neg hn

end Sys2Proof.Machine

open Sys2Proof Sys2Proof.Machine

/-- Settles O40: the copies and `smerge` start one operation on their token, or end at once. -/
theorem copiesStartAnOperation : Obligations.CopiesStartAnOperation := by
  intro s r u f a b c n counts starts ends counter bad sized elements x0 y0 x1 y1 code
  have hstarts (i : Instr) (hi : i.fields = f) (kind : OpKind) {k k' : Option Word} (hk : k = k')
      (h : f.imm.getLsbD 7 = false ∨ s.mustBorrow u = false → ∃ t v o, exec i s = .next t ∧ s.Starts i r u kind k t v o) :
      starts i kind k' := by
    intro hw
    subst hi hk
    obtain ⟨t, v, o, hx, hunit, hpc, hpend, hregs, hrows, hops, hkind, hid, howner, htoken, hdone, hcounter, hweight, hstop, hdead,
      hstore, hdue⟩ := h hw
    exact ⟨t, v, o, hx, hunit, hpc, hpend, hregs, hrows, hops, hkind, hid, howner, htoken, hdone, hcounter, hweight, hstop, hdead, hstore,
      hdue⟩
  refine ⟨?cp, ?fill, ?gth, ?sct, ?slab, ?merge⟩
  case cp =>
    intro hi hc
    obtain ⟨h0, hlong, hgo⟩ := copyInstr_sized (i := .cp f) rfl hi (State.counterCheck_none hc)
    exact ⟨h0, hlong, fun hn hlt => hstarts (.cp f) rfl (.copy a b c.toNat) (counterOf_copy (by simp)) fun hw => hgo hn hlt hw⟩
  case fill =>
    intro hi hc
    obtain ⟨h0, hlong, hgo⟩ := copyInstr_sized (i := .cpFill f) rfl hi (State.counterCheck_none hc)
    exact ⟨h0, hlong, fun hn hlt => hstarts (.cpFill f) rfl (.fill a c.toNat b) (counterOf_copy (by simp)) fun hw => hgo hn hlt hw⟩
  case gth =>
    intro hi hc
    obtain ⟨hbig, hgo⟩ := copyInstr_elements (i := .cpGth f) rfl hi (State.counterCheck_none hc)
    exact ⟨hbig, fun hn => hstarts (.cpGth f) rfl (.gather false a b c (f.imm.toNat % 16) none 0) (counterOf_copy (by simp))
      fun hw => hgo hn hw⟩
  case sct =>
    intro hi hc
    obtain ⟨hbig, hgo⟩ := copyInstr_elements (i := .cpSct f) rfl hi (State.counterCheck_none hc)
    exact ⟨hbig, fun hn => hstarts (.cpSct f) rfl (.gather true a b c (f.imm.toNat % 16) none 0) (counterOf_copy (by simp))
      fun hw => hgo hn hw⟩
  case slab =>
    intro hi hc
    have hcheck := State.counterCheck_none (i := .cpSlab f) hc
    exact ⟨fun h1 h2 => execCpSlab_traps hi hcheck h1 h2, fun hcode hok => execCpSlab_ends hi hcheck hcode hok,
      fun hcode hok => hstarts (.cpSlab f) rfl _ (counterOf_copy (by simp)) fun hw => execCpSlab_starts hi hcheck hcode hok hw⟩
  case merge =>
    intro hi
    exact ⟨fun hn => execSmerge_ends hi hn, fun hn => hstarts (.smerge f) rfl _ counterOf_merge fun hw => execSmerge_starts hi hn hw⟩
end

section
/-!
Tokens, windows and the issue of collectives (R222 to R228).
-/
namespace Sys2Proof.Machine

open Sys2Proof

variable {s t x : State} {r : SlotRef} {u v : Ctx} {f : Fields} {i : Instr} {e : Env}

/-! ## What leaves the issuing slot alone -/

/-- Once no slot is issuing, an instruction's own effect starts from the state as it is. -/
theorem State.begun_of_issuing (h : s.issuing = none) : s.begun = s := by
  cases s
  exact congrArg (State.mk _ _ _ _ _ _ · _ _ _) h.symm

theorem foldl_issuing {α : Type} {g : State → α → State} (hg : ∀ s a, (g s a).issuing = s.issuing) (l : List α) (s : State) :
    (l.foldl g s).issuing = s.issuing := by
  induction l generalizing s with
  | nil => rfl
  | cons a l ih => exact (ih _).trans (hg s a)

theorem State.modUnit_issuing (s : State) (key : Nat) (g : Ctx → Ctx) : (s.modUnit key g).issuing = s.issuing := by
  unfold State.modUnit
  split <;> rfl

theorem State.wakeArrays_issuing (s : State) (p : Wait → Bool) : (s.wakeArrays p).issuing = s.issuing := by
  refine foldl_issuing (fun s e => ?_) _ _
  dsimp only
  split <;> split <;> rfl

theorem State.releaseWindow_issuing (s : State) (tile w : Nat) (pass : Bool) : (s.releaseWindow tile w pass).issuing = s.issuing := by
  unfold State.releaseWindow
  dsimp only
  rw [State.wakeArrays_issuing, foldl_issuing, foldl_issuing]
  · intro s e
    split
    · split
      · exact State.modUnit_issuing _ _ _
      · rfl
    · rfl
  · intro s e
    split
    · split
      · exact State.rejoin_issuing _ _
      · rfl
    · rfl

theorem State.unbindWindow_issuing (s : State) (tile w : Nat) : (s.unbindWindow tile w).issuing = s.issuing :=
  State.releaseWindow_issuing _ _ _ _

theorem State.bindWindow_issuing (s : State) (tile w lbase len : Nat) (gbase : Word) :
    (s.bindWindow tile w lbase len gbase).issuing = s.issuing := by
  refine (State.releaseWindow_issuing _ _ _ _).trans (foldl_issuing (fun s n => ?_) _ _)
  dsimp only
  split
  · exact State.unbindWindow_issuing _ _ _
  · rfl

theorem State.stopWhere_issuing (s : State) (p : Op → Bool) (m : Mark) : (s.stopWhere p m).issuing = s.issuing :=
  foldl_issuing (g := fun s (o : Op) => s.scheduleFree 1 (.copyBurst o.id)) (fun _ _ => rfl) _ _

/-- An instruction that completes with an effect on the machine besides its own context. -/
theorem issueInstr_acts (h : Issues s i r u) {body : Env → Ctx → State → Res} (hb : body (envOf i r u) u.begun s.begun = .ok t v)
    (ht : t.issuing = s.begun.issuing) : issueInstr i body s = .next (t.completes i r u v) := by
  have hbegun : t.begun = t := State.begun_of_issuing ht
  rw [State.completes, hbegun]
  exact issueInstr_ok h hb

/-! ## Tokens (R222) -/

theorem execTokTest_completes (h : Issues s (.tokTest f) r u) : exec (.tokTest f) s =
    .next (s.completes (.tokTest f) r u (u.begun.setGuard f.a.toNat !(u.pend.contains f.b.toNat))) := by
  unfold exec execTokTest
  exact issueInstr_completes h rfl

theorem execTokCancel_of_clear (h : Issues s (.tokCancel f) r u) (hp : u.pend.contains f.b.toNat = false) :
    exec (.tokCancel f) s = .next (s.completes (.tokCancel f) r u u.begun) := by
  unfold exec execTokCancel
  exact issueInstr_completes h (if_neg (Bool.eq_false_iff.mp hp))

theorem execTokCancel_of_pending (h : Issues s (.tokCancel f) r u) (hp : u.pend.contains f.b.toNat = true) : exec (.tokCancel f) s =
    .next ((s.begun.stopWhere (fun o => o.cancels u.key f.b.toNat) .none).completes (.tokCancel f) r u u.begun) := by
  unfold exec execTokCancel
  exact issueInstr_acts h (if_pos hp) (State.stopWhere_issuing _ _ _)

/-- What `tok.cancel` stops is stoppable in any case. -/
theorem Op.stoppable_and_cancels (o : Op) (unit reg : Nat) : (o.kind.stoppable && o.cancels unit reg) =
    (o.kind.stoppable && (decide (o.unit = unit) && decide (o.token = reg))) := by
  unfold Op.cancels
  cases o.kind.stoppable <;> simp

/-! ## Windows (R223 to R227) -/

/-- The local offset of a window, a multiple of a line. -/
theorem windowBase_eq (b : Word) : (b.extractLsb' 7 13).toNat * 128 = b.toNat % 2 ^ 20 / 128 * 128 := by
  rw [BitVec.extractLsb'_toNat, Nat.shiftRight_eq_div_pow]
  omega

theorem lineOf_global (g : Word) : g &&& ~~~(127#64) = BitVec.ofNat 64 (g.toNat / 128 * 128) := by
  exact and_not_lowBits_eq_div_mul g 7 (by decide)

section WinBind

variable (h : Issues s (.winBind f) r u) (hb : s.apertureOf u (tileOf r.core) (u.reg f.b.toNat) = 1)
  (hg : s.apertureOf u (tileOf r.core) (u.reg f.c.toNat) = 0)
  (hfit : (u.reg f.b.toNat).toNat % 2 ^ 20 / 128 * 128 + ((u.reg f.d.toNat).toNat + 127) / 128 * 128 ≤ 2 ^ 20)

include h hb hg hfit

theorem execWinBind_unbinds (hn : (u.reg f.d.toNat).toNat = 0) : exec (.winBind f) s =
    .next ((s.begun.unbindWindow (tileOf r.core) f.a.toNat).completes (.winBind f) r u u.begun) := by
  rw [← windowBase_eq] at hfit
  unfold exec execWinBind
  exact issueInstr_acts h ((if_neg (not_not_intro hb)).trans ((if_neg (not_not_intro hg)).trans
    ((if_neg (Nat.not_lt.mpr hfit)).trans (if_pos hn)))) (State.unbindWindow_issuing _ _ _)

theorem execWinBind_binds (hn : (u.reg f.d.toNat).toNat ≠ 0) : exec (.winBind f) s =
    .next ((s.begun.bindWindow (tileOf r.core) f.a.toNat ((u.reg f.b.toNat).toNat % 2 ^ 20 / 128 * 128)
      (((u.reg f.d.toNat).toNat + 127) / 128 * 128) (BitVec.ofNat 64 ((u.reg f.c.toNat).toNat / 128 * 128))).completes (.winBind f) r u
      u.begun) := by
  rw [← windowBase_eq] at hfit ⊢
  rw [← lineOf_global]
  unfold exec execWinBind
  exact issueInstr_acts h ((if_neg (not_not_intro hb)).trans ((if_neg (not_not_intro hg)).trans
    ((if_neg (Nat.not_lt.mpr hfit)).trans (if_neg hn)))) (State.bindWindow_issuing _ _ _ _ _ _)

end WinBind

/-- What `win.mark` makes of the tile's window. -/
theorem execWinMark_of_issues (h : Issues s (.winMark f) r u) {x : Window} (hx : s.windowAt (tileOf r.core) f.a.toNat = x) :
    (x.state = 3 ∨ x.code ≠ 0 → exec (.winMark f) s =
      .next ((s.begun.setWindow (tileOf r.core) f.a.toNat { x with state := 1, code := 0 }).completes (.winMark f) r u u.begun)) ∧
    (x.state = 2 → x.code = 0 → exec (.winMark f) s =
      .next ((s.begun.setWindow (tileOf r.core) f.a.toNat { x with mark := true }).completes (.winMark f) r u u.begun)) ∧
    (x.state ≠ 3 → x.code = 0 → x.state ≠ 2 → exec (.winMark f) s = .next (s.begun.completes (.winMark f) r u u.begun)) := by
  subst hx
  unfold exec execWinMark
  refine ⟨fun h3 => issueInstr_ok h (if_pos h3), fun h2 hc => issueInstr_ok h ((if_neg ?_).trans (if_pos h2)),
    fun h3 hc h2 => issueInstr_ok h ((if_neg ?_).trans (if_neg h2))⟩
  · exact fun hor => hor.elim (fun h3 => absurd (h3.symm.trans h2) (by decide)) fun hne => hne hc
  · exact fun hor => hor.elim h3 fun hne => hne hc

theorem execWinDrop_unbinds (h : Issues s (.winDrop f) r u) : exec (.winDrop f) s =
    .next ((s.begun.unbindWindow (tileOf r.core) f.a.toNat).completes (.winDrop f) r u u.begun) := by
  unfold exec execWinDrop
  exact issueInstr_acts h rfl (State.unbindWindow_issuing _ _ _)

theorem execWinQ_completes (h : Issues s (.winQ f) r u) {y : Window} (hy : s.windowAt (tileOf r.core) f.b.toNat = y) :
    exec (.winQ f) s = .next (s.completes (.winQ f) r u (u.begun.setReg f.a.toNat (BitVec.ofNat 64
      (y.code * 256 + y.mark.toNat * 8 + (if y.code = 0 then 0 else 4) + y.state)))) := by
  subst hy
  unfold exec execWinQ
  exact issueInstr_completes h rfl

/-! ## Collectives join their scope (R228) -/

/-- The scope that a collective's fields name. -/
theorem collScope_eq (u : Ctx) (f : Fields) (tile : Nat) : collScope u f tile =
    if f.scope = 6 then 6 * 2 ^ 40 + (u.reg f.e.toNat).toNat % 2 ^ 32 else if f.scope = 1 then 2 ^ 40 + tile
    else if f.scope = 2 then 2 * 2 ^ 40 + pcluOf tile else if f.scope = 3 then 3 * 2 ^ 40 + dieOf tile else 4 * 2 ^ 40 := by
  unfold collScope
  have hlow : ((u.reg f.e.toNat).extractLsb' 0 32).toNat = (u.reg f.e.toNat).toNat % 2 ^ 32 := by
    rw [BitVec.extractLsb'_toNat, Nat.shiftRight_zero]
  rw [hlow]
  have hc : f.scope ∈ [0, 1, 2, 3, 4, 5, 6, 7] := by
    generalize f.scope = c
    revert c
    decide
  simp only [List.mem_cons, List.not_mem_nil, or_false] at hc
  rcases hc with hc | hc | hc | hc | hc | hc | hc | hc <;> simp only [hc] <;> rfl

theorem State.findOp_append {o : Op} (hs : s.findOp o.id = none) (ht : t.work.ops = s.work.ops ++ [o]) :
    t.findOp o.id = some o := by
  have hnone : s.work.ops.find? (fun x => decide (x.id = o.id)) = none := hs
  unfold State.findOp
  rw [ht, List.find?_append, hnone]
  simp

/-- What a collective leaves when it issues. -/
structure State.JoinsScope (s : State) (i : Instr) (r : SlotRef) (u : Ctx) (scope : Nat) (kind : OpKind) (t : State) (v : Ctx) (o : Op) :
    Prop where
  unit   : t.unitAt r = some v
  pc     : v.pc = npcOf i u
  pend   : v.pend = NSet.insert u.pend i.fields.a.toNat
  colls  : v.colls = FMap.set 0 u.colls scope (FMap.get 0 u.colls scope + 1)
  regs   : v.regs = u.regs
  ops    : t.work.ops = s.work.ops ++ [o]
  kind   : o.kind = kind
  token  : o.token = i.fields.a.toNat
  owner  : o.unit = u.key
  weight : o.weight = none
  store  : t.store = s.store
  due    : ({ s.begun with work := { s.work with ops := s.work.ops ++ [o] } }.joined o).length =
      { s.begun with work := { s.work with ops := s.work.ops ++ [o] } }.participants o scope →
    ∃ due, s.ck < due ∧ (due, Instr.collectiveComplete o.id) ∈ t.agenda

/-- The operation kind of a collective. -/
def collKind (u : Ctx) (f : Fields) (fn scope : Nat) : OpKind :=
  .coll fn (f.imm.toNat % 8) f.ty.toNat scope (u.reg f.b.toNat) (u.reg f.c.toNat) (u.reg f.d.toNat).toNat (FMap.get 0 u.colls scope)

/-- The operation that an instruction starts. -/
def State.newOp (s : State) (e : Env) (u : Ctx) (kind : OpKind) (counter : Option Word) (cb : Bool) (weight : Option Nat) : Op :=
  { id := s.serial, tile := e.tile, core := e.core, unit := u.key, uid := u.uid, geo := u.geo, job := u.job, launch := u.launch,
    phase := u.phase, tag := (s.who e.core u).tag, pc := u.pc, token := e.f.a.toNat, kind := kind, done := 0, counter := counter,
    cb := cb, weight := weight, stop := none, code := 0, dead := false, waits := none, passed := [], moved := none }

theorem State.startOp_eq (kind : OpKind) (counter : Option Word) (cb : Bool) (weight : Option Nat) :
    s.startOp e u kind counter cb weight =
      ({ s with serial := s.serial + 1, work := { s.work with ops := s.work.ops ++ [s.newOp e u kind counter cb weight] } },
        { u with pend := NSet.insert u.pend e.f.a.toNat }, (s.newOp e u kind counter cb weight).id) := rfl

/-- The context in which a collective starts: the next number of its scope is taken. -/
def Ctx.atScope (u : Ctx) (scope : Nat) : Ctx := { u with colls := FMap.set 0 u.colls scope (FMap.get 0 u.colls scope + 1) }

/-- A collective starts an operation that joins its scope, and is performed once every participant has issued. -/
theorem collInstr_joins {fn scope : Nat} (h : Issues s i r u) (ht : scopeTrap u i.fields = none) (hf : s.findOp s.serial = none)
    (hscope : collScope u i.fields (tileOf r.core) = scope) : ∃ t v o, collInstr i fn s = .next t ∧
      s.JoinsScope i r u scope (collKind u i.fields fn scope) t v o := by
  subst hscope
  let scope := collScope u i.fields (tileOf r.core)
  let o := s.begun.newOp (envOf i r u) (u.begun.atScope scope) (collKind u i.fields fn scope) none false none
  let z : State := { s.begun with serial := s.serial + 1, work := { s.work with ops := s.work.ops ++ [o] } }
  have hfound : z.findOp o.id = some o := State.findOp_append (s := s) hf rfl
  have hbody {y : Res} (hy : (if (z.joined o).length = z.participants o scope then
      .ok (z.scheduleFree 1 (.collectiveComplete o.id)) { u.begun.atScope scope with pend := NSet.insert u.pend i.fields.a.toNat }
      else .ok z { u.begun.atScope scope with pend := NSet.insert u.pend i.fields.a.toNat }) = y) :
      collInstr i fn s = .next (finish i (envOf i r u) u.begun y) := by
    subst hy
    unfold collInstr
    refine issueInstr_of_body h ?_
    have ht' : scopeTrap u.begun (envOf i r u).f = none := ht
    dsimp only
    rw [ht']
    dsimp only
    split
    · next p hp =>
      obtain rfl : p = o := Option.some.inj (hp.symm.trans hfound)
      rfl
    · next hp => exact absurd (hp.symm.trans hfound) (by simp)
  by_cases hall : (z.joined o).length = z.participants o scope
  · exact ⟨_, _, o, hbody (if_pos hall), State.unitAt_putUnit _ _ _, rfl, rfl, rfl, rfl, rfl, rfl, rfl, rfl, rfl, rfl,
      fun _ => State.due_scheduleFree s _⟩
  · exact ⟨_, _, o, hbody (if_neg hall), State.unitAt_putUnit _ _ _, rfl, rfl, rfl, rfl, rfl, rfl, rfl, rfl, rfl, rfl,
      fun hj => absurd hj hall⟩

end Sys2Proof.Machine

open Sys2Proof Sys2Proof.Machine

/-- Settles O42: token tests and stops, windows, and collectives that join their scope. -/
theorem tokensWindowsAndCollectives : Obligations.TokensWindowsAndCollectives := by
  refine ⟨fun s r u f => ⟨fun hi => execTokTest_completes hi, fun hi hp => execTokCancel_of_clear hi hp, ?cancel, ?bind,
    fun hi => execWinMark_of_issues hi rfl, fun hi => execWinDrop_unbinds hi, fun hi => execWinQ_completes hi rfl⟩, ?coll⟩
  case cancel =>
    intro hi hp hit stop stopped
    have hx := execTokCancel_of_pending hi hp
    simp only [State.stopWhere, Op.stoppable_and_cancels] at hx
    exact hx
  case bind =>
    intro hi hb hg hfit
    refine ⟨fun hn => execWinBind_unbinds hi hb hg hfit hn, fun hn => execWinBind_binds hi hb hg hfit hn⟩
  case coll =>
    intro s r u f tile scope n coll
    have hcoll (i : Instr) (hf : i.fields = f) (fn : Nat) (hx : exec i s = collInstr i fn s) : coll i fn := by
      subst hf
      intro hi ht hfree
      obtain ⟨t, v, o, hexec, hunit, hpc, hpend, hcolls, hregs, hops, hkind, htoken, howner, hweight, hstore, hdue⟩ :=
        collInstr_joins (fn := fn) hi ht hfree (collScope_eq _ _ _)
      exact ⟨t, v, o, hx.trans hexec, hunit, hpc, hpend, hcolls, hregs, hops, hkind, htoken, howner, hweight, hstore, hdue⟩
    exact ⟨hcoll (.collRed f) rfl 0 rfl, hcoll (.collBc f) rfl 1 rfl, hcoll (.collAg f) rfl 2 rfl⟩
end

section
/-!
Message instructions (R68, R69, R230, R231).
-/
namespace Sys2Proof.Machine

open Sys2Proof

variable {s t x : State} {r : SlotRef} {u v : Ctx} {f : Fields} {i : Instr} {e : Env}

/-! ## `msg.send` (R230) -/

theorem execMsgSend_ends (h : Issues s (.msgSend f) r u)
    (hok : (messageOk u (u.reg f.b.toNat) (u.reg f.d.toNat).toNat && (s.teamTile u (tileOf r.core)
      ((u.reg f.b.toNat).extractLsb' 0 7).toNat ((u.reg f.b.toNat).extractLsb' 8 6).toNat).isSome) = false) :
    exec (.msgSend f) s = .next (s.completes (.msgSend f) r u (u.begun.setReg f.a.toNat (errToken 7 0))) := by
  unfold exec execMsgSend
  exact issueInstr_completes h (if_pos ((Bool.not_eq_true' _).mpr hok))

/-- An operation of a message starts with a part of its unit's weight. -/
def State.sends (s : State) (e : Env) (u : Ctx) (kind : OpKind) : Res :=
  .ok (((s.split u).1.startOp e (s.split u).2.1 kind none false (some (s.split u).2.2)).1.scheduleFree 1
    (.messageQueued ((s.split u).1.startOp e (s.split u).2.1 kind none false (some (s.split u).2.2)).2.2))
    ((s.split u).1.startOp e (s.split u).2.1 kind none false (some (s.split u).2.2)).2.1

/-- A message starts on its way with a part of its sender's weight. -/
theorem execMsgSend_starts (h : Issues s (.msgSend f) r u)
    (hok : (messageOk u (u.reg f.b.toNat) (u.reg f.d.toNat).toNat && (s.teamTile u (tileOf r.core)
      ((u.reg f.b.toNat).extractLsb' 0 7).toNat ((u.reg f.b.toNat).extractLsb' 8 6).toNat).isSome) = true)
    (hw : s.mustBorrow u = false) : ∃ t v o, exec (.msgSend f) s = .next t ∧ t.unitAt r = some v ∧ v.pc = npcOf (.msgSend f) u ∧
      v.pend = NSet.insert u.pend f.a.toNat ∧ v.regs = u.regs ∧ t.work.ops = s.work.ops ++ [o] ∧
      o.kind = .message (u.reg f.b.toNat) (u.reg f.c.toNat) (u.reg f.d.toNat).toNat none ∧ o.token = f.a.toNat ∧
      o.weight.isSome = true ∧ t.store = s.store ∧ ∃ due, s.ck < due ∧ (due, Instr.messageQueued o.id) ∈ t.agenda := by
  obtain ⟨ls, ps, st, hs, hu⟩ := State.split_frame s.begun u.begun
  have hx : exec (.msgSend f) s = .next (finish (.msgSend f) (envOf (.msgSend f) r u) u.begun
      (s.begun.sends (envOf (.msgSend f) r u) u.begun (.message (u.reg f.b.toNat) (u.reg f.c.toNat) (u.reg f.d.toNat).toNat none))) := by
    unfold exec execMsgSend
    refine issueInstr_of_body h ((if_neg fun hbad => ?_).trans (if_neg (Bool.eq_false_iff.mp hw)))
    exact Bool.noConfusion (hok.symm.trans ((Bool.not_eq_true' _).mp hbad))
  unfold State.sends at hx
  rw [hs, hu] at hx
  exact ⟨_, _, _, hx, State.unitAt_putUnit _ _ _, rfl, rfl, rfl, rfl, rfl, rfl, rfl, rfl, State.due_scheduleFree s _⟩

/-! ## `msg.bind` (R231, R68) -/

theorem execMsgBind_binds (h : Issues s (.msgBind f) r u) (hc : f.a.toNat < 7) : exec (.msgBind f) s =
    .next ((s.begun.modFab fun m => { m with binds := FMap.set none m.binds (8 * r.core + f.a.toNat) (some u.key) }).completes
      (.msgBind f) r u (if s.queued r.core f.a.toNat then { u.begun with arrival := true } else u.begun)) := by
  unfold exec execMsgBind
  exact issueInstr_ok h (if_neg (Nat.not_le.mpr hc))

/-- A class above 6 is no class that `msg.bind` accepts. -/
theorem checkFields_msgBind {p : Part} (hc : 7 ≤ f.a.toNat) : checkFields p (.msgBind f) = .illegal := by
  have ha : (Role.const 0 6).allows p f.a = false := by
    simp only [Role.allows, Bool.and_eq_false_iff, decide_eq_false_iff_not, Nat.not_le]
    exact Or.inr hc
  have hbad : fieldsOk (opSpec (.msgBind f)) p f = false := by
    simp only [fieldsOk, opSpec, ha, Bool.and_false, Bool.false_and]
  exact if_pos ((Bool.not_eq_true' _).mpr hbad)

theorem execMsgBind_illegal (hs : s.issuing = some r) (hu : s.unitAt r = some u) (hc : 7 ≤ f.a.toNat) :
    exec (.msgBind f) s = .next (s.begun.trapsAt r u { cause := 1, aux := firstWord (.msgBind f) }) := by
  obtain ⟨body, hx⟩ := exec_runChecked (i := .msgBind f) rfl hs hu rfl
  rw [hx, runChecked_illegal (checkFields_msgBind hc)]
  rfl

/-! ## `msg.recv` (R231) -/

/-- The state in which a message has left its queue, and its weight returns. -/
def State.afterMessage (s : State) (core cls : Nat) (m : Msg) : State :=
  match m.weight with
  | some (k, p) => (s.takeMessage core cls).returnWeight p k .none 0
  | none => s.takeMessage core cls

/-- How `msg.recv` replies once the message has left its queue. -/
def State.received (t : State) (r : SlotRef) (u : Ctx) (f : Fields) (m : Msg) : Res :=
  .reply t (if t.anyQueued r u.key then u else { u with arrival := false }) [.scalar f.a.toNat m.report] none

theorem finish_received (m : Msg) : finish (.msgRecv f) (envOf (.msgRecv f) r u) u.begun (t.received r u.begun f m) =
    t.replies (.msgRecv f) r (if t.anyQueued r u.key then u else { u with arrival := false }) [.scalar f.a.toNat m.report] none := by
  have hkey : t.anyQueued r u.begun.key = t.anyQueued r u.key := rfl
  unfold State.received
  rw [hkey]
  split <;> rfl

section Recv

variable (h : Issues s (.msgRecv f) r u)

include h

theorem execMsgRecv_unbound (hc : s.boundCores r u.key f.c.toNat = []) : exec (.msgRecv f) s =
    .next (s.completes (.msgRecv f) r u (u.begun.setReg f.a.toNat 0x8000000000000001)) := by
  unfold exec execMsgRecv
  refine issueInstr_completes h ?_
  have hc' : s.begun.boundCores (envOf (.msgRecv f) r u).ref u.begun.key (envOf (.msgRecv f) r u).f.c.toNat = [] := hc
  dsimp only
  rw [hc']
  rfl

/-- With a class bound, what `msg.recv` does depends on the first of its cores that has a message. -/
theorem execMsgRecv_of_cores (hc : s.boundCores r u.key f.c.toNat ≠ []) {y : Res}
    (hy : (match (s.boundCores r u.key f.c.toNat).find? fun core => s.queued core f.c.toNat with
      | none => .ok s.begun (u.begun.setReg f.a.toNat 0x8000000000000000)
      | some core =>
        match (s.msgsOf core).find? (·.cls = f.c.toNat) with
        | some m => s.begun.receive (envOf (.msgRecv f) r u) u.begun core f.c.toNat m
        | none => .ok s.begun (u.begun.setReg f.a.toNat 0x8000000000000000)) = y) :
    exec (.msgRecv f) s = .next (finish (.msgRecv f) (envOf (.msgRecv f) r u) u.begun y) := by
  subst hy
  unfold exec execMsgRecv
  refine issueInstr_of_body h ?_
  dsimp only
  split
  · next hnil => exact absurd hnil hc
  · rfl

theorem execMsgRecv_empty (hc : s.boundCores r u.key f.c.toNat ≠ [])
    (hq : ∀ k ∈ s.boundCores r u.key f.c.toNat, s.queued k f.c.toNat = false) : exec (.msgRecv f) s =
    .next (s.completes (.msgRecv f) r u (u.begun.setReg f.a.toNat 0x8000000000000000)) := by
  have hnone : ((s.boundCores r u.key f.c.toNat).find? fun core => s.queued core f.c.toNat) = none :=
    List.find?_eq_none.mpr fun k hk => Bool.eq_false_iff.mp (hq k hk)
  refine execMsgRecv_of_cores h hc (y := .ok s.begun (u.begun.setReg f.a.toNat 0x8000000000000000)) ?_
  rw [hnone]

variable {core : Nat} {m : Msg}
  (hcore : ((s.boundCores r u.key f.c.toNat).find? fun k => s.queued k f.c.toNat) = some core)
  (hm : (s.msgsOf core).find? (fun m => decide (m.cls = f.c.toNat)) = some m)

include hcore hm

theorem execMsgRecv_of_message : exec (.msgRecv f) s = .next (finish (.msgRecv f) (envOf (.msgRecv f) r u) u.begun
    (s.begun.receive (envOf (.msgRecv f) r u) u.begun core f.c.toNat m)) := by
  have hc : s.boundCores r u.key f.c.toNat ≠ [] := fun hnil => by simp [hnil] at hcore
  refine execMsgRecv_of_cores h hc ?_
  rw [hcore]
  dsimp only
  rw [hm]

/-- An empty message leaves its queue at once. -/
theorem execMsgRecv_takes (hp : m.payload = []) : exec (.msgRecv f) s =
    .next ((s.begun.afterMessage core f.c.toNat m).replies (.msgRecv f) r
      (if (s.begun.afterMessage core f.c.toNat m).anyQueued r u.key then u else { u with arrival := false })
      [.scalar f.a.toNat m.report] none) := by
  rw [execMsgRecv_of_message h hcore hm, ← finish_received]
  exact congrArg (fun y => Host.Outcome.next (finish (.msgRecv f) (envOf (.msgRecv f) r u) u.begun y))
    (if_pos (by rw [hp]; rfl))

/-- A message with a payload leaves its queue once the payload is stored. -/
theorem execMsgRecv_stores {keys : List Nat} (hp : m.payload ≠ [])
    (hk : s.checkAddr u (tileOf r.core) (u.reg f.b.toNat) (plainAcc m.payload.length true) = .ok keys)
    (hd : s.begun.drain u.key = .ok x) (hw : x.performWrite (x.who r.core u) 0 keys m.payload = .ok t []) :
    exec (.msgRecv f) s = .next ((t.afterMessage core f.c.toNat m).replies (.msgRecv f) r
      (if (t.afterMessage core f.c.toNat m).anyQueued r u.key then u else { u with arrival := false })
      [.scalar f.a.toNat m.report] none) := by
  rw [execMsgRecv_of_message h hcore hm, ← finish_received]
  refine congrArg (fun y => Host.Outcome.next (finish (.msgRecv f) (envOf (.msgRecv f) r u) u.begun y))
    ((if_neg (by simpa using hp)).trans ?_)
  have hk' : s.begun.checkAddr u.begun (envOf (.msgRecv f) r u).tile (u.begun.reg (envOf (.msgRecv f) r u).f.b.toNat)
    (plainAcc m.payload.length true) = .ok keys := hk
  have hw' : x.performWrite (x.who (envOf (.msgRecv f) r u).core u.begun) 0 keys m.payload = .ok t [] := hw
  rw [hk']
  refine (State.afterDrain_of_drains (s := s.begun) (u := u.begun) (need := true) hd _).trans ?_
  rw [hw']
  rfl

end Recv

end Sys2Proof.Machine

open Sys2Proof Sys2Proof.Machine

/-- Settles O43: `msg.send` starts a message, `msg.bind` binds a class, and `msg.recv` takes the oldest message. -/
theorem messageInstructions : Obligations.MessageInstructions := by
  intro s r u f b len ok c cls cores back
  refine ⟨fun hi hok => execMsgSend_ends hi hok, fun hi hok hw => execMsgSend_starts hi hok hw, fun hi hc => execMsgBind_binds hi hc,
    fun hs hu hc => execMsgBind_illegal hs hu hc, fun hi => ⟨fun hc => execMsgRecv_unbound hi hc, fun hc hq => execMsgRecv_empty hi hc hq,
    fun core m hcore hm hp => ?_, fun core m keys x t hcore hm hp hk hd hw => ?_⟩⟩
  · have hreport : m.report = BitVec.ofNat 64 (m.uid.toNat * 2 ^ 16) := by
      rw [Msg.report, hp, List.length_nil, Nat.zero_add]
    rw [← hreport]
    exact execMsgRecv_takes hi hcore hm hp
  · exact execMsgRecv_stores hi hcore hm hp hk hd hw
end

section
/-!
The end of a window fill (R225): a plane load that waits for the window.

When the window becomes PRESENT, O41 has the buffered stores of its waiters performed. The model performs the plane loads that wait for it
too, before the window takes its last state; so in the model such a load's event has no place in the agenda any more, and after O41 it has.
-/
namespace Sys2Proof.Machine

open Sys2Proof

/-- The fill of window 0 of tile 0, with every byte written and no failure. -/
def finishedFill : Op :=
  { id := 1, tile := 0, core := 2, unit := 0, uid := 0, geo := 0, job := 0, launch := 0, phase := 0, tag := 0, pc := 0, token := 0,
    kind := .window 0, done := 0, counter := none, cb := false, weight := none, stop := none, code := 0, dead := false, waits := none,
    passed := [], moved := none }

/-- The load port of core 2 waits for the window whose fill ends. -/
def portWaitsForFill : State :=
  { State.reset with
    fab := { State.reset.fab with arrays := [(2, { Array.idle with portWait := some (.window 0 0) })] }
    work := { State.reset.work with ops := [finishedFill] } }

/-- The window once the buffered stores of its waiters are performed. -/
def storesPerformed : State :=
  ((portWaitsForFill.dropOp 1).setWindow 0 0 { portWaitsForFill.windowAt 0 0 with state := 3, mark := false }).performWaiting 0 0

/-- What O41 says the end of the fill leaves. -/
def windowPresent : State :=
  (storesPerformed.setWindow 0 0 { portWaitsForFill.windowAt 0 0 with
    state := if (portWaitsForFill.windowAt 0 0).mark then 1 else 3
    mark := false }).releaseWindow 0 0 true

/-- The model schedules nothing. -/
theorem length_agenda_windowFillEnd : (match exec (.windowFillEnd 1) portWaitsForFill with
    | .next t => t.agenda.length
    | _ => 1) = 0 := by
  decide +kernel

theorem length_agenda_windowPresent : windowPresent.agenda.length = 1 := by
  decide +kernel

end Sys2Proof.Machine

open Sys2Proof Sys2Proof.Machine

/-- Refutes O41: the end of a window fill performs the plane load that waits for the window, in the same step. -/
theorem not_engineEvents : ¬ Obligations.EngineEvents := by
  intro h
  obtain ⟨hops, -⟩ := h
  obtain ⟨-, hlive⟩ := hops portWaitsForFill finishedFill rfl
  obtain ⟨-, -, -, hwindow⟩ := hlive rfl
  obtain ⟨hpresent, -⟩ := hwindow 0 rfl
  have hexec : exec (.windowFillEnd 1) portWaitsForFill = .next windowPresent := hpresent rfl
  have hlen := length_agenda_windowFillEnd
  rw [hexec] at hlen
  exact absurd (length_agenda_windowPresent.symm.trans hlen) (by decide)
end

section
/-!
Task, work and launch instructions in states that O44, O45 and O46 do not set apart (R232, R233, R238, R298).

O44 makes room in the deque before the unit's stores are performed and says nothing of a deque that has performed its operation of this ck:
a `spawn` waits for it. O45 says nothing of a `post` that has read its header before and waited to borrow: it goes on with that header. O46
leaves out that a cancelled job submits no further period of its runs.
-/
namespace Sys2Proof.Machine

open Sys2Proof

/-- Slot 1 of the X-core of tile 0. -/
def firstSlot : SlotRef := ⟨0, 1⟩

/-- A unit of job 1. -/
def plainUnit : Ctx := Ctx.fresh 1 0 0 0 0 0 1 1 1 false

/-- After start-up, with one unit that is about to issue an instruction from the first slot. -/
def unitIssues (u : Ctx) : State :=
  { State.reset with
    fab := { State.reset.fab with slots := [(1, ⟨.ready 0, none, some u⟩)] }
    issuing := some firstSlot }

/-! ## `spawn` while the deque is busy (R298) -/

/-- The deque of core 0 has performed an operation in this ck. -/
def dequeBusyState : State := (unitIssues plainUnit).modFab fun f => { f with dequeAt := [(0, 1)] }

theorem issues_spawn_dequeBusy : Issues dequeBusyState (.spawn Fields.zero) firstSlot plainUnit := by
  constructor <;> decide +kernel

/-- The unit waits for the deque. -/
theorem mode_spawn_dequeBusy : (match exec (.spawn Fields.zero) dequeBusyState with
    | .next t => (t.slotAt 1).mode
    | _ => .ready 0) = .waiting .deque 0 := by
  decide +kernel

/-! ## `post` with a header of its own (R233) -/

/-- The unit has read a header whose PC is 4, and has waited to borrow. -/
def postingUnit : Ctx := { plainUnit with posting := some 4 }.setReg 2 0xF000000000000000

/-- It posts from its scratchpad, which is empty. -/
def postFields : Fields := { Fields.zero with b := 2 }

/-- The unit is about to issue its `post` again. -/
def postState : State := unitIssues postingUnit

/-- The header of 32 bytes that its operand names. -/
def headerKeys : List Nat := (List.range 32).map (scratchKey 0 ·)

theorem issues_post : Issues postState (.post postFields) firstSlot postingUnit := by
  constructor <;> decide +kernel

/-- The state and the bytes that a read of the header gives. -/
def headerRead : Acc := postState.begun.performRead (postState.who 0 postingUnit) headerKeys 0

theorem headerRead_eq : headerRead = .ok headerRead.after (List.replicate 32 0) := by
  decide +kernel

/-- The PC of the task that a slot's unit waits to post. -/
def SlotMode.taskPc (m : SlotMode) : Word :=
  match m with
  | .waiting (.segmentFull _ t _) _ => t.pc
  | _ => 0

/-- The header names no frame. -/
theorem frame_headerRead : BitVec.ofNat 64
    (natOfBytes (headerRead.after.forwarded postingUnit.key headerKeys (List.replicate 32 0)) / 2 ^ 64) = (0 : Word) := by
  decide +kernel

theorem taskPc_post : (match exec (.post postFields) postState with
    | .next t => (t.slotAt 1).mode.taskPc
    | _ => 0) = 4 := by
  decide +kernel

/-! ## A job is cancelled that submits periods (R238, R352) -/

/-- `cancel` of a job. -/
def jobFields : Fields := { Fields.zero with fn := 3 }

/-- A cancel of job 1 waits for the end of the ck; the job has a run of periods, and no launch. -/
def cancelState : State := (unitIssues plainUnit).modWork fun w => { w with
  late := [.cancel 1 3 1 1]
  runs := [⟨0, 1, 0, none, 0, 0, []⟩] }

theorem runs_settleLate : cancelState.settleLate.work.runs = [] := by
  decide +kernel

end Sys2Proof.Machine

open Sys2Proof Sys2Proof.Machine

/-- Refutes O44: a `spawn` waits while the deque has performed another operation in this ck. -/
theorem not_taskInstructions : ¬ Obligations.TaskInstructions := by
  intro h
  obtain ⟨hspawn, -⟩ := h dequeBusyState firstSlot plainUnit Fields.zero dequeBusyState.begun dequeBusyState.begun dequeBusyState.begun
  have hexec := hspawn issues_spawn_dequeBusy (Or.inl rfl) rfl rfl rfl rfl
  have hmode := mode_spawn_dequeBusy
  rw [hexec] at hmode
  exact absurd hmode (by decide +kernel)

/-- Refutes O45: a `post` that has borrowed goes on with the header it read before. -/
theorem not_workInstructions : ¬ Obligations.WorkInstructions := by
  intro h
  obtain ⟨hpost, -⟩ := h postState firstSlot postingUnit postFields headerRead.after headerRead.after headerRead.after headerKeys
    (List.replicate 32 0)
  have hcounted : headerRead.after.Counted (.post postFields) firstSlot postingUnit (BitVec.ofNat 64
      (natOfBytes (headerRead.after.forwarded postingUnit.key headerKeys (List.replicate 32 0)) / 2 ^ 64)) 1 headerRead.after := by
    rw [State.Counted, if_pos frame_headerRead]
  have hexec := hpost issues_post (by decide +kernel) rfl headerRead_eq (Or.inl frame_headerRead) (by decide +kernel)
    (State.drain_of_no_entry (by decide +kernel)) hcounted
  have hpc := taskPc_post
  rw [hexec] at hpc
  exact absurd hpc (by decide +kernel)

/-- Refutes O46: a cancel ends the runs of its job besides its launches. -/
theorem not_launchAndCancel : ¬ Obligations.LaunchAndCancel := by
  intro h
  obtain ⟨-, -, -, hlate⟩ := h cancelState firstSlot plainUnit jobFields cancelState cancelState cancelState [] [] ⟨1, 0, 0, 0, 0, [], 0, 0, 0, none, 0⟩
  have hruns := runs_settleLate
  rw [hlate 1 rfl] at hruns
  exact absurd hruns (by decide +kernel)
end

section
/-!
Issue, code fills, transfers, the migration queue and the timers of waits (R56, R59, R63, R64, R66, R67, R70).
-/
namespace Sys2Proof.Machine

open Sys2Proof

variable {s t x : State} {r : SlotRef} {u v : Ctx} {sl : Slot} {c k m n : Nat}

/-! ## Wake-ups -/

/-- The keys of a canonical list are no lower than its bound. -/
theorem FMap.le_of_mem {α : Type} [DecidableEq α] {d : α} {l : FMap α} {lo : Nat} (h : FMap.wfFrom d lo l = true) {e : Nat × α}
    (he : e ∈ l) : lo ≤ e.1 := by
  induction l generalizing lo with
  | nil => exact absurd he List.not_mem_nil
  | cons p rest ih =>
    simp only [FMap.wfFrom, Bool.and_eq_true, decide_eq_true_eq] at h
    obtain ⟨⟨hp, -⟩, hrest⟩ := h
    rcases List.mem_cons.mp he with rfl | hmem
    · exact hp
    · have := ih hrest hmem
      omega

/-- An entry of a canonical list is what its key reads as. -/
theorem FMap.get_of_mem {α : Type} [DecidableEq α] {d : α} {l : FMap α} (hwf : FMap.wf d l = true) {e : Nat × α} (he : e ∈ l) :
    l.get d e.1 = e.2 := by
  suffices ∀ lo, FMap.wfFrom d lo l = true → l.get d e.1 = e.2 from this 0 hwf
  clear hwf
  induction l with
  | nil => exact absurd he List.not_mem_nil
  | cons p rest ih =>
    intro lo h
    simp only [FMap.wfFrom, Bool.and_eq_true, decide_eq_true_eq] at h
    obtain ⟨-, hrest⟩ := h
    rcases List.mem_cons.mp he with rfl | hmem
    · exact if_pos rfl
    · have hlow := FMap.le_of_mem hrest hmem
      exact (if_neg (by omega)).trans (ih hmem _ hrest)

/-- Whatever a wake-up of one slot keeps, a wake-up of several keeps. -/
theorem State.rejoinWhere_keeps {P : State → Prop} (hrejoin : ∀ s n, P s → P (State.rejoin s n)) (p : Nat → Wait → Bool) (h : P s) :
    P (s.rejoinWhere p) := by
  unfold State.rejoinWhere
  refine List.foldlRecOn _ _ h fun y hy ⟨k, sl⟩ _ => ?_
  dsimp only
  split
  · split
    · exact hrejoin _ _ hy
    · exact hy
  · exact hy

theorem State.rejoin_sbuf (s : State) (k : Nat) : (s.rejoin k).fab.sbuf = s.fab.sbuf := by
  unfold State.rejoin
  dsimp only
  split <;> rfl

theorem State.rejoin_icache (s : State) (k : Nat) : (s.rejoin k).fab.icache = s.fab.icache := by
  unfold State.rejoin
  dsimp only
  split <;> rfl

theorem State.rejoin_slots_wf (s : State) (k : Nat) (h : FMap.wf Slot.empty s.fab.slots = true) :
    FMap.wf Slot.empty (s.rejoin k).fab.slots = true := by
  unfold State.rejoin
  dsimp only
  split
  · exact h
  · exact FMap.set_wf _ _ _ _ h

theorem State.slotAt_rejoin_ne (s : State) {k n : Nat} (h : k ≠ n) : (s.rejoin n).slotAt k = s.slotAt k := by
  unfold State.rejoin
  dsimp only
  split
  · rfl
  · exact State.slotAt_setSlot_ne _ _ _ _ h

/-- A wake-up leaves a slot alone that does not wait. -/
theorem State.slotAt_rejoinWhere (hwf : FMap.wf Slot.empty s.fab.slots = true) (p : Nat → Wait → Bool)
    (hk : ∀ w since, (s.slotAt k).mode ≠ .waiting w since) : (s.rejoinWhere p).slotAt k = s.slotAt k := by
  unfold State.rejoinWhere
  refine List.foldlRecOn (motive := fun y : State => y.slotAt k = s.slotAt k) _ _ rfl fun y hy ⟨n, sl⟩ he => ?_
  have hat : s.slotAt n = sl := FMap.get_of_mem hwf he
  dsimp only
  split
  · next w since hmode =>
    split
    · refine (State.slotAt_rejoin_ne y ?_).trans hy
      rintro rfl
      exact hk w since ((congrArg Slot.mode hat).trans hmode)
    · exact hy
  · exact hy

/-! ## Issue (R56 to R59) -/

section Issue

theorem execBarrelIssue_idle (h : s.pickSlot c = none) : exec (.barrelIssue c) s = .next s := by
  change execBarrelIssue c s = _
  simp only [execBarrelIssue, h]

variable (hp : s.pickSlot c = some n) (hu : s.unitAt ⟨c, n⟩ = some u)

include hp hu

theorem execBarrelIssue_parks {w : TrapAt} (hf : u.failed = some w) : exec (.barrelIssue c) s =
    .next { s.takeTrap ⟨c, n⟩ { u with failed := none, running := none } { w with rpc := u.pc } with cursor := c } := by
  change execBarrelIssue c s = _
  simp only [execBarrelIssue, hp, hu, hf]
  rfl

variable (hf : u.failed = none) (hd : u.deferred = none)

include hf hd

theorem execBarrelIssue_fetches (hw : s.fetchWaits ⟨c, n⟩ u = some t) : exec (.barrelIssue c) s = .next { t with cursor := c } := by
  change execBarrelIssue c s = _
  simp only [execBarrelIssue, hp, hu, hf, hd, hw]

/-- The chosen slot issues: its instruction runs in the next step. -/
theorem execBarrelIssue_issues (hw : s.fetchWaits ⟨c, n⟩ u = none) : ∃ t, exec (.barrelIssue c) s = .next t ∧
    t.issuing = some ⟨c, n⟩ ∧ t.unitAt ⟨c, n⟩ = some u ∧ t.store = s.store ∧ (t.slotAt (16 * c + n)).issued = some s.ck := by
  obtain ⟨y, hy, hslots, hstore, hck⟩ : ∃ y : State, (match s.fetch ⟨c, n⟩ u with
      | .code (.instr i) => s.holdVector c u i
      | _ => s) = y ∧ y.fab.slots = s.fab.slots ∧ y.store = s.store ∧ y.ck = s.ck := by
    split
    · unfold State.holdVector
      split <;> exact ⟨_, rfl, rfl, rfl, rfl⟩
    · exact ⟨_, rfl, rfl, rfl, rfl⟩
  have hx : exec (.barrelIssue c) s = .next { (y.setLast c n).setSlot (16 * c + n) { y.slotAt (16 * c + n) with issued := some y.ck } with
      issuing := some ⟨c, n⟩ } := by
    subst hy
    change execBarrelIssue c s = _
    simp only [execBarrelIssue, hp, hu, hf, hd, hw]
    rfl
  have hslot : y.slotAt (16 * c + n) = s.slotAt (16 * c + n) := by rw [State.slotAt, hslots, State.slotAt]
  have hunit : (s.slotAt (16 * c + n)).unit = some u := hu
  have hat := State.slotAt_setSlot_self (y.setLast c n) (16 * c + n) { y.slotAt (16 * c + n) with issued := some y.ck }
    (by simp [hslot, hunit])
  refine ⟨_, hx, rfl, ?_, hstore, ?_⟩
  · exact (congrArg Slot.unit hat).trans ((congrArg Slot.unit hslot).trans hunit)
  · exact (congrArg Slot.issued hat).trans (congrArg some hck)

end Issue

/-! ## Code fills (R66) -/

theorem State.icacheInstall_holds (s : State) (tile line : Nat) :
    (s.icacheInstall tile line).fab.icache.contains (icacheKey tile line) = true ∧ (s.icacheInstall tile line).store = s.store := by
  unfold State.icacheInstall
  dsimp only
  split
  · next h =>
    refine ⟨?_, rfl⟩
    rw [List.contains_iff_mem] at h ⊢
    exact (List.mem_filter.mp h).1
  · split
    · exact ⟨List.contains_iff_mem.mpr (NSet.mem_insert.mpr (Or.inl rfl)), rfl⟩
    · exact ⟨List.contains_iff_mem.mpr (NSet.mem_insert.mpr (Or.inl rfl)), rfl⟩

/-- A line whose read finds no error beyond the code's reach is installed in the tile's instruction cache. -/
theorem execIcacheFill_installs {fill : CodeFill} {tile : Nat} {y : State} (hclean : fill.uncorr = false) (htiles : fill.tiles = [tile])
    (hy : y = (s.findLine fill.line 1 ⟨0, s.ownerOf tile⟩ (if fill.demand then 2 else 3)).1)
    (hp : (y.extentAt (extentOf (fill.line * 128))).state = .present)
    (ho : y.openHome ⟨tile, coreOf tile 0, 0, 0, (y.ownerOf tile).getD 0, 0⟩ fill.line 0 0 = .ok x []) :
    ∃ t, exec (.icacheFill fill) s = .next t ∧ t.fab.icache.contains (icacheKey tile fill.line) = true ∧ t.store = x.store := by
  subst hy
  obtain ⟨hin, hstore⟩ := State.icacheInstall_holds x tile fill.line
  obtain ⟨z, p, hx, hz⟩ : ∃ z p, exec (.icacheFill fill) s = .next (State.rejoinWhere z p) ∧ z = x.icacheInstall tile fill.line := by
    refine ⟨_, _, rfl, ?_⟩
    simp only [hclean, Bool.false_and, Bool.false_eq_true, ↓reduceIte, htiles, List.headD_cons, List.foldl_cons, List.foldl_nil, hp, ho]
  rw [hz] at hx
  exact ⟨_, hx, State.rejoinWhere_keeps (P := fun y => y.fab.icache.contains (icacheKey tile fill.line) = true)
      (fun y n hy => (congrArg (fun l : NSet => l.contains _) (State.rejoin_icache y n)).trans hy) p hin,
    State.rejoinWhere_keeps (P := fun y => y.store = x.store) (fun y n hy => (State.rejoin_store y n).trans hy) p hstore⟩

/-! ## Transfers (R63) -/

/-- The end of a transfer whose target is empty: the unit has arrived, its stores go with it, and its old slot empties. -/
theorem execMigrationTransferEnd_moves {since : Nat} (hfind : s.findUnit u.key = some (k, sl, u)) (hat : s.slotAt k = sl)
    (hmode : sl.mode = .migrating m since) (hu : sl.unit = some u) (hm : (s.slotAt m).unit = none) (htag : s.haltedTag u.tag = false)
    {y : State} (hy : y = ((s.setSlot k { s.slotAt k with unit := none }).arriveAt m u).moveStores k u m)
    (hnone : (y.slotAt k).unit = none) : exec (.migrationTransferEnd u.key) s = .next (y.freeSlot k u.tag) := by
  have hchain : s.transferChain k 3 = [(k, u, m)] := by
    rw [← hat] at hmode hu
    have hrest : s.transferChain m 2 = [] := by
      unfold State.transferChain
      split
      · next h => exact absurd (hm.symm.trans h) (by simp)
      · rfl
    unfold State.transferChain
    simp only [hmode, hu, hrest]
  subst hy
  change execMigrationTransferEnd u.key s = _
  simp only [execMigrationTransferEnd, hfind, htag, Bool.false_eq_true, ↓reduceIte, hchain, List.foldl_cons, List.foldl_nil, hnone,
    Option.isNone_none]

/-- The state in which a transferred unit has arrived with its stores. -/
def State.transferred (s : State) (k m : Nat) (u : Ctx) : State :=
  ((s.setSlot k { s.slotAt k with unit := none }).arriveAt m u).moveStores k u m

section Transferred

variable {since : Nat} (hwf : FMap.wf Slot.empty s.fab.slots = true) (hmode : (s.slotAt k).mode = .migrating m since) (hkm : k ≠ m)

/-- Moving the stores of a unit changes the buffer and the agenda; then slots that wait for the buffer they leave are woken. -/
theorem State.moveStores_eq (s : State) (k : Nat) (u : Ctx) (m : Nat) : ∃ z p, s.moveStores k u m = State.rejoinWhere z p ∧
    z.fab.slots = s.fab.slots ∧ z.store = s.store ∧ z.fab.sbuf = s.fab.sbuf.map fun e =>
      if e.who.unit = u.key then { e with who := { e.who with core := m / 16 } } else e := by
  unfold State.moveStores State.bufferChanged
  refine ⟨_, _, rfl, ?_⟩
  refine List.foldlRecOn (motive := fun z : State => z.fab.slots = s.fab.slots ∧ z.store = s.store ∧ z.fab.sbuf =
    s.fab.sbuf.map fun e => if e.who.unit = u.key then { e with who := { e.who with core := m / 16 } } else e) _ _ ⟨rfl, rfl, ?_⟩
    fun z hz e _ => hz
  simp only [State.setBuffer, State.modFab, decide_eq_true_eq]

theorem State.transferred_store : (s.transferred k m u).store = s.store := by
  obtain ⟨z, p, hz, -, hstore, -⟩ := State.moveStores_eq ((s.setSlot k { s.slotAt k with unit := none }).arriveAt m u) k u m
  rw [State.transferred, hz]
  exact State.rejoinWhere_keeps (P := fun y => y.store = s.store) (fun y n hy => (State.rejoin_store y n).trans hy) p hstore

/-- The stores of the unit drain from the core it has moved to. -/
theorem State.transferred_sbuf : ∀ e ∈ (s.transferred k m u).fab.sbuf, e.who.unit = u.key → e.who.core = m / 16 := by
  obtain ⟨z, p, hz, -, -, hsbuf⟩ := State.moveStores_eq ((s.setSlot k { s.slotAt k with unit := none }).arriveAt m u) k u m
  have hkept := State.rejoinWhere_keeps (P := fun y => y.fab.sbuf = z.fab.sbuf) (fun y n hy => (State.rejoin_sbuf y n).trans hy) p rfl
  rw [State.transferred, hz, hkept, hsbuf]
  intro e he hunit
  obtain ⟨b, -, rfl⟩ := List.mem_map.mp he
  by_cases hb : b.who.unit = u.key
  · rw [if_pos hb]
  · rw [if_neg hb] at hunit
    exact absurd hunit hb

include hwf hmode hkm

/-- The unit stands in its new slot, eligible from this ck, and its old slot holds none. -/
theorem State.slotAt_transferred : (s.transferred k m u).slotAt m = ⟨.ready s.ck, none, some u⟩ ∧
    ((s.transferred k m u).slotAt k).unit = none ∧ FMap.wf Slot.empty (s.transferred k m u).fab.slots = true := by
  obtain ⟨z, p, hz, hslots, -, -⟩ := State.moveStores_eq ((s.setSlot k { s.slotAt k with unit := none }).arriveAt m u) k u m
  have hwf1 : FMap.wf Slot.empty (s.setSlot k { s.slotAt k with unit := none }).fab.slots = true := FMap.set_wf _ _ _ _ hwf
  have hwfz : FMap.wf Slot.empty z.fab.slots = true := hslots ▸ FMap.set_wf _ _ _ _ hwf1
  have hzm : z.slotAt m = ⟨.ready s.ck, none, some u⟩ := by
    rw [State.slotAt, hslots]
    exact State.slotAt_setSlot_self _ m _ (by simp)
  have hzk : z.slotAt k = { s.slotAt k with unit := none } := by
    rw [State.slotAt, hslots]
    exact (State.slotAt_setSlot_ne _ _ _ _ hkm).trans (FMap.get_set_self _ _ _ _ hwf)
  rw [State.transferred, hz, State.slotAt_rejoinWhere hwfz p (by simp [hzm]), State.slotAt_rejoinWhere hwfz p (by simp [hzk, hmode]), hzm,
    hzk]
  exact ⟨rfl, rfl, State.rejoinWhere_keeps (P := fun y => FMap.wf Slot.empty y.fab.slots = true) (fun y n => State.rejoin_slots_wf y n) p
    hwfz⟩

end Transferred

theorem State.slotAt_freeSlot_ne {tag : Nat} (h : m ≠ k) : (s.freeSlot k tag).slotAt m = s.slotAt m :=
  State.slotAt_setSlot_ne _ _ _ _ h

theorem State.unit_freeSlot {tag : Nat} (hwf : FMap.wf Slot.empty s.fab.slots = true) : ((s.freeSlot k tag).slotAt k).unit = none := by
  refine (congrArg Slot.unit (FMap.get_set_self _ _ _ _ hwf)).trans ?_
  split <;> rfl

/-! ## The migration queue (R64) -/

theorem execMigrationQueueGrant_halted {tile : Nat} (h : s.haltedTile tile = true) : exec (.migrationQueueGrant tile) s = .next s :=
  congrArg Host.Outcome.next (if_pos h)

theorem State.serveQueue_of_none {tile : Nat} (hg : s.nextGrant tile = none) (hc : s.migrationCycle tile = none) (fuel : Nat) :
    s.serveQueue tile fuel = s := by
  cases fuel with
  | zero => rfl
  | succ fuel => simp only [State.serveQueue, hg, hc]

theorem State.serveQueue_of_grant {tile : Nat} (hg : s.nextGrant tile = some (k, c, n)) (hu : (s.slotAt k).unit = some u) (fuel : Nat) :
    s.serveQueue tile (fuel + 1) = (s.startMigration (refOfKey k) u c n).serveQueue tile fuel := by
  simp only [State.serveQueue, hg, State.grantSlot, hu]

theorem execMigrationQueueGrant_none {tile : Nat} (hg : s.nextGrant tile = none) (hc : s.migrationCycle tile = none) :
    exec (.migrationQueueGrant tile) s = .next s := by
  refine congrArg Host.Outcome.next ?_
  rw [State.serveQueue_of_none hg hc, ite_self]

theorem execMigrationQueueGrant_grants {tile : Nat} (hh : s.haltedTile tile = false) (hg : s.nextGrant tile = some (k, c, n))
    (hu : (s.slotAt k).unit = some u) : exec (.migrationQueueGrant tile) s =
    .next ((s.startMigration (refOfKey k) u c n).serveQueue tile 47) :=
  congrArg Host.Outcome.next ((if_neg (Bool.eq_false_iff.mp hh)).trans (State.serveQueue_of_grant hg hu 47))

/-! ## Timers (R67, R70) -/

/-- With one occupied slot, a wait whose time has come ends. -/
theorem State.completeDue_of_due {w : Wait} {since : Nat} {npc : Word} {due : Wait → Option (Nat × Word)} (hs : s.fab.slots = [(k, sl)])
    (hu : sl.unit = some u) (hn : n ≤ s.ck) (htag : s.haltedTag u.tag = false) (hm : sl.mode = .waiting w since)
    (hd : due w = some (n, npc)) : s.completeDue due =
    s.setSlot k { sl with unit := some { u with pc := npc }, mode := .ready (s.ck + 1) } := by
  have hat : s.slotAt k = sl := by rw [State.slotAt, hs]; exact if_pos rfl
  simp only [State.completeDue, hs, List.foldl_cons, List.foldl_nil, hm, hd, hn, ↓reduceIte]
  rw [State.complete_of_running (g := id) (hat ▸ hu) htag, hat]
  rfl

end Sys2Proof.Machine

open Sys2Proof Sys2Proof.Machine

/-- Settles O48: issue, code fills, transfers, the migration queue and the timers of waits. -/
theorem barrelEvents : Obligations.BarrelEvents := by
  intro s
  refine ⟨fun c hp => execBarrelIssue_idle hp, fun c n u hp hu hf hd hw => execBarrelIssue_issues hp hu hf hd hw,
    fun c n u w hp hu hf => execBarrelIssue_parks hp hu hf, fun c n u t hp hu hf hd hw => execBarrelIssue_fetches hp hu hf hd hw,
    fun fill tile x hclean htiles hp ho => execIcacheFill_installs hclean htiles rfl hp ho, ?transfer,
    fun tile hh => execMigrationQueueGrant_halted hh, fun tile hg hc => execMigrationQueueGrant_none hg hc,
    fun tile k c n u hh hg hu => execMigrationQueueGrant_grants hh hg hu, ?timers⟩
  case transfer =>
    intro k m since sl u hwf hfind hat hmode hu hm hkm htag
    obtain ⟨harrived, hleft, hwfy⟩ := State.slotAt_transferred (u := u) hwf (by rw [hat]; exact hmode) hkm
    exact ⟨_, execMigrationTransferEnd_moves hfind hat hmode hu hm htag rfl hleft, (State.slotAt_freeSlot_ne (Ne.symm hkm)).trans harrived,
      State.unit_freeSlot hwfy, State.transferred_store, State.transferred_sbuf⟩
  case timers =>
    intro k sl u n since npc hs hu hn htag done
    exact ⟨fun hm => congrArg Host.Outcome.next (State.completeDue_of_due hs hu hn htag hm rfl),
      fun us hm => congrArg Host.Outcome.next (State.completeDue_of_due hs hu hn htag hm rfl)⟩
end

section
/-!
Roots, the rounds of idle workers, and queue segments (R233, R293, R294, R299, R300).
-/
namespace Sys2Proof.Machine

open Sys2Proof

variable {s t x : State} {u v : Ctx} {sl : Slot} {k n since seg : Nat} {ret : WeightReturn}

/-! ## Roots (R293, R294) -/

/-- The store entries of a returning party. -/
def State.entriesOf (s : State) (ret : WeightReturn) : List StoreEntry :=
  s.fab.sbuf.filter fun e => ofParty ret e.who.unit e.launch && decide (e.num < ret.upto)

theorem execRootReturn_blocked (h : s.drainList (s.entriesOf ret) = .blocked t) :
    exec (.rootReturn ret) s = .next (t.scheduleFree 1 (.rootReturn ret)) := by
  change execRootReturn ret s = _
  unfold State.entriesOf at h
  simp only [execRootReturn, h]

/-- Once the party's stores are performed, the root waits for its other writes, or counts the return. -/
theorem execRootReturn_performed (h : s.drainList (s.entriesOf ret) = .ok t) : exec (.rootReturn ret) s =
    .next (if t.writesLeft ret then t.scheduleFree 1 (.rootReturn ret)
      else if (t.modPhase ret.phase fun p => p.receive ret.exp ret.mark).phaseQuiet ret.phase then
        ((t.modPhase ret.phase fun p => p.receive ret.exp ret.mark).quietNow ret.phase).quiesced ret.phase
      else t.modPhase ret.phase fun p => p.receive ret.exp ret.mark) := by
  change execRootReturn ret s = _
  unfold State.entriesOf at h
  simp only [execRootReturn, h]

/-- What is found first stays found first when a change keeps the test. -/
theorem find?_modifyFirst {α : Type} {p : α → Bool} {f : α → α} {l : List α} {a : α} (hf : p a = true → p (f a) = true)
    (h : l.find? p = some a) : (modifyFirst p f l).find? p = some (f a) := by
  induction l with
  | nil => exact absurd h (by simp)
  | cons b l ih =>
    by_cases hb : p b = true
    · obtain rfl : b = a := by simpa [hb] using h
      simp [modifyFirst, hb, hf hb]
    · have hb' : p b = false := Bool.eq_false_iff.mpr hb
      have hl : l.find? p = some a := by simpa [hb'] using h
      simp [modifyFirst, hb', ih hl]

/-- A change of a phase that keeps its name is what the phase reads as. -/
theorem State.phase_modPhase {p : PhaseId} {q : Phase} {g : Phase → Phase} (hg : (g q).id = q.id) (h : s.phase p = some q) :
    (s.modPhase p g).phase p = some (g q) := by
  refine find?_modifyFirst (fun hp => ?_) h
  rw [decide_eq_true_eq] at hp ⊢
  exact hg.trans hp

/-- A wait that ends: its instruction goes on in this ck, or a wait before any instruction is over in the next one. -/
theorem State.rejoin_of_waiting {w : Wait} (hat : s.slotAt k = sl) (hu : sl.unit = some v) (htag : s.haltedTag v.tag = false)
    (hmode : sl.mode = .waiting w since) : s.rejoin k = s.setSlot k { sl with mode := match v.running with
      | some _ => .resuming since
      | none => .ready (s.ck + 1) } := by
  have hheld : s.heldSlot sl = false := by simp only [State.heldSlot, hu, htag]
  unfold State.rejoin
  simp only [hat, hheld, hmode, hu, Bool.false_eq_true, ↓reduceIte, Option.bind_some]
  cases v.running <;> rfl

/-- A borrow that the root's total allows: the unit goes on with a fresh half. -/
theorem execRootBorrow_grants {p : Phase} (hfind : s.findUnit u.key = some (k, sl, u)) (hat : s.slotAt k = sl)
    (hmode : sl.mode = .waiting .borrow since) (htag : s.haltedTag u.tag = false) (hp : s.phase u.phaseId = some p)
    (hfit : p.exp + 2 ^ (p.depth - 1) ≤ 2 ^ 128 - 1) : ∃ y, exec (.rootBorrow u.key) s = .next y ∧
      y.slotAt k = { sl with unit := some (u.setWeight (some 1)), mode := match u.running with
        | some _ => .resuming since
        | none => .ready (s.ck + 1) } ∧
      y.phase u.phaseId = some { p with ret := p.ret + 1, exp := p.exp + 2 ^ (p.depth - 1),
                                        borrows := min (2 ^ 32 - 1) (p.borrows + 1) } := by
  subst hat
  let g (p' : Phase) : Phase := { p' with
    ret := p'.ret + 1, exp := p'.exp + 2 ^ (p.depth - 1), borrows := min (2 ^ 32 - 1) (p'.borrows + 1) }
  let z := s.modPhase u.phaseId g
  have hdepth : s.depthOf u.phaseId = p.depth := by simp only [State.depthOf, hp]
  have hx : exec (.rootBorrow u.key) s = .next ((z.setSlot k { z.slotAt k with unit := some (u.setWeight (some 1)) }).rejoin k) := by
    change execRootBorrow u.key s = _
    simp only [execRootBorrow, hfind, hmode, hp, hdepth, hfit, decide_true, ↓reduceIte]
    rfl
  have hrejoin := State.rejoin_of_waiting (s := z.setSlot k { z.slotAt k with unit := some (u.setWeight (some 1)) })
    (v := u.setWeight (some 1)) (State.slotAt_setSlot_self _ _ _ (by simp)) rfl htag hmode
  rw [hrejoin] at hx
  exact ⟨_, hx, State.slotAt_setSlot_self _ _ _ (by simp), State.phase_modPhase (g := g) rfl hp⟩

/-! ## Idle workers (R234, R299) -/

/-- The state and the context after the safe point of a round, if the round is one. -/
def State.roundAt (s : State) (u : Ctx) (n : Nat) : State × Ctx := if s.ck < n ∨ ¬ s.safeNow u then (s, u) else s.passSafe u

/-- What an idle worker's round does after its safe point. -/
def State.roundFrom (s : State) (u : Ctx) (k : Nat) (sl : Slot) (n since unit : Nat) : State :=
  if s.ck < n ∨ s.haltedTag u.tag = true then s
  else if s.phaseQuiet u.phaseId then s.retireUnit k { u with idle := false } .none
  else
    match s.findWork (k / 16) u with
    | .work s pc frame n => s.setSlot k { s.slotAt k with unit := some (u.takeWork pc frame n), mode := .ready (s.ck + 1) }
    | .wait s =>
      (s.setSlot k { sl with unit := some u, mode := .waiting (.idleRound (s.ck + 1)) since }).schedule (s.ck + 1)
        (.idleWorkerRound unit)
    | .none s =>
      (s.setSlot k { sl with
        unit := some { u with backoff := min 4096 (2 * u.backoff) }
        mode := .waiting (.idleRound (s.ck + u.backoff)) since }).schedule (s.ck + u.backoff) (.idleWorkerRound unit)

theorem execIdleWorkerRound_of_waiting (hfind : s.findUnit u.key = some (k, sl, u)) (hmode : sl.mode = .waiting (.idleRound n) since) :
    exec (.idleWorkerRound u.key) s = .next ((s.roundAt u n).1.roundFrom (s.roundAt u n).2 k sl n since u.key) := by
  change execIdleWorkerRound u.key s = _
  simp only [execIdleWorkerRound, hfind, hmode]
  rfl

theorem State.roundAt_early (h : s.ck < n) : s.roundAt u n = (s, u) := if_pos (Or.inl h)

theorem State.roundFrom_early {unit : Nat} (h : s.ck < n ∨ s.haltedTag u.tag = true) : s.roundFrom u k sl n since unit = s := if_pos h

section Round

variable {unit : Nat} (hdue : n ≤ s.ck) (htag : s.haltedTag u.tag = false)

include hdue htag

theorem State.roundFrom_quiet (hq : s.phaseQuiet u.phaseId = true) :
    s.roundFrom u k sl n since unit = s.retireUnit k { u with idle := false } .none := by
  unfold State.roundFrom
  rw [if_neg (by simp [htag, hdue]), if_pos hq]

/-- A round in a phase that is not quiet acts by what it finds. -/
theorem State.roundFrom_finds (hq : s.phaseQuiet u.phaseId = false) : s.roundFrom u k sl n since unit =
    match s.findWork (k / 16) u with
    | .work s pc frame n => s.setSlot k { s.slotAt k with unit := some (u.takeWork pc frame n), mode := .ready (s.ck + 1) }
    | .wait s =>
      (s.setSlot k { sl with unit := some u, mode := .waiting (.idleRound (s.ck + 1)) since }).schedule (s.ck + 1)
        (.idleWorkerRound unit)
    | .none s =>
      (s.setSlot k { sl with
        unit := some { u with backoff := min 4096 (2 * u.backoff) }
        mode := .waiting (.idleRound (s.ck + u.backoff)) since }).schedule (s.ck + u.backoff) (.idleWorkerRound unit) := by
  unfold State.roundFrom
  rw [if_neg (by simp [htag, hdue]), if_neg (Bool.eq_false_iff.mp hq)]

end Round

/-! ## Queue segments (R233, R300) -/

/-- The waits of a poster for a segment. -/
def waitsFor (seg : Nat) (_ : Nat) (w : Wait) : Bool :=
  match w with
  | .segmentFull x _ _ => decide (x = seg)
  | _ => false

theorem execQueueSegmentAccept_full (h : 4096 ≤ (s.segAt seg).length) : exec (.queueSegmentAccept seg) s = .next s :=
  congrArg Host.Outcome.next (if_pos h)

section Segment

variable {task : Task} {npc : Word} (hroom : (s.segAt seg).length < 4096)

include hroom

/-- What a segment with room does with the oldest post that waits for it. -/
theorem execQueueSegmentAccept_of_room : exec (.queueSegmentAccept seg) s = .next
    (match s.oldestWaiter (waitsFor seg), s.oldestPost seg with
    | some (k, sl), p =>
      match sl.mode with
      | .waiting (.segmentFull _ task npc) since =>
        match p with
        | some q => if earlier (q.since, q.slot) (since, k) then s.takePost q else (s.complete k npc id).takeIn seg task
        | none => (s.complete k npc id).takeIn seg task
      | _ => s
    | none, some q => s.takePost q
    | none, none => s) :=
  congrArg Host.Outcome.next (if_neg (Nat.not_le.mpr hroom))

theorem execQueueSegmentAccept_takes (hmode : sl.mode = .waiting (.segmentFull seg task npc) since)
    (hw : s.oldestWaiter (waitsFor seg) = some (k, sl))
    (hq : ∀ q, s.oldestPost seg = some q → earlier (q.since, q.slot) (since, k) = false) :
    exec (.queueSegmentAccept seg) s = .next ((s.complete k npc id).takeIn seg task) := by
  rw [execQueueSegmentAccept_of_room hroom, hw]
  simp only [hmode]
  cases hp : s.oldestPost seg with
  | none => rfl
  | some q => simp only [hq q hp, Bool.false_eq_true, ↓reduceIte]

theorem execQueueSegmentAccept_takesPost {q : Posted} (hq : s.oldestPost seg = some q) (hw : s.oldestWaiter (waitsFor seg) = none) :
    exec (.queueSegmentAccept seg) s = .next (s.takePost q) := by
  rw [execQueueSegmentAccept_of_room hroom, hw, hq]

end Segment

end Sys2Proof.Machine

open Sys2Proof Sys2Proof.Machine

/-- Settles O49: roots, idle workers and queue segments. -/
theorem taskEvents : Obligations.TaskEvents := by
  intro s t
  refine ⟨?root, ?borrow, ?round, fun seg h => execQueueSegmentAccept_full h, ?takes, ?post⟩
  case root =>
    intro ret mine x
    refine ⟨?_, fun hd hl hq => ?_, fun hd hl hq => ?_⟩
    · rintro (hd | ⟨hd, hl⟩)
      · exact execRootReturn_blocked hd
      · exact (execRootReturn_performed hd).trans (congrArg Host.Outcome.next (if_pos hl))
    · exact (execRootReturn_performed hd).trans (congrArg Host.Outcome.next
        ((if_neg (Bool.eq_false_iff.mp hl)).trans (if_neg (Bool.eq_false_iff.mp hq))))
    · exact (execRootReturn_performed hd).trans (congrArg Host.Outcome.next ((if_neg (Bool.eq_false_iff.mp hl)).trans (if_pos hq)))
  case borrow => exact fun k sl u since p hfind hat hmode htag hp hfit => execRootBorrow_grants hfind hat hmode htag hp hfit
  case round =>
    intro k sl u n since hfind hmode p found acts
    have hx := execIdleWorkerRound_of_waiting hfind hmode
    refine ⟨fun hn => ?early, fun hck hn hh => ?halted, fun hck ha hq => ?quiet, fun x pc frame w hck ha hq hf => ?work,
      fun x hck ha hq hf => ?wait, fun x hck ha hq hf => ?none⟩
    case early => rw [hx, State.roundAt_early hn, State.roundFrom_early (Or.inl hn)]
    case halted => exact hx.trans (congrArg Host.Outcome.next (State.roundFrom_early (Or.inr hh)))
    case quiet => exact hx.trans (congrArg Host.Outcome.next (State.roundFrom_quiet (hck ▸ ha.1) ha.2 hq))
    all_goals
      refine hx.trans (congrArg Host.Outcome.next ((State.roundFrom_finds (hck ▸ ha.1) ha.2 hq).trans ?_))
      have hfound : p.1.findWork (k / 16) p.2 = _ := hf
      rw [hfound]
  case takes => exact fun seg k sl task npc since hroom hmode hw hq => execQueueSegmentAccept_takes hroom hmode hw hq
  case post =>
    intro seg q hroom hq hseg hw
    subst hseg
    exact execQueueSegmentAccept_takesPost hroom hq hw
end

section
/-!
What a step runs (R54 to R58, R93), and the machine after start-up.
-/
namespace Sys2Proof.Machine

open Sys2Proof

/-! ## The fetch of a chosen slot -/

/-- What stands between a line and the next part of a fetch. -/
def State.stopAt (r : SlotRef) (u : Ctx) (c : CodeLine) (next : Fetched) : Fetched :=
  match c with
  | .here => next
  | .trap s t => .stop (s.takeTrap r u ⟨t, u.pc, u.pc⟩)
  | .wait s w => .stop (s.putMode r u (.waiting w s.ck))

/-- The last line of the instruction at a unit's PC. -/
def State.lastLine (s : State) (u : Ctx) : Nat := (u.pc.toNat + 4 * s.codeWords u.pc - 1) / 128

/-- The first word is good, and the instruction lies in one extent. -/
def State.GoodHead (s : State) (u : Ctx) : Prop :=
  headOk (BitVec.ofNat 32 (natOfBytes (s.codeBytes u.pc 4))) = true ∧ extentOf (128 * s.lastLine u) = extentOf u.pc.toNat

/-- A line of a unit's code as its slot sees it. -/
def State.lineOf (s : State) (r : SlotRef) (u : Ctx) (line : Nat) : CodeLine := s.codeLine (tileOf r.core) u.uid u.pc line

theorem State.fetch_eq (s : State) (r : SlotRef) (u : Ctx) :
    s.fetch r u = State.stopAt r u (s.lineOf r u (u.pc.toNat / 128))
      (if !headOk (BitVec.ofNat 32 (natOfBytes (s.codeBytes u.pc 4))) || decide (extentOf (128 * s.lastLine u) ≠ extentOf u.pc.toNat) then
         .code .illegal
       else if s.lastLine u = u.pc.toNat / 128 then .code (decodeBytes (s.codeBytes u.pc (4 * s.codeWords u.pc)))
       else State.stopAt r u (s.lineOf r u (s.lastLine u)) (.code (decodeBytes (s.codeBytes u.pc (4 * s.codeWords u.pc))))) := rfl

theorem State.fetch_of_good {s : State} {r : SlotRef} {u : Ctx} (hg : s.GoodHead u) (hf : s.lineOf r u (u.pc.toNat / 128) = .here)
    (hl : s.lastLine u = u.pc.toNat / 128 ∨ s.lineOf r u (s.lastLine u) = .here) :
    s.fetch r u = .code (decodeBytes (s.codeBytes u.pc (4 * s.codeWords u.pc))) := by
  obtain ⟨hhead, hext⟩ := hg
  rw [State.fetch_eq, hf, State.stopAt, hhead, if_neg (by simp [hext])]
  obtain hl | hl := hl
  · exact if_pos hl
  · rw [hl, State.stopAt, ite_self]

theorem State.fetch_of_not_good {s : State} {r : SlotRef} {u : Ctx} (hg : ¬ s.GoodHead u)
    (hf : s.lineOf r u (u.pc.toNat / 128) = .here) : s.fetch r u = .code .illegal := by
  rw [State.fetch_eq, hf, State.stopAt]
  refine if_pos ?_
  by_cases hh : headOk (BitVec.ofNat 32 (natOfBytes (s.codeBytes u.pc 4))) = true
  · simp [show extentOf (128 * s.lastLine u) ≠ extentOf u.pc.toNat from fun he => hg ⟨hh, he⟩]
  · simp [hh]

theorem State.fetch_of_trap {s t : State} {r : SlotRef} {u : Ctx} {e : Trap} (hf : s.lineOf r u (u.pc.toNat / 128) = .trap t e) :
    s.fetch r u = .stop (t.takeTrap r u ⟨e, u.pc, u.pc⟩) := by
  rw [State.fetch_eq, hf, State.stopAt]

theorem State.fetch_of_wait {s t : State} {r : SlotRef} {u : Ctx} {w : Wait} (hf : s.lineOf r u (u.pc.toNat / 128) = .wait t w) :
    s.fetch r u = .stop (t.putMode r u (.waiting w t.ck)) := by
  rw [State.fetch_eq, hf, State.stopAt]

/-! ## The step of a chosen slot -/

section Chosen

variable {s : State} {r : SlotRef} {u : Ctx} (hs : s.issuing = some r) (hu : s.unitAt r = some u)
include hs hu

/-- The illegal-instruction trap of the words at a unit's PC. -/
def State.illegalTrap (s : State) (r : SlotRef) (u : Ctx) : State :=
  ({ s with issuing := none } : State).takeTrap r u
    ⟨{ cause := 1, aux := BitVec.ofNat 64 (natOfBytes (s.codeBytes u.pc 4)) }, u.pc, u.pc⟩

theorem State.step_of_instr {i : Instr} (hf : s.fetch r u = .code (.instr i)) : step s = exec i s := by
  simp only [step, State.nextAct, hs, Option.isSome_some, if_true, State.fetchIssuing, hu, hf]

theorem State.step_of_stop {t : State} (hf : s.fetch r u = .stop t) : step s = .next { t with issuing := none } := by
  simp only [step, State.nextAct, hs, Option.isSome_some, if_true, State.fetchIssuing, hu, hf]

theorem State.step_of_illegal (hf : s.fetch r u = .code .illegal) : step s = .next (s.illegalTrap r u) := by
  simp only [step, State.nextAct, hs, Option.isSome_some, if_true, State.fetchIssuing, hu, hf]
  rfl

theorem State.step_of_badFn {e : Ext} (hf : s.fetch r u = .code (.badFn e)) :
    step s = .next (if kindLists (kindOf r.core) e then s.illegalTrap r u else ({ s with issuing := none } : State).migrate r u e) := by
  simp only [step, State.nextAct, hs, Option.isSome_some, if_true, State.fetchIssuing, hu, hf]
  by_cases hk : kindLists (kindOf r.core) e = true
  · simp only [hk, if_true]
    rfl
  · simp only [hk, Bool.false_eq_true, if_false]

end Chosen

/-! ## The step of a machine in which no slot is chosen -/

section Unchosen

variable {s : State} (hs : s.issuing = none)
include hs

theorem State.nextAct_of_resuming {k : Nat} {sl : Slot} {i : Instr} (hr : s.nextResuming = some (k, sl, i)) :
    s.nextAct = s.goOn k sl i := by
  simp [State.nextAct, hs, hr]

theorem State.nextAct_of_event {i : Instr} {rest : List (Nat × Instr)} (hr : s.nextResuming = none)
    (hd : takeDue s.ck s.eventNow s.agenda = some (i, rest)) : s.nextAct = .run i { s with agenda := rest } := by
  simp [State.nextAct, hs, hr, hd]

theorem State.nextAct_of_core {c : Nat} (hr : s.nextResuming = none) (hd : takeDue s.ck s.eventNow s.agenda = none)
    (hc : s.nextCore = some c) : s.nextAct = .run (.barrelIssue c) { s with cursor := c + 1 } := by
  simp [State.nextAct, hs, hr, hd, hc]

theorem State.nextAct_of_issued (hr : s.nextResuming = none) (hd : takeDue s.ck s.eventNow s.agenda = none)
    (hc : s.nextCore = none) : s.nextAct = s.afterIssues := by
  simp [State.nextAct, hs, hr, hd, hc]

end Unchosen

section Behind

variable {s : State} (hb : takeDue s.ck (fun i => actClass i == .behind) s.agenda = none)
include hb

theorem State.afterIssues_of_late (hl : s.work.late ≠ []) : s.afterIssues = .idle s.settleLate := by
  simp [State.afterIssues, hb, hl]

theorem State.afterIssues_of_launch {i : Instr} {rest : List (Nat × Instr)} (hl : s.work.late = [])
    (hd : takeDue s.ck (fun i => actClass i == .launch) s.agenda = some (i, rest)) :
    s.afterIssues = .run i { s with agenda := rest } := by
  simp [State.afterIssues, hb, hl, hd]

theorem State.afterIssues_of_end (hl : s.work.late = []) (hd : takeDue s.ck (fun i => actClass i == .launch) s.agenda = none) :
    s.afterIssues = .idle s.advance := by
  simp [State.afterIssues, hb, hl, hd]

end Behind

theorem State.afterIssues_of_behind {s : State} {i : Instr} {rest : List (Nat × Instr)}
    (hd : takeDue s.ck (fun i => actClass i == .behind) s.agenda = some (i, rest)) :
    s.afterIssues = .run i { s with agenda := rest } := by
  simp [State.afterIssues, hd]

theorem step_of_run {s t : State} {i : Instr} (h : s.nextAct = .run i t) : step s = exec i t := by rw [step, h]

theorem step_of_idle {s t : State} (h : s.nextAct = .idle t) : step s = .next t := by rw [step, h]

theorem State.goOn_of_sound {s : State} {k : Nat} {sl : Slot} {i : Instr} {u : Ctx} (hu : sl.unit = some u) (hf : u.failed = none) :
    s.goOn k sl i = .run i { s.setSlot k { sl with mode := .ready (s.ck + 1) } with issuing := some (refOfKey k) } := by
  simp only [State.goOn, hu, hf]

theorem State.goOn_of_failed {s : State} {k : Nat} {sl : Slot} {i : Instr} {u : Ctx} {t : TrapAt} (hu : sl.unit = some u)
    (hf : u.failed = some t) : s.goOn k sl i = .idle (s.parkFailed (refOfKey k) u t) := by
  simp only [State.goOn, hu, hf]

end Sys2Proof.Machine

open Sys2Proof Sys2Proof.Machine

/-- Settles O58: the step by its branches, each named by a lemma above: the answers of the fetch where a slot is chosen, and
otherwise the order of the acts of a ck. -/
theorem stepRunsTheDecodedInstruction : Obligations.StepRunsTheDecodedInstruction := by
  unfold Obligations.StepRunsTheDecodedInstruction
  intro s
  refine ⟨fun r u hs hu => ⟨fun hg ⟨hf, hl⟩ i hd => ?instr, fun hg ⟨hf, hl⟩ e hd => ⟨fun hk => ?listed, fun hk => ?moves⟩,
    fun hf hg => ?illegal, fun t e hf => ?trap, fun t w hf => ?wait⟩,
    fun hs k sl i u hr hu => ⟨fun hf => ?resumes, fun t hf => ?parks⟩,
    fun hs hr => ⟨fun i rest hd => ?event, fun hd c hc => ?issue, fun hd hc => ⟨fun i rest hb => ?behind, fun hb =>
      ⟨fun hl => ?late, fun i rest hl hq => ?launch, fun hl hq => ?ends⟩⟩⟩⟩
  case instr => exact State.step_of_instr hs hu ((State.fetch_of_good hg hf hl).trans (congrArg Fetched.code hd))
  case listed =>
    rw [State.step_of_badFn hs hu ((State.fetch_of_good hg hf hl).trans (congrArg Fetched.code hd)), if_pos hk]
    rfl
  case moves =>
    rw [State.step_of_badFn hs hu ((State.fetch_of_good hg hf hl).trans (congrArg Fetched.code hd)), if_neg (by rw [hk]; decide)]
  case illegal => exact State.step_of_illegal hs hu (State.fetch_of_not_good hg hf)
  case trap => exact State.step_of_stop hs hu (State.fetch_of_trap hf)
  case wait => exact State.step_of_stop hs hu (State.fetch_of_wait hf)
  case resumes => exact step_of_run ((State.nextAct_of_resuming hs hr).trans (State.goOn_of_sound hu hf))
  case parks => exact step_of_idle ((State.nextAct_of_resuming hs hr).trans (State.goOn_of_failed hu hf))
  case event => exact step_of_run (State.nextAct_of_event hs hr hd)
  case issue => exact step_of_run (State.nextAct_of_core hs hr hd hc)
  case behind => exact step_of_run ((State.nextAct_of_issued hs hr hd hc).trans (State.afterIssues_of_behind hb))
  case late => exact step_of_idle ((State.nextAct_of_issued hs hr hd hc).trans (State.afterIssues_of_late hb hl))
  case launch => exact step_of_run ((State.nextAct_of_issued hs hr hd hc).trans (State.afterIssues_of_launch hb hl hq))
  case ends => exact step_of_idle ((State.nextAct_of_issued hs hr hd hc).trans (State.afterIssues_of_end hb hl hq))

/-- Settles O59: the reset state lists nothing, so every look-up answers what an unlisted key reads as. -/
theorem resetState : Obligations.ResetState := by
  unfold Obligations.ResetState
  exact ⟨rfl, rfl, rfl, rfl, rfl, rfl, rfl, rfl, rfl, rfl, fun _ => ⟨rfl, rfl⟩, fun _ => rfl, fun _ => ⟨rfl, rfl, rfl, rfl, rfl⟩,
    fun _ => rfl⟩

end

section
/-!
The launch unit's events (R321 to R327, R338 to R347): decisions for partitions that run, the ends of spills and resumes, slices, runs of periods,
exchanges of partitions, hangs, and the contention of gathering gangs.
-/
namespace Sys2Proof.Machine

open Sys2Proof

/-! ## A launch after an update of it -/

/-- An update of a launch that keeps its name is what a look-up of it finds. -/
theorem State.launch_modLaunch {s : State} {id : LaunchId} {l : Launch} {g : Launch → Launch} (hg : (g l).id = l.id)
    (h : s.launch id = some l) : (s.modLaunch id g).launch id = some (g l) := by
  refine find?_modifyFirst (fun hp => ?_) h
  rw [decide_eq_true_eq] at hp ⊢
  exact hg.trans hp

theorem State.launch_schedule (s : State) (at_ : Nat) (i : Instr) (id : LaunchId) : (s.schedule at_ i).launch id = s.launch id := rfl

/-! ## Decisions for a partition that runs -/

theorem State.haltedTag_of_tenant {s : State} {tag : Nat} {t : Tenant} (ht : s.tenant tag = some t) : s.haltedTag tag = t.halted := by
  rw [State.haltedTag, ht]

/-- Nothing keeps the launch unit from a job: its partition is not swapped, and its tenant is open and not halted. -/
theorem State.decides_of_runs {s : State} {j : Job} {t : Tenant} (hp : s.swapping j.pid = false) (ht : s.tenant j.tag = some t)
    (hh : t.halted = false) : (s.swapping j.pid || s.haltedTag j.tag || (s.tenant j.tag).isNone) = false := by
  rw [hp, State.haltedTag_of_tenant ht, hh, ht]
  rfl

theorem execLaunchPlacement_decides {s : State} {pid : Nat} {j : Job} {t : Tenant}
    (hj : s.work.jobs.find? (fun j => decide (j.pid = pid)) = some j) (hp : s.swapping pid = false) (ht : s.tenant j.tag = some t)
    (hh : t.halted = false) : execLaunchPlacement pid s = .next (s.decideJob j) := by
  have hpid : j.pid = pid := by simpa using List.find?_some hj
  have hd := State.decides_of_runs (hpid ▸ hp) ht hh
  rw [hpid] at hd
  rw [execLaunchPlacement, hj]
  exact congrArg _ (if_neg (by rw [hd]; decide))

theorem execPreemptionGrant_of_job {s : State} {j : Job} {t : Tenant} (hj : s.work.jobs = [j]) (hp : s.swapping j.pid = false)
    (ht : s.tenant j.tag = some t) (hh : t.halted = false) : execPreemptionGrant s = .next (s.grantPreemption j) := by
  rw [execPreemptionGrant, hj, List.foldl_cons, List.foldl_nil, if_neg (by rw [State.decides_of_runs hp ht hh]; decide)]

/-! ## The ends of a spill and of a resume -/

theorem execSpillComplete_of_taken {s : State} {unit k : Nat} {sl : Slot} {u : Ctx} {rpc : Option Word}
    (hu : s.findUnit unit = some (k, sl, u)) (hm : sl.mode = .parked (.taken rpc)) (hh : s.haltedTag u.tag = false) :
    execSpillComplete unit s = .next ((((s.modLaunch u.launchId fun l => { l with queue := l.queue ++
      [⟨u.ly * u.tw + u.lx, u.lslot, some (u.setPurposes []), rpc, k / 16, none, s.dataSeal u.tag, false⟩] }).freeSlot k
        u.tag).settleTaking u.launchId).schedule (s.ck + 1) (.launchPlacement (s.pidOf u.tag))) := by
  rw [execSpillComplete, hu]
  dsimp only
  rw [hm]
  dsimp only
  rw [if_neg (by rw [hh]; decide)]
  rfl

section Resume

variable {s : State} {unit k : Nat} {id : LaunchId} {p : Pending} {u : Ctx} (hr : s.restoringUnit unit = some (id, p, u, k))
  (hh : s.haltedTag u.tag = false)
include hr hh

theorem execUnitResume_of_bad (hb : p.bad = true ∨ s.opens u.tag p.under false = false) : execUnitResume unit s =
    .next ((s.logEvent 7 8 u.key 0 u.uid.toNat (some u.tag)).endLaunch id .fault none) := by
  rw [execUnitResume, hr]
  dsimp only
  rw [if_neg (by rw [hh]; decide), if_pos (by simpa using hb)]

/-- The unit as it goes on from its image. -/
def State.restored (s : State) (id : LaunchId) (p : Pending) (u : Ctx) (k : Nat) : Ctx :=
  let w := if tileOf p.core = tileOf (k / 16) then u else u.setStatBit statMoved true
  match s.launch id with
  | some l => if l.taking then w.setPurposes [.preempt] else w
  | none => w

theorem execUnitResume_of_good (hb : p.bad = false) (ho : s.opens u.tag p.under false = true) : execUnitResume unit s =
    .next (((s.modLaunch id fun l => { l with queue := removeFirst (fun q => decide (q = p)) l.queue }).setSlot k
      { Slot.empty with unit := some ((s.modLaunch id fun l => { l with
          queue := removeFirst (fun q => decide (q = p)) l.queue }).restored id p u k) }).resumeUnit k
        ((s.modLaunch id fun l => { l with queue := removeFirst (fun q => decide (q = p)) l.queue }).restored id p u k) p.rpc) := by
  rw [execUnitResume, hr]
  dsimp only
  rw [if_neg (by rw [hh]; decide), if_neg (by simp [hb, ho])]
  rfl

end Resume

/-! ## Slices -/

section Slice

variable {s : State} {l : Launch} {j : Job} {t : Tenant} (hl : s.work.launches = [l]) (hj : s.job l.id.job = some j)
  (ht : s.tenant j.tag = some t)
include hl

theorem State.launch_of_only : s.launch l.id = some l := by
  simp [State.launch, hl]

include hj ht

/-- A slice that ends while its launch is the only one starts again: no rival waits. -/
theorem State.expireSlice_of_only (hs : l.state = .placed) : s.expireSlice l =
    (s.modLaunch l.id fun x => { x with sliceEnd := l.sliceEnd + t.slice }).schedule (l.sliceEnd + t.slice + 1) .timeSliceExpiry := by
  simp only [State.expireSlice, hj, ht, hl, List.any_cons, List.any_nil, hs]
  rfl

theorem execTimeSliceExpiry_of_only (hn : l.id.handle ≠ 1) (hs : l.state = .placed) (he : l.sliceEnd ≠ 0) (hlt : l.sliceEnd < s.ck)
    (hw : s.work.swaps = []) (ho : s.work.swapped = []) (hh : t.halted = false) : execTimeSliceExpiry s = .next (s.expireSlice l) := by
  have htag : s.tagOfJob l.id.job = j.tag := by rw [State.tagOfJob, hj]
  have hswap : s.swapping (s.pidOf (s.tagOfJob l.id.job)) = false := by simp [State.swapping, hw, ho]
  have hhalt : s.haltedTag (s.tagOfJob l.id.job) = false := by rw [htag, State.haltedTag_of_tenant ht, hh]
  rw [execTimeSliceExpiry, hl, List.foldl_cons, List.foldl_nil, State.launch_of_only hl]
  exact congrArg _ (if_pos ⟨hn, hs, he, hlt, by rw [hswap]; decide, by rw [hhalt]; decide⟩)

end Slice

/-! ## Runs of periods (R352) -/

section Run

variable {s : State} {run : Nat} {r : PeriodRun} (hr : s.work.runs.find? (fun r => decide (r.id = run)) = some r)
include hr

theorem execPeriodSubmit_of_last (h0 : r.left = some 0) :
    execPeriodSubmit run s = .next (s.modWork fun w => { w with runs := w.runs.filter fun x => decide (x.id ≠ run) }) := by
  rw [execPeriodSubmit, hr]
  exact congrArg _ (if_pos (.inr h0))

theorem execPeriodSubmit_of_retired {i : Image} (h0 : r.left ≠ some 0) (hall : ∀ h ∈ r.last, s.launchState r.job h = .retired)
    (hi : s.store.images.find? (fun i => decide (i.base = r.image)) = some i) :
    execPeriodSubmit run s = .next ((s.submitActors r.job r.phase 0 (r.period + 1) 0 [] i.actors).1.modWork fun k => { k with
      runs := modifyFirst (fun x => decide (x.id = run)) (fun x => { x with
        left := x.left.map (· - 1), period := x.period + 1,
        last := (s.submitActors r.job r.phase 0 (r.period + 1) 0 [] i.actors).2.2.map (·.2) }) k.runs }) := by
  have hnone : ((r.last.map (s.launchState r.job)).any fun x => decide (x = .cancelled)) = false := by
    simp only [List.any_map, List.any_eq_false]
    intro h hm
    simp [hall h hm]
  have hret : ((r.last.map (s.launchState r.job)).all fun x => decide (x = .retired)) = true := by
    simp only [List.all_map, List.all_eq_true]
    intro h hm
    simp [hall h hm]
  rw [execPeriodSubmit, hr]
  dsimp only
  rw [if_neg (by rw [hnone]; simp [h0]), if_pos hret, hi]

end Run

/-! ## Exchanges of partitions (R342) -/

section Swap

variable {s : State} {pid : Nat} {t : Tenant} (ht : s.tenantOfPid pid = some t)
include ht

theorem execPartitionSwap_of_halted (hh : t.halted = true) : execPartitionSwap pid s = .next s := by
  rw [execPartitionSwap, ht]
  exact congrArg _ (if_pos hh)

theorem execPartitionSwap_starts (hh : t.halted = false) (hr : s.work.swaps.find? (fun r => decide (r.pid = pid)) = none) :
    execPartitionSwap pid s = .next (s.startSwap t) := by
  rw [execPartitionSwap, ht]
  dsimp only
  rw [if_neg (by rw [hh]; decide), hr]

theorem execPartitionSwap_exchanges {r : SwapReq} {n : Nat} (hh : t.halted = false)
    (hr : s.work.swaps.find? (fun r => decide (r.pid = pid)) = some r) (hn : r.until_ = some n) (hle : n ≤ s.ck) :
    execPartitionSwap pid s = .next (s.exchangeImages t) := by
  rw [execPartitionSwap, ht]
  dsimp only
  rw [if_neg (by rw [hh]; decide), hr]
  dsimp only
  rw [hn]
  exact congrArg _ (if_pos hle)

end Swap

/-- A deadline after which no slot of the machine is occupied asks for no other look. -/
theorem execSwapDeadline_of_emptied {s : State} {r : SwapReq} {t : Tenant} (hw : s.work.swaps = [r]) (hu : r.until_ = none)
    (ht : s.tenantOfPid r.pid = some t) (hh : t.halted = false) (hd : r.deadline ≤ s.ck) (he : (s.endUntaken t).fab.slots = []) :
    execSwapDeadline s = .next (s.endUntaken t) := by
  rw [execSwapDeadline, hw, List.foldl_cons, List.foldl_nil, hu, ht]
  dsimp only
  rw [if_pos ⟨hd, by rw [hh]; decide⟩, he, List.any_nil, if_neg (by decide)]

/-! ## Hangs (R302) -/

theorem execHangDeclared_of_stuck {s : State} {j : Job} (hj : s.work.jobs = [j]) (hi : j.idleFrom ≠ 0) (hn : j.hung = none)
    (hd : j.idleFrom + 4095 ≤ s.ck) (hs : s.jobStuck j = true) : execHangDeclared s = .next (s.declareHang j) := by
  rw [execHangDeclared, hj, List.foldl_cons, List.foldl_nil, if_pos ⟨hi, by rw [hn]; rfl, hd, hs⟩]

/-! ## Gathering gangs (R323) -/

/-- The slots that a gathering gang would take next on the tile of a rank: those that it needs and does not hold, the free ones first. -/
def State.wanted (s : State) (l : Launch) (o rank : Nat) : List Nat :=
  let c := coreOf (l.desc.tileAt o rank) l.desc.kind
  ((((s.freeSlots c) ++ (s.emptySlots c).filter fun n => s.slotReserved (16 * c + n)).map (16 * c + ·)).filter fun k =>
    !l.reserved.contains k).take (l.need rank - l.heldOn o rank)

section Gather

variable {s : State} {l : Launch} {o rank : Nat} (hpart : s.partOf (l.desc.tileAt o rank) = l.desc.part)
include hpart

theorem State.gatherTile_loses (h : ∃ x ∈ s.holders l (s.wanted l o rank), x.ticket.getD 0 < l.ticket.getD 0) :
    s.gatherTile l o rank = s.loseGather l.id := by
  obtain ⟨x, hx, hlt⟩ := h
  rw [State.gatherTile, if_neg (not_not_intro hpart)]
  exact if_pos (List.any_eq_true.mpr ⟨x, hx, decide_eq_true hlt⟩)

theorem State.gatherTile_reserves (h : s.holders l (s.wanted l o rank) = []) :
    s.gatherTile l o rank = s.modLaunch l.id fun x => { x with reserved := x.reserved ++ s.wanted l o rank } := by
  have hg : s.gatherTile l o rank =
      if (s.holders l (s.wanted l o rank)).any fun x => decide (x.ticket.getD 0 < l.ticket.getD 0) then s.loseGather l.id
      else ((s.holders l (s.wanted l o rank)).foldl (fun s x => s.loseGather x.id) s).modLaunch l.id fun x =>
        { x with reserved := x.reserved ++ s.wanted l o rank } := if_neg (not_not_intro hpart)
  rw [hg, h, List.any_nil, if_neg (by decide), List.foldl_nil]

end Gather

/-- A gang that loses a contention is Ready again, with no slot, at once, and keeps its ticket. -/
theorem State.launch_loseGather {s : State} {l : Launch} (h : s.launch l.id = some l) : ∃ y, (s.loseGather l.id).launch l.id = some y ∧
    y.state = .ready ∧ y.reserved = [] ∧ y.ticket = l.ticket ∧ y.entered = s.ck + 1 :=
  ⟨_, (State.launch_schedule ..).trans (State.launch_modLaunch (by rfl) h), rfl, rfl, rfl, rfl⟩

end Sys2Proof.Machine

open Sys2Proof Sys2Proof.Machine

/-- Settles O50: each event by the branch its hypotheses name. A change of a launch that keeps its name is what the launch reads as, which
gives what a slice and a contention leave of it. -/
theorem launchAndSwapEvents : Obligations.LaunchAndSwapEvents := by
  unfold Obligations.LaunchAndSwapEvents
  intro s
  refine ⟨fun pid j t hj hp ht hh => execLaunchPlacement_decides hj hp ht hh, fun pid hj => ?noJob,
    fun j t hj hp ht hh => execPreemptionGrant_of_job hj hp ht hh, fun k sl u rpc hu hm hh => execSpillComplete_of_taken hu hm hh,
    fun unit id p u k hr hh => ⟨fun hb => execUnitResume_of_bad hr hh hb, fun hb ho => execUnitResume_of_good hr hh hb ho⟩,
    fun l j t hl hn hs he hlt hw ho hj ht hh => ?slice, fun run r hr h0 => ⟨_, execPeriodSubmit_of_last hr h0, ?gone, rfl⟩,
    fun run r i hr h0 hall hi => execPeriodSubmit_of_retired hr h0 hall hi, fun pid t ht hh => execPartitionSwap_of_halted ht hh,
    fun pid t ht hh => ⟨fun hr => execPartitionSwap_starts ht hh hr, fun r n hr hn hle => execPartitionSwap_exchanges ht hh hr hn hle⟩,
    fun r t hw hu ht hh hd he => execSwapDeadline_of_emptied hw hu ht hh hd he,
    fun j hj hi hn hd hs => execHangDeclared_of_stuck hj hi hn hd hs,
    fun l o rank hl hpart => ⟨fun h => ?loses, fun h => ?reserves⟩⟩
  case noJob =>
    change execLaunchPlacement pid s = _
    rw [execLaunchPlacement, hj]
  case slice =>
    refine ⟨_, _, (execTimeSliceExpiry_of_only hl hj ht hn hs he hlt hw ho hh).trans
      (congrArg Host.Outcome.next (State.expireSlice_of_only hl hj ht hs)),
      (State.launch_schedule ..).trans (State.launch_modLaunch (by rfl) (State.launch_of_only hl)), rfl, rfl, rfl, ?_⟩
    exact List.mem_append_right _ (List.mem_singleton_self _)
  case gone => simp [State.modWork]
  case loses =>
    rw [State.gatherTile_loses hpart h]
    exact State.launch_loseGather hl
  case reserves =>
    rw [State.gatherTile_reserves hpart h]
    exact ⟨_, State.launch_modLaunch (by rfl) hl, rfl, rfl⟩

end

section
/-!
The events of memory (R246, R249 to R253, R365, R387 to R394): retention, extents that move, write-backs, resealing and its sweep, soft errors and the
deadline of a revocation.
-/
namespace Sys2Proof.Machine

open Sys2Proof

/-! ## Retention (R246, R388) -/

theorem execRetentionEntry_of_bank {s : State} {b last : Nat} (hb : b < firstWay) (hs : s.bankAt b = .awake last) :
    execRetentionEntry b s = .next (if last + 65536 ≤ s.ck then
      (s.setBank b (.entering (s.ck + 461) false)).schedule (s.ck + 461) .retentionExitComplete else s) := by
  rw [execRetentionEntry, if_pos hb, hs]

theorem execRetentionEntry_of_way {s : State} {w last : Nat} (hw : w < 5120) (hs : s.wayAt w = .awake last)
    (hl : last + 65536 ≤ s.ck) : execRetentionEntry (firstWay + w) s =
      .next ((s.setWay w (.entering (s.ck + 461) false)).schedule (s.ck + 461) .retentionExitComplete) := by
  rw [execRetentionEntry, if_neg (Nat.not_lt.mpr (Nat.le_add_right ..)), Nat.add_sub_cancel_left]
  dsimp only
  rw [hs]
  exact congrArg _ (if_pos ⟨hw, hl⟩)

theorem State.wakeArrays_store (s : State) (p : Wait → Bool) : (s.wakeArrays p).store = s.store := by
  refine List.foldlRecOn (motive := fun t : State => t.store = s.store) _ _ rfl fun t ht e _ => ?_
  dsimp only
  split <;> split <;> exact ht

theorem State.wakeBank_store (s : State) (n : Nat) : (s.wakeBank n).store = s.store :=
  (State.wakeArrays_store ..).trans
    (State.rejoinWhere_keeps (P := fun t => t.store = s.store) (fun t n h => (State.rejoin_store t n).trans h) _ rfl)

theorem State.bankAt_wakeBank (s : State) (n b : Nat) : (s.wakeBank n).bankAt b = s.bankAt b := by
  rw [State.bankAt, State.wakeBank_store]
  rfl

theorem State.byteAt_wakeBank (s : State) (n k : Nat) : (s.wakeBank n).byteAt k = s.byteAt k := by
  rw [State.byteAt, State.wakeBank_store]
  rfl

theorem State.findBankErrors_of_clean {s : State} (he : s.store.errors = []) (b reach : Nat) : s.findBankErrors b reach = s := by
  rw [State.findBankErrors, he]
  rfl

/-- A bank that alone is listed reads as it was set last. -/
theorem State.bankAt_setBank_of_only {s : State} {b : Nat} {x : BankState} (hb : s.store.banks = [(b, x)]) (hx : x ≠ .awake 0)
    (y : BankState) : (s.setBank b y).bankAt b = y := by
  refine FMap.get_set_self _ _ _ _ ?_
  rw [hb]
  simp [FMap.wf, FMap.wfFrom, hx]

section OneBank

variable {s : State} {b n : Nat} (hways : s.store.ways = []) (hn : n ≤ s.ck) (herr : s.store.errors = [])
include hways hn herr

theorem execRetentionExitComplete_of_exiting (hb : s.store.banks = [(b, .exiting n)]) :
    execRetentionExitComplete s = .next ((s.setBank b (.awake s.ck)).wakeBank b) := by
  have hw : ((s.setBank b (.awake s.ck)).wakeBank b).store.ways = [] := (congrArg Store.ways (State.wakeBank_store ..)).trans hways
  rw [execRetentionExitComplete, hb, List.foldl_cons, List.foldl_nil]
  dsimp only
  rw [if_pos hn, State.findBankErrors_of_clean herr, hw, List.foldl_nil]

theorem execRetentionExitComplete_of_entering {wanted : Bool} (hb : s.store.banks = [(b, .entering n wanted)]) :
    execRetentionExitComplete s = .next ((s.setBank b (.entered s.ck wanted)).scheduleExit wanted) := by
  have hw : ((s.setBank b (.entered s.ck wanted)).scheduleExit wanted).store = (s.setBank b (.entered s.ck wanted)).store := by
    cases wanted <;> rfl
  rw [execRetentionExitComplete, hb, List.foldl_cons, List.foldl_nil]
  dsimp only
  rw [if_pos hn, State.findBankErrors_of_clean herr, show ((s.setBank b (.entered s.ck wanted)).scheduleExit wanted).store.ways = []
    from (congrArg Store.ways hw).trans hways, List.foldl_nil]

end OneBank

/-! ## Extents (R250, R251, R405) -/

section Evict

variable {s : State} {die : Nat} (hr : s.belowReserve die = true)
include hr

theorem execExtentEviction_evicts {p n : Nat} (hp : s.tierPort = some p) (hn : s.evictNext die = some n) :
    execExtentEviction die s = .next (((s.flushExtent n).setExtent n
      { (s.flushExtent n).extentAt n with state := .absent, place := .cxl p }).checkReserve die) := by
  rw [execExtentEviction, if_pos hr, hp, hn]

theorem execExtentEviction_looksAgain (h : s.tierPort = none ∨ s.evictNext die = none) :
    execExtentEviction die s = .next (s.checkReserve die) := by
  rw [execExtentEviction, if_pos hr]
  obtain h | h := h
  · rw [h]
  · rw [h]
    cases s.tierPort <;> rfl

end Evict

theorem execExtentMoveEnd_of_tier {s : State} {n p : Nat} (hm : (s.extentAt n).state = .moving) (ht : (s.extentAt n).target = .cxl p)
    (hp : s.cutOff (s.extentAt n).place = false) (hc : s.cutOff (.cxl p) = false) (hw : s.compacting n = []) : execExtentMoveEnd n s =
      .next ((s.setExtent n { s.extentAt n with state := .present, place := .cxl p, target := .none }).releaseExtent n) := by
  have hnone : (s.setExtent n { s.extentAt n with state := .present, place := .cxl p, target := .none }).compacting n = [] := hw
  simp only [execExtentMoveEnd, hm, hp, ht, hc, hnone, List.foldl_nil, Bool.false_eq_true, if_false, ne_eq, reduceCtorEq,
    not_false_eq_true, and_self, if_true]

theorem execPlacementRequestServed_brings {s t : State} {r : PlaceReq} (hr : s.nextRequest = some r)
    (he : (s.extentAt r.extent).state = .absent) (ht : s.bringIn r = some t) : execPlacementRequestServed s = .next t := by
  rw [execPlacementRequestServed, hr]
  dsimp only
  rw [if_pos he, ht]

/-! ## Resealing (R393, R394) -/

section Reseal

variable {s : State} {copy : ResealCopy} {t : Tenant} (ht : s.tenant copy.tag = some t)
include ht

theorem execResealCopyArrival_renews (hp : (s.sealOf copy.line).period = copy.stamp)
    (hx : (s.sealOf copy.line).renew t ≠ s.sealOf copy.line) (hq : s.poisoned copy.line = false) :
    execResealCopyArrival copy s = .next (s.setSeal copy.line ((s.sealOf copy.line).renew t)) := by
  rw [execResealCopyArrival, ht]
  exact congrArg _ (if_pos ⟨hp, hx, by rw [hq]; decide⟩)

theorem execResealCopyArrival_late (hp : (s.sealOf copy.line).period ≠ copy.stamp) : execResealCopyArrival copy s = .next s := by
  rw [execResealCopyArrival, ht]
  exact congrArg _ (if_neg fun h => hp h.1)

end Reseal

section Sweep

variable {s : State} {tag n : Nat} {t : Tenant} (ht : s.tenant tag = some t) (hw : t.sweep = some n)
include ht hw

theorem execRekeySweep_of_end (hn : s.nextExtent tag n = none) : execRekeySweep tag s =
    .next (if s.ck < t.swept then s.schedule t.swept (.rekeySweep tag) else s.endSweep t) := by
  simp only [execRekeySweep, ht, hw, hn]

variable {m : Nat} {e : Extent} (hn : s.nextExtent tag n = some (m, e))
include hn

theorem execRekeySweep_of_peer (hp : e.onPeer = true) : execRekeySweep tag s =
    .next ((s.modTenant tag fun x => { x with sweep := some (m + 1) }).scheduleFree 1 (.rekeySweep tag)) := by
  simp only [execRekeySweep, ht, hw, hn, hp, if_true]

variable (hp : e.onPeer = false)
include hp

theorem execRekeySweep_of_present (he : e.state = .present) : execRekeySweep tag s =
    .next (((s.resealExtent m t).modTenant tag fun x => { x with sweep := some (m + 1) }).scheduleFree 1 (.rekeySweep tag)) := by
  simp only [execRekeySweep, ht, hw, hn, hp, he, Bool.false_eq_true, if_false]

theorem execRekeySweep_of_absent (he : e.state = .absent) : execRekeySweep tag s =
    .next (((s.modTenant tag fun x => { x with sweep := some m }).requestExtent m 0 true).scheduleFree 1 (.rekeySweep tag)) := by
  simp only [execRekeySweep, ht, hw, hn, hp, he, Bool.false_eq_true, if_false]

end Sweep

/-! ## Revocations (R365) -/

theorem execRevokeDeadline_of_only {s : State} {r : Revocation} {key : Nat} {u : Ctx} (hr : s.firm.revs = [r]) (hd : r.deadline ≤ s.ck)
    (hk : r.units = [key]) (hu : s.ctxOf key = some u) : execRevokeDeadline s =
      .next ((s.logEvent 10 10 0 0 u.uid.toNat (some r.tag)).endWithJob u.launchId .cancel) := by
  rw [execRevokeDeadline, hr, List.filter_cons_of_pos (by simpa using hd), List.filter_nil, List.foldl_cons, List.foldl_nil, hk,
    List.filterMap_cons_some hu, List.filterMap_nil]
  rfl

end Sys2Proof.Machine

open Sys2Proof Sys2Proof.Machine

/-- Settles O51: each event by the branch its hypotheses name; the bank that alone is listed reads as it was set, and what wakes its waiters leaves
the store as it is. -/
theorem memoryEvents : Obligations.MemoryEvents := by
  unfold Obligations.MemoryEvents
  intro s
  refine ⟨fun b last hb hs => ⟨fun hl => (execRetentionEntry_of_bank hb hs).trans (congrArg _ (if_pos hl)),
      fun hl => (execRetentionEntry_of_bank hb hs).trans (congrArg _ (if_neg (Nat.not_le.mpr hl)))⟩,
    fun w last hw hs hl => execRetentionEntry_of_way hw hs hl, fun b n hb hways hn herr => ?exit, fun b n wanted hb hways hn herr => ?entry,
    fun die p n hr hp hn => execExtentEviction_evicts hr hp hn, fun die hr h => execExtentEviction_looksAgain hr h,
    fun die hr => congrArg Host.Outcome.next (if_neg (by rw [hr]; decide)),
    fun n p hm ht hp hc hw => execExtentMoveEnd_of_tier hm ht hp hc hw, fun r t hr he ht => execPlacementRequestServed_brings hr he ht,
    fun hr => ?noRequest, fun tile line l hl => ?copy, fun tile line hl => ?noCopy,
    fun copy t ht => ⟨fun hp hx hq => execResealCopyArrival_renews ht hp hx hq, fun hp => execResealCopyArrival_late ht hp⟩,
    fun tag t n ht hw => ⟨fun hn hs => (execRekeySweep_of_end ht hw hn).trans (congrArg _ (if_neg (Nat.not_lt.mpr hs))),
      fun hn hs => (execRekeySweep_of_end ht hw hn).trans (congrArg _ (if_pos hs)), fun m e hn hp => execRekeySweep_of_peer ht hw hn hp,
      fun m e hn hp he => execRekeySweep_of_present ht hw hn hp he, fun m e hn hp he => execRekeySweep_of_absent ht hw hn hp he⟩,
    fun tile word bits hword => ?scratch, fun line word bits hword => ?dram, fun r key u hr hd hk hu => execRevokeDeadline_of_only hr hd hk hu⟩
  case exit =>
    refine ⟨_, execRetentionExitComplete_of_exiting hways hn herr hb, ?_, fun k => ?_⟩
    · exact (State.bankAt_wakeBank ..).trans (State.bankAt_setBank_of_only hb (by nofun) _)
    · exact State.byteAt_wakeBank ..
  case entry =>
    refine ⟨_, execRetentionExitComplete_of_entering hways hn herr hb, ?_, fun k => ?_⟩
    · have hread := State.bankAt_setBank_of_only hb (by nofun) (.entered s.ck wanted)
      cases wanted <;> exact hread
    · cases wanted <;> rfl
  case noRequest =>
    change execPlacementRequestServed s = _
    rw [execPlacementRequestServed, hr]
  case copy =>
    change execL1WriteBack tile line s = _
    rw [execL1WriteBack, hl]
  case noCopy =>
    change execL1WriteBack tile line s = _
    rw [execL1WriteBack, hl]
  case scratch =>
    exact congrArg (fun w => Host.Outcome.next (s.flipBits (scratchKey tile 0 / 8 + w) bits)) (Nat.mod_eq_of_lt hword)
  case dram =>
    exact congrArg (fun w => Host.Outcome.next (s.flipBits (16 * line + w) 3)) (Nat.mod_eq_of_lt hword)

end

section
/-!
Links and devices (R275, R277, R378, R408 to R412): what a suspension, a return and a loss of extents leave of the links, and the events of ports, routes, peers,
inbound requests and device reads.
-/
namespace Sys2Proof.Machine

open Sys2Proof

/-! ## Extents that are suspended or come back -/

/-- A fold keeps what each of its steps keeps of the links. -/
theorem foldl_links {α : Type} {g : State → α → State} (hg : ∀ s a, (g s a).firm.links = s.firm.links) (l : List α) (s : State) :
    (l.foldl g s).firm.links = s.firm.links := by
  induction l generalizing s with
  | nil => rfl
  | cons a l ih => exact (ih _).trans (hg s a)

theorem State.flushExtent_links (s : State) (n : Nat) : (s.flushExtent n).firm.links = s.firm.links :=
  ((State.KeepsMachine.writeBackWhere s _ 0).trans
    (State.KeepsMachine.foldl _ (fun _ _ => State.KeepsMachine.l2Evict ..) _ _)).links

theorem State.suspend_links (s : State) (ns : List Nat) : (s.suspend ns).firm.links = s.firm.links :=
  foldl_links (g := fun s n => s.startMove n .none) (fun s n => State.flushExtent_links s n) ns s

/-- While no L1 holds a line, a flush writes nothing back. -/
theorem State.flushExtent_of_noL1 {s : State} (h : s.store.l1 = []) (n : Nat) :
    (s.flushExtent n).store.l1 = [] ∧ (s.flushExtent n).store.mem = s.store.mem := by
  unfold State.flushExtent
  dsimp only
  rw [State.writeBackWhere, h, List.filter_nil, List.foldl_nil]
  refine List.foldlRecOn (motive := fun t : State => t.store.l1 = [] ∧ t.store.mem = s.store.mem) _ _ ⟨h, rfl⟩ fun t ht line _ => ?_
  unfold State.l2Evict
  split
  · exact ht
  · exact ht

theorem State.suspend_of_noL1 {s : State} (h : s.store.l1 = []) (ns : List Nat) : (s.suspend ns).store.mem = s.store.mem := by
  refine (List.foldlRecOn (motive := fun t : State => t.store.l1 = [] ∧ t.store.mem = s.store.mem) ns _ ⟨h, rfl⟩ fun t ht n _ => ?_).2
  obtain ⟨hl1, hmem⟩ := ht
  obtain ⟨hl1', hmem'⟩ := State.flushExtent_of_noL1 hl1 n
  exact ⟨hl1', hmem'.trans hmem⟩

theorem State.wakeArrays_firm (s : State) (p : Wait → Bool) : (s.wakeArrays p).firm = s.firm := by
  refine List.foldlRecOn (motive := fun t : State => t.firm = s.firm) _ _ rfl fun t ht e _ => ?_
  dsimp only
  split <;> split <;> exact ht

theorem State.releaseOps_firm (s : State) (n : Nat) : (s.releaseOps n).firm = s.firm := by
  unfold State.releaseOps
  exact List.foldlRecOn (motive := fun t : State => t.firm = s.firm) _ _ rfl fun t ht _ _ => ht

theorem State.releaseStores_firm (s : State) (n : Nat) : (s.releaseStores n).firm = s.firm := by
  unfold State.releaseStores
  exact List.foldlRecOn (motive := fun t : State => t.firm = s.firm) _ _ rfl fun t ht _ _ => ht

theorem State.releaseExtent_firm (s : State) (n : Nat) : (s.releaseExtent n).firm = s.firm := by
  unfold State.releaseExtent
  refine State.rejoinWhere_keeps (P := fun t => t.firm = s.firm) (fun t k h => (State.rejoin_firm t k).trans h) _ ?_
  rw [State.wakeArrays_firm, State.releaseStores_firm, State.releaseOps_firm]
  rfl

theorem State.restore_firm (s : State) (ns : List Nat) : (s.restore ns).firm = s.firm :=
  List.foldlRecOn (motive := fun t : State => t.firm = s.firm) ns _ rfl fun _ ht n _ => (State.releaseExtent_firm _ n).trans ht

/-! ## CXL ports (R411) -/

theorem execCxlPortDown_goes {s : State} {p : Nat} (hp : s.firm.links.cxlDown.contains p = false) : ∃ t, execCxlPortDown p s = .next t ∧
    t.firm.links.cxlDown = NSet.insert s.firm.links.cxlDown p ∧ (s.ck + linkLimit, Instr.cxlRetrainTimeout) ∈ t.agenda ∧
    (s.store.l1 = [] → t.store.mem = s.store.mem) := by
  refine ⟨_, congrArg Host.Outcome.next (if_neg (by rw [hp]; decide)), ?_, ?_, fun h => ?_⟩
  · exact congrArg Links.cxlDown (State.suspend_links ..)
  · refine List.mem_append_right _ (List.mem_singleton.mpr ?_)
    rfl
  · exact State.suspend_of_noL1 (by exact h) _

/-- None of some times has come. -/
theorem filter_due_nil {l : List (Nat × Nat)} {ck : Nat} (h : ∀ e ∈ l, ck < e.2) : (l.filter fun e => decide (e.2 ≤ ck)) = [] :=
  List.filter_eq_nil_iff.mpr fun e he => by simpa using h e he

theorem filter_due_single {p n ck : Nat} (h : n ≤ ck) : ([(p, n)].filter fun e : Nat × Nat => decide (e.2 ≤ ck)) = [(p, n)] := by
  simp [h]

theorem FMap.set_default_single {α : Type} [DecidableEq α] (d : α) (p : Nat) (v : α) : FMap.set d [(p, v)] p d = [] := by
  simp [FMap.set]

/-! ## Carr links (R412) -/

theorem State.rerouting_carrDown (s : State) (p : Nat) : (s.rerouting p).firm.links.carrDown = s.firm.links.carrDown := by
  unfold State.rerouting
  dsimp only
  have hlinks := congrArg Links.carrDown
    (State.suspend_links s (s.extentsAt fun e => decide (e.state = .present) && decide (e.place = .peer p)))
  split <;> exact hlinks

theorem State.retrainCarr_carrDown (s : State) (l : Nat) : (s.retrainCarr l).firm.links.carrDown = s.firm.links.carrDown := by
  unfold State.retrainCarr
  dsimp only
  split <;> rfl

theorem execCarrLinkFailure_fails {s : State} {l : Nat} (hl : s.firm.links.carrDown.contains l = false) :
    ∃ t, execCarrLinkFailure l s = .next t ∧ t.firm.links.carrDown = NSet.insert s.firm.links.carrDown l ∧
      ((s.peerPkgs.filter fun p => decide (routeTo p s.firm.links.carrDown = some l)) = [] → t.store = s.store) := by
  refine ⟨_, congrArg Host.Outcome.next (if_neg (by rw [hl]; decide)), ?_, fun h => ?_⟩
  · have hfold (x : State) (ps : List Nat) : (ps.foldl (fun s p => s.rerouting p) x).firm.links.carrDown = x.firm.links.carrDown :=
      List.foldlRecOn (motive := fun t : State => t.firm.links.carrDown = x.firm.links.carrDown) ps _ rfl fun t ht p _ =>
        (State.rerouting_carrDown t p).trans ht
    dsimp only
    split
    · rw [State.retrainCarr_carrDown, hfold]
      rfl
    · rw [hfold]
      rfl
  · change (s.peerPkgs.filter fun p => decide (routeTo p s.firm.links.carrDown = some l)) = [] at h
    have hps (g : Firm → Firm) : ((s.modFirm g).peerPkgs.filter fun p => decide (routeTo p s.firm.links.carrDown = some l)) = [] := h
    simp only [hps, List.any_nil, List.foldl_nil, Bool.false_eq_true, if_false]
    rfl

theorem State.carrUp_of_none {s : State} (h : ∀ e ∈ s.firm.links.carrTrain, s.ck < e.2) : s.carrUp = s := by
  unfold State.carrUp
  rw [filter_due_nil h]
  rfl

theorem State.carrUp_of_only {s : State} {l n : Nat} (hl : s.firm.links.carrTrain = [(l, n)]) (hn : n ≤ s.ck) :
    s.carrUp.firm.links.carrTrain = [] ∧ s.carrUp.firm.links.carrDown = s.firm.links.carrDown.filter (· ≠ l) := by
  unfold State.carrUp
  simp only [hl, filter_due_single hn, List.map_cons, List.map_nil, List.isEmpty_cons, Bool.false_eq_true, if_false]
  refine List.foldlRecOn (motive := fun t : State => t.firm.links.carrTrain = [] ∧
    t.firm.links.carrDown = s.firm.links.carrDown.filter (· ≠ l)) _ _ ?_ fun t ht p _ => ?_
  · simp [State.modFirm, hl]
  · rw [State.restore_firm]
    exact ht

/-! ## Inbound requests (R378, R408) -/

section Inbound

variable {s : State} {req : InboundReq} (hup : s.firm.links.hostDown.contains req.port = false)
include hup

theorem execInboundRequest_refuses (h : req.addr.extractLsb' 56 8 ≠ 0 ∨ (req.addr.extractLsb' 54 2).toNat = 3) :
    execInboundRequest req s = .next (s.refuse req 1) := by
  rw [execInboundRequest, if_neg (by rw [hup]; decide), if_pos h]

variable (h0 : req.addr.extractLsb' 56 8 = 0) (h3 : (req.addr.extractLsb' 54 2).toNat ≠ 3)
include h0 h3

/-- A request whose address is one of memory meets the windows. -/
theorem execInboundRequest_windows : execInboundRequest req s = .next (match s.windowsFor req with
    | [] => s.failInbound req none 1 1
    | ws =>
      match ws.find? (s.ideOk req) with
      | none => s.failInbound req none 2 1
      | some w =>
        if !s.inboundReach w.tag req then s.failInbound req (some w.tag) 3 2
        else if blockedBehind req s.store.inbound then
          s.modStore fun m => { m with inbound := m.inbound ++ [(w.tag, req)] }
        else
          match s.performInbound w.tag req with
          | (s, true) => s
          | (s, false) => s.modStore fun m => { m with inbound := m.inbound ++ [(w.tag, req)] }) := by
  exact congrArg Host.Outcome.next ((if_neg (by rw [hup]; decide)).trans (if_neg (not_or.mpr ⟨not_not_intro h0, h3⟩)))

theorem execInboundRequest_noWindow (hw : s.windowsFor req = []) : execInboundRequest req s = .next (s.failInbound req none 1 1) := by
  rw [execInboundRequest_windows hup h0 h3, hw]

theorem execInboundRequest_noStream (hw : s.windowsFor req ≠ []) (hi : ∀ w ∈ s.windowsFor req, s.ideOk req w = false) :
    execInboundRequest req s = .next (s.failInbound req none 2 1) := by
  have hf : (s.windowsFor req).find? (s.ideOk req) = none := List.find?_eq_none.mpr fun w hm => by rw [hi w hm]; decide
  rw [execInboundRequest_windows hup h0 h3]
  split
  · exact absurd (by assumption) hw
  · rw [hf]

variable {w : InWindow} (hw : (s.windowsFor req).find? (s.ideOk req) = some w)
include hw

theorem execInboundRequest_window : execInboundRequest req s = .next (
    if !s.inboundReach w.tag req then s.failInbound req (some w.tag) 3 2
    else if blockedBehind req s.store.inbound then s.modStore fun m => { m with inbound := m.inbound ++ [(w.tag, req)] }
    else match s.performInbound w.tag req with
      | (s, true) => s
      | (s, false) => s.modStore fun m => { m with inbound := m.inbound ++ [(w.tag, req)] }) := by
  rw [execInboundRequest_windows hup h0 h3]
  split
  · rename_i hnil
    rw [hnil] at hw
    exact absurd hw (by simp)
  · rw [hw]

theorem execInboundRequest_outOfReach (hr : s.inboundReach w.tag req = false) :
    execInboundRequest req s = .next (s.failInbound req (some w.tag) 3 2) := by
  rw [execInboundRequest_window hup h0 h3 hw, if_pos (by rw [hr]; rfl)]

variable (hr : s.inboundReach w.tag req = true)
include hr

theorem execInboundRequest_behind (hb : blockedBehind req s.store.inbound = true) :
    execInboundRequest req s = .next (s.modStore fun m => { m with inbound := m.inbound ++ [(w.tag, req)] }) := by
  rw [execInboundRequest_window hup h0 h3 hw, if_neg (by rw [hr]; decide), if_pos hb]

theorem execInboundRequest_performs {t : State} {done : Bool} (hb : blockedBehind req s.store.inbound = false)
    (hp : s.performInbound w.tag req = (t, done)) : execInboundRequest req s =
      .next (if done then t else t.modStore fun m => { m with inbound := m.inbound ++ [(w.tag, req)] }) := by
  rw [execInboundRequest_window hup h0 h3 hw, if_neg (by rw [hr]; decide), if_neg (by rw [hb]; decide), hp]
  cases done <;> rfl

end Inbound

/-! ## Device reads (R409) -/

section Devreg

variable {s : State} {k : Nat} {sl : Slot} {u : Ctx} {addr : Word} {p : Word × Nat} {rest : List (Word × Nat)} {got : List Byte} {load : Nat}
  {dsts : List Nat} {npc : Word} {watch : Option Trap} {since : Nat} {bs : List Byte}
  (hu : s.findUnit u.key = some (k, sl, u)) (hm : sl.mode = .waiting (.devreg addr (p :: rest) got load dsts npc watch) since)
include hu hm

theorem execDevregReadCompletion_error :
    execDevregReadCompletion u.key none s = .next (s.failDevreg k u addr (p :: rest) got.length load dsts) := by
  simp only [execDevregReadCompletion, hu, hm]

variable (hlen : bs.length = p.2)
include hlen

theorem execDevregReadCompletion_last (hr : rest = []) (hw : watch = none) : execDevregReadCompletion u.key (some bs) s =
    .next (s.complete k npc fun _ => u.applyReply ⟨loadWrites load dsts (got ++ bs), npc, none⟩) := by
  subst hr hw
  simp only [execDevregReadCompletion, hu, hm, ← hlen, List.take_left, List.isEmpty_nil, if_true]

theorem execDevregReadCompletion_watched {x : Trap} (hr : rest = []) (hw : watch = some x) :
    execDevregReadCompletion u.key (some bs) s =
      .next (s.takeTrap (refOfKey k) (u.applyReply ⟨loadWrites load dsts (got ++ bs), npc, none⟩) ⟨x, u.pc, npc⟩) := by
  subst hr hw
  simp only [execDevregReadCompletion, hu, hm, ← hlen, List.take_left, List.isEmpty_nil, if_true]

theorem execDevregReadCompletion_next (hr : rest ≠ []) : execDevregReadCompletion u.key (some bs) s =
    .next ((s.setSlot k { sl with mode := .waiting (.devreg addr rest (got ++ bs) load dsts npc watch) s.ck }).deviceRead rest) := by
  have he : rest.isEmpty = false := List.isEmpty_eq_false_iff.mpr hr
  simp only [execDevregReadCompletion, hu, hm, ← hlen, List.take_left, he, Bool.false_eq_true, if_false]

end Devreg

end Sys2Proof.Machine

end

section
/-!
Tenants' keys (R392, R413, R414), the temperature (R422, R423), power and start-up (R397 to R399), and the statement on links and power.
-/
namespace Sys2Proof.Machine

open Sys2Proof

/-! ## Tenants after an update -/

/-- A change of another entry, which the test refuses before and after, does not change what is found. -/
theorem find?_modifyFirst_ne {α : Type} {p q : α → Bool} {f : α → α} (hf : ∀ a, p a = true → q a = false ∧ q (f a) = false)
    (l : List α) : (modifyFirst p f l).find? q = l.find? q := by
  induction l with
  | nil => rfl
  | cons a l ih =>
    by_cases hp : p a = true
    · obtain ⟨hq, hqf⟩ := hf a hp
      simp [modifyFirst, hp, hq, hqf]
    · simp [modifyFirst, hp, List.find?_cons, ih]

theorem State.tenant_of_tenants {s t : State} (h : t.firm.tenants = s.firm.tenants) (tag : Nat) : t.tenant tag = s.tenant tag := by
  rw [State.tenant, State.tenant, h]

theorem State.tenant_modTenant {s : State} {tag : Nat} {t : Tenant} {g : Tenant → Tenant} (hg : (g t).tag = t.tag)
    (h : s.tenant tag = some t) : (s.modTenant tag g).tenant tag = some (g t) := by
  refine find?_modifyFirst (fun hp => ?_) h
  rw [decide_eq_true_eq] at hp ⊢
  exact hg.trans hp

theorem State.tenant_modTenant_ne (s : State) {tag other : Nat} {g : Tenant → Tenant} (hg : ∀ t, (g t).tag = t.tag) (h : tag ≠ other) :
    (s.modTenant tag g).tenant other = s.tenant other := by
  refine find?_modifyFirst_ne (fun t ht => ?_) _
  obtain rfl : t.tag = tag := by simpa using ht
  simp [hg, h]

/-! ## Keys of tenants (R378, R413, R414) -/

section Keys

variable {s : State} {tag : Nat} {m : Tenant} (hm : s.tenant tag = some m)
include hm

theorem execPeerKeyRequest_shares (peer : Nat) : ∃ t x, execPeerKeyRequest tag peer s = .next t ∧ t.tenant tag = some x ∧ peer ∈ x.peers ∧
    x.inst = m.inst ∧ t.store.answers = s.store.answers ++ [⟨peer, 0, bytesOfNat m.inst 8⟩] := by
  refine ⟨(s.modTenant tag fun x => { x with peers := if x.peers.contains peer then x.peers else x.peers ++ [peer] }).answer peer 0
    (bytesOfNat m.inst 8), _, by rw [execPeerKeyRequest, hm], State.tenant_modTenant (by rfl) hm, ?_, rfl, rfl⟩
  dsimp only
  split
  · rename_i hc
    simpa using hc
  · exact List.mem_append_right _ (List.mem_singleton_self _)

theorem execIdeKm_programs (stream : Nat) : ∃ t, execIdeKm tag stream s = .next t ∧ (tag, stream) ∈ t.firm.ide ∧
    (∀ e ∈ t.firm.ide, e.2 = stream → e.1 = tag) ∧ t.store = s.store := by
  refine ⟨_, congrArg Host.Outcome.next (if_pos (by rw [hm]; rfl)), List.mem_append_right _ (List.mem_singleton_self _), fun e he h2 => ?_, rfl⟩
  obtain he | he := List.mem_append.mp he
  · exact absurd h2 (by simpa using (List.mem_filter.mp he).2)
  · rw [List.mem_singleton.mp he]

theorem execRekeyPrepare_prepares (hw : m.sweep = none) : ∃ t x, execRekeyPrepare tag s = .next t ∧ t.tenant tag = some x ∧
    x.prepared = true ∧ x.period = m.period := by
  refine ⟨s.modTenant tag fun x => { x with prepared := true }, _, ?_, State.tenant_modTenant (by rfl) hm, rfl, rfl⟩
  rw [execRekeyPrepare, hm]
  exact congrArg _ (if_neg (by rw [hw]; decide))

end Keys

/-- Collecting reports takes free values alone. -/
theorem State.reportsOf_firm (s : State) (peers : List Nat) : (s.reportsOf peers).1.firm = s.firm :=
  List.foldlRecOn (motive := fun r : State × Nat => r.1.firm = s.firm) peers _ rfl fun _ hr _ _ => hr

theorem State.tenant_raisePeriod {s : State} {tag : Nat} {m : Tenant} (hm : s.tenant tag = some m) : ∃ x,
    (s.raisePeriod tag).tenant tag = some x ∧ x.prepared = false ∧ x.period = (m.period + 1) % 2 ^ 32 ∧ x.sweep = some 0 := by
  exact ⟨_, State.tenant_modTenant (by rfl)
    ((State.tenant_of_tenants (congrArg Firm.tenants (State.reportsOf_firm ..)) tag).trans hm), rfl, rfl, rfl⟩

theorem State.raisePeriod_ide (s : State) (tag : Nat) :
    (s.raisePeriod tag).firm.ide = s.firm.ide.filter fun e => decide (e.1 ≠ tag) :=
  congrArg Firm.ide (State.reportsOf_firm (s.modFirm fun f => { f with ide := f.ide.filter fun e => decide (e.1 ≠ tag) }) _)

/-- Channels that finish leave tenants and streams as they are. -/
theorem State.finishAll_keeps (chs : List Nat) (status : Nat) (reply : List Word) (s : State) :
    (chs.foldl (fun s ch => s.finish ch status reply) s).firm.tenants = s.firm.tenants ∧
      (chs.foldl (fun s ch => s.finish ch status reply) s).firm.ide = s.firm.ide :=
  List.foldlRecOn (motive := fun t : State => t.firm.tenants = s.firm.tenants ∧ t.firm.ide = s.firm.ide) chs _ ⟨rfl, rfl⟩
    fun _ ht _ _ => ht

theorem execRekeySwitch_switches {s : State} {tag : Nat} {m : Tenant} (hm : s.tenant tag = some m) (hp : m.prepared = true) :
    ∃ t x, execRekeySwitch tag s = .next t ∧ t.tenant tag = some x ∧ x.prepared = false ∧ x.period = (m.period + 1) % 2 ^ 32 ∧
      x.sweep = some 0 ∧ ∀ e ∈ t.firm.ide, e.1 ≠ tag := by
  obtain ⟨x, hx, hprep, hper, hsweep⟩ := State.tenant_raisePeriod hm
  have hkeeps := State.finishAll_keeps ((s.raisePeriod tag).working 0x0E tag) 0 [BitVec.ofNat 64 ((m.period + 1) % 2 ^ 32)]
    (s.raisePeriod tag)
  obtain ⟨htenants, hide⟩ := hkeeps
  refine ⟨((s.raisePeriod tag).working 0x0E tag).foldl (fun s ch => s.finish ch 0 [BitVec.ofNat 64 ((m.period + 1) % 2 ^ 32)])
    (s.raisePeriod tag), x, ?_, (State.tenant_of_tenants htenants tag).trans hx, hprep, hper, hsweep, ?_⟩
  · rw [execRekeySwitch, hm]
    exact congrArg _ (if_pos hp)
  · rw [hide, State.raisePeriod_ide]
    exact fun e he => by simpa using (List.mem_filter.mp he).2

/-! ## The temperature (R422, R423) -/

/-- The first of the readings that are the highest is the one a search ends with. -/
theorem hottest_of_first {l₁ l₂ : List (Nat × Nat)} {n i : Nat} (hn : 0 < n) (h₁ : ∀ e ∈ l₁, e.1 < n) (h₂ : ∀ e ∈ l₂, e.1 ≤ n) :
    hottest (l₁ ++ (n, i) :: l₂) = i := by
  have hlow : (l₁.foldl (fun (a : Nat × Nat) e => if a.1 < e.1 then e else a) (0, 0)).1 < n := by
    refine List.foldlRecOn (motive := fun a : Nat × Nat => a.1 < n) l₁ _ hn fun a ha e he => ?_
    split
    · exact h₁ e he
    · exact ha
  have hstay : l₂.foldl (fun (a : Nat × Nat) e => if a.1 < e.1 then e else a) (n, i) = (n, i) :=
    List.foldlRecOn (motive := fun a : Nat × Nat => a = (n, i)) l₂ _ rfl fun a ha e he => by
      subst ha
      exact if_neg (Nat.not_lt.mpr (h₂ e he))
  rw [hottest, List.foldl_append, List.foldl_cons, if_pos hlow, hstay]

/-- The readings of the sensors stand in the order of their numbers. -/
theorem pairwise_zipIdx (rs : List Nat) : rs.zipIdx.Pairwise fun a b => a.2 < b.2 := by
  rw [← List.pairwise_map (f := Prod.snd) (R := (· < ·)), List.zipIdx_map_snd]
  exact List.pairwise_lt_range'

/-- The trip names the sensor that is the hottest of those above the limit in both readings, the lowest-numbered of several. -/
theorem tripSensor_eq {rs before : List Nat} {i n : Nat} (hi : rs[i]? = some n) (hn : 110 < n) (hb : i ∈ before)
    (hmax : ∀ j m, rs[j]? = some m → 110 < m → j ∈ before → m ≤ n ∧ (m = n → i ≤ j)) : tripSensor before rs.zipIdx = i := by
  have hmem : (n, i) ∈ rs.zipIdx.filter fun e => decide (110 < e.1) && before.contains e.2 :=
    List.mem_filter.mpr ⟨List.mk_mem_zipIdx_iff_getElem?.mpr hi, by simp [hn, hb]⟩
  have hbound : ∀ e ∈ rs.zipIdx.filter fun e => decide (110 < e.1) && before.contains e.2, e.1 ≤ n ∧ (e.1 = n → i ≤ e.2) := by
    intro e he
    obtain ⟨hz, hc⟩ := List.mem_filter.mp he
    simp only [Bool.and_eq_true, decide_eq_true_eq, List.contains_iff_mem] at hc
    exact hmax e.2 e.1 (List.mk_mem_zipIdx_iff_getElem?.mp hz) hc.1 hc.2
  have hsorted := (pairwise_zipIdx rs).filter fun e => decide (110 < e.1) && before.contains e.2
  unfold tripSensor
  dsimp only
  rw [if_neg (by rw [List.isEmpty_iff]; exact List.ne_nil_of_mem hmem)]
  obtain ⟨l₁, l₂, hsplit⟩ := List.append_of_mem hmem
  rw [hsplit] at hbound hsorted ⊢
  refine hottest_of_first (by omega) (fun e he => ?_) fun e he => (hbound e (by simp [he])).1
  obtain ⟨hle, heq⟩ := hbound e (List.mem_append_left _ he)
  have hlt : e.2 < i := (List.pairwise_append.mp hsorted).2.2 e he (n, i) (List.mem_cons_self ..)
  refine Classical.byContradiction fun hge => ?_
  exact absurd (heq (by omega)) (by omega)

/-- The newest entry after an event is of its type, and carries its word unless it counts up an entry of that type. -/
theorem State.logEvent_newest (s : State) (type src addr aux : Nat) : ∃ e, (s.logEvent type src addr aux).firm.log.getLast? = some e ∧
    e.type = type ∧ ((∀ l, s.firm.log.getLast? = some l → l.type ≠ type) → e.aux = aux) := by
  unfold State.logEvent State.modFirm
  dsimp only
  split
  · rename_i l hl
    split
    · rename_i hsame
      exact ⟨_, List.getLast?_concat, hsame.1, fun h => absurd hsame.1 (h l hl)⟩
    · split
      · exact ⟨_, List.getLast?_concat, rfl, fun _ => rfl⟩
      · exact ⟨_, List.getLast?_concat, rfl, fun _ => rfl⟩
  · exact ⟨_, rfl, rfl, fun _ => rfl⟩

/-- Halting the partitions of some tenants. -/
def State.haltAll (s : State) (ts : List Tenant) : State := ts.foldl (fun s t => s.haltPartition t.tag) s

theorem State.haltAll_log (s : State) (ts : List Tenant) : (s.haltAll ts).firm.log = s.firm.log :=
  List.foldlRecOn (motive := fun t : State => t.firm.log = s.firm.log) ts _ rfl fun _ ht _ _ => ht

theorem State.tenant_haltPartition (s : State) (a tag : Nat) {m : Tenant} (hm : s.tenant tag = some m) :
    (s.haltPartition a).tenant tag = some (if a = tag then { m with halted := true } else m) := by
  by_cases ha : a = tag
  · subst ha
    rw [if_pos rfl]
    exact State.tenant_modTenant (by rfl) hm
  · rw [if_neg ha]
    exact (State.tenant_modTenant_ne s (g := fun t => { t with halted := true }) (fun _ => rfl) ha).trans hm

theorem State.tenant_haltAll (ts : List Tenant) (tag : Nat) {s : State} {m : Tenant} (hm : s.tenant tag = some m)
    (h : m.halted = true ∨ ∃ t ∈ ts, t.tag = tag) : ∃ x, (s.haltAll ts).tenant tag = some x ∧ x.halted = true := by
  induction ts generalizing s m with
  | nil =>
    obtain h | ⟨t, ht, _⟩ := h
    · exact ⟨m, hm, h⟩
    · exact absurd ht (List.not_mem_nil)
  | cons a ts ih =>
    refine ih (State.tenant_haltPartition s a.tag tag hm) ?_
    by_cases ha : a.tag = tag
    · exact .inl (by rw [if_pos ha])
    · rw [if_neg ha]
      obtain h | ⟨t, ht, htag⟩ := h
      · exact .inl h
      · obtain rfl | ht := List.mem_cons.mp ht
        · exact absurd htag ha
        · exact .inr ⟨t, ht, htag⟩

section Thermal

variable {s : State} {readings : List Nat} (hdue : s.firm.thermal.due ≤ s.ck)
include hdue

/-- The machine after a reading of the sensors. -/
def State.sampled (s : State) (rs : List Nat) : State := s.modFirm fun f => { f with
  thermal := ⟨(rs.zipIdx.filter fun e => decide (110 < e.1)).map (·.2), rs.any fun n => decide (95 < n), s.ck + 90000⟩ }

theorem execThermalSample_due : execThermalSample readings s = .next (
    if (((readings.take 64).zipIdx.filter fun e => decide (110 < e.1)).map (·.2)).isEmpty || s.firm.thermal.hot.isEmpty then
      s.sampled (readings.take 64)
    else ((s.sampled (readings.take 64)).haltAll s.firm.tenants).logEvent 13 10 0
      (tripSensor s.firm.thermal.hot (readings.take 64).zipIdx)) := by
  have hany : ((readings.take 64).zipIdx.any fun e => decide (95 < e.1)) = (readings.take 64).any fun n => decide (95 < n) := by
    conv =>
      rhs
      rw [← List.zipIdx_map_fst 0 (readings.take 64), List.any_map]
    rfl
  rw [execThermalSample, if_neg (Nat.not_lt.mpr hdue)]
  simp only [hany]
  rfl

theorem execThermalSample_cool (h : s.firm.thermal.hot = [] ∨ ∀ n ∈ readings.take 64, n ≤ 110) :
    execThermalSample readings s = .next (s.sampled (readings.take 64)) := by
  rw [execThermalSample_due hdue, if_pos]
  obtain h | h := h
  · simp [h]
  · have hnone : ((readings.take 64).zipIdx.filter fun e => decide (110 < e.1)) = [] :=
      List.filter_eq_nil_iff.mpr fun e he => by
        simpa using h e.1 (List.mem_of_getElem? (List.mem_zipIdx_iff_getElem?.mp he))
    simp [hnone]

theorem execThermalSample_trips (hhot : s.firm.thermal.hot ≠ []) (h : ∃ n ∈ readings.take 64, 110 < n) :
    execThermalSample readings s = .next (((s.sampled (readings.take 64)).haltAll s.firm.tenants).logEvent 13 10 0
      (tripSensor s.firm.thermal.hot (readings.take 64).zipIdx)) := by
  obtain ⟨n, hn, hlt⟩ := h
  obtain ⟨i, hi⟩ := List.mem_iff_getElem?.mp hn
  have hmem : (n, i) ∈ (readings.take 64).zipIdx.filter fun e => decide (110 < e.1) :=
    List.mem_filter.mpr ⟨List.mk_mem_zipIdx_iff_getElem?.mpr hi, decide_eq_true hlt⟩
  rw [execThermalSample_due hdue, if_neg]
  simp only [Bool.or_eq_true, List.isEmpty_iff, List.map_eq_nil_iff]
  exact fun h => h.elim (List.ne_nil_of_mem hmem) hhot

end Thermal

end Sys2Proof.Machine

open Sys2Proof Sys2Proof.Machine

/-- Settles O52: each event by the branch its hypotheses name. A suspension and a return of extents leave the links as they are; a look-up of a tenant
after an update of it finds the updated one; and the trip's search ends at the first of the highest readings. -/
theorem linkAndPowerEvents : Obligations.LinkAndPowerEvents := by
  unfold Obligations.LinkAndPowerEvents
  intro s
  refine ⟨fun p hp => execCxlPortDown_goes hp, fun p hp => congrArg Host.Outcome.next (if_pos hp), fun h => ?noTrain, fun p n hp hn => ?trainEnds,
    fun p hp => congrArg Host.Outcome.next (if_pos hp), fun p hp => ⟨?erased, congrArg Host.Outcome.next (if_neg hp)⟩,
    fun l hl => congrArg Host.Outcome.next (if_pos hl), fun l hl => execCarrLinkFailure_fails hl, fun hm ht => ?noMove,
    fun p n hp hn ht => ?moveEnds, fun l n hl hn hm => ?linkUp, fun h => ?noUnreach, fun p n hp hn => ?unreachEnds,
    fun p => ⟨fun hp => congrArg Host.Outcome.next (if_pos hp), fun hp h0 => ?readsFail, fun hp h0 h1 => ?readsStay⟩,
    fun req => ⟨fun hd => congrArg Host.Outcome.next (if_pos hd), fun hup => ⟨fun h => execInboundRequest_refuses hup h, fun h0 h3 =>
      ⟨fun hw => execInboundRequest_noWindow hup h0 h3 hw, fun hw hi => execInboundRequest_noStream hup h0 h3 hw hi,
        fun w t hw => ⟨fun hr => execInboundRequest_outOfReach hup h0 h3 hw hr, fun hr hb => execInboundRequest_behind hup h0 h3 hw hr hb,
          fun hr hb => ⟨fun hp => execInboundRequest_performs hup h0 h3 hw hr hb hp,
            fun hp => execInboundRequest_performs hup h0 h3 hw hr hb hp⟩⟩⟩⟩⟩,
    fun k sl u addr p rest got load dsts npc watch since bs hu hm hlen => ⟨execDevregReadCompletion_error hu hm,
      fun hr hw => execDevregReadCompletion_last hu hm hlen hr hw, fun x hr hw => execDevregReadCompletion_watched hu hm hlen hr hw,
      fun hr => execDevregReadCompletion_next hu hm hlen hr⟩,
    fun q t => ⟨fun hp => ?performed, fun hp => ?kept⟩,
    fun tag m hm => ⟨fun peer => execPeerKeyRequest_shares hm peer, fun stream => execIdeKm_programs hm stream, fun hw => ?sweeps,
      fun hw => execRekeyPrepare_prepares hm hw, fun hp => ?unprepared, fun hp => execRekeySwitch_switches hm hp⟩,
    fun tag n hm => ⟨?noShare, congrArg Host.Outcome.next (if_neg (by rw [hm]; decide)), ?noPrepare, ?noSwitch⟩, rfl,
    fun readings hd => congrArg Host.Outcome.next (if_pos hd),
    fun readings hd => ⟨fun h => execThermalSample_cool hd h, fun hhot h => ?trips⟩,
    fun start => ⟨fun hp => congrArg Host.Outcome.next (if_pos hp), fun hp => congrArg Host.Outcome.next (if_neg hp), fun hp => ?running,
      fun hp => ?starting, fun hp => ?minimal, fun hp => ?off⟩, rfl, fun n hp hn => ⟨fun hw => ?late, fun hw => ?early⟩, fun h => ?idle⟩
  case noTrain =>
    change execCxlRetrainTimeout s = _
    rw [execCxlRetrainTimeout, filter_due_nil h, List.foldl_nil]
  case trainEnds =>
    refine ⟨s.modFirm fun f => { f with links := { f.links with cxlTrain := FMap.set 0 f.links.cxlTrain p 0 } }, ?_, rfl, ?_⟩
    · change FMap.set 0 s.firm.links.cxlTrain p 0 = []
      rw [hp, FMap.set_default_single]
    · change execCxlRetrainTimeout s = _
      rw [execCxlRetrainTimeout, hp, filter_due_single hn, List.foldl_cons, List.foldl_nil]
  case erased => simp [State.modFirm, NSet.erase]
  case noMove =>
    change execCarrRouteMoveEnd s = _
    rw [execCarrRouteMoveEnd, filter_due_nil hm, List.foldl_nil, State.carrUp_of_none ht]
  case moveEnds =>
    refine ⟨s.modFirm fun f => { f with links := { f.links with carrMoving := FMap.set 0 f.links.carrMoving p 0 } }, ?_, rfl, ?_⟩
    · change FMap.set 0 s.firm.links.carrMoving p 0 = []
      rw [hp, FMap.set_default_single]
    · change execCarrRouteMoveEnd s = _
      rw [execCarrRouteMoveEnd, hp, filter_due_single hn, List.foldl_cons, List.foldl_nil, State.carrUp_of_none ht]
  case linkUp =>
    obtain ⟨htrain, hdown⟩ := State.carrUp_of_only hl hn
    refine ⟨s.carrUp, ?_, htrain, hdown⟩
    change execCarrRouteMoveEnd s = _
    rw [execCarrRouteMoveEnd, hm, List.filter_nil, List.foldl_nil]
  case noUnreach =>
    change execPeerUnreachableTimeout s = _
    rw [execPeerUnreachableTimeout, filter_due_nil h, List.foldl_nil]
  case unreachEnds =>
    refine ⟨s.modFirm fun f => { f with links := { f.links with unreach := FMap.set 0 f.links.unreach p 0 } }, ?_, rfl, ?_⟩
    · change FMap.set 0 s.firm.links.unreach p 0 = []
      rw [hp, FMap.set_default_single]
    · change execPeerUnreachableTimeout s = _
      rw [execPeerUnreachableTimeout, hp, filter_due_single hn, List.foldl_cons, List.foldl_nil]
  case readsFail =>
    refine (congrArg Host.Outcome.next (if_neg (by rw [hp]; decide))).trans (congrArg Host.Outcome.next (if_pos ?_))
    simpa using h0
  case readsStay =>
    refine (congrArg Host.Outcome.next (if_neg (by rw [hp]; decide))).trans (congrArg Host.Outcome.next (if_neg ?_))
    simp only [h0, h1, decide_false, Bool.or_false]
    decide
  case performed =>
    change execCarrLinkRequest q s = _
    rw [execCarrLinkRequest, hp]
  case kept =>
    change execCarrLinkRequest q s = _
    rw [execCarrLinkRequest, hp]
  case sweeps =>
    change execRekeyPrepare tag s = _
    rw [execRekeyPrepare, hm]
    exact congrArg _ (if_pos hw)
  case unprepared =>
    change execRekeySwitch tag s = _
    rw [execRekeySwitch, hm]
    exact congrArg _ (if_neg (by rw [hp]; decide))
  case noShare =>
    change execPeerKeyRequest tag n s = _
    rw [execPeerKeyRequest, hm]
  case noPrepare =>
    change execRekeyPrepare tag s = _
    rw [execRekeyPrepare, hm]
  case noSwitch =>
    change execRekeySwitch tag s = _
    rw [execRekeySwitch, hm]
  case trips =>
    obtain ⟨e, hlast, htype, haux⟩ := State.logEvent_newest ((s.sampled (readings.take 64)).haltAll s.firm.tenants) 13 10 0
      (tripSensor s.firm.thermal.hot (readings.take 64).zipIdx)
    refine ⟨_, e, execThermalSample_trips hd hhot h, hlast, htype, fun i n hi hn hb hlog hmax => ?_, fun tag htag => ?_⟩
    · rw [State.haltAll_log] at haux
      exact (haux hlog).trans (tripSensor_eq hi hn hb hmax)
    · obtain ⟨m, hm⟩ := Option.isSome_iff_exists.mp htag
      obtain ⟨x, hx, hhalt⟩ := State.tenant_haltAll s.firm.tenants tag (s := s.sampled (readings.take 64)) hm
        (.inr ⟨m, List.mem_of_find?_eq_some hm, by simpa using List.find?_some hm⟩)
      refine ⟨x, ?_, hhalt⟩
      rw [State.tenant, State.logEvent_tenants]
      exact hx
  case running =>
    change execHostReset start s = _
    rw [execHostReset, hp]
  case starting =>
    change execHostReset start s = _
    rw [execHostReset, hp]
  case minimal =>
    change execHostReset start s = _
    rw [execHostReset, hp]
  case off =>
    change execHostReset start s = _
    rw [execHostReset, hp]
  case late =>
    change execStartUpWatchdog s = _
    rw [execStartUpWatchdog, hp, hn]
    exact congrArg _ (if_pos hw)
  case early =>
    change execStartUpWatchdog s = _
    rw [execStartUpWatchdog, hp, hn]
    exact congrArg _ (if_neg (Nat.not_le.mpr hw))
  case idle =>
    change execStartUpWatchdog s = _
    rw [execStartUpWatchdog]
    split
    · rename_i n hp hn
      exact (h.elim (fun h => absurd hp h) fun h => absurd (hn.symm.trans h) (by simp))
    · rfl

end

section
/-!
The mailbox (R399 to R402): what a doorbell makes of a channel, the state in which a command begins, and the completion of a command.
-/
namespace Sys2Proof.Machine

open Sys2Proof

/-! ## Writing a key of a finite map -/

theorem FMap.mem_of_mem_set {α : Type} [DecidableEq α] {d v : α} {m : FMap α} {n : Nat} {e : Nat × α} (h : e ∈ FMap.set d m n v) :
    e = (n, v) ∨ e ∈ m := by
  induction m with
  | nil =>
    simp only [FMap.set] at h
    split at h
    · exact absurd h (List.not_mem_nil)
    · exact .inl (List.mem_singleton.mp h)
  | cons a rest ih =>
    obtain ⟨k, w⟩ := a
    simp only [FMap.set] at h
    split at h
    · split at h
      · exact .inr h
      · exact List.mem_cons.mp h
    split at h
    · split at h
      · exact .inr (List.mem_cons_of_mem _ h)
      · exact (List.mem_cons.mp h).imp_right (List.mem_cons_of_mem _)
    · obtain h | h := List.mem_cons.mp h
      · exact .inr (h ▸ List.mem_cons_self ..)
      · exact (ih h).imp_right (List.mem_cons_of_mem _)

/-- The second of two writes of a key stands. -/
theorem FMap.set_set {α : Type} [DecidableEq α] {d v : α} (hv : v ≠ d) (m : FMap α) (n : Nat) (w : α) :
    FMap.set d (FMap.set d m n v) n w = FMap.set d m n w := by
  induction m with
  | nil => simp [FMap.set, hv]
  | cons a rest ih =>
    obtain ⟨k, x⟩ := a
    by_cases hlt : n < k
    · simp [FMap.set, hlt, hv]
    · by_cases he : n = k
      · simp [FMap.set, he, hv]
      · simp [FMap.set, hlt, he, ih]

theorem State.chan_setChan {c : Channel} (hc : c ≠ Channel.fresh) (s : State) (ch : Nat) : (s.setChan ch c).chan ch = c :=
  FMap.get_set_listed _ _ _ _ hc

theorem State.setChan_setChan {c : Channel} (hc : c ≠ Channel.fresh) (s : State) (ch : Nat) (c' : Channel) :
    (s.setChan ch c).setChan ch c' = s.setChan ch c' :=
  congrArg (fun x => { s with firm := { s.firm with chans := x } }) (FMap.set_set hc ..)

theorem Channel.ne_fresh_of_busy {c : Channel} (h : c.busy = true) : c ≠ Channel.fresh := fun he => by
  rw [he] at h
  exact absurd h (by decide)

theorem Channel.ne_fresh_of_seen {c : Channel} (h : c.seen = true) : c ≠ Channel.fresh := fun he => by
  rw [he] at h
  exact absurd h (by decide)

theorem Channel.ne_fresh_of_result {c : Channel} {n : Nat} (h : c.result = some n) : c ≠ Channel.fresh := fun he => by
  rw [he] at h
  exact absurd h (by nofun)

/-- A channel whose command has its status. -/
theorem State.chan_finish (s : State) (ch status : Nat) (reply : List Word) :
    (s.finish ch status reply).chan ch = { s.chan ch with result := some status, reply := reply } :=
  State.chan_setChan (Channel.ne_fresh_of_result rfl) s ch

/-! ## What a doorbell writes of a channel (R400) -/

section Written

variable (c : Channel) (code : Nat) (cmd : Cmd)

@[simp] theorem Channel.written_busy : (c.written code cmd).busy = c.busy := by cases c; rfl
@[simp] theorem Channel.written_seen : (c.written code cmd).seen = c.seen := by cases c; rfl
@[simp] theorem Channel.written_doneSeq : (c.written code cmd).doneSeq = c.doneSeq := by cases c; rfl
@[simp] theorem Channel.written_drop : (c.written code cmd).drop = c.drop := by cases c; rfl
@[simp] theorem Channel.written_result : (c.written code cmd).result = c.result := by cases c; rfl

theorem Channel.written_payload : (c.written code cmd).payload = FMap.setMany 0 c.payload 0 (cmd.quads.take 224) := by cases c; rfl

/-- The request that stands in the payload does not depend on DOOR. -/
theorem Channel.written_request (other : Nat) : (c.written code cmd).request = (c.written other cmd).request := by
  rw [Channel.request, Channel.request, Channel.written_payload, Channel.written_payload]

end Written

/-! ## A doorbell that is taken (R401) -/

/-- A device that runs or is in minimal mode takes a request: the channel is idle, the request is not a repetition, and no other command is at work. -/
structure State.Rings (s : State) (cmd : Cmd) : Prop where
  power : s.firm.power = .running ∨ s.firm.power = .minimal
  port  : cmd.ch < 8
  idle  : (s.chan cmd.ch).busy = false
  fresh : ¬ ((s.chan cmd.ch).seen = true ∧ cmd.seq = (s.chan cmd.ch).doneSeq)
  free  : ∀ e ∈ s.firm.chans, e.2.work = none

/-- The code that a doorbell names, with the upper bits of DOOR above it. -/
def FullCode (code : Nat) (cmd : Cmd) (full : Nat) : Prop := cmd.high.toNat * 2 ^ 16 + code % 2 ^ 16 = full

theorem fullCode_of_plain {code : Nat} {cmd : Cmd} (hh : cmd.high = 0) (hc : code < 2 ^ 16) : FullCode code cmd code := by
  rw [FullCode, hh, Nat.mod_eq_of_lt hc]
  exact (congrArg (· + code) (Nat.zero_mul _)).trans (Nat.zero_add _)

/-- What the channel of a request works on. -/
def State.asked (s : State) (full code : Nat) (cmd : Cmd) : Accepted :=
  ⟨full, ((s.chan cmd.ch).written code cmd).request, cmd.seq, s.firm.accepts,
    s.commandTag (full) ((s.chan cmd.ch).written code cmd).request, false, false⟩

/-- The state in which firmware begins a request: BUSY is set, and the channel works on it. -/
def State.beginning (s : State) (full code : Nat) (cmd : Cmd) : State :=
  (s.setChan cmd.ch { (s.chan cmd.ch).written code cmd with busy := true, work := some { s.asked full code cmd with begun := true } }).modFirm
    fun f => { f with accepts := f.accepts + 1 }

theorem State.beginning_eq_accepted (s : State) (code : Nat) (cmd : Cmd) :
    s.beginning code code cmd = s.accepted code cmd := rfl

/-- The channel of a request that firmware has accepted and not yet begun. -/
def State.askedChan (s : State) (full code : Nat) (cmd : Cmd) : Channel :=
  { (s.chan cmd.ch).written code cmd with busy := true, work := some (s.asked full code cmd) }

theorem State.askedChan_ne_fresh (s : State) (full code : Nat) (cmd : Cmd) : s.askedChan full code cmd ≠ Channel.fresh :=
  Channel.ne_fresh_of_busy rfl

@[simp] theorem State.askedChan_result (s : State) (full code : Nat) (cmd : Cmd) :
    (s.askedChan full code cmd).result = (s.chan cmd.ch).result := by
  unfold State.askedChan
  rw [← Channel.written_result (s.chan cmd.ch) code cmd]

/-- The state in which firmware has accepted a request and not yet begun it. -/
def State.asking (s : State) (full code : Nat) (cmd : Cmd) : State :=
  (s.setChan cmd.ch (s.askedChan full code cmd)).modFirm fun f => { f with accepts := f.accepts + 1 }

theorem State.chan_asking (s : State) (full code : Nat) (cmd : Cmd) : (s.asking full code cmd).chan cmd.ch = s.askedChan full code cmd :=
  State.chan_setChan (s.askedChan_ne_fresh full code cmd) s cmd.ch

/-- Marking the accepted command as begun gives the channel of the beginning command. -/
theorem State.askedChan_begun (s : State) (full code : Nat) (cmd : Cmd) (w : Option Accepted) : { s.askedChan full code cmd with work := w } =
    { (s.chan cmd.ch).written code cmd with busy := true, work := w } := by
  unfold State.askedChan
  generalize (s.chan cmd.ch).written code cmd = c
  cases c
  rfl

theorem State.setChan_accepts (s : State) (ch : Nat) (c : Channel) : (s.modFirm fun f => { f with accepts := f.accepts + 1 }).setChan ch c =
    (s.setChan ch c).modFirm fun f => { f with accepts := f.accepts + 1 } := rfl

theorem State.doorbell_of_idle {s : State} {full code : Nat} {cmd : Cmd} (hfull : FullCode code cmd full)
    (hp : s.firm.power = .running ∨ s.firm.power = .minimal)
    (hch : cmd.ch < 8) (hi : (s.chan cmd.ch).busy = false) (hf : ¬ ((s.chan cmd.ch).seen = true ∧ cmd.seq = (s.chan cmd.ch).doneSeq)) :
    s.doorbell code cmd = (s.asking full code cmd).begin cmd.ch := by
  rw [FullCode] at hfull
  have hup : ¬ (s.firm.power = .off ∨ s.firm.power = .starting ∨ 8 ≤ cmd.ch) := by
    obtain hp | hp := hp <;> simp [hp, hch]
  simp only [State.doorbell, State.asking, State.askedChan, State.asked, hfull, if_neg hup, Channel.written_busy, Channel.written_seen,
    Channel.written_doneSeq, hi, Bool.false_eq_true, if_false, if_neg hf]

/-- A command begins when no earlier one is at work. -/
theorem State.begin_of_first {s t : State} {ch : Nat} {c : Channel} {a : Accepted} (hc : s.chan ch = c) (ha : c.work = some a)
    (hb : a.begun = false) (hcl : a.closed = false) (hfirst : ∀ e ∈ s.firm.chans, ∀ b, e.2.work = some b → ¬ b.order < a.order)
    (hrun : (s.setChan ch { c with work := some { a with begun := true } }).runCommand a.code ch a.quads = .done t) :
    s.begin ch = t := by
  unfold State.begin
  rw [hc]
  dsimp only
  rw [ha]
  dsimp only
  have hgo : (if a.closed = true then Begun.done ((s.setChan ch { c with work := some { a with begun := true } }).finish ch 3 [])
      else (s.setChan ch { c with work := some { a with begun := true } }).runCommand a.code ch a.quads) = .done t :=
    (if_neg (by rw [hcl]; decide)).trans hrun
  rw [hgo]
  refine if_neg ?_
  rw [hb, Bool.false_or, Bool.not_eq_true, List.any_eq_false]
  intro b hb
  obtain ⟨e, he, heb⟩ := List.mem_filterMap.mp hb
  split at heb
  · exact absurd heb (by rw [if_neg (hfirst e he _ (by assumption))]; simp)
  · exact absurd heb (by simp)

/-- A command that is at once done is what the doorbell makes. -/
theorem State.doorbell_of_done {s t : State} {full code : Nat} {cmd : Cmd} (hfull : FullCode code cmd full) (h : s.Rings cmd)
    (hrun : (s.beginning full code cmd).runCommand (full) cmd.ch ((s.chan cmd.ch).written code cmd).request = .done t) :
    s.doorbell code cmd = t := by
  obtain ⟨hp, hch, hi, hf, hfree⟩ := h
  rw [State.doorbell_of_idle hfull hp hch hi hf]
  refine State.begin_of_first (State.chan_asking ..) rfl rfl rfl (fun e he b hb => ?_) ?_
  · obtain rfl | he := FMap.mem_of_mem_set he
    · obtain rfl := Option.some.inj hb
      exact Nat.lt_irrefl _
    · rw [hfree e he] at hb
      exact absurd hb (by simp)
  · rw [State.asking, State.setChan_accepts, State.setChan_setChan (s.askedChan_ne_fresh full code cmd), State.askedChan_begun]
    exact hrun

/-! ## Codes (R399, R403) -/

/-- A code that R403 does not list, and one with bits above, is answered at once. -/
theorem State.runCommand_of_unlisted {s : State} (hp : s.firm.power = .running) {code : Nat} (hc : code = 0 ∨ 0x13 < code) (ch : Nat)
    (qs : List Word) : s.runCommand code ch qs = .done (s.finish ch (if 2 ^ 16 ≤ code then 2 else 1) []) := by
  unfold State.runCommand
  split
  any_goals omega
  rw [if_neg (by rw [hp]; decide)]
  split
  any_goals omega
  rfl

/-! ## Completion (R401) -/

theorem foldl_firm {α : Type} {g : State → α → State} (hg : ∀ s a, (g s a).firm = s.firm) (l : List α) (s : State) :
    (l.foldl g s).firm = s.firm := by
  induction l generalizing s with
  | nil => rfl
  | cons a l ih => exact (ih _).trans (hg s a)

theorem State.returnOp_firm (s : State) (o : Op) (m : Mark) : (s.returnOp o m).firm = s.firm := by
  unfold State.returnOp
  split <;> rfl

theorem State.returnOps_firm (s : State) (mine : Op → Bool) (m : Mark) : (s.returnOps mine m).firm = s.firm :=
  foldl_firm (fun s _ => s.returnOp_firm _ _) _ s

theorem State.dropTasks_firm (s : State) (jobs : List Nat) (m : Mark) : (s.dropTasks jobs m).firm = s.firm := by
  unfold State.dropTasks
  dsimp only
  rw [foldl_firm, State.modWork_firm, foldl_firm]
  · exact fun _ _ => rfl
  · exact fun _ _ => rfl

theorem State.endJob_firm (s : State) (job : Nat) : (s.endJob job).firm = s.firm := by
  unfold State.endJob State.dropLeft
  dsimp only
  rw [State.modWork_firm, State.modWork_firm, State.modFab_firm, foldl_firm, foldl_firm, State.modWork_firm, State.returnOps_firm,
    State.dropTasks_firm]
  · intro s x
    split <;> rfl
  · intro s x
    split
    · split <;> rfl
    · rfl

/-- What a command does as it completes leaves the one channel that is listed as it is, where its command has begun. -/
theorem State.completing_firm {s : State} {ch : Nat} {c : Channel} {a : Accepted} (hs : s.firm.chans = [(ch, c)]) (ha : c.work = some a)
    (hb : a.begun = true) (st : Nat) : (s.completing a st).firm = s.firm := by
  unfold State.completing
  split
  · rfl
  · split
    · exact State.endJob_firm ..
    · split
      · have hmap : ([(ch, c)].map fun e : Nat × Channel => (e.1, match e.2.work with
            | some b => if !b.begun && decide (b.names = a.names) then { e.2 with work := some { b with closed := true } } else e.2
            | none => e.2)) = [(ch, c)] := by
          simp [ha, hb]
        unfold State.markClosed State.modFirm
        dsimp only
        rw [hs]
        exact (congrArg (fun x => { s.firm with chans := x }) hmap).trans (by rw [← hs])
      · rfl

theorem State.completing_of_other {s : State} {a : Accepted} {st : Nat} (h : st ≠ 0 ∨ a.code ≠ 0x09) :
    (s.completing a st).store = s.store ∧ (s.completing a st).fab = s.fab ∧ (s.completing a st).work = s.work := by
  unfold State.completing
  split
  · exact ⟨rfl, rfl, rfl⟩
  · rename_i hst
    rw [if_neg (h.resolve_left hst)]
    split <;> exact ⟨rfl, rfl, rfl⟩

/-- Nothing waits to begin when the one channel that is listed is idle. -/
theorem State.beginWaiting_of_idle {s : State} {ch : Nat} {c : Channel} (hs : s.firm.chans = [(ch, c)]) (hc : c.work = none) :
    s.beginWaiting = s := by
  have hnone : s.unbegun = [] := by
    unfold State.unbegun
    simp [hs, hc]
  rw [State.beginWaiting, hnone, List.foldl_nil]

/-- The channel of a command that has completed. -/
def Channel.completed (c : Channel) (a : Accepted) (st : Nat) : Channel :=
  { c with busy := false, seen := true, doneSeq := a.seq, status := st, work := none, result := none }

theorem Channel.completed_ne_fresh (c : Channel) (a : Accepted) (st : Nat) : c.completed a st ≠ Channel.fresh :=
  Channel.ne_fresh_of_seen rfl

/-- The state after a completion that lets no other command begin. -/
def State.completed (s : State) (ch : Nat) (a : Accepted) (st : Nat) : State :=
  ((s.completing a st).setChan ch ((s.chan ch).completed a st)).modFirm fun f => { f with msix := f.msix ++ [ch] }

section Complete

variable {s : State} {ch : Nat} {a : Accepted} {st : Nat} (hs : s.firm.chans = [(ch, s.chan ch)]) (ha : (s.chan ch).work = some a)
  (hr : (s.chan ch).result = some st) (hb : a.begun = true)
include ha hr hb

theorem execCommandComplete_of_ending (he : s.ending a = true) :
    execCommandComplete ch s = .next (s.scheduleFree 1 (.commandComplete ch)) := by
  simp only [execCommandComplete, ha, hr, hb, he, if_true]

include hs

theorem execCommandComplete_of_ended (he : s.ending a = false) : execCommandComplete ch s = .next (s.completed ch a st) := by
  have hchans : (s.completed ch a st).firm.chans = [(ch, (s.chan ch).completed a st)] := by
    change FMap.set Channel.fresh (s.completing a st).firm.chans ch ((s.chan ch).completed a st) = _
    rw [State.completing_firm hs ha hb, hs]
    simp [FMap.set, Channel.completed_ne_fresh (s.chan ch) a st]
  have hidle := State.beginWaiting_of_idle hchans rfl
  simp only [execCommandComplete, ha, hr, hb, he, if_true, Bool.false_eq_true, if_false]
  exact congrArg _ hidle

end Complete

theorem State.completed_msix {s : State} {ch : Nat} {a : Accepted} (hs : s.firm.chans = [(ch, s.chan ch)])
    (ha : (s.chan ch).work = some a) (hb : a.begun = true) (st : Nat) : (s.completed ch a st).firm.msix = s.firm.msix ++ [ch] := by
  change (s.completing a st).firm.msix ++ [ch] = _
  rw [State.completing_firm hs ha hb]

theorem State.chan_completed (s : State) (ch : Nat) (a : Accepted) (st : Nat) :
    (s.completed ch a st).chan ch = (s.chan ch).completed a st :=
  State.chan_setChan (Channel.completed_ne_fresh (s.chan ch) a st) _ ch

/-- What is listed under a handle is gone with the job. -/
theorem State.endJob_closes (s : State) (h : Nat) : (∀ j ∈ (s.endJob h).work.jobs, j.handle ≠ h) ∧
    (∀ l ∈ (s.endJob h).work.launches, l.id.job ≠ h) ∧ ∀ r ∈ (s.endJob h).work.runs, r.job ≠ h := by
  unfold State.endJob
  generalize s.dropLeft h = x
  exact ⟨fun j hj => of_decide_eq_true (List.mem_filter.mp hj).2, fun l hl => of_decide_eq_true (List.mem_filter.mp hl).2,
    fun r hr => of_decide_eq_true (List.mem_filter.mp hr).2⟩

theorem State.completed_work_of_close {s : State} {ch : Nat} {a : Accepted} (hc : a.code = 0x09) :
    (s.completed ch a 0).work = (s.endJob (quadN a.quads 0)).work := by
  change (s.completing a 0).work = _
  rw [State.completing, if_neg (by decide), if_pos hc]

/-! ## A command that waits for an earlier one (R402) -/

/-- A command with an earlier one that it must follow is not begun. -/
theorem State.begin_of_follows {s : State} {ch : Nat} {c : Channel} {a b : Accepted} {e : Nat × Channel} (hc : s.chan ch = c)
    (ha : c.work = some a) (he : e ∈ s.firm.chans) (hb : e.2.work = some b) (hlt : b.order < a.order) (hf : s.mustFollow a b = true) :
    s.begin ch = s := by
  unfold State.begin
  rw [hc]
  dsimp only
  rw [ha]
  refine if_pos (Bool.or_eq_true_iff.mpr (.inr (List.any_eq_true.mpr ⟨b, List.mem_filterMap.mpr ⟨e, he, ?_⟩, hf⟩)))
  rw [hb]
  exact if_pos hlt

/-- A key that is not its default is listed when it is written, and so are the others. -/
theorem FMap.mem_set_of_ne {α : Type} [DecidableEq α] {d v : α} {m : FMap α} {n : Nat} {e : Nat × α} (he : e ∈ m) (hn : e.1 ≠ n) :
    e ∈ FMap.set d m n v := by
  induction m with
  | nil => exact absurd he (List.not_mem_nil)
  | cons a rest ih =>
    obtain ⟨k, w⟩ := a
    simp only [FMap.set]
    obtain rfl | he := List.mem_cons.mp he
    · split
      · split
        · exact List.mem_cons_self ..
        · exact List.mem_cons_of_mem _ (List.mem_cons_self ..)
      · rw [if_neg hn.symm]
        exact List.mem_cons_self ..
    · split
      · split
        · exact List.mem_cons_of_mem _ he
        · exact List.mem_cons_of_mem _ (List.mem_cons_of_mem _ he)
      split
      · split
        · exact he
        · exact List.mem_cons_of_mem _ he
      · exact List.mem_cons_of_mem _ (ih he)

/-- A `GRANT` must follow a `REVOKE` that names its tenant. -/
theorem State.mustFollow_grant_revoke (s : State) {a b : Accepted} {n : Nat} (ha : a.code = 0x05) (han : a.names = some n)
    (hb : b.code = 0x06) (hbn : b.names = some n) : s.mustFollow a b = true := by
  have hsa : s.scopes a = [.tenant n] := by simp only [State.scopes, ha, han]
  have hsb : s.scopes b = [.tenant n, .revocations] := by simp only [State.scopes, hb, hbn]
  simp [State.mustFollow, hsa, hsb, ha]

theorem FMap.get_setMany_below {α : Type} [DecidableEq α] (d : α) (vs : List α) (m : FMap α) {k n : Nat} (h : k < n) :
    (m.setMany d n vs).get d k = m.get d k := by
  induction vs generalizing m n with
  | nil => rfl
  | cons v vs ih => exact (ih (m.set d n v) (by omega)).trans (FMap.get_set_ne d m n k v (by omega))

/-- The first quad of a request is the first that the host has written, when the payload was empty. -/
theorem quad_request_zero {c : Channel} (hc : c.payload = []) (code : Nat) (cmd : Cmd) :
    quad (c.written code cmd).request 0 = quad cmd.quads 0 := by
  have hpay : (c.written code cmd).payload = FMap.setMany 0 [] 0 (cmd.quads.take 224) := by
    rw [Channel.written_payload, hc]
  have hhead : FMap.get 0 (FMap.setMany (0 : Word) [] 0 (cmd.quads.take 224)) 0 = quad cmd.quads 0 := by
    cases cmd.quads with
    | nil => rfl
    | cons q qs =>
      exact (FMap.get_setMany_below 0 _ _ (Nat.zero_lt_one)).trans (FMap.get_set_self 0 [] 0 q rfl)
  unfold Channel.request
  rw [hpay]
  split
  · rw [quad, List.drop_zero, List.range_succ_eq_map]
    exact hhead
  · rename_i hnone
    rw [← hhead, List.getLast?_eq_none_iff.mp hnone]
    rfl

end Sys2Proof.Machine

open Sys2Proof Sys2Proof.Machine

/-- Settles O54: the doorbell by its branches. A taken request begins at once unless an earlier command holds it up; the write that completes a
command is the last one of its channel. -/
theorem doorbellAndCompletion : Obligations.DoorbellAndCompletion := by
  unfold Obligations.DoorbellAndCompletion
  intro s ch hch
  refine ⟨fun cmd hcmd hp hbusy => ?dropped, fun cmd hcmd hp hi hseen hseq => ?repeated, fun cmd hcmd hp hi hseen hfree hhigh => ?high,
    fun cmd hcmd hp hi hseen hfree hhigh => ⟨?refused, ?served⟩, fun a st hs ha hr hb => ⟨fun he => execCommandComplete_of_ending ha hr hb he,
      fun he => ⟨_, execCommandComplete_of_ended hs ha hr hb he, State.chan_completed .., State.completed_msix hs ha hb st,
        fun h => State.completing_of_other h, fun hst hc => ?closed⟩⟩,
    fun b cmd o hcmd hhigh ho ho8 hp hs hbc hord hnames => ?follows⟩
  case dropped =>
    subst hcmd
    have hup : ¬ (s.firm.power = .off ∨ s.firm.power = .starting ∨ 8 ≤ cmd.ch) := by simp [hp, hch]
    refine ⟨s.setChan cmd.ch { (s.chan cmd.ch).written 0x0D cmd with drop := min 65535 ((s.chan cmd.ch).drop + 1) }, ?_,
      State.chan_setChan (Channel.ne_fresh_of_busy ?_) s cmd.ch, rfl, rfl, rfl, rfl⟩
    · change execAttest cmd s = _
      simp only [execAttest, State.doorbell, if_neg hup, Channel.written_busy, hbusy, if_true, Channel.written_drop]
    · rw [← Channel.written_busy (s.chan cmd.ch) 0x0D cmd] at hbusy
      generalize (s.chan cmd.ch).written 0x0D cmd = c at hbusy
      cases c
      exact hbusy
  case repeated =>
    subst hcmd
    have hup : ¬ (s.firm.power = .off ∨ s.firm.power = .starting ∨ 8 ≤ cmd.ch) := by simp [hp, hch]
    change execTenantOpen cmd s = _
    simp only [execTenantOpen, State.doorbell, if_neg hup, Channel.written_busy, hi, Bool.false_eq_true, if_false, Channel.written_seen,
      hseen, Channel.written_doneSeq, hseq, and_self, if_true]
  case high =>
    subst hcmd
    have hrings : s.Rings cmd := ⟨.inl hp, hch, hi, by rw [hseen]; exact fun h => absurd h.1 (by decide), hfree⟩
    obtain ⟨full, hfull⟩ : ∃ full, FullCode 0x01 cmd full := ⟨_, rfl⟩
    have hbig : 2 ^ 16 ≤ full := by
      have hpos : 0 < cmd.high.toNat := Nat.pos_of_ne_zero fun h => hhigh (BitVec.eq_of_toNat_eq h)
      rw [FullCode] at hfull
      omega
    have hrun := State.runCommand_of_unlisted (s := s.beginning full 0x01 cmd) hp (.inr (Nat.lt_of_lt_of_le (by decide) hbig)) cmd.ch
      ((s.chan cmd.ch).written 0x01 cmd).request
    refine ⟨_, congrArg Host.Outcome.next (State.doorbell_of_done hfull hrings hrun), ?_, rfl, rfl, rfl⟩
    rw [State.chan_finish, if_pos hbig]
  case refused =>
    subst hcmd
    have hrings : s.Rings cmd := ⟨.inr hp, hch, hi, by rw [hseen]; exact fun h => absurd h.1 (by decide), hfree⟩
    exact congrArg Host.Outcome.next (State.doorbell_of_done (fullCode_of_plain hhigh (by decide)) hrings
      (if_pos (c := (s.accepted 0x03 cmd).firm.power = .minimal) hp))
  case served =>
    subst hcmd
    have hrings : s.Rings cmd := ⟨.inr hp, hch, hi, by rw [hseen]; exact fun h => absurd h.1 (by decide), hfree⟩
    exact congrArg Host.Outcome.next (State.doorbell_of_done (fullCode_of_plain hhigh (by decide)) hrings rfl)
  case closed =>
    subst hst
    rw [State.completed_work_of_close hc]
    exact State.endJob_closes ..
  case follows =>
    subst hcmd
    have hidle : s.chan cmd.ch = Channel.fresh := by simp [State.chan, hs, FMap.get, ho.symm]
    have hbegin : (s.asking 0x05 0x05 cmd).begin cmd.ch = s.asking 0x05 0x05 cmd := by
      refine State.begin_of_follows (e := (o, { Channel.fresh with busy := true, work := some b })) (State.chan_asking ..) rfl
        (FMap.mem_set_of_ne (by rw [hs]; exact List.mem_singleton_self _) ho) rfl hord
        (State.mustFollow_grant_revoke _ (n := quadN cmd.quads 0) rfl ?_ hbc hnames)
      exact congrArg (fun q : Word => some q.toNat) (quad_request_zero (by rw [hidle]; rfl) 0x05 cmd)
    refine ⟨s.asking 0x05 0x05 cmd, ?_, ?_, ?_, FMap.get_set_ne _ _ _ _ _ ho, rfl, rfl⟩
    · refine congrArg Host.Outcome.next ((State.doorbell_of_idle (fullCode_of_plain hhigh (by decide)) (.inl hp) hch ?_ ?_).trans hbegin)
      · rw [hidle]; rfl
      · rw [hidle]; exact fun h => absurd h.1 (by decide)
    · rw [State.chan_asking]; rfl
    · rw [State.chan_asking, State.askedChan_result, hidle]
      rfl

end

section
/-!
Firmware commands (R403, R404): what a request's quads decide, the command that a taken request runs, and what an owner change and a reset leave.
-/
namespace Sys2Proof.Machine

open Sys2Proof

/-! ## The quads of a request -/

theorem quad_cons_succ (q : Word) (qs : List Word) (i : Nat) : quad (q :: qs) (i + 1) = quad qs i := rfl

/-- A request fits its masks when no quad has a bit outside its mask. -/
theorem fits_iff (ms qs : List Word) : fits ms qs = true ↔ ∀ i, quad qs i &&& ~~~(quad ms i) = 0 := by
  have hempty (i : Nat) : quad [] i = 0 := by simp [quad]
  induction qs generalizing ms with
  | nil => simp [fits, hempty]
  | cons q qs ih =>
    cases ms with
    | nil =>
      simp only [fits, Bool.and_eq_true, beq_iff_eq, ih, hempty]
      refine ⟨fun ⟨h0, hs⟩ i => ?_, fun h => ⟨?_, fun i => h (i + 1)⟩⟩
      · cases i with
        | zero => simp [quad, h0]
        | succ i => exact hs i
      · have h0 := h 0
        rwa [show ~~~(0 : Word) = BitVec.allOnes 64 by decide, BitVec.and_allOnes] at h0
    | cons m ms =>
      simp only [fits, Bool.and_eq_true, beq_iff_eq, ih]
      refine ⟨fun ⟨h0, hs⟩ i => ?_, fun h => ⟨h 0, fun i => h (i + 1)⟩⟩
      cases i with
      | zero => exact h0
      | succ i => exact hs i

section Congr

variable {p q : List Word} (h : ∀ i, quad p i = quad q i)
include h

theorem fits_congr (ms : List Word) : fits ms p = fits ms q := by
  rw [Bool.eq_iff_iff, fits_iff, fits_iff]
  simp only [h]

theorem quadN_congr (i : Nat) : quadN p i = quadN q i := congrArg BitVec.toNat (h i)

theorem State.withTenant_congr (s : State) (ch : Nat) (ms : List Word) (ok : Bool) (rest : Tenant → State) :
    s.withTenant ch ms p ok rest = s.withTenant ch ms q ok rest := by
  simp only [State.withTenant, fits_congr h, quadN_congr h]

theorem State.report_congr (s : State) (ch : Nat) (bs : List Byte) : s.report ch p bs = s.report ch q bs := by
  simp only [State.report, fits_congr h, quadN_congr h]

theorem State.tenantOpen_congr (s : State) (ch : Nat) : s.tenantOpen ch p = s.tenantOpen ch q := by
  simp only [State.tenantOpen, fits_congr h, quadN_congr h, h]

theorem State.tenantClose_congr (s : State) (ch : Nat) : s.tenantClose ch p = s.tenantClose ch q := by
  simp only [State.tenantClose, State.withTenant_congr h]

theorem State.grantCmd_congr (s : State) (ch : Nat) : s.grantCmd ch p = s.grantCmd ch q := by
  simp only [State.grantCmd, State.withTenant_congr h, quadN_congr h, h]

theorem State.revokeCmd_congr (s : State) (ch : Nat) : s.revokeCmd ch p = s.revokeCmd ch q := by
  simp only [State.revokeCmd, State.withTenant_congr h, quadN_congr h]

theorem State.moduleSubmit_congr (s : State) (ch : Nat) : s.moduleSubmit ch p = s.moduleSubmit ch q := by
  rw [State.moduleSubmit, State.moduleSubmit, State.withTenant_congr h, quadN_congr h 1, quadN_congr h 2]

theorem State.jobOpenCmd_congr (s : State) (ch : Nat) : s.jobOpenCmd ch p = s.jobOpenCmd ch q := by
  simp only [State.jobOpenCmd, fits_congr h, quadN_congr h, h]

theorem State.jobCloseCmd_congr (s : State) (ch : Nat) : s.jobCloseCmd ch p = s.jobCloseCmd ch q := by
  simp only [State.jobCloseCmd, fits_congr h, quadN_congr h]

theorem State.launchCmd_congr (s : State) (ch : Nat) : s.launchCmd ch p = s.launchCmd ch q := by
  simp only [State.launchCmd, fits_congr h, quadN_congr h, h]

theorem State.cancelMailbox_congr (s : State) (ch : Nat) : s.cancelMailbox ch p = s.cancelMailbox ch q := by
  simp only [State.cancelMailbox, fits_congr h, quadN_congr h]

theorem State.quiesceCmd_congr (s : State) (ch : Nat) : s.quiesceCmd ch p = s.quiesceCmd ch q := by
  simp only [State.quiesceCmd, fits_congr h, quadN_congr h]

theorem State.attestCmd_congr (s : State) (ch : Nat) : s.attestCmd ch p = s.attestCmd ch q := by
  simp only [State.attestCmd, State.withTenant_congr h, quadN_congr h, h]

theorem State.rekeyCmd_congr (s : State) (ch : Nat) : s.rekeyCmd ch p = s.rekeyCmd ch q := by
  simp only [State.rekeyCmd, State.withTenant_congr h]

theorem State.compactCmd_congr (s : State) (ch : Nat) : s.compactCmd ch p = s.compactCmd ch q := by
  simp only [State.compactCmd, fits_congr h, quadN_congr h]

theorem State.inboundOpenCmd_congr (s : State) (ch : Nat) : s.inboundOpenCmd ch p = s.inboundOpenCmd ch q := by
  simp only [State.inboundOpenCmd, State.withTenant_congr h, fits_congr h, quadN_congr h, h]

theorem State.logReadCmd_congr (s : State) (ch : Nat) : s.logReadCmd ch p = s.logReadCmd ch q := by
  simp only [State.logReadCmd, fits_congr h, quadN_congr h]

theorem State.partResetCmd_congr (s : State) (ch : Nat) : s.partResetCmd ch p = s.partResetCmd ch q := by
  simp only [State.partResetCmd, fits_congr h, quadN_congr h]

theorem State.maintCmd_congr (s : State) (ch : Nat) : s.maintCmd ch p = s.maintCmd ch q := by
  simp only [State.maintCmd, fits_congr h, quadN_congr h]

/-- A command reads nothing of a request but its quads. -/
theorem State.runCommand_congr (s : State) (code ch : Nat) : s.runCommand code ch p = s.runCommand code ch q := by
  unfold State.runCommand
  rw [State.report_congr h, State.report_congr h, State.tenantOpen_congr h, State.tenantClose_congr h, State.grantCmd_congr h,
    State.revokeCmd_congr h, State.moduleSubmit_congr h, State.jobOpenCmd_congr h, State.jobCloseCmd_congr h, State.launchCmd_congr h,
    State.cancelMailbox_congr h, State.quiesceCmd_congr h, State.attestCmd_congr h, State.rekeyCmd_congr h, State.compactCmd_congr h,
    State.inboundOpenCmd_congr h, State.logReadCmd_congr h, State.partResetCmd_congr h, State.maintCmd_congr h]

end Congr

/-! ## Masks -/

theorem fits_nil (ms : List Word) : fits ms [] = true := by cases ms <;> rfl

theorem fits_cons {m q : Word} {ms qs : List Word} (h : q &&& ~~~m = 0) (hs : fits ms qs = true) : fits (m :: ms) (q :: qs) = true := by
  simp [fits, h, hs]

/-- A number below 2^m has no bit above the low m. -/
theorem and_not_lowBits_eq_zero {x : Word} {m : Nat} (hm : m ≤ 64) (h : x.toNat < 2 ^ m) : x &&& ~~~(BitVec.ofNat 64 (2 ^ m - 1)) = 0 := by
  rw [and_not_lowBits_eq_div_mul x m hm, Nat.div_eq_of_lt h, Nat.zero_mul]
  rfl

theorem and_not_maskAll (x : Word) : x &&& ~~~maskAll = 0 := by simp [maskAll]

theorem and_not_maskTag {x : Word} (h : x.toNat < 2 ^ 14) : x &&& ~~~maskTag = 0 := and_not_lowBits_eq_zero (m := 14) (by decide) h

theorem and_not_mask32 {x : Word} (h : x.toNat < 2 ^ 32) : x &&& ~~~mask32 = 0 := and_not_lowBits_eq_zero (m := 32) (by decide) h

/-- A word whose bits all lie in a mask. -/
theorem and_not_of_or_eq {m x : Word} (h : m ||| x = m) : x &&& ~~~m = 0 := by
  calc x &&& ~~~m = x &&& ~~~(m ||| x) := by rw [h]
    _ = 0 := by
      rw [BitVec.not_or, BitVec.and_comm, BitVec.and_assoc, BitVec.and_comm (~~~x), BitVec.and_not_self]
      exact BitVec.and_zero

/-! ## The command of a taken request -/

section Takes

variable {s : State} {cmd : Cmd} (h : s.Takes cmd)
include h

theorem State.Takes.rings : s.Rings cmd := ⟨.inl h.power, h.port, h.idle, h.fresh, h.free⟩

/-- The command of a taken request, when it is at once done. -/
theorem State.Takes.runs {code : Nat} (hc : code < 2 ^ 16) {t : State}
    (hrun : (s.accepted code cmd).runCommand code cmd.ch cmd.quads = .done t) : s.doorbell code cmd = t := by
  have hquads (i : Nat) : quad ((s.chan cmd.ch).written code cmd).request i = quad cmd.quads i := by
    rw [Channel.written_request _ _ _ 0]
    exact h.holds i
  exact State.doorbell_of_done (fullCode_of_plain h.plain hc) h.rings
    ((State.runCommand_congr hquads (s.accepted code cmd) code cmd.ch).trans hrun)

theorem State.Takes.served : ¬ s.firm.power = .minimal := by
  rw [h.power]
  decide

theorem State.Takes.ident : exec (.ident cmd) s = .next ((s.accepted 0x01 cmd).report cmd.ch cmd.quads (s.accepted 0x01 cmd).identity) :=
  congrArg Host.Outcome.next (h.runs (by decide) rfl)

theorem State.Takes.resync : exec (.resync cmd) s = .next ((s.accepted 0x02 cmd).report cmd.ch cmd.quads (s.accepted 0x02 cmd).summary) :=
  congrArg Host.Outcome.next (h.runs (by decide) rfl)

theorem State.Takes.tenantOpen : exec (.tenantOpen cmd) s = .next ((s.accepted 0x03 cmd).tenantOpen cmd.ch cmd.quads) :=
  congrArg Host.Outcome.next (h.runs (by decide) (if_neg h.served))

theorem State.Takes.tenantClose : exec (.tenantClose cmd) s = .next ((s.accepted 0x04 cmd).tenantClose cmd.ch cmd.quads) :=
  congrArg Host.Outcome.next (h.runs (by decide) (if_neg h.served))

theorem State.Takes.grantRange : exec (.grantRange cmd) s = .next ((s.accepted 0x05 cmd).grantCmd cmd.ch cmd.quads) :=
  congrArg Host.Outcome.next (h.runs (by decide) (if_neg h.served))

theorem State.Takes.revoke : exec (.revoke cmd) s = .next ((s.accepted 0x06 cmd).revokeCmd cmd.ch cmd.quads) :=
  congrArg Host.Outcome.next (h.runs (by decide) (if_neg h.served))

theorem State.Takes.moduleSubmit : exec (.moduleSubmit cmd) s = .next ((s.accepted 0x07 cmd).moduleSubmit cmd.ch cmd.quads) :=
  congrArg Host.Outcome.next (h.runs (by decide) (if_neg h.served))

theorem State.Takes.jobOpen : exec (.jobOpen cmd) s = .next ((s.accepted 0x08 cmd).jobOpenCmd cmd.ch cmd.quads) :=
  congrArg Host.Outcome.next (h.runs (by decide) (if_neg h.served))

theorem State.Takes.jobClose : exec (.jobClose cmd) s = .next ((s.accepted 0x09 cmd).jobCloseCmd cmd.ch cmd.quads) :=
  congrArg Host.Outcome.next (h.runs (by decide) (if_neg h.served))

theorem State.Takes.launch {t : State} (hrun : (s.accepted 0x0A cmd).launchCmd cmd.ch cmd.quads = .done t) :
    exec (.launch cmd) s = .next t :=
  congrArg Host.Outcome.next (h.runs (by decide) ((if_neg h.served).trans hrun))

theorem State.Takes.cancelCmd : exec (.cancelCmd cmd) s = .next ((s.accepted 0x0B cmd).cancelMailbox cmd.ch cmd.quads) :=
  congrArg Host.Outcome.next (h.runs (by decide) (if_neg h.served))

theorem State.Takes.quiesce : exec (.quiesce cmd) s = .next ((s.accepted 0x0C cmd).quiesceCmd cmd.ch cmd.quads) :=
  congrArg Host.Outcome.next (h.runs (by decide) (if_neg h.served))

theorem State.Takes.attest : exec (.attest cmd) s = .next ((s.accepted 0x0D cmd).attestCmd cmd.ch cmd.quads) :=
  congrArg Host.Outcome.next (h.runs (by decide) (if_neg h.served))

theorem State.Takes.rekey : exec (.rekey cmd) s = .next ((s.accepted 0x0E cmd).rekeyCmd cmd.ch cmd.quads) :=
  congrArg Host.Outcome.next (h.runs (by decide) (if_neg h.served))

theorem State.Takes.compact {t : State} (hrun : (s.accepted 0x0F cmd).compactCmd cmd.ch cmd.quads = .done t) :
    exec (.compact cmd) s = .next t :=
  congrArg Host.Outcome.next (h.runs (by decide) ((if_neg h.served).trans hrun))

theorem State.Takes.inboundOpen : exec (.inboundOpen cmd) s = .next ((s.accepted 0x10 cmd).inboundOpenCmd cmd.ch cmd.quads) :=
  congrArg Host.Outcome.next (h.runs (by decide) (if_neg h.served))

theorem State.Takes.logRead : exec (.logRead cmd) s = .next ((s.accepted 0x11 cmd).logReadCmd cmd.ch cmd.quads) :=
  congrArg Host.Outcome.next (h.runs (by decide) (if_neg h.served))

theorem State.Takes.partReset : exec (.partReset cmd) s = .next ((s.accepted 0x12 cmd).partResetCmd cmd.ch cmd.quads) :=
  congrArg Host.Outcome.next (h.runs (by decide) (if_neg h.served))

theorem State.Takes.maintMode : exec (.maintMode cmd) s = .next ((s.accepted 0x13 cmd).maintCmd cmd.ch cmd.quads) :=
  congrArg Host.Outcome.next (h.runs (by decide) (if_neg h.served))

theorem State.Takes.unknownCmd {code : Nat} (hc : code = 0 ∨ 0x13 < code) (hlt : code < 2 ^ 16) :
    exec (.unknownCmd code cmd) s = .next ((s.accepted code cmd).finish cmd.ch 1 []) := by
  refine congrArg Host.Outcome.next (h.runs hlt ((State.runCommand_of_unlisted (s := s.accepted code cmd) h.power hc ..).trans ?_))
  rw [if_neg (Nat.not_le.mpr hlt)]

end Takes

/-! ## A request that names a tenant -/

theorem State.withTenant_of_open {s : State} {ch : Nat} {ms qs : List Word} {t : Tenant} (hf : fits ms qs = true)
    (ht : s.tenant (quadN qs 0) = some t) (rest : Tenant → State) : s.withTenant ch ms qs true rest = rest t := by
  simp [State.withTenant, hf, ht]

theorem State.withTenant_of_absent {s : State} {ch : Nat} {ms qs : List Word} (hf : fits ms qs = true)
    (ht : s.tenant (quadN qs 0) = none) (rest : Tenant → State) : s.withTenant ch ms qs true rest = s.finish ch 3 [] := by
  simp [State.withTenant, hf, ht]

/-! ## The owner of tiles (R370) -/

/-- One tile's change of owner. -/
def State.ownTile (owner : Option Nat) (s : State) (t : Nat) : State :=
  (((s.dropCode t).scrubTile t).setPart t .p16).modFab fun f => { f with owners := FMap.set none f.owners t owner }

theorem State.ownTile_firm (owner : Option Nat) (s : State) (t : Nat) : (s.ownTile owner t).firm = s.firm := by
  unfold State.ownTile State.setPart
  split <;> rfl

theorem State.ownTile_owners (owner : Option Nat) (s : State) (t : Nat) :
    (s.ownTile owner t).fab.owners = FMap.set none s.fab.owners t owner := by
  unfold State.ownTile State.setPart
  split <;> rfl

theorem State.setOwner_eq (s : State) (tiles : List Nat) (owner : Option Nat) :
    s.setOwner tiles owner = tiles.foldl (State.ownTile owner) (s.flushTiles tiles) := rfl

theorem State.setOwner_firm (s : State) (tiles : List Nat) (owner : Option Nat) :
    (s.setOwner tiles owner).firm = (s.flushTiles tiles).firm := by
  rw [State.setOwner_eq]
  exact foldl_firm (fun s t => s.ownTile_firm owner t) _ _

theorem State.setOwner_tenants (s : State) (tiles : List Nat) (owner : Option Nat) :
    (s.setOwner tiles owner).firm.tenants = s.firm.tenants :=
  (congrArg Firm.tenants (s.setOwner_firm tiles owner)).trans (State.KeepsMachine.writeBackWhere s _ 0).tenants

theorem State.setOwner_boot (s : State) (tiles : List Nat) (owner : Option Nat) :
    (s.setOwner tiles owner).firm.boot = s.firm.boot :=
  (congrArg Firm.boot (s.setOwner_firm tiles owner)).trans (State.KeepsMachine.writeBackWhere s _ 0).boot

theorem State.ownerOf_ownTiles {tag : Nat} (tiles : List Nat) {s : State} {x : Nat} (h : x ∈ tiles ∨ s.ownerOf x = some tag) :
    (tiles.foldl (State.ownTile (some tag)) s).ownerOf x = some tag := by
  induction tiles generalizing s with
  | nil => exact h.resolve_left (List.not_mem_nil)
  | cons t ts ih =>
    refine ih ?_
    by_cases hx : x = t
    · refine .inr ?_
      subst hx
      rw [State.ownerOf, State.ownTile_owners]
      exact FMap.get_set_listed _ _ _ _ (by simp)
    · refine (h.imp_left fun hm => (List.mem_cons.mp hm).resolve_left hx).imp_right fun ho => ?_
      rw [State.ownerOf, State.ownTile_owners, FMap.get_set_ne _ _ _ _ _ hx]
      exact ho

theorem State.ownerOf_setOwner (s : State) {tiles : List Nat} {tag x : Nat} (hx : x ∈ tiles) :
    (s.setOwner tiles (some tag)).ownerOf x = some tag := by
  rw [State.setOwner_eq]
  exact State.ownerOf_ownTiles tiles (.inl hx)

/-! ## A reset of tiles (R337, R403) -/

theorem foldl_ck {α : Type} {g : State → α → State} (hg : ∀ s a, (g s a).ck = s.ck) (l : List α) (s : State) :
    (l.foldl g s).ck = s.ck := by
  induction l generalizing s with
  | nil => rfl
  | cons a l ih => exact (ih _).trans (hg s a)

/-- A reset of tiles with nothing in flight and nothing queued takes no time. -/
theorem State.resetTiles_ck {s : State} (hops : s.work.ops = []) (hdeques : s.fab.deques = []) (hmsgs : s.fab.msgs = []) (t : Tenant) :
    (s.resetTiles t).ck = s.ck := by
  unfold State.resetTiles State.returnOps State.returnQueues
  simp only [hops, hdeques, hmsgs, List.filter_nil, List.foldl_nil]
  rw [foldl_ck (fun _ _ => by rfl)]
  rfl

end Sys2Proof.Machine

end

section
/-!
What each firmware command makes of its target (R403, R404).
-/
namespace Sys2Proof.Machine

open Sys2Proof

variable {s : State} {ch : Nat} {m : Tenant}

/-! ## Reports (R395, R403, R406) -/

theorem State.report_of_fits {qs : List Word} (hf : fits [maskAll, maskAll] qs = true) (s : State) (ch : Nat) (bs : List Byte) :
    s.report ch qs bs = (s.toHost (quadN qs 0) (bs.take (quadN qs 1))).finish ch 0 [BitVec.ofNat 64 bs.length] :=
  if_neg (by rw [hf]; decide)

theorem drop_length_take {α : Type} (l : List α) (n : Nat) : l.drop (l.take n).length = l.drop n := by
  rw [List.length_take]
  obtain h | h := Nat.le_total n l.length
  · rw [Nat.min_eq_left h]
  · rw [Nat.min_eq_right h, List.drop_of_length_le h, List.drop_length]

theorem State.logReadCmd_of_fits {qs : List Word} (hf : fits [maskAll, maskAll] qs = true) (s : State) (ch : Nat) :
    (s.logReadCmd ch qs).firm.log = s.firm.log.drop (quadN qs 1) ∧ ((s.logReadCmd ch qs).chan ch).result = some 0 ∧
      ((s.logReadCmd ch qs).chan ch).reply =
        [BitVec.ofNat 64 (min (quadN qs 1) s.firm.log.length), BitVec.ofNat 64 s.firm.logLost] := by
  have hgo : ¬ (!fits [maskAll, maskAll] qs) = true := by rw [hf]; decide
  unfold State.logReadCmd
  rw [if_neg hgo, State.chan_finish]
  exact ⟨drop_length_take .., rfl, by rw [List.length_take]; rfl⟩

/-! ## Tenants (R369, R404) -/

/-- While no command is at work but one of another code, no closing holds a tag. -/
theorem State.closing_of_none {tag : Nat} (h : ∀ e ∈ s.firm.chans, ∀ a, e.2.work = some a → a.code ≠ 0x04) : s.closing tag = false := by
  refine List.any_eq_false.mpr fun e he => ?_
  split
  · rename_i a ha
    simp [h e he a ha]
  · decide

theorem State.freeTag_congr {s t : State} (htenant : ∀ tag, t.tenant tag = s.tenant tag) (hclosing : ∀ tag, t.closing tag = s.closing tag)
    (start : Nat) : t.freeTag start = s.freeTag start := by
  simp only [State.freeTag, htenant, hclosing]

theorem State.tenant_of_freeTag {start tag : Nat} (h : s.freeTag start = some tag) : s.tenant tag = none := by
  obtain ⟨i, hi, rfl⟩ := Option.map_eq_some_iff.mp h
  have htest := List.find?_some hi
  simp only [Bool.and_eq_true, Option.isNone_iff_eq_none] at htest
  exact htest.1

/-- The tenant that a `TENANT_OPEN` of one rectangle makes. -/
def State.newTenant (s : State) (r : Rect) (tag : Nat) : Tenant :=
  { tag := tag, inst := (s.peerOpen tag).elim s.firm.boot.inst (·.2.1), pid := s.freePid s.firm.tenants.length s.firm.nextPid, rects := [r],
    slice := 1800000, deadline := 1800000, cls := 0, period := (s.peerOpen tag).elim 0 (·.2.2), prepared := false, sweep := none, bgen := 0,
    reach := [], halted := false, peers := (s.peerOpen tag).toList.map (·.1), swept := 0 }

/-- The state in which firmware lists a new tenant. -/
def State.listTenant (s : State) (t : Tenant) : State :=
  { s with freeCtr := s.freeCtr + 1 }.modFirm fun f => { f with
    tenants := f.tenants ++ [t]
    nextPid := t.pid % 65535 + 1
    wayMasks := FMap.set 0xFFFF f.wayMasks 0 0
    boot := { f.boot with inst := f.boot.inst + 1 } }

theorem State.tenantOpen_one {r : Word} {tag : Nat} (hok : (rectOf r).ok = true) (hmask : (0x3F7F3F7F : Word) ||| r = 0x3F7F3F7F)
    (hfree : ∀ x ∈ (rectOf r).tiles, s.ownerOf x = none) (htag : s.freeTag (Config.firstTag s.freeCtr) = some tag) :
    s.tenantOpen ch [1, 0, 0, r] = ((s.listTenant (s.newTenant (rectOf r) tag)).setOwner (s.newTenant (rectOf r) tag).tiles
      (some tag)).finish ch 0 [BitVec.ofNat 64 tag, BitVec.ofNat 64 (s.newTenant (rectOf r) tag).inst,
        BitVec.ofNat 64 (s.newTenant (rectOf r) tag).pid] := by
  have hfits : fits ([0xFFFF070F, maskAll, maskAll] ++ List.replicate (min 1 8) (0x3F7F3F7F : Word)) [1, 0, 0, r] = true :=
    fits_cons (by decide) (fits_cons (by decide) (fits_cons (by decide) (fits_cons (and_not_of_or_eq hmask) (fits_nil _))))
  have hnone : (([rectOf r].flatMap Rect.tiles).any fun t => (s.ownerOf t).isSome) = false := by
    rw [List.flatMap_singleton, List.any_eq_false]
    intro x hx
    simp [hfree x hx]
  have hn : quadN [1, 0, 0, r] 0 % 16 = 1 := rfl
  have hz : quadN [1, 0, 0, r] 0 = 1 := rfl
  have hcls : quadN [1, 0, 0, r] 0 / 2 ^ 8 % 8 = 0 := (congrArg (· / 2 ^ 8 % 8) hz).trans (by decide)
  have hway : quadN [1, 0, 0, r] 0 / 2 ^ 16 % 2 ^ 16 = 0 := (congrArg (· / 2 ^ 16 % 2 ^ 16) hz).trans (by decide)
  have h1 : quadN [1, 0, 0, r] 1 = 0 := rfl
  have h2 : quadN [1, 0, 0, r] 2 = 0 := rfl
  have hrects : ((List.range 1).map fun i => rectOf (quad [1, 0, 0, r] (3 + i))) = [rectOf r] := rfl
  unfold State.tenantOpen
  dsimp only
  rw [hn, hrects, hfits, if_neg (by simp [hok, disjointRects]), hnone, if_neg (by decide), htag]
  dsimp only
  rw [hcls, hway, h1, h2, if_pos rfl]
  rfl

theorem State.tenant_listTenant {t : Tenant} (h : s.tenant t.tag = none) : (s.listTenant t).tenant t.tag = some t := by
  change (s.firm.tenants ++ [t]).find? (fun x => decide (x.tag = t.tag)) = some t
  rw [List.find?_append, show s.firm.tenants.find? (fun x => decide (x.tag = t.tag)) = none from h]
  simp

/-! ## Grants (R376) -/

/-- Allocating extents changes no tenant. -/
theorem State.allocate_firm (s : State) (t : Tenant) (n : Nat) (code : Bool) : (s.allocate t n code).firm = s.firm := by
  unfold State.allocate
  dsimp only
  split
  · split
    · rfl
    · split <;> rfl
  · rfl

/-- The grant of a range of memory that the package can hold, where nothing is allocated. -/
theorem State.grantRange_of_empty {r : Range} (he : s.store.extents = [])
    (hcap : (r.limit - 1) / 2 ^ 21 + 1 - r.base / 2 ^ 21 ≤ capacity) : s.grantRange m r =
      (((extentRange r.base r.limit).foldl (fun s n => s.allocate m n false) s).modTenant m.tag fun x => { x with reach := x.reach ++ [r] },
        0) := by
  have hold : s.allocatedIn r.base r.limit = [] := by rw [State.allocatedIn, he, List.filter_nil]
  unfold State.grantRange
  dsimp only
  rw [hold, he, List.any_nil, if_neg (by decide), if_neg]
  rintro ⟨_, hlt⟩
  exact absurd hcap (Nat.not_le.mpr (by simpa using hlt))

theorem State.tenant_tag {n : Nat} (h : s.tenant n = some m) : m.tag = n := by simpa using List.find?_some h

section Grant

variable {n lo hi f : Word} (hn : n.toNat < 2 ^ 14) (hf : f.toNat < 8) (hr : rangeOk lo.toNat hi.toNat = true)
  (he : touchesEdge lo.toNat hi.toNat = false)
include hn hf

theorem fits_grant : fits [maskTag, maskAll, maskAll, 7] [n, lo, hi, f] = true :=
  fits_cons (and_not_maskTag hn) (fits_cons (and_not_maskAll lo) (fits_cons (and_not_maskAll hi)
    (fits_cons (and_not_lowBits_eq_zero (m := 3) (by decide) hf) (fits_nil _))))

include hr he

theorem State.grantCmd_of_absent (ht : s.tenant n.toNat = none) : s.grantCmd ch [n, lo, hi, f] = s.finish ch 3 [] := by
  have hok : (rangeOk lo.toNat hi.toNat && !touchesEdge lo.toNat hi.toNat) = true := by rw [hr, he]; rfl
  unfold State.grantCmd
  dsimp only
  rw [show (rangeOk (quadN [n, lo, hi, f] 1) (quadN [n, lo, hi, f] 2) && !touchesEdge (quadN [n, lo, hi, f] 1)
    (quadN [n, lo, hi, f] 2)) = true from hok]
  exact State.withTenant_of_absent (fits_grant hn hf) ht _

theorem State.grantCmd_of_open (ht : s.tenant n.toNat = some m) (hlen : m.reach.length < 64) : s.grantCmd ch [n, lo, hi, f] =
    (s.grantRange m ⟨lo.toNat, hi.toNat, f.getLsbD 0, f.getLsbD 1, f.getLsbD 2⟩).1.finish ch
      (s.grantRange m ⟨lo.toNat, hi.toNat, f.getLsbD 0, f.getLsbD 1, f.getLsbD 2⟩).2 [] := by
  have hok : (rangeOk lo.toNat hi.toNat && !touchesEdge lo.toNat hi.toNat) = true := by rw [hr, he]; rfl
  unfold State.grantCmd
  dsimp only
  rw [show (rangeOk (quadN [n, lo, hi, f] 1) (quadN [n, lo, hi, f] 2) && !touchesEdge (quadN [n, lo, hi, f] 1)
    (quadN [n, lo, hi, f] 2)) = true from hok]
  exact (State.withTenant_of_open (fits_grant hn hf) ht _).trans (if_neg (Nat.not_le.mpr hlen))

end Grant

theorem State.revokeCmd_of_open {n lo hi : Word} (hn : n.toNat < 2 ^ 14) (ht : s.tenant n.toNat = some m)
    (hr : rangeOk lo.toNat hi.toNat = true) (hlen : (cutReach m.reach lo.toNat hi.toNat).length ≤ 64) :
    s.revokeCmd ch [n, lo, hi] = s.startRevoke m lo.toNat hi.toNat 5 ch := by
  have hfits : fits [maskTag, maskAll, maskAll] [n, lo, hi] = true :=
    fits_cons (and_not_maskTag hn) (fits_cons (and_not_maskAll lo) (fits_cons (and_not_maskAll hi) (fits_nil _)))
  unfold State.revokeCmd
  dsimp only
  rw [show rangeOk (quadN [n, lo, hi] 1) (quadN [n, lo, hi] 2) = true from hr]
  exact (State.withTenant_of_open hfits ht _).trans (if_neg (Nat.not_lt.mpr hlen))

/-! ## Closing and rekeying a tenant (R392, R403, R414) -/

section OneTag

variable {n : Word} (hn : n.toNat < 2 ^ 14)
include hn

theorem fits_tag : fits [maskTag] [n] = true := fits_cons (and_not_maskTag hn) (fits_nil _)

variable (ht : s.tenant n.toNat = some m)
include ht

theorem State.tenantClose_of_noJobs (hj : s.work.jobs = []) : s.tenantClose ch [n] = s.startRevoke m 0 (2 ^ 56) closeStage ch := by
  refine (State.withTenant_of_open (fits_tag hn) ht _).trans ?_
  dsimp only
  rw [hj, List.filter_nil, List.foldl_nil]

theorem State.rekeyCmd_of_open : s.rekeyCmd ch [n] =
    if m.sweep.isSome ∨ m.prepared ∨ m.peers.any (fun p => (routeTo p s.firm.links.carrDown).isNone) then s.finish ch 5 []
    else if m.peers.isEmpty then (s.raisePeriod m.tag).finish ch 0 [BitVec.ofNat 64 ((m.period + 1) % 2 ^ 32)]
    else ((s.reportsOf m.peers).1.modTenant m.tag fun x => { x with prepared := true }).schedule (s.reportsOf m.peers).2
      (.rekeySwitch m.tag) :=
  State.withTenant_of_open (fits_tag hn) ht _

theorem State.rekeyCmd_of_busy (h : m.sweep.isSome = true ∨ m.prepared = true) : s.rekeyCmd ch [n] = s.finish ch 5 [] := by
  rw [State.rekeyCmd_of_open hn ht]
  exact if_pos (h.imp_right .inl)

theorem State.rekeyCmd_alone (hw : m.sweep = none) (hp : m.prepared = false) (hpeers : m.peers = []) :
    s.rekeyCmd ch [n] = (s.raisePeriod m.tag).finish ch 0 [BitVec.ofNat 64 ((m.period + 1) % 2 ^ 32)] := by
  rw [State.rekeyCmd_of_open hn ht, if_neg (by simp [hw, hp, hpeers]), if_pos (by rw [hpeers]; rfl)]

theorem State.rekeyCmd_shared (hw : m.sweep = none) (hp : m.prepared = false) (hpeers : m.peers ≠ []) : s.rekeyCmd ch [n] =
    if m.peers.any (fun p => (routeTo p s.firm.links.carrDown).isNone) then s.finish ch 5 []
    else ((s.reportsOf m.peers).1.modTenant m.tag fun x => { x with prepared := true }).schedule (s.reportsOf m.peers).2
      (.rekeySwitch m.tag) := by
  rw [State.rekeyCmd_of_open hn ht, if_neg (c := m.peers.isEmpty = true) (by rw [List.isEmpty_iff]; exact hpeers)]
  simp only [hw, hp, Option.isSome_none, Bool.false_eq_true, false_or]

end OneTag

/-- The packages of a tenant report later than now. -/
theorem State.reportsOf_due (s : State) (peers : List Nat) : s.ck < (s.reportsOf peers).2 :=
  List.foldlRecOn (motive := fun r : State × Nat => s.ck < r.2) peers _ (Nat.lt_succ_self _) fun _ hr _ _ =>
    Nat.lt_of_lt_of_le hr (Nat.le_max_left ..)

end Sys2Proof.Machine

end

section
/-!
Firmware commands on jobs, launches, extents, windows and partitions, and the statement on every command (R403, R404).
-/
namespace Sys2Proof.Machine

open Sys2Proof

variable {s : State} {ch : Nat} {m : Tenant} {j : Job}

/-! ## Modules and jobs (R350, R362, R403) -/

theorem State.moduleSubmit_of_open {n at_ len : Word} (hn : n.toNat < 2 ^ 14) (ht : s.tenant n.toNat = some m) :
    s.moduleSubmit ch [n, at_, len] =
      match Tvas.admission (s.fromHost at_.toNat len.toNat) m.bufferRanges (s.placedBuffers m.tag) with
      | .error code => s.finish ch 7 [BitVec.ofNat 64 code]
      | .ok p => s.sealModule ch m (s.fromHost at_.toNat len.toNat) p :=
  State.withTenant_of_open (fits_cons (and_not_maskTag hn) (fits_cons (and_not_maskAll at_) (fits_cons (and_not_maskAll len) (fits_nil _)))) ht _

/-- A job of a kernel without buffers, for a partition that has none. -/
theorem State.jobOpenCmd_of_idle {pid image rbase : Word} {k : Kernel} (hpid : pid.toNat < 2 ^ 16) (ht : s.tenantOfPid pid.toNat = some m)
    (hi : ∃ i, s.store.images.find? (fun i => decide (i.base = image) && decide (i.tag = m.tag)) = some i ∧ i.kernels[0]? = some k)
    (hcls : k.cls = 2) (hbufs : k.bufs = []) (hbase : rbase.toNat % 4096 = 0) (hjobs : s.work.jobs = [])
    (hswap : s.swapping pid.toNat = false)
    (hroom : ∃ r ∈ m.reach, r.base ≤ rbase.toNat ∧ rbase.toNat + 12288 * m.tiles.length ≤ r.limit ∧ r.rd = true ∧ r.wr = true) :
    s.jobOpenCmd ch [pid, image, 0, rbase, 0] = (s.openJob m image k rbase.toNat [] []).1.finish ch 0
      [BitVec.ofNat 64 (s.openJob m image k rbase.toNat [] []).2] := by
  obtain ⟨i, hfind, hk⟩ := hi
  obtain ⟨r, hr, hlo, hhi, hrd, hwr⟩ := hroom
  have hmpid : m.pid = pid.toNat := by simpa using List.find?_some ht
  have hib : i.base = image := by
    have htest := List.find?_some hfind
    simp only [Bool.and_eq_true, decide_eq_true_eq] at htest
    exact htest.1
  have hfits : fits ([0xFFFF, maskAll, 0xFF, maskAll, 0xF] ++ List.replicate (min 0 8) maskAll) [pid, image, 0, rbase, 0] = true :=
    fits_cons (and_not_lowBits_eq_zero (m := 16) (by decide) hpid) (fits_cons (and_not_maskAll image) (fits_cons (by decide)
      (fits_cons (and_not_maskAll rbase) (fits_cons (by decide) (fits_nil _)))))
  have hreach : (m.reach.any fun r => decide (r.base ≤ rbase.toNat) && decide (rbase.toNat + 12288 * m.tiles.length ≤ r.limit) && r.rd &&
      r.wr) = true := List.any_eq_true.mpr ⟨r, hr, by simp [hlo, hhi, hrd, hwr]⟩
  have hargn : quadN [pid, image, 0, rbase, 0] 4 % 16 = 0 := rfl
  have hrb : quadN [pid, image, 0, rbase, 0] 3 = rbase.toNat := rfl
  have hp0 : quadN [pid, image, 0, rbase, 0] 0 = pid.toNat := rfl
  have him : quad [pid, image, 0, rbase, 0] 1 = image := rfl
  have hk0 : quadN [pid, image, 0, rbase, 0] 2 = 0 := rfl
  have hargs : s.checkArgs m.tag [] k.bufs = some [] := by rw [hbufs]; rfl
  unfold State.jobOpenCmd
  dsimp only
  rw [hargn, hrb, hp0, him, hk0, hfits, if_neg (by simp [hbase]), ht]
  dsimp only
  rw [hfind]
  dsimp only
  rw [hk]
  dsimp only
  rw [List.range_zero, List.map_nil, hargs]
  dsimp only
  rw [if_neg (by rw [hreach]; simp [hcls]), if_neg (by rw [hjobs, hmpid, hswap]; simp), hib]

theorem State.jobCloseCmd_forced {h : Word} (hh : h.toNat < 2 ^ 32) (hj : s.job h.toNat = some j) :
    s.jobCloseCmd ch [h, 1] = (s.cancelJob j.handle .cancel).finish ch 0 [] := by
  have hfits : fits [mask32, 1] [h, 1] = true := fits_cons (and_not_mask32 hh) (fits_cons (by decide) (fits_nil _))
  have hh0 : quadN [h, 1] 0 = h.toNat := rfl
  have hforce : quadN [h, 1] 1 = 1 := rfl
  unfold State.jobCloseCmd
  rw [hfits, if_neg (by decide), hh0, hj, hforce]
  exact if_neg fun h => absurd h.2 (by decide)

/-! ## Launches and cancels (R238, R403) -/

theorem State.launchCmd_of_desc {h p : Word} (hh : h.toNat < 2 ^ 32) (hj : s.job h.toNat = some j) (hp : p.getLsbD 63 = false) :
    s.launchCmd ch [h, p] = s.launchDesc ch j p := by
  have hfits : fits [mask32, maskAll] [h, p] = true := fits_cons (and_not_mask32 hh) (fits_cons (and_not_maskAll p) (fits_nil _))
  have hclear : p &&& ~~~(1#64 <<< 63) = p := by
    ext i hi
    simp only [BitVec.getElem_and, BitVec.getElem_not]
    by_cases h63 : i = 63
    · subst h63
      have hbit : p[63] = false := by simpa [BitVec.getLsbD_eq_getElem] using hp
      simp [hbit]
    · have hzero : (1#64 <<< 63)[i] = false := by
        simp only [BitVec.getElem_shiftLeft]
        rw [decide_eq_true (by omega : i < 63)]
        rfl
      rw [hzero]
      simp
  have hh0 : quadN [h, p] 0 = h.toNat := rfl
  have hp1 : quad [h, p] 1 = p := rfl
  unfold State.launchCmd
  dsimp only
  rw [hh0, hp1, hp, show (if false = true then [mask32, maskAll, maskAll] else [mask32, maskAll]) = [mask32, maskAll] from rfl, hfits,
    if_neg (by decide), hj, hclear]
  rfl

theorem State.launchDesc_of_misaligned {p : Word} (h : p.toNat % 128 ≠ 0) : s.launchDesc ch j p = .done (s.finish ch 2 []) := if_pos h

theorem State.cancelMailbox_of_live {l h : Word} {job : Nat} (hl : l.toNat < 4) (h0 : h ≠ 0) (hh : h.toNat < 2 ^ 32)
    (ht : s.targetJob l.toNat h.toNat = some job) :
    s.cancelMailbox ch [l, h] = (s.askCancel job l.toNat h.toNat 0).finish ch 0 [] := by
  have hfits : fits [3, mask32] [l, h] = true :=
    fits_cons (and_not_lowBits_eq_zero (m := 2) (by decide) hl) (fits_cons (and_not_mask32 hh) (fits_nil _))
  have hl0 : quadN [l, h] 0 = l.toNat := rfl
  have hh1 : quadN [l, h] 1 = h.toNat := rfl
  have hne : (h.toNat == 0) = false := by
    rw [beq_eq_false_iff_ne]
    exact fun h => h0 (BitVec.eq_of_toNat_eq h)
  unfold State.cancelMailbox
  dsimp only
  rw [hl0, hh1, hfits, hne, if_neg (by decide), ht]

theorem State.quiesceCmd_of_phase {h p : Word} {x : Phase} (hh : h.toNat < 2 ^ 32) (hp : p.toNat < 2 ^ 32) (hj : s.job h.toNat = some j)
    (hx : s.phase ⟨h.toNat, p.toNat⟩ = some x) :
    s.quiesceCmd ch [h, p] = if x.quiet then s.finish ch 0 [s.phaseStatus ⟨h.toNat, p.toNat⟩] else s := by
  have hfits : fits [mask32, mask32] [h, p] = true := fits_cons (and_not_mask32 hh) (fits_cons (and_not_mask32 hp) (fits_nil _))
  have hh0 : quadN [h, p] 0 = h.toNat := rfl
  have hp1 : quadN [h, p] 1 = p.toNat := rfl
  unfold State.quiesceCmd
  dsimp only
  rw [hfits, if_neg (by decide), hh0, hp1, hj, hx]

/-! ## Attestation and extents (R364, R368, R403) -/

theorem State.attestCmd_of_image {qs : List Word} {i : Image} (hf : fits ([maskTag] ++ List.replicate 7 maskAll) qs = true)
    (ht : s.tenant (quadN qs 0) = some m)
    (hi : s.store.images.find? (fun i => decide (i.base = quad qs 1) && decide (i.tag = m.tag)) = some i) : ∃ sig, s.attestCmd ch qs =
      s.finish ch 0 (wordsOf (i.record ++ ((List.range 6).flatMap fun k => bytesOfNat (quadN qs (2 + k)) 8) ++ sig)) := by
  refine ⟨(Config.attestSign m.inst m.period (i.record ++ (List.range 6).flatMap fun k => bytesOfNat (quadN qs (2 + k)) 8)).take 96,
    (State.withTenant_of_open hf ht _).trans ?_⟩
  dsimp only
  rw [hi]

section Compact

variable {n e c : Word} (hn : n.toNat < 2 ^ 14) (he : e.toNat < 2 ^ 35) (hc : c.toNat ≤ 4) (ht : s.tenant n.toNat = some m)
include hn he hc ht

theorem State.compactCmd_of_fenced (hs : (s.extentAt e.toNat).state = .fenced) :
    s.compactCmd ch [n, e, c] = .done (s.finish ch 0 []) := by
  have hfits : fits [maskTag, 0x7FFFFFFFF, 7] [n, e, c] = true := fits_cons (and_not_maskTag hn)
    (fits_cons (and_not_lowBits_eq_zero (m := 35) (by decide) he)
      (fits_cons (and_not_lowBits_eq_zero (m := 3) (by decide) (Nat.lt_of_le_of_lt hc (by decide))) (fits_nil _)))
  have h0 : quadN [n, e, c] 0 = n.toNat := rfl
  have h1 : quadN [n, e, c] 1 = e.toNat := rfl
  have h2 : quadN [n, e, c] 2 = c.toNat := rfl
  have hc' : decide (4 < c.toNat) = false := decide_eq_false (Nat.not_lt.mpr hc)
  unfold State.compactCmd
  dsimp only
  rw [h0, h1, h2, hfits, hc', if_neg (by decide), ht]
  dsimp only
  rw [hs]

theorem State.compactCmd_moves (hs : (s.extentAt e.toNat).state = .present) (ho : (s.extentAt e.toNat).owner = m.tag)
    (hp : (s.extentAt e.toNat).place = .dram 1) (hc0 : c = 0) (hfree : 0 < s.freeOnDie 0) : s.compactCmd ch [n, e, c] =
      .done ((s.startMove e.toNat (.dram 0)).scheduleFree 1 (.extentMoveEnd e.toNat)) := by
  have hfits : fits [maskTag, 0x7FFFFFFFF, 7] [n, e, c] = true := fits_cons (and_not_maskTag hn)
    (fits_cons (and_not_lowBits_eq_zero (m := 35) (by decide) he)
      (fits_cons (and_not_lowBits_eq_zero (m := 3) (by decide) (Nat.lt_of_le_of_lt hc (by decide))) (fits_nil _)))
  have h0 : quadN [n, e, c] 0 = n.toNat := rfl
  have h1 : quadN [n, e, c] 1 = e.toNat := rfl
  have h2 : quadN [n, e, c] 2 = 0 := by rw [hc0]; rfl
  unfold State.compactCmd
  dsimp only
  rw [h0, h1, h2, hfits, if_neg (by decide), ht]
  dsimp only
  rw [hs]
  dsimp only
  rw [if_neg (not_not_intro ho), if_neg (by rw [hp]; simp), if_pos (by decide), if_pos hfree]

end Compact

/-! ## Inbound windows (R378) -/

/-- The two bits of a direction, read as a number. -/
theorem direction_bits (f : Word) : ((f.extractLsb' 16 2).toNat % 2 == 1) = f.getLsbD 16 ∧
    decide (2 ≤ (f.extractLsb' 16 2).toNat) = f.getLsbD 17 := by
  have hbits : ∀ d : BitVec 2, (d.toNat % 2 == 1) = d.getLsbD 0 ∧ decide (2 ≤ d.toNat) = d.getLsbD 1 := by decide
  obtain ⟨h0, h1⟩ := hbits (f.extractLsb' 16 2)
  refine ⟨h0.trans ?_, h1.trans ?_⟩
  · simp
  · simp

theorem State.inboundOpenCmd_first {n lo hi f : Word} (hn : n.toNat < 2 ^ 14) (ht : s.tenant n.toNat = some m) (hlt : lo.toNat < hi.toNat)
    (hhi : hi.toNat ≤ 2 ^ 56) (hlo : lo.getLsbD 63 = false) (hf : f.toNat < 2 ^ 19) (hd : f.extractLsb' 16 2 ≠ 0)
    (hw : s.firm.inWins = []) : s.inboundOpenCmd ch [n, lo, hi, f] = (s.modFirm fun g => { g with inWins := g.inWins ++
      [⟨0, m.tag, lo.toNat, hi.toNat, (f.extractLsb' 0 16).toNat, f.getLsbD 16, f.getLsbD 17, f.getLsbD 18⟩] }).finish ch 0
        [0] := by
  have hfits : fits [maskTag, maskAll, maskAll, 0x7FFFF] [n, lo, hi, f] = true := fits_cons (and_not_maskTag hn)
    (fits_cons (and_not_maskAll lo) (fits_cons (and_not_maskAll hi)
      (fits_cons (and_not_lowBits_eq_zero (m := 19) (by decide) hf) (fits_nil _))))
  have h1 : quad [n, lo, hi, f] 1 = lo := rfl
  have h1N : quadN [n, lo, hi, f] 1 = lo.toNat := rfl
  have h2 : quadN [n, lo, hi, f] 2 = hi.toNat := rfl
  have h3 : quad [n, lo, hi, f] 3 = f := rfl
  have hdir : (f.extractLsb' 16 2).toNat ≠ 0 := fun h => hd (BitVec.eq_of_toNat_eq h)
  obtain ⟨hbit0, hbit1⟩ := direction_bits f
  unfold State.inboundOpenCmd
  dsimp only
  rw [h1, hlo, if_neg (by decide), h1N, h2, h3, show (decide (lo.toNat < hi.toNat) && decide (hi.toNat ≤ 2 ^ 56) &&
    decide ((f.extractLsb' 16 2).toNat ≠ 0)) = true by
      rw [decide_eq_true hlt, decide_eq_true hhi, decide_eq_true hdir]; rfl]
  refine (State.withTenant_of_open hfits ht _).trans ?_
  rw [hw, show (List.range 256).find? (fun n => ([] : List InWindow).all fun w => decide (w.num ≠ n)) = some 0 from rfl]
  dsimp only
  rw [if_neg (by simp), hbit0, hbit1]
  rfl

/-! ## Resets of partitions and the mode (R337, R403, R423) -/

section Reset

variable {pid : Word} (hpid : pid.toNat < 2 ^ 16) (ht : s.tenantOfPid pid.toNat = some m)
include hpid ht

theorem State.partResetCmd_of_warn (hw : s.firm.thermal.warn = true) : s.partResetCmd ch [pid] = s.finish ch 5 [] := by
  have hfits : fits [0xFFFF] [pid] = true := fits_cons (and_not_lowBits_eq_zero (m := 16) (by decide) hpid) (fits_nil _)
  have h0 : quadN [pid] 0 = pid.toNat := rfl
  unfold State.partResetCmd
  rw [hfits, if_neg (by decide), h0, ht]
  exact if_pos hw

theorem State.partResetCmd_of_idle (hw : s.firm.thermal.warn = false) (hops : s.work.ops = []) (hdeques : s.fab.deques = [])
    (hmsgs : s.fab.msgs = []) (hlaunches : s.work.launches = []) (hswapped : s.work.swapped = []) : s.partResetCmd ch [pid] =
      ((((s.resetTiles m).modTenant m.tag fun x => { x with halted := false }).modWork fun w => { w with
        swaps := w.swaps.filter fun r => decide (r.pid ≠ m.pid) }).schedule (s.ck + 1) (.launchPlacement m.pid)).finish ch 0 [] := by
  have hfits : fits [0xFFFF] [pid] = true := fits_cons (and_not_lowBits_eq_zero (m := 16) (by decide) hpid) (fits_nil _)
  have h0 : quadN [pid] 0 = pid.toNat := rfl
  unfold State.partResetCmd
  rw [hfits, if_neg (by decide), h0, ht]
  dsimp only
  rw [hw, if_neg (by decide), hlaunches, List.filter_nil, List.map_nil, List.foldl_nil, hswapped, List.find?_nil]
  dsimp only
  rw [← State.resetTiles_ck hops hdeques hmsgs m]
  rfl

end Reset

/-! ## What an opened tenant leaves (R403 TENANT_OPEN) -/

section Opened

variable {s : State} {r : Rect} {tag ch code : Nat} {qs : List Word}

theorem State.opened_tenant (h : s.tenant tag = none) :
    (((s.listTenant (s.newTenant r tag)).setOwner (s.newTenant r tag).tiles (some tag)).finish ch code qs).tenant tag =
      some (s.newTenant r tag) :=
  (State.tenant_of_tenants (State.setOwner_tenants ..) tag).trans (State.tenant_listTenant (t := s.newTenant r tag) h)

theorem State.opened_owner {x : Nat} (hx : x ∈ r.tiles) :
    (((s.listTenant (s.newTenant r tag)).setOwner (s.newTenant r tag).tiles (some tag)).finish ch code qs).ownerOf x = some tag :=
  State.ownerOf_setOwner _ (List.mem_flatMap.mpr ⟨_, List.mem_singleton_self _, hx⟩)

theorem State.opened_inst (s : State) (r : Rect) (tag ch code : Nat) (qs : List Word) :
    (((s.listTenant (s.newTenant r tag)).setOwner (s.newTenant r tag).tiles (some tag)).finish ch code qs).firm.boot.inst =
      s.firm.boot.inst + 1 :=
  congrArg Boot.inst (State.setOwner_boot ..)

/-- INST, PERIOD and the peers of a new tenant are those of the peer that opened its tag, if one has. -/
theorem State.newTenant_identity (s : State) (r : Rect) (tag : Nat) :
    ((s.newTenant r tag).inst, (s.newTenant r tag).period, (s.newTenant r tag).peers) = (match s.peerOpen tag with
      | none => (s.firm.boot.inst, 0, [])
      | some (p, i, k) => (i, k, [p])) := by
  unfold State.newTenant
  cases s.peerOpen tag <;> rfl

theorem State.closing_accepted_open {cmd : Cmd} (h : ∀ e ∈ s.firm.chans, e.2.work = none) (tag : Nat) :
    (s.accepted 0x03 cmd).closing tag = s.closing tag := by
  rw [State.closing_of_none (s := s) fun e he a ha => absurd (ha.symm.trans (h e he)) (by simp)]
  refine State.closing_of_none fun e he a ha => ?_
  obtain rfl | he := FMap.mem_of_mem_set he
  · obtain rfl := Option.some.inj ha
    exact Nat.ne_of_lt (by decide : 0x03 < 0x04)
  · exact absurd (ha.symm.trans (h e he)) (by simp)

end Opened

theorem State.maintCmd_enter (s : State) (ch : Nat) : s.maintCmd ch [1] =
    if s.work.jobs = [] then (s.modFirm fun f => { f with maint := true }).finish ch 0 [] else s.finish ch 5 [] := by
  have hfits : fits [1] [1] = true := by decide
  have h0 : quadN [1] 0 = 1 := rfl
  unfold State.maintCmd
  rw [hfits, if_neg (by decide), h0]
  by_cases hj : s.work.jobs = []
  · rw [if_pos hj, if_neg (by simp [hj])]
    rfl
  · rw [if_neg hj, if_pos (by simp [hj])]

end Sys2Proof.Machine

open Sys2Proof Sys2Proof.Machine

/-- Settles O53: a taken request runs its command on the state that lists it, by the lemmas above, each on the request's own quads. -/
theorem firmwareCommandsTakeEffect : Obligations.FirmwareCommandsTakeEffect := by
  unfold Obligations.FirmwareCommandsTakeEffect
  intro s cmd h
  refine ⟨fun hf => ⟨h.ident.trans (congrArg _ (State.report_of_fits hf ..)), h.resync.trans (congrArg _ (State.report_of_fits hf ..)),
      _, h.logRead, State.logReadCmd_of_fits hf ..⟩,
    fun tag r hq hok hmask hfree htag => ?opens, fun n lo hi f hq hn ht hf hr he => ?grantAbsent,
    fun n lo hi f m hq hn ht hf hr he hlen hext hcap => ?grants, fun n lo hi m hq hn ht hr hlen => ?revokes,
    fun n m hq hn ht => ⟨fun hj => ?closes, fun hw hp hpeers => ?rekeys, fun hw hp hpeers => ?prepares, fun hbusy => ?rekeyBusy⟩,
    fun n at_ len m hq hn ht => ⟨fun code hc => ?moduleBad, fun p hp => ?moduleGood⟩,
    fun pid m image k rbase hq hpid ht hi hcls hbufs hbase hjobs hswap hroom => ?jobOpens, fun hd j hq hh hj => ?jobCloses,
    fun hd p j hq hh hj hp => ⟨fun hal => ?misaligned, fun t ht => ?launches⟩, fun l hd job hq hl h0 hh ht => ?cancels,
    fun hd p j x hq hh hp hj hx => ⟨fun hquiet => ?quiet, fun hquiet => ?waits⟩, fun n m i hf hq ht hi => ?attests,
    fun n e c m hq hn he hc ht => ⟨fun hs => ?compactFenced, fun hs ho hp hc0 hfree => ?compacts⟩,
    fun n lo hi f m hq hn ht hlt hhi hlo hf hd hw => ?inbound, fun pid m hq hpid ht hw => ?resetRefused,
    fun pid m hq hpid ht hw hops hdeques hmsgs hlaunches hswapped => ?resets, fun hq hj => ?maint, fun hq hj => ?maintBusy,
    fun code hc hlt => h.unknownCmd hc hlt⟩
  case opens =>
    have htag' : (s.accepted 0x03 cmd).freeTag (Config.firstTag s.freeCtr) = some tag :=
      (State.freeTag_congr (s := s) (t := s.accepted 0x03 cmd) (fun t => State.tenant_of_tenants rfl t)
        (State.closing_accepted_open h.free) (Config.firstTag s.freeCtr)).trans htag
    refine ⟨_, (s.accepted 0x03 cmd).newTenant (rectOf r) tag, h.tenantOpen.trans (by rw [hq, State.tenantOpen_one (s := s.accepted 0x03 cmd) hok hmask hfree htag']),
      State.opened_tenant (State.tenant_of_freeTag htag'), rfl, State.newTenant_identity (s.accepted 0x03 cmd) (rectOf r) tag, rfl, rfl,
      fun x hx => State.opened_owner hx, State.opened_inst .., ?_, ?_⟩
    · rw [State.chan_finish]
    · rw [State.chan_finish]
  case grantAbsent =>
    rw [h.grantRange, hq]
    exact congrArg _ (State.grantCmd_of_absent hn hf hr he ht)
  case grants =>
    have htag := State.tenant_tag ht
    have hgrant := State.grantRange_of_empty (s := s.accepted 0x05 cmd) (m := m)
      (r := ⟨lo.toNat, hi.toNat, f.getLsbD 0, f.getLsbD 1, f.getLsbD 2⟩) hext hcap
    have htenant : ((extentRange lo.toNat hi.toNat).foldl (fun s n => s.allocate m n false) (s.accepted 0x05 cmd)).tenant n.toNat = some m :=
      (State.tenant_of_tenants (congrArg Firm.tenants (foldl_firm (fun s k => s.allocate_firm m k false) _ _)) _).trans ht
    refine ⟨_, { m with reach := m.reach ++ [⟨lo.toNat, hi.toNat, f.getLsbD 0, f.getLsbD 1, f.getLsbD 2⟩] },
      h.grantRange.trans (by rw [hq, State.grantCmd_of_open (s := s.accepted 0x05 cmd) hn hf hr he ht hlen, hgrant]), ?_, ?_, ?_⟩
    · rw [← htag] at htenant ⊢
      exact State.tenant_modTenant (g := fun x => { x with reach := x.reach ++ [⟨lo.toNat, hi.toNat, f.getLsbD 0, f.getLsbD 1, f.getLsbD 2⟩] })
        rfl htenant
    · rfl
    · rw [State.chan_finish]
  case revokes =>
    rw [h.revoke, hq]
    exact congrArg _ (State.revokeCmd_of_open hn ht hr hlen)
  case closes =>
    rw [h.tenantClose, hq]
    exact congrArg _ (State.tenantClose_of_noJobs hn ht hj)
  case rekeys =>
    obtain ⟨x, hx, _, hper, hsweep⟩ := State.tenant_raisePeriod (s := s.accepted 0x0E cmd) ht
    refine ⟨((s.accepted 0x0E cmd).raisePeriod n.toNat).finish cmd.ch 0 [BitVec.ofNat 64 ((m.period + 1) % 2 ^ 32)], x,
      h.rekey.trans (by rw [hq, State.rekeyCmd_alone (s := s.accepted 0x0E cmd) hn ht hw hp hpeers, State.tenant_tag ht]), hx, hper, hsweep, ?_, ?_⟩
    · rw [State.chan_finish]
    · rw [State.chan_finish]
  case prepares =>
    refine ⟨_, h.rekey.trans (by rw [hq, State.rekeyCmd_shared (s := s.accepted 0x0E cmd) hn ht hw hp hpeers]), ?_⟩
    by_cases hlost : m.peers.any (fun p => (routeTo p s.firm.links.carrDown).isNone) = true
    · rw [if_pos hlost]
      exact if_pos hlost
    · rw [if_neg hlost, if_neg (c := m.peers.any (fun p => (routeTo p (s.accepted 0x0E cmd).firm.links.carrDown).isNone) = true) hlost,
        State.tenant_tag ht]
      refine ⟨_, _, State.tenant_modTenant (by rfl)
        ((State.tenant_of_tenants (congrArg Firm.tenants (State.reportsOf_firm ..)) _).trans ht), rfl, rfl,
        State.reportsOf_due (s.accepted 0x0E cmd) m.peers, List.mem_append_right _ (List.mem_singleton_self _)⟩
  case rekeyBusy =>
    rw [h.rekey, hq]
    exact congrArg _ (State.rekeyCmd_of_busy hn ht hbusy)
  case moduleBad =>
    rw [h.moduleSubmit, hq, State.moduleSubmit_of_open (s := s.accepted 0x07 cmd) hn ht]
    exact congrArg Host.Outcome.next (by rw [show Tvas.admission ((s.accepted 0x07 cmd).fromHost at_.toNat len.toNat) m.bufferRanges
      ((s.accepted 0x07 cmd).placedBuffers m.tag) = .error code from hc])
  case moduleGood =>
    rw [h.moduleSubmit, hq, State.moduleSubmit_of_open (s := s.accepted 0x07 cmd) hn ht]
    exact congrArg Host.Outcome.next (by rw [show Tvas.admission ((s.accepted 0x07 cmd).fromHost at_.toNat len.toNat) m.bufferRanges
      ((s.accepted 0x07 cmd).placedBuffers m.tag) = .ok p from hp]; rfl)
  case jobOpens =>
    rw [h.jobOpen, hq]
    exact congrArg _ (State.jobOpenCmd_of_idle hpid ht hi hcls hbufs hbase hjobs hswap hroom)
  case jobCloses =>
    rw [h.jobClose, hq]
    exact congrArg _ (State.jobCloseCmd_forced hh hj)
  case misaligned =>
    refine h.launch ?_
    rw [hq, State.launchCmd_of_desc (s := s.accepted 0x0A cmd) hh hj hp]
    exact State.launchDesc_of_misaligned hal
  case launches =>
    refine h.launch ?_
    rw [hq, State.launchCmd_of_desc (s := s.accepted 0x0A cmd) hh hj hp]
    exact ht
  case cancels =>
    rw [h.cancelCmd, hq]
    exact congrArg _ (State.cancelMailbox_of_live hl h0 hh ht)
  case quiet =>
    rw [h.quiesce, hq, State.quiesceCmd_of_phase (s := s.accepted 0x0C cmd) hh hp hj hx, if_pos hquiet]
    rfl
  case waits =>
    rw [h.quiesce, hq, State.quiesceCmd_of_phase (s := s.accepted 0x0C cmd) hh hp hj hx, if_neg (by rw [hquiet]; decide)]
  case attests =>
    obtain ⟨sig, hsig⟩ := State.attestCmd_of_image (s := s.accepted 0x0D cmd) (ch := cmd.ch) hf (hq ▸ ht) hi
    refine ⟨_, sig, h.attest.trans (by rw [hsig]), ?_, ?_⟩
    · rw [State.chan_finish]
    · rw [State.chan_finish]
  case compactFenced =>
    refine h.compact ?_
    rw [hq]
    exact State.compactCmd_of_fenced hn he hc ht hs
  case compacts =>
    refine h.compact ?_
    rw [hq]
    exact State.compactCmd_moves hn he hc ht hs ho hp hc0 hfree
  case inbound =>
    refine ⟨_, h.inboundOpen.trans (by rw [hq, State.inboundOpenCmd_first (s := s.accepted 0x10 cmd) hn ht hlt hhi hlo hf hd hw]), ?_, ?_, ?_⟩
    · exact congrArg (· ++ _) hw
    · rw [State.chan_finish]
    · rw [State.chan_finish]
  case resetRefused =>
    rw [h.partReset, hq]
    exact congrArg _ (State.partResetCmd_of_warn hpid ht hw)
  case resets =>
    rw [h.partReset, hq]
    exact congrArg _ (State.partResetCmd_of_idle hpid ht hw hops hdeques hmsgs hlaunches hswapped)
  case maint =>
    refine ⟨_, h.maintMode.trans (by rw [hq, State.maintCmd_enter, if_pos (c := (s.accepted 0x13 cmd).work.jobs = []) hj]), rfl, ?_⟩
    rw [State.chan_finish]
  case maintBusy =>
    rw [h.maintMode, hq, State.maintCmd_enter]
    exact congrArg _ (if_neg hj)

end

section
/-!
SUPPORT. The canonical form of the memory through the parts of a step: what a result and an outcome hand over, and the updates that
leave the bytes alone. A lemma `State.memoryOk.f` says that `State.f` keeps the canonical form.
-/
namespace Sys2Proof.Machine

open Sys2Proof

/-- The state that a result hands over. -/
def Res.state : Res → State
  | .ok s _ => s
  | .jump s _ _ => s
  | .trap s _ => s
  | .wait s _ _ => s
  | .reply s _ _ _ => s
  | .after s _ _ => s
  | .gone s => s
  | .late s => s

/-- An outcome goes on, if it does, with a canonical memory. -/
def MemoryKept (o : Host.Outcome State Fault Refusal) : Prop := ∀ t, o = .next t → t.memoryOk

theorem memoryKept_next {s : State} (h : s.memoryOk) : MemoryKept (.next s) := fun _ e => Host.Outcome.next.inj e ▸ h

theorem memoryKept_fault (f : Fault) : MemoryKept (.fault f) := fun _ e => nomatch e

/-! ## What the other outcomes hand over -/

def Drained.memoryOk : Drained → Prop
  | .ok s => s.memoryOk
  | .blocked s => s.memoryOk
  | .failed s => s.memoryOk

def Performed.memoryOk : Performed → Prop
  | .ok s => s.memoryOk
  | .blocked s _ => s.memoryOk
  | .failed s _ => s.memoryOk

def Eng.memoryOk : Eng → Prop
  | .ok s _ => s.memoryOk
  | .fail s _ => s.memoryOk
  | .stall s _ => s.memoryOk

def Burst.memoryOk : Burst → Prop
  | .finished s _ => s.memoryOk
  | .fail s _ _ => s.memoryOk
  | .stall s _ => s.memoryOk
  | .write s _ _ _ => s.memoryOk

def Sources.memoryOk : Sources → Prop
  | .ok s _ => s.memoryOk
  | .stall s _ => s.memoryOk
  | .fail s _ _ _ => s.memoryOk

def Room.memoryOk : Room → Prop
  | .ok s => s.memoryOk
  | .full => True
  | .wait s _ => s.memoryOk

def Taken.memoryOk : Taken → Prop
  | .none => True
  | .ok s _ => s.memoryOk
  | .wait s _ => s.memoryOk

def Found.memoryOk : Found → Prop
  | .work s _ _ _ => s.memoryOk
  | .none s => s.memoryOk
  | .wait s => s.memoryOk

def BlockAcc.memoryOk : BlockAcc → Prop
  | .ok s _ => s.memoryOk
  | .trap s _ => s.memoryOk
  | .wait s _ => s.memoryOk

def CodeLine.memoryOk : CodeLine → Prop
  | .here => True
  | .trap s _ => s.memoryOk
  | .wait s _ => s.memoryOk

def Fetched.memoryOk : Fetched → Prop
  | .code _ => True
  | .stop s => s.memoryOk

def Begun.memoryOk : Begun → Prop
  | .done s => s.memoryOk
  | .again s => s.memoryOk

def LaneRead.memoryOk : LaneRead → Prop
  | .ok s _ => s.memoryOk
  | .trap s _ => s.memoryOk
  | .wait s _ => s.memoryOk

def Act.memoryOk : Act → Prop
  | .run _ s => s.memoryOk
  | .idle s => s.memoryOk

/-! ## From an equation to the state it names -/

theorem Acc.memoryOk_congr {a b : Acc} (e : a = b) (h : a.after.memoryOk) : b.after.memoryOk := e ▸ h

theorem Res.memoryOk_congr {a b : Res} (e : a = b) (h : a.state.memoryOk) : b.state.memoryOk := e ▸ h

theorem fst_memoryOk_congr {α : Type} {p q : State × α} (e : p = q) (h : p.1.memoryOk) : q.1.memoryOk := e ▸ h

theorem foldl_fst_memoryOk {α β : Type} (f : State × β → α → State × β) (hf : ∀ p x, p.1.memoryOk → (f p x).1.memoryOk)
    (l : List α) {p : State × β} (h : p.1.memoryOk) : (l.foldl f p).1.memoryOk :=
  List.foldlRecOn (motive := fun p : State × β => p.1.memoryOk) l f h fun p hp x _ => hf p x hp

/-! ## Updates of the parts of the state -/

section Updates

variable {s : State}

/-- An update of any field but the memory. -/
theorem State.memoryOk.update {ck : Nat} {fab : Fabric} {work : Work} {firm : Firm} {agenda : List (Nat × Instr)} {issuing : Option SlotRef}
    {cursor freeCtr serial : Nat} (h : s.memoryOk) :
    State.memoryOk ⟨ck, fab, s.store, work, firm, agenda, issuing, cursor, freeCtr, serial⟩ := h

theorem State.memoryOk.modFab {g : Fabric → Fabric} (h : s.memoryOk) : (s.modFab g).memoryOk := h

theorem State.memoryOk.modWork {g : Work → Work} (h : s.memoryOk) : (s.modWork g).memoryOk := h

theorem State.memoryOk.modFirm {g : Firm → Firm} (h : s.memoryOk) : (s.modFirm g).memoryOk := h

theorem State.memoryOk.modStore {g : Store → Store} (h : s.memoryOk) (hg : (g s.store).mem = s.store.mem) : (s.modStore g).memoryOk :=
  State.memoryOk_of_eq h hg

theorem State.memoryOk_modStore {g : Store → Store} (h : Memory.wf (g s.store).mem = true) : (s.modStore g).memoryOk := h

theorem State.memoryOk.schedule {due : Nat} {i : Instr} (h : s.memoryOk) : (s.schedule due i).memoryOk := h

theorem State.memoryOk.scheduleFree {n : Nat} {i : Instr} (h : s.memoryOk) : (s.scheduleFree n i).memoryOk := h

end Updates

end Sys2Proof.Machine

end

section
/-!
SUPPORT. The canonical form of the memory through the operations of memory, of the slots and of the units.
A lemma `State.memoryOk.f` says that `State.f` keeps the form, `f_memoryOk` that another function does.
-/
namespace Sys2Proof.Machine

open Sys2Proof

/-! ## The parts of the state -/

theorem State.memoryOk.setSlot {s : State} {k : Nat} {v : Slot} (h : s.memoryOk) : (s.setSlot k v).memoryOk :=
  State.memoryOk_of_eq h (congrArg Store.mem (State.setSlot_store ..))

theorem State.memoryOk.putUnit {s : State} {r : SlotRef} {u : Ctx} (h : s.memoryOk) : (s.putUnit r u).memoryOk :=
  State.memoryOk_of_eq h (congrArg Store.mem (State.putUnit_store ..))

theorem State.memoryOk.putMode {s : State} {r : SlotRef} {u : Ctx} {m : SlotMode} (h : s.memoryOk) : (s.putMode r u m).memoryOk :=
  State.memoryOk_of_eq h (congrArg Store.mem (State.putMode_store ..))

theorem State.memoryOk.modUnit {s : State} {key : Nat} {g : Ctx → Ctx} (h : s.memoryOk) : (s.modUnit key g).memoryOk := by
  unfold State.modUnit
  split
  · exact h.setSlot
  · exact h

theorem State.memoryOk.modTenant {s : State} {tag : Nat} {g : Tenant → Tenant} (h : s.memoryOk) : (s.modTenant tag g).memoryOk :=
  h.modFirm

theorem State.memoryOk.modJob {s : State} {hd : Nat} {g : Job → Job} (h : s.memoryOk) : (s.modJob hd g).memoryOk :=
  h.modWork

theorem State.memoryOk.modLaunch {s : State} {l : LaunchId} {g : Launch → Launch} (h : s.memoryOk) : (s.modLaunch l g).memoryOk :=
  h.modWork

theorem State.memoryOk.modPhase {s : State} {p : PhaseId} {g : Phase → Phase} (h : s.memoryOk) : (s.modPhase p g).memoryOk :=
  h.modWork

theorem State.memoryOk.rejoin {s : State} {k : Nat} (h : s.memoryOk) : (s.rejoin k).memoryOk :=
  State.memoryOk_of_eq h (congrArg Store.mem (State.rejoin_store ..))

theorem State.memoryOk.complete {s : State} {k : Nat} {npc : Word} {g : Ctx → Ctx} (h : s.memoryOk) : (s.complete k npc g).memoryOk :=
  State.memoryOk_of_eq h (congrArg Store.mem (State.complete_store ..))

theorem State.memoryOk.rejoinWhere {s : State} {p : Nat → Wait → Bool} (h : s.memoryOk) : (s.rejoinWhere p).memoryOk := by
  unfold State.rejoinWhere
  refine foldl_memoryOk _ (fun s1 x h1 => ?_) _ _ h
  split
  · split
    · split
      · exact h1.rejoin
      · exact h1
    · exact h1

theorem State.memoryOk.arrive {s : State} {core cls : Nat} (h : s.memoryOk) : (s.arrive core cls).memoryOk :=
  State.memoryOk_of_eq h (congrArg Store.mem (State.arrive_store ..))

theorem State.memoryOk.setMsgs {s : State} {core : Nat} {ms : List Msg} (h : s.memoryOk) : (s.setMsgs core ms).memoryOk :=
  State.memoryOk_of_eq h (congrArg Store.mem (State.setMsgs_store ..))

theorem State.memoryOk.logEvent {s : State} {type src addr aux uid : Nat} {tag : Option Nat} (h : s.memoryOk) :
    (s.logEvent type src addr aux uid tag).memoryOk :=
  State.memoryOk_of_eq h (congrArg Store.mem (State.logEvent_store ..))

/-! ## Lines and caches -/

theorem State.memoryOk.setExtent {s : State} {n : Nat} {e : Extent} (h : s.memoryOk) : (s.setExtent n e).memoryOk :=
  State.memoryOk_of_eq h (State.setExtent_mem ..)

theorem State.memoryOk.setSeal {s : State} {line : Nat} {x : Seal} (h : s.memoryOk) : (s.setSeal line x).memoryOk :=
  State.memoryOk_of_eq h (State.setSeal_mem ..)

theorem State.memoryOk.setPoison {s : State} {unit : Nat} (h : s.memoryOk) : (s.setPoison unit).memoryOk :=
  State.memoryOk_of_eq h (State.setPoison_mem ..)

theorem State.memoryOk.clearPoison {s : State} {unit : Nat} (h : s.memoryOk) : (s.clearPoison unit).memoryOk :=
  State.memoryOk_of_eq h (State.clearPoison_mem ..)

theorem State.memoryOk.setErrors {s : State} {word bits : Nat} (h : s.memoryOk) : (s.setErrors word bits).memoryOk :=
  State.memoryOk_of_eq h (State.setErrors_mem ..)

theorem State.memoryOk.findWord {s : State} {word reach : Nat} {b : Blame} (h : s.memoryOk) : (s.findWord word reach b).memoryOk :=
  State.memoryOk_of_eq h (State.findWord_mem ..)

theorem State.memoryOk.l2Evict {s : State} {line : Nat} (h : s.memoryOk) : (s.l2Evict line).memoryOk :=
  State.memoryOk_of_eq h (State.l2Evict_mem ..)

theorem State.memoryOk.l2Clean {s : State} {line : Nat} (h : s.memoryOk) : (s.l2Clean line).memoryOk := by
  unfold State.l2Clean
  split
  · split
    · exact h.modStore rfl
    · exact h
  · exact h

theorem State.memoryOk.l2Access {s : State} {tag line hint : Nat} (h : s.memoryOk) : (s.l2Access tag line hint).memoryOk :=
  State.memoryOk_of_eq h (State.l2Access_mem ..)

theorem State.memoryOk.findLine {s : State} {line reach : Nat} {b : Blame} {type : Nat} (h : s.memoryOk) :
    (s.findLine line reach b type).1.memoryOk :=
  State.memoryOk_of_eq h (State.findLine_mem ..)

theorem State.memoryOk.setBank {s : State} {b : Nat} {x : BankState} (h : s.memoryOk) : (s.setBank b x).memoryOk :=
  State.memoryOk_of_eq h (State.setBank_mem ..)

theorem State.memoryOk.setWay {s : State} {w : Nat} {x : BankState} (h : s.memoryOk) : (s.setWay w x).memoryOk :=
  State.memoryOk_of_eq h (State.setWay_mem ..)

theorem State.memoryOk.findBankErrors {s : State} {b reach : Nat} (h : s.memoryOk) : (s.findBankErrors b reach).memoryOk := by
  unfold State.findBankErrors
  extract_lets lo
  exact foldl_memoryOk _ (fun _ _ h1 => h1.findWord) _ _ h

theorem State.memoryOk.findWayErrors {s : State} {w reach : Nat} (h : s.memoryOk) : (s.findWayErrors w reach).memoryOk :=
  State.memoryOk_of_eq h (State.findWayErrors_mem ..)

theorem State.memoryOk.wakeWay {s : State} {w : Nat} (h : s.memoryOk) : (s.wakeWay w).memoryOk :=
  State.memoryOk_of_eq h (State.wakeWay_mem ..)

theorem State.memoryOk.wakeScratch {s : State} {b : Nat} (h : s.memoryOk) : (s.wakeScratch b).memoryOk := by
  unfold State.wakeScratch
  split <;> exact h.findBankErrors.setBank

theorem State.memoryOk.lookUp {s : State} {die extent : Nat} (h : s.memoryOk) : (s.lookUp die extent).memoryOk :=
  State.memoryOk_of_eq h (State.lookUp_mem ..)

/-! ## Accesses -/

theorem State.memoryOk.requestExtent {s : State} {n die : Nat} {low : Bool} (h : s.memoryOk) : (s.requestExtent n die low).memoryOk :=
  State.memoryOk_of_eq h (State.requestExtent_mem ..)

theorem State.memoryOk.setWindow {s : State} {tile w : Nat} {x : Window} (h : s.memoryOk) : (s.setWindow tile w x).memoryOk :=
  State.memoryOk_of_eq h (congrArg Store.mem (State.setWindow_store ..))

theorem State.memoryOk.waysAll {s : State} {a : List Nat} (h : s.memoryOk) : (s.waysAll a).after.memoryOk :=
  State.memoryOk_of_eq h (State.waysAll_mem ..)

theorem State.memoryOk.mayAccess {s : State} {who : Who} {keys : List Nat} {write touch : Bool} {via : Via} (h : s.memoryOk) :
    (s.mayAccess who keys write touch via).after.memoryOk :=
  State.memoryOk_of_eq h (State.mayAccess_mem ..)

theorem State.memoryOk.openLine {s : State} {tag line idx uid src : Nat} (h : s.memoryOk) :
    (s.openLine tag line idx uid src).after.memoryOk :=
  State.memoryOk_of_eq h (State.openLine_mem ..)

theorem State.memoryOk.openHome {s : State} {who : Who} {line idx hint : Nat} (h : s.memoryOk) :
    (s.openHome who line idx hint).after.memoryOk :=
  State.memoryOk_of_eq h (State.openHome_mem ..)

theorem State.memoryOk.checkWords {s : State} {who : Who} {lanes : Option (Nat × Nat)} {keys : List Nat} {a : List (Nat × Nat)}
    (h : s.memoryOk) :
    (s.checkWords who lanes keys a).after.memoryOk :=
  State.memoryOk_of_eq h (State.checkWords_mem ..)

theorem State.memoryOk.deviceRead {s : State} {parts : List (Word × Nat)} (h : s.memoryOk) : (s.deviceRead parts).memoryOk := by
  unfold State.deviceRead
  split
  · exact h
  · exact (h.modStore rfl).schedule

/-! ## Traps and messages -/

theorem State.memoryOk.setLost {s : State} {r : SlotRef} {n : Nat} (h : s.memoryOk) : (s.setLost r n).memoryOk :=
  State.memoryOk_of_eq h (congrArg Store.mem (State.setLost_store ..))

theorem State.memoryOk.queueTrapMsg {s : State} {core : Nat} {m : Msg} (h : s.memoryOk) : (s.queueTrapMsg core m).memoryOk :=
  State.memoryOk_of_eq h (congrArg Store.mem (State.queueTrapMsg_store ..))

theorem State.memoryOk.haltPartition {s : State} {tag : Nat} (h : s.memoryOk) : (s.haltPartition tag).memoryOk :=
  State.memoryOk_of_eq h (congrArg Store.mem (State.haltPartition_store ..))

theorem State.memoryOk.escalate {s : State} {r : SlotRef} {u : Ctx} {t : TrapAt} {held : Option Nat} (h : s.memoryOk) :
    (s.escalate r u t held).memoryOk := by
  unfold State.escalate
  extract_lets addr
  split
  next s1 _ e =>
    have hs1 : s1.memoryOk := fst_memoryOk_congr e (State.writeRecord_memoryOk _ _ _ _ _ _ h)
    extract_lets s2
    have hs2 : s2.memoryOk := hs1.putMode
    exact hs2.haltPartition.logEvent

theorem State.memoryOk.parkWith {s : State} {r : SlotRef} {u : Ctx} {t : TrapAt} {held : Option Nat} (h : s.memoryOk) :
    (s.parkWith r u t held).memoryOk := by
  unfold State.parkWith
  extract_lets addr
  split
  next s1 _ e =>
    have hs1 : s1.memoryOk := fst_memoryOk_congr e (State.writeRecord_memoryOk _ _ _ _ _ _ h)
    extract_lets s2
    have hs2 : s2.memoryOk := hs1.putMode
    exact hs2.queueTrapMsg

theorem State.memoryOk.takeHeld {s : State} {r : SlotRef} {u : Ctx} {hd : HeldTrap} (h : s.memoryOk) : (s.takeHeld r u hd).memoryOk := by
  unfold State.takeHeld
  extract_lets u1 t
  split
  · exact h.escalate
  · exact h.parkWith

theorem State.memoryOk.parkFailed {s : State} {r : SlotRef} {u : Ctx} {t : TrapAt} (h : s.memoryOk) : (s.parkFailed r u t).memoryOk :=
  State.takeTrap_memoryOk _ _ _ h

theorem State.memoryOk.nonparkingRecord {s : State} {r : SlotRef} {u : Ctx} {t : TrapAt} (h : s.memoryOk) :
    (s.nonparkingRecord r u t).memoryOk := by
  unfold State.nonparkingRecord
  extract_lets addr
  split
  next s1 _ e =>
    have hs1 : s1.memoryOk := fst_memoryOk_congr e (State.writeRecord_memoryOk _ _ _ _ _ _ h)
    extract_lets s2
    have hs2 : s2.memoryOk := hs1.putUnit
    split
    · exact hs2.setLost.queueTrapMsg
    · exact hs2.setLost

theorem State.memoryOk.enterBuffer {s : State} {e : StoreEntry} (h : s.memoryOk) : (s.enterBuffer e).memoryOk :=
  h.modFab.scheduleFree

theorem State.memoryOk.tret {s : State} {core slot : Nat} {redirect : Option Word} (h : s.memoryOk) :
    (s.tret core slot redirect).memoryOk := by
  unfold State.tret
  extract_lets k
  split
  · extract_lets kept s1
    have hs1 : s1.memoryOk := h.setSlot
    split
    · exact foldl_memoryOk _ (fun _ _ h1 => h1.enterBuffer) _ _ hs1
    · exact hs1
  · exact h

/-! ## Issue, the store buffer and migration -/

theorem State.memoryOk.passRevocations {s : State} {key : Nat} (h : s.memoryOk) : (s.passRevocations key).memoryOk :=
  h.modFirm

theorem State.memoryOk.passSafe {s : State} {u : Ctx} (h : s.memoryOk) : (s.passSafe u).1.memoryOk :=
  h.passRevocations

theorem State.memoryOk.completeSafe {s : State} {k : Nat} {npc : Word} {g : Ctx → Ctx} (h : s.memoryOk) :
    (s.completeSafe k npc g).memoryOk := by
  unfold State.completeSafe
  split
  · split
    · exact h
    · split
      · extract_lets r
        have hr : r.1.memoryOk := h.passSafe
        exact hr.setSlot.complete
      · exact h.complete
  · exact h

theorem State.memoryOk.wakeCounter {s : State} {loc v : Nat} (h : s.memoryOk) : (s.wakeCounter loc v).memoryOk := by
  unfold State.wakeCounter
  refine foldl_memoryOk _ (fun s1 x h1 => ?_) _ _ h
  split
  · split
    · split
      · exact h1.completeSafe
      · exact h1
    · split
      · exact h1.completeSafe
      · exact h1
    · exact h1

theorem State.memoryOk.wakeBarrier {s : State} {loc : Nat} {gen : BitVec 32} (h : s.memoryOk) : (s.wakeBarrier loc gen).memoryOk := by
  unfold State.wakeBarrier
  refine foldl_memoryOk _ (fun s1 x h1 => ?_) _ _ h
  split
  · split
    · split
      · exact h1.completeSafe
      · exact h1
    · exact h1

theorem State.memoryOk.setSem {s : State} {tile n : Nat} {v : BitVec 32} (h : s.memoryOk) : (s.setSem tile n v).memoryOk :=
  h.modFab

theorem State.memoryOk.postSem {s : State} {tile n : Nat} (h : s.memoryOk) : (s.postSem tile n).memoryOk := by
  unfold State.postSem
  split
  · split
    · exact h.complete
    · exact h
  · extract_lets c
    exact h.setSem

theorem State.memoryOk.performPieces {s : State} {e : StoreEntry} {a : List Piece} (h : s.memoryOk) : (s.performPieces e a).memoryOk := by
  unfold State.performPieces
  split
  · exact h
  · split
    next e1 => exact (Acc.memoryOk_congr e1 (State.performWrite_memoryOk _ _ _ _ _ h)).performPieces
    next e1 => exact Acc.memoryOk_congr e1 (State.performWrite_memoryOk _ _ _ _ _ h)
    next e1 => exact Acc.memoryOk_congr e1 (State.performWrite_memoryOk _ _ _ _ _ h)

theorem State.memoryOk.performEntry {s : State} {e : StoreEntry} (h : s.memoryOk) : (s.performEntry e).memoryOk := by
  unfold State.performEntry
  split
  · exact h
  · split
    · exact h.performPieces
    · exact h.postSem
    · extract_lets n
      split
      next e3 => exact Acc.memoryOk_congr e3 (State.performAtHome_memoryOk _ _ _ _ _ h)
      next e3 => exact Acc.memoryOk_congr e3 (State.performAtHome_memoryOk _ _ _ _ _ h)
      next e3 => exact Acc.memoryOk_congr e3 (State.performAtHome_memoryOk _ _ _ _ _ h)
    · split
      next e3 => exact (Acc.memoryOk_congr e3 (State.performAtHome_memoryOk _ _ _ _ _ h)).wakeCounter
      next e3 => exact Acc.memoryOk_congr e3 (State.performAtHome_memoryOk _ _ _ _ _ h)
      next e3 => exact Acc.memoryOk_congr e3 (State.performAtHome_memoryOk _ _ _ _ _ h)

theorem State.memoryOk.setBuffer {s : State} {b : List StoreEntry} (h : s.memoryOk) : (s.setBuffer b).memoryOk :=
  h.modFab

theorem State.memoryOk.bufferChanged {s : State} {core : Nat} (h : s.memoryOk) : (s.bufferChanged core).memoryOk :=
  h.rejoinWhere

theorem State.memoryOk.keepEntry {s : State} {e rest : StoreEntry} (h : s.memoryOk) : (s.keepEntry e rest).memoryOk :=
  h.setBuffer

theorem State.memoryOk.dropEntry {s : State} {e : StoreEntry} (h : s.memoryOk) : (s.dropEntry e).memoryOk :=
  h.setBuffer.bufferChanged

theorem State.memoryOk.failEntry {s : State} {e : StoreEntry} {t : Trap} (h : s.memoryOk) : (s.failEntry e t).memoryOk := by
  unfold State.failEntry
  extract_lets later s1
  have hs1 : s1.memoryOk := h.setBuffer
  exact hs1.modUnit.bufferChanged

theorem State.memoryOk.performNext {s : State} {core : Nat} {only : StoreEntry → Bool} {a : List StoreEntry} {a1 : List Nat}
    (h : s.memoryOk) :
    (s.performNext core only a a1).memoryOk := by
  unfold State.performNext
  split
  · exact h
  · split
    · split
      next e2 => exact (Eq.subst (motive := Performed.memoryOk) e2 h.performEntry).dropEntry
      next e2 => exact (Eq.subst (motive := Performed.memoryOk) e2 h.performEntry).failEntry
      next e2 => exact (Eq.subst (motive := Performed.memoryOk) e2 h.performEntry).keepEntry.performNext
    · exact h.performNext

theorem State.memoryOk.drainList {s : State} {a : List StoreEntry} (h : s.memoryOk) : (s.drainList a).memoryOk := by
  unfold State.drainList
  split
  · exact h
  · split
    next e1 => exact (Eq.subst (motive := Performed.memoryOk) e1 h.performEntry).dropEntry.drainList
    next e1 => exact (Eq.subst (motive := Performed.memoryOk) e1 h.performEntry).keepEntry
    next e1 => exact (Eq.subst (motive := Performed.memoryOk) e1 h.performEntry).failEntry

theorem State.memoryOk.drain {s : State} {unit : Nat} (h : s.memoryOk) : (s.drain unit).memoryOk :=
  h.drainList

theorem State.memoryOk.drainUpto {s : State} {unit n : Nat} (h : s.memoryOk) : (s.drainUpto unit n).memoryOk :=
  h.drainList

theorem State.memoryOk.startMigration {s : State} {r : SlotRef} {u : Ctx} {core slot : Nat} (h : s.memoryOk) :
    (s.startMigration r u core slot).memoryOk := by
  unfold State.startMigration
  extract_lets s1
  have hs1 : s1.memoryOk := h.putMode
  exact hs1.setSlot.schedule

theorem State.memoryOk.migrate {s : State} {r : SlotRef} {u : Ctx} {e : Ext} (h : s.memoryOk) : (s.migrate r u e).memoryOk := by
  unfold State.migrate
  extract_lets absent cores
  split
  · exact State.takeTrap_memoryOk _ _ _ h
  · split
    · exact h.startMigration
    · exact h.putMode.schedule

theorem finish_memoryOk {i : Instr} {e : Env} {u0 : Ctx} {r : Res} (h : r.state.memoryOk) : (finish i e u0 r).memoryOk := by
  unfold finish
  split
  · exact h.putUnit
  · exact h.putUnit
  · exact State.takeTrap_memoryOk _ _ _ h
  · exact h.putMode
  · exact h.putMode.scheduleFree
  · exact State.takeTrap_memoryOk _ _ _ h
  · exact h
  · split
    · split
      · exact h.parkFailed
      · exact h
    · exact h

theorem runChecked_memoryOk {i : Instr} {e : Env} {u : Ctx} {s : State} {body : Env → Ctx → State → Res} (h : s.memoryOk)
    (hbody : ∀ e0 u1 t, t.memoryOk → (body e0 u1 t).state.memoryOk) :
    (runChecked i e u s body).state.memoryOk := by
  unfold runChecked
  extract_lets illegal
  split
  · exact h
  · exact h
  · split
    · exact h
    · split
      · exact h
      · split
        · exact h
        · split
          · exact h
          · exact hbody _ _ _ h

theorem issueInstr_memoryOk {i : Instr} {body : Env → Ctx → State → Res} {s : State}
    (hbody : ∀ e u t, t.memoryOk → (body e u t).state.memoryOk) (h : s.memoryOk) :
    MemoryKept (issueInstr i body s) := by
  unfold issueInstr
  split
  · exact memoryKept_fault _
  · split
    · exact memoryKept_fault _
    · extract_lets s1 u1 ext
      have hs1 : s1.memoryOk := h.update
      split
      · exact memoryKept_next (finish_memoryOk (runChecked_memoryOk hs1 (fun _ _ _ h1 => hbody _ _ _ h1)))
      · exact memoryKept_next hs1.migrate

/-! ## Weight, launches and units -/

theorem State.memoryOk.returnWeight {s : State} {p : PhaseId} {k : Nat} {m : Mark} {unit launch : Nat} (h : s.memoryOk) :
    (s.returnWeight p k m unit launch).memoryOk :=
  h.scheduleFree

theorem State.memoryOk.raiseRoot {s : State} {p : PhaseId} (h : s.memoryOk) : (s.raiseRoot p).memoryOk :=
  h.modPhase

theorem State.memoryOk.ensureWeight {s : State} {u : Ctx} (h : s.memoryOk) : (s.ensureWeight u).1.memoryOk := by
  unfold State.ensureWeight
  split
  · exact h
  · split
    · exact h.modLaunch
    · exact h.raiseRoot

theorem State.memoryOk.split {s : State} {u : Ctx} (h : s.memoryOk) : (s.split u).1.memoryOk := by
  unfold State.split
  split
  next s1 _ e =>
    have hs1 : s1.memoryOk := fst_memoryOk_congr e h.ensureWeight
    extract_lets k
    exact hs1

theorem State.memoryOk.askBorrow {s : State} {u : Ctx} (h : s.memoryOk) : (s.askBorrow u).state.memoryOk := by
  unfold State.askBorrow
  split
  next e => exact (fst_memoryOk_congr e h.ensureWeight).scheduleFree

theorem State.memoryOk.returnOwn {s : State} {u : Ctx} {m : Mark} (h : s.memoryOk) : (s.returnOwn u m).1.memoryOk := by
  unfold State.returnOwn
  split
  · exact h.returnWeight
  · exact h

theorem State.memoryOk.freeSlot {s : State} {k tag : Nat} (h : s.memoryOk) : (s.freeSlot k tag).memoryOk := by
  unfold State.freeSlot
  extract_lets s1
  exact h.setSlot.schedule.schedule

theorem State.memoryOk.releaseBinds {s : State} {key : Nat} (h : s.memoryOk) : (s.releaseBinds key).memoryOk :=
  h.modFab

theorem State.memoryOk.leaveEngine {s : State} {core key : Nat} (h : s.memoryOk) : (s.leaveEngine core key).memoryOk := by
  unfold State.leaveEngine
  extract_lets a a1 ends b s1 s2
  have hs1 : s1.memoryOk := h.modFab
  have hs2 : s2.memoryOk := by
    unfold s2
    split
    · exact hs1.update
    · exact hs1
  split
  · exact hs2.rejoinWhere
  · exact hs2

theorem State.memoryOk.setImage {s : State} {i : SwapImage} (h : s.memoryOk) : (s.setImage i).memoryOk :=
  h.modWork

theorem State.memoryOk.addCounter {s : State} {l : Launch} {tag : Nat} (h : s.memoryOk) : (s.addCounter l tag).1.memoryOk := by
  unfold State.addCounter
  extract_lets a
  split
  · exact h
  · split
    · split
      · split
        · exact h.logEvent
        · extract_lets sum
          exact h.setImage
      · split
        next e3 => exact (Acc.memoryOk_congr e3 (State.performAtHome_memoryOk _ _ _ _ _ h)).wakeCounter
        next e3 => exact (Acc.memoryOk_congr e3 (State.performAtHome_memoryOk _ _ _ _ _ h)).modLaunch
        next e3 => exact (Acc.memoryOk_congr e3 (State.performAtHome_memoryOk _ _ _ _ _ h)).logEvent
    · exact h.logEvent

theorem State.memoryOk.returnLaunch {s : State} {l : Launch} {m : Mark} (h : s.memoryOk) : (s.returnLaunch l m).memoryOk := by
  unfold State.returnLaunch
  extract_lets s1 s2
  have hs1 : s1.memoryOk := by
    unfold s1
    split
    · exact h.returnWeight
    · exact h
  have hs2 : s2.memoryOk := by
    unfold s2
    split
    · exact hs1.returnWeight
    · exact hs1
  exact hs2.modLaunch

theorem State.memoryOk.settleLaunch {s : State} {l : Launch} (h : s.memoryOk) : (s.settleLaunch l).memoryOk := by
  unfold State.settleLaunch
  extract_lets ps
  split
  · exact h
  · split
    · exact h.modLaunch.returnLaunch
    · split
      · exact h.modLaunch.schedule
      · exact h

theorem State.memoryOk.settlePreds {s : State} (h : s.memoryOk) : s.settlePreds.memoryOk :=
  foldl_memoryOk _ (fun _ _ h1 => h1.settleLaunch) _ _ h

theorem State.memoryOk.checkRuns {s : State} (h : s.memoryOk) : s.checkRuns.memoryOk := by
  unfold State.checkRuns
  refine foldl_memoryOk _ (fun s1 x h1 => ?_) _ _ h
  split
  · exact h1.schedule
  · exact h1

theorem State.memoryOk.unfuse {s : State} {l : LaunchId} (h : s.memoryOk) : (s.unfuse l).memoryOk := by
  unfold State.unfuse
  extract_lets clusters s1
  have hs1 : s1.memoryOk := State.writeBackWhere_memoryOk _ _ h
  exact hs1.modFab

theorem State.memoryOk.leaveLaunch {s : State} {l : Launch} (h : s.memoryOk) : (s.leaveLaunch l).memoryOk := by
  unfold State.leaveLaunch
  extract_lets s1
  have hs1 : s1.memoryOk := h.modLaunch
  exact hs1.returnLaunch.settlePreds.checkRuns.schedule

theorem State.memoryOk.settleRetired {s : State} {l : Launch} (h : s.memoryOk) : (s.settleRetired l).memoryOk := by
  unfold State.settleRetired
  split
  · exact h
  · extract_lets r
    have hr : r.1.memoryOk := h.addCounter
    split
    · exact hr.leaveLaunch
    · exact hr

theorem State.memoryOk.retireLaunch {s : State} {l : Launch} (h : s.memoryOk) : (s.retireLaunch l).memoryOk := by
  unfold State.retireLaunch
  extract_lets s1
  have hs1 : s1.memoryOk := h.unfuse.modLaunch
  exact hs1.settleRetired

theorem State.memoryOk.settleIdle {s : State} {id : LaunchId} (h : s.memoryOk) : (s.settleIdle id).memoryOk := by
  unfold State.settleIdle
  split
  · split
    · split
      · exact h.modLaunch.returnWeight
      · exact h
    · exact h
  · exact h

theorem State.memoryOk.countUnit {s : State} {u : Ctx} (h : s.memoryOk) : (s.countUnit u).memoryOk := by
  unfold State.countUnit
  split
  · exact h
  · split
    · exact h
    · extract_lets l1 s1
      have hs1 : s1.memoryOk := h.modLaunch
      split
      · exact hs1.retireLaunch
      · exact hs1.settleIdle

theorem State.memoryOk.stopWhere {s : State} {p : Op → Bool} {m : Mark} (h : s.memoryOk) : (s.stopWhere p m).memoryOk := by
  unfold State.stopWhere
  extract_lets mine waiting s1
  have hs1 : s1.memoryOk := h.modWork
  exact foldl_memoryOk _ (fun _ _ h1 => h1.scheduleFree) _ _ hs1

theorem State.memoryOk.stopOps {s : State} {key : Nat} {m : Mark} (h : s.memoryOk) : (s.stopOps key m).memoryOk :=
  h.stopWhere

theorem State.memoryOk.abandonMigration {s : State} {sl : Slot} (h : s.memoryOk) : (s.abandonMigration sl).memoryOk := by
  unfold State.abandonMigration
  split
  · split
    · exact h.setSlot
    · exact h
  · exact h

theorem State.memoryOk.acceptTask {s : State} {k : Nat} {sl : Slot} (h : s.memoryOk) : (s.acceptTask k sl).memoryOk := by
  unfold State.acceptTask
  split
  · exact h.modWork
  · exact h

theorem State.memoryOk.retireUnit {s : State} {k : Nat} {u : Ctx} {m : Mark} (h : s.memoryOk) : (s.retireUnit k u m).memoryOk := by
  unfold State.retireUnit
  split
  next e => exact (fst_memoryOk_congr e h.returnOwn).releaseBinds.leaveEngine.freeSlot.countUnit

theorem State.memoryOk.endSlot {s : State} {k : Nat} {m : Mark} (h : s.memoryOk) : (s.endSlot k m).memoryOk := by
  unfold State.endSlot
  extract_lets sl
  split
  · exact h
  · split
    · exact h.setSlot
    · extract_lets s1
      have hs1 : s1.memoryOk := by
        unfold s1
        split
        next e2 => exact Eq.subst (motive := Drained.memoryOk) e2 h.drain
        next e2 => exact Eq.subst (motive := Drained.memoryOk) e2 h.drain
        next e2 => exact Eq.subst (motive := Drained.memoryOk) e2 h.drain
      exact hs1.stopOps.abandonMigration.acceptTask.retireUnit

theorem State.memoryOk.takeUnit {s : State} {r : SlotRef} {u : Ctx} {rpc : Option Word} (h : s.memoryOk) :
    (s.takeUnit r u rpc).memoryOk := by
  unfold State.takeUnit
  split
  next s1 _ e =>
    have hs1 : s1.memoryOk := by
      refine fst_memoryOk_congr e ?_
      split
      · exact h.passSafe
      · exact h
    split
    · exact hs1.putUnit
    · exact hs1.putMode
    · exact hs1.putMode.schedule

theorem State.memoryOk.takeDrained {s : State} {r : SlotRef} {u : Ctx} {rpc : Option Word} (h : s.memoryOk) :
    (s.takeDrained r u rpc).1.memoryOk := by
  unfold State.takeDrained
  split
  next e => exact (Eq.subst (motive := Drained.memoryOk) e h.drain).takeUnit
  next e => exact Eq.subst (motive := Drained.memoryOk) e h.drain
  next a e =>
    have ha : a.memoryOk := Eq.subst (motive := Drained.memoryOk) e h.drain
    split
    · exact ha
    · exact ha.takeUnit

end Sys2Proof.Machine

end

section
/-!
SUPPORT. The canonical form of the memory through the control, memory, scalar, vector and matrix instructions.
A lemma `State.memoryOk.f` says that `State.f` keeps the form, `f_memoryOk` that another function does.
-/
namespace Sys2Proof.Machine

open Sys2Proof

/-! ## Control instructions -/

theorem execLoop_memoryOk {f : Fields} {s : State} (h : s.memoryOk) : MemoryKept (execLoop f s) := by
  unfold execLoop
  refine issueInstr_memoryOk (fun e u t h1 => ?_) h
  extract_lets n u'
  split <;> exact h1

theorem execRealign_memoryOk {f : Fields} {s : State} (h : s.memoryOk) : MemoryKept (execRealign f s) := by
  unfold execRealign
  refine issueInstr_memoryOk (fun e u t h1 => ?_) h
  extract_lets t1
  split
  · exact h1
  · split
    · exact h1
    · exact h1.schedule

theorem execSafe_memoryOk {f : Fields} {s : State} (h : s.memoryOk) : MemoryKept (execSafe f s) := by
  unfold execSafe
  refine issueInstr_memoryOk (fun e u t h1 => ?_) h
  split
  · exact h1
  · split
    · exact h1.passRevocations
    · split
      · exact h1
      · exact h1.passSafe

theorem execHalt_memoryOk {f : Fields} {s : State} (h : s.memoryOk) : MemoryKept (execHalt f s) := by
  unfold execHalt
  refine issueInstr_memoryOk (fun e u t h1 => ?_) h
  split
  · exact h1
  · split
    next e2 => exact Eq.subst (motive := Drained.memoryOk) e2 h1.drain
    next e2 => exact Eq.subst (motive := Drained.memoryOk) e2 h1.drain
    next e2 => exact (Eq.subst (motive := Drained.memoryOk) e2 h1.drain).retireUnit

theorem execYield_memoryOk {f : Fields} {s : State} (h : s.memoryOk) : MemoryKept (execYield f s) := by
  unfold execYield
  refine issueInstr_memoryOk (fun e u t h1 => ?_) h
  extract_lets waits
  split
  · split
    next e2 => exact fst_memoryOk_congr e2 h1.takeDrained
    next e2 => exact fst_memoryOk_congr e2 h1.takeDrained
  · exact h1

theorem execSleep_memoryOk {f : Fields} {s : State} (h : s.memoryOk) : MemoryKept (execSleep f s) := by
  unfold execSleep
  refine issueInstr_memoryOk (fun e u t h1 => ?_) h
  extract_lets t1
  split
  · exact h1
  · split
    · exact h1
    · exact h1.schedule

/-! ## Loads, stores and cleaning -/

theorem State.memoryOk.afterDrain {s : State} {u : Ctx} {need : Bool} {rest : State → Res} (h : s.memoryOk)
    (hrest : ∀ t, t.memoryOk → (rest t).state.memoryOk) :
    (s.afterDrain u need rest).state.memoryOk := by
  unfold State.afterDrain
  split
  · split
    next a e1 =>
      have ha : a.memoryOk := Eq.subst (motive := Drained.memoryOk) e1 h.drain
      exact hrest _ ha
    next e1 => exact Eq.subst (motive := Drained.memoryOk) e1 h.drain
    next e1 => exact Eq.subst (motive := Drained.memoryOk) e1 h.drain
  · exact hrest _ h

theorem State.memoryOk.coreRead {s : State} {e : Env} {u : Ctx} {a : Word} {keys : List Nat} {size lane : Nat}
    {rest : State → List Byte → Res} (h : s.memoryOk) (hrest : ∀ t bs, t.memoryOk → (rest t bs).state.memoryOk) :
    (s.coreRead e u a keys size lane rest).state.memoryOk := by
  unfold State.coreRead
  split
  next e1 => exact Acc.memoryOk_congr e1 (State.performRead_memoryOk _ _ _ h)
  next e1 => exact Acc.memoryOk_congr e1 (State.performRead_memoryOk _ _ _ h)
  next s1 _ e1 =>
    have hs1 : s1.memoryOk := Acc.memoryOk_congr e1 (State.performRead_memoryOk _ _ _ h)
    exact hrest _ _ hs1

theorem State.memoryOk.load {s : State} {e : Env} {u : Ctx} {a : Word} {n code : Nat} {dsts : List Nat} {watched : Bool} (h : s.memoryOk) :
    (s.load e u a n code dsts watched).state.memoryOk := by
  unfold State.load
  split
  · exact h
  · refine State.memoryOk.afterDrain h (fun t h1 => ?_)
    split
    · split
      next e3 => exact Acc.memoryOk_congr e3 h1.mayAccess
      next e3 => exact Acc.memoryOk_congr e3 h1.mayAccess
      next s1 _ e3 =>
        have hs1 : s1.memoryOk := Acc.memoryOk_congr e3 h1.mayAccess
        extract_lets parts
        exact hs1.deviceRead
    · exact h1.coreRead (fun _ _ h2 => h2)

theorem loadInstr_memoryOk {i : Instr} {n code : Nat} {s : State} (h : s.memoryOk) : MemoryKept (loadInstr i n code s) :=
  issueInstr_memoryOk (fun _ _ _ h1 => h1.load) h

theorem okWatched_memoryOk {s : State} {u : Ctx} {w : Option Trap} (h : s.memoryOk) : (okWatched s u w).state.memoryOk := by
  unfold okWatched
  split <;> exact h

theorem State.memoryOk.postEntry {s : State} {e : Env} {u : Ctx} {size : Nat} {kind : StoreKind} {watch : Option Trap}
    {lanes : Option (Nat × Nat)} (h : s.memoryOk) :
    (s.postEntry e u size kind watch lanes).state.memoryOk := by
  unfold State.postEntry
  split
  · exact h
  · exact okWatched_memoryOk h.update.enterBuffer

theorem State.memoryOk.storeBytes {s : State} {e : Env} {u : Ctx} {a : Word} {bs : List Byte} (h : s.memoryOk) :
    (s.storeBytes e u a bs).state.memoryOk := by
  unfold State.storeBytes
  extract_lets n
  split
  · exact h
  · exact h.postEntry

theorem storeInstr_memoryOk {i : Instr} {n : Nat} {s : State} (h : s.memoryOk) : MemoryKept (storeInstr i n s) :=
  issueInstr_memoryOk (fun _ _ _ h1 => h1.storeBytes) h

theorem Acc.state_memoryOk {a : Acc} (h : a.after.memoryOk) : (Acc.state a).memoryOk := by
  unfold Acc.state
  split <;> exact h

theorem State.memoryOk.prefetchLine {s : State} {who : Who} {hint line : Nat} {keys : List Nat} (h : s.memoryOk) :
    (s.prefetchLine who hint line keys).memoryOk := by
  unfold State.prefetchLine
  split
  · split
    next s1 _ e1 =>
      have hs1 : s1.memoryOk := Acc.memoryOk_congr e1 h.waysAll
      split
      next s2 _ e2 =>
        have hs2 : s2.memoryOk := Acc.memoryOk_congr e2 hs1.openHome
        exact Acc.state_memoryOk (State.loadLine_memoryOk _ _ _ _ _ hs2)
      · exact Acc.state_memoryOk hs1.openHome
    · exact Acc.state_memoryOk h.waysAll
  · exact Acc.state_memoryOk (State.loadLine_memoryOk _ _ _ _ _ h)

theorem State.memoryOk.prefetch {s : State} {who : Who} {hint line : Nat} (h : s.memoryOk) : (s.prefetch who hint line).memoryOk := by
  unfold State.prefetch
  extract_lets base keys n
  split
  · split
    · exact h
    · exact h.requestExtent
  · split
    · exact h
    · split
      · exact h.lookUp
      · split
        next e3 => exact (Acc.memoryOk_congr e3 h.mayAccess).prefetchLine
        · exact Acc.state_memoryOk h.mayAccess
  · exact h

theorem execPf_memoryOk {f : Fields} {s : State} (h : s.memoryOk) : MemoryKept (execPf f s) := by
  unfold execPf
  refine issueInstr_memoryOk (fun e u t h1 => ?_) h
  split
  · split
    · exact h1.prefetch
    · exact h1
  · exact h1

theorem State.memoryOk.cleanCopies {s : State} {who : Who} {line : Nat} {wide discard : Bool} (h : s.memoryOk) :
    (s.cleanCopies who line wide discard).memoryOk := by
  unfold State.cleanCopies
  extract_lets own s1
  have hs1 : s1.memoryOk := by
    unfold s1
    unfold own
    split
    · split
      · exact State.evictCopy_memoryOk _ _ h
      · split
        · exact h
        · exact State.cleanCopy_memoryOk _ h
    · exact h
  split
  · exact hs1
  · split
    · exact hs1.l2Evict
    · exact hs1.l2Clean

theorem State.memoryOk.cleanLine {s : State} {e : Env} {u : Ctx} {a : Word} {discard : Bool} (h : s.memoryOk) :
    (s.cleanLine e u a discard).state.memoryOk := by
  unfold State.cleanLine
  extract_lets line
  split
  · exact h
  · extract_lets k
    split
    · exact h
    · split
      · exact h
      · exact h
      · exact h
      · exact h
      · refine State.memoryOk.afterDrain h (fun t h1 => ?_)
        extract_lets who
        split
        next e4 => exact Acc.memoryOk_congr e4 h1.waysAll
        · exact (Acc.state_memoryOk h1.waysAll).cleanCopies

/-! ## Scalar instructions -/

theorem scalarRR_memoryOk {i : Instr} {g : Word → Word → Word} {s : State} (h : s.memoryOk) : MemoryKept (scalarRR i g s) :=
  issueInstr_memoryOk (fun _ _ _ h1 => h1) h

theorem scalarRI_memoryOk {i : Instr} {g : Word → Word → Word} {s : State} (h : s.memoryOk) : MemoryKept (scalarRI i g s) :=
  issueInstr_memoryOk (fun _ _ _ h1 => h1) h

theorem scalarRU_memoryOk {i : Instr} {g : Word → Word → Word} {s : State} (h : s.memoryOk) : MemoryKept (scalarRU i g s) :=
  issueInstr_memoryOk (fun _ _ _ h1 => h1) h

theorem scalarR_memoryOk {i : Instr} {g : Word → Word} {s : State} (h : s.memoryOk) : MemoryKept (scalarR i g s) :=
  issueInstr_memoryOk (fun _ _ _ h1 => h1) h

theorem guardOp_memoryOk {i : Instr} {g : Fields → Ctx → Bool} {s : State} (h : s.memoryOk) : MemoryKept (guardOp i g s) :=
  issueInstr_memoryOk (fun _ _ _ h1 => h1) h

theorem scalarTyped_memoryOk {i : Instr} {op : Int → Int → Int} {b : Fields → Ctx → Word} {s : State} (h : s.memoryOk) :
    MemoryKept (scalarTyped i op b s) := by
  unfold scalarTyped
  refine issueInstr_memoryOk (fun e u t h1 => ?_) h
  extract_lets r
  exact h1

theorem execMov_memoryOk {f : Fields} {s : State} (h : s.memoryOk) : MemoryKept (execMov f s) := by
  unfold execMov
  refine issueInstr_memoryOk (fun e u t h1 => ?_) h
  extract_lets a b
  split
  · dsimp only [Res.state]
    exact h1.modWork
  · exact h1

theorem execBfi_memoryOk {f : Fields} {s : State} (h : s.memoryOk) : MemoryKept (execBfi f s) := by
  unfold execBfi
  refine issueInstr_memoryOk (fun e u t h1 => ?_) h
  extract_lets pos len
  exact h1

theorem execCvta_memoryOk {f : Fields} {s : State} (h : s.memoryOk) : MemoryKept (execCvta f s) := by
  unfold execCvta
  refine issueInstr_memoryOk (fun e u t h1 => ?_) h
  extract_lets a
  exact h1

theorem execTsta_memoryOk {f : Fields} {s : State} (h : s.memoryOk) : MemoryKept (execTsta f s) := by
  unfold execTsta
  refine issueInstr_memoryOk (fun e u t h1 => ?_) h
  extract_lets a code
  exact h1

theorem execGeorng_memoryOk {f : Fields} {s : State} (h : s.memoryOk) : MemoryKept (execGeorng f s) := by
  unfold execGeorng
  refine issueInstr_memoryOk (fun e u t h1 => ?_) h
  extract_lets g
  exact h1

/-! ## Vector instructions -/

theorem State.memoryOk.holdVector {s : State} {core : Nat} {u : Ctx} {i : Instr} (h : s.memoryOk) : (s.holdVector core u i).memoryOk := by
  unfold State.holdVector
  split
  · exact h.modFab
  · exact h

theorem vecInstr_memoryOk {i : Instr} {needs : Fields → Ctx → List TagNeed} {g : Env → Ctx → Ctx} {s : State} (h : s.memoryOk) :
    MemoryKept (vecInstr i needs g s) := by
  unfold vecInstr
  refine issueInstr_memoryOk (fun e u t h1 => ?_) h
  split <;> exact h1

theorem laneWise_memoryOk {i : Instr} {rows : Fields → List Nat} {g : Fields → List Nat → Nat × Flags} {s : State} (h : s.memoryOk) :
    MemoryKept (laneWise i rows g s) :=
  vecInstr_memoryOk h

theorem execVins_memoryOk {f : Fields} {s : State} (h : s.memoryOk) : MemoryKept (execVins f s) := by
  unfold execVins
  refine issueInstr_memoryOk (fun e u t h1 => ?_) h
  extract_lets t1 n
  split
  · exact h1
  · split
    · exact h1
    · split <;> exact h1

theorem execVext_memoryOk {f : Fields} {s : State} (h : s.memoryOk) : MemoryKept (execVext f s) := by
  unfold execVext
  refine issueInstr_memoryOk (fun e u t h1 => ?_) h
  extract_lets t1 n
  split
  · exact h1
  · split <;> exact h1

theorem vecArith_memoryOk {i : Instr} {fn : Nat} {rows : Fields → List Nat} {s : State} (h : s.memoryOk) :
    MemoryKept (vecArith i fn rows s) :=
  laneWise_memoryOk h

theorem vecLogic_memoryOk {i : Instr} {g : Row → Row → Row} {s : State} (h : s.memoryOk) : MemoryKept (vecLogic i g s) :=
  vecInstr_memoryOk h

theorem vecShift_memoryOk {i : Instr} {g : Nat → Nat → Nat → Nat} {s : State} (h : s.memoryOk) : MemoryKept (vecShift i g s) :=
  laneWise_memoryOk h

theorem vecPermute_memoryOk {i : Instr} {rows : Fields → List Nat} {more : Fields → List TagNeed} {from_ : Fields → Ctx → Nat → Nat × Nat}
    {s : State} (h : s.memoryOk) :
    MemoryKept (vecPermute i rows more from_ s) := by
  unfold vecPermute
  refine issueInstr_memoryOk (fun e u t h1 => ?_) h
  extract_lets t1
  split
  · exact h1
  · split <;> exact h1

theorem vecScan_memoryOk {i : Instr} {exclusive : Bool} {s : State} (h : s.memoryOk) : MemoryKept (vecScan i exclusive s) :=
  vecInstr_memoryOk h

/-! ## Planes and multiply-accumulates -/

theorem State.memoryOk.setPlane {s : State} {core which : Nat} {p : Plane} (h : s.memoryOk) : (s.setPlane core which p).memoryOk :=
  h.modFab

theorem State.memoryOk.setArray {s : State} {core : Nat} {a : Array} (h : s.memoryOk) : (s.setArray core a).memoryOk :=
  h.modFab

theorem State.memoryOk.startPort {s : State} {core : Nat} (h : s.memoryOk) : (s.startPort core).memoryOk := by
  unfold State.startPort
  extract_lets a
  split
  · exact h.schedule
  · exact h.scheduleFree
  · exact h

theorem State.memoryOk.postPort {s : State} {core : Nat} {x : PortEntry} (h : s.memoryOk) : (s.postPort core x).memoryOk := by
  unfold State.postPort
  extract_lets a port s1
  have hs1 : s1.memoryOk := h.setArray
  split
  · exact hs1.startPort
  · exact hs1

theorem State.memoryOk.postLoad {s : State} {core at_ : Nat} {l : PlaneLoad} (h : s.memoryOk) : (s.postLoad core at_ l).memoryOk := by
  unfold State.postLoad
  extract_lets held s1
  have hs1 : s1.memoryOk := by
    unfold s1
    split
    · exact h
    · exact h.setPlane
  exact hs1.postPort

theorem State.memoryOk.planesChanged {s : State} {core : Nat} (h : s.memoryOk) : (s.planesChanged core).memoryOk := by
  unfold State.planesChanged
  refine foldl_memoryOk _ (fun s1 x h1 => ?_) _ _ h
  split
  · split
    · exact h1.rejoin
    · exact h1
  · exact h1

theorem postPieces_memoryOk {s : State} {e : Env} {u : Ctx} {pieces : List (Word × Nat)} {l : List (List Nat) → PlaneLoad}
    (h : s.memoryOk) :
    (postPieces s e u pieces l).state.memoryOk := by
  unfold postPieces
  split
  · exact h
  · exact h.afterDrain (fun _ h1 => h1.postLoad)

theorem execMwld_memoryOk {f : Fields} {s : State} (h : s.memoryOk) : MemoryKept (execMwld f s) := by
  unfold execMwld
  refine issueInstr_memoryOk (fun e u t h1 => ?_) h
  extract_lets ty base stride
  exact postPieces_memoryOk h1

theorem execMwsc_memoryOk {f : Fields} {s : State} (h : s.memoryOk) : MemoryKept (execMwsc f s) := by
  unfold execMwsc
  refine issueInstr_memoryOk (fun e u t h1 => ?_) h
  extract_lets g base dist cells
  exact postPieces_memoryOk h1

theorem State.memoryOk.readParts {s : State} {who : Who} {parts : List (List Nat)} (h : s.memoryOk) :
    (s.readParts who parts).1.after.memoryOk := by
  induction parts generalizing s with
  | nil => exact h
  | cons keys rest ih =>
    have hr := State.performRead_memoryOk who keys 0 h
    unfold State.readParts
    split
    next s1 b e => exact ih (Acc.memoryOk_congr e hr)
    next s1 cause idx aux e =>
      have hs1 : s1.memoryOk := Acc.memoryOk_congr e hr
      exact hs1
    · exact hr

theorem State.memoryOk.advancePort {s : State} {core : Nat} (h : s.memoryOk) : (s.advancePort core).memoryOk := by
  unfold State.advancePort
  extract_lets a
  exact h.setArray.startPort.planesChanged

theorem State.memoryOk.loadPlane {s : State} {core : Nat} (h : s.memoryOk) :
    (s.loadPlane core).memoryOk := by
  unfold State.loadPlane
  split
  next l t rest e =>
    have hr : (s.readParts l.who l.parts).1.after.memoryOk := h.readParts
    split
    next s1 w ws e1 =>
      have hs1 : s1.memoryOk := Acc.memoryOk_congr (congrArg Prod.fst e1) hr
      exact hs1.setArray
    next s1 cause key aux ws e1 =>
      have hs1 : s1.memoryOk := Acc.memoryOk_congr (congrArg Prod.fst e1) hr
      exact hs1.setPlane.advancePort
    next s1 v data e1 =>
      have hs1 : s1.memoryOk := Acc.memoryOk_congr (congrArg Prod.fst e1) hr
      exact hs1.setPlane.advancePort
  · exact h

theorem State.memoryOk.wakeArrays {s : State} {p : Wait → Bool} (h : s.memoryOk) : (s.wakeArrays p).memoryOk :=
  State.memoryOk_of_eq h (congrArg Store.mem (State.wakeArrays_store ..))

theorem State.memoryOk.loadWaiting {s : State} {tile w : Nat} (h : s.memoryOk) : (s.loadWaiting tile w).memoryOk := by
  unfold State.loadWaiting
  refine foldl_memoryOk _ (fun s1 x h1 => ?_) _ _ h
  extract_lets a
  split
  · exact h1.setArray.loadPlane
  · exact h1

theorem execMwswTakesEffect_memoryOk {core : Nat} {s : State} (h : s.memoryOk) : MemoryKept (execMwswTakesEffect core s) := by
  unfold execMwswTakesEffect
  refine memoryKept_next ?_
  split
  · split
    · exact h.schedule
    · extract_lets active shadow settle
      split
      · split
        · exact h
        · split
          · split
            · exact ((State.takeTrap_memoryOk _ _ _ h).setPlane).advancePort
            · exact h.setPlane.setPlane.complete.setPlane.advancePort
          · exact h.setPlane.advancePort
      · exact h.setPlane.advancePort
  · exact h

/-- The activation rows of a multiply-accumulate are read, or the instruction ends. -/
def ActsRead.memoryOk : Except Res (State × List Nat) → Prop
  | .ok p => p.1.memoryOk
  | .error r => r.state.memoryOk

theorem State.memoryOk.readActs {s : State} {e : Env} {u : Ctx} {n : Nat} {rows : List Word} (h : s.memoryOk) :
    ActsRead.memoryOk (s.readActs e u n rows) := by
  induction rows generalizing s with
  | nil => exact h
  | cons a rest ih =>
    unfold State.readActs
    extract_lets code
    split
    · exact h
    next keys e1 =>
      have hr := State.performRead_memoryOk (s.who e.core u) keys 0 h
      split
      · exact h
      · split
        next s1 w e2 => exact Acc.memoryOk_congr e2 hr
        next s1 cause idx aux e2 => exact Acc.memoryOk_congr e2 hr
        next s1 b e2 =>
          have hs1 : s1.memoryOk := Acc.memoryOk_congr e2 hr
          split
          next s2 more e3 =>
            have hs2 : s2.memoryOk := Eq.subst (motive := ActsRead.memoryOk) e3 (ih hs1)
            exact hs2
          next r e3 => exact Eq.subst (motive := ActsRead.memoryOk) e3 (ih hs1)

theorem macInstr_memoryOk {i : Instr} {zero : Bool} {s : State} (h : s.memoryOk) :
    MemoryKept (macInstr i zero s) := by
  unfold macInstr
  refine issueInstr_memoryOk (fun e u s1 h1 => ?_) h
  extract_lets a ty q p
  split
  · exact h1
  · split
    · exact h1
    · refine h1.afterDrain fun s2 h2 => ?_
      split
      next r e2 => exact Eq.subst (motive := ActsRead.memoryOk) e2 h2.readActs
      next s3 acts e2 =>
        have hs3 : s3.memoryOk := Eq.subst (motive := ActsRead.memoryOk) e2 h2.readActs
        exact hs3.setArray.schedule

theorem execMmacWrite_memoryOk {core : Nat} {s : State} (h : s.memoryOk) : MemoryKept (execMmacWrite core s) := by
  unfold execMmacWrite
  refine memoryKept_next ?_
  split
  · split
    · split
      · exact h
      · extract_lets s1
        have hs1 : s1.memoryOk := h.complete
        split
        · exact hs1.endSlot
        · exact hs1
    · exact h
  · exact h

theorem execMclr_memoryOk {f : Fields} {s : State} (h : s.memoryOk) : MemoryKept (execMclr f s) := by
  unfold execMclr
  refine issueInstr_memoryOk (fun e u t h1 => ?_) h
  extract_lets q v u' u'1
  exact h1

theorem execMcsum_memoryOk {f : Fields} {s : State} (h : s.memoryOk) : MemoryKept (execMcsum f s) := by
  unfold execMcsum
  refine issueInstr_memoryOk (fun e u t h1 => ?_) h
  extract_lets computed active p
  split
  · exact h1
  · split
    · split
      · exact h1
      · split <;> exact h1
    · split
      · exact h1
      · split <;> exact h1

/-! ## System instructions -/

theorem execWrsr_memoryOk {f : Fields} {s : State} (h : s.memoryOk) : MemoryKept (execWrsr f s) := by
  unfold execWrsr
  refine issueInstr_memoryOk (fun e u t h1 => ?_) h
  extract_lets v
  split
  · exact h1
  · split
    · split
      · dsimp only [Res.state]
        exact h1.modFab
      · exact h1
    · exact h1

theorem State.memoryOk.askTret {s : State} {core slot : Nat} {redirect : Option Word} (h : s.memoryOk) :
    (s.askTret core slot redirect).memoryOk := by
  unfold State.askTret
  split
  · exact h.modWork
  · exact h

theorem execTret_memoryOk {f : Fields} {s : State} (h : s.memoryOk) : MemoryKept (execTret f s) := by
  unfold execTret
  refine issueInstr_memoryOk (fun e u t h1 => ?_) h
  split
  · exact h1.askTret
  · exact h1

theorem execTretRedirect_memoryOk {f : Fields} {s : State} (h : s.memoryOk) : MemoryKept (execTretRedirect f s) := by
  unfold execTretRedirect
  refine issueInstr_memoryOk (fun e u t h1 => ?_) h
  split
  · exact h1.askTret
  · exact h1

theorem execChk_memoryOk {f : Fields} {s : State} (h : s.memoryOk) : MemoryKept (execChk f s) := by
  unfold execChk
  refine issueInstr_memoryOk (fun e u t h1 => ?_) h
  extract_lets a n
  split <;> exact h1

end Sys2Proof.Machine

end

section
/-!
SUPPORT. The canonical form of the memory through the engines: copies, windows, collectives and messages.
A lemma `State.memoryOk.f` says that `State.f` keeps the form, `f_memoryOk` that another function does.
-/
namespace Sys2Proof.Machine

open Sys2Proof

/-! ## Operations -/

theorem State.memoryOk.tokensChanged {s : State} {k : Nat} (h : s.memoryOk) : (s.tokensChanged k).memoryOk := by
  unfold State.tokensChanged
  split
  · split
    · exact h
    · split
      · exact h.setSlot
      · exact h.rejoin
  · exact h

theorem State.memoryOk.writeToken {s : State} {unit reg : Nat} {v : Word} (h : s.memoryOk) : (s.writeToken unit reg v).memoryOk := by
  unfold State.writeToken
  split
  · exact h.setSlot.tokensChanged
  · exact h

theorem State.memoryOk.dropOp {s : State} {id : Nat} (h : s.memoryOk) : (s.dropOp id).memoryOk :=
  h.modWork

theorem State.memoryOk.setOp {s : State} {o : Op} (h : s.memoryOk) : (s.setOp o).memoryOk :=
  h.modWork

theorem State.memoryOk.startOp {s : State} {e : Env} {u : Ctx} {kind : OpKind} {counter : Option Word} {cb : Bool} {weight : Option Nat}
    (h : s.memoryOk) :
    (s.startOp e u kind counter cb weight).1.memoryOk := by
  unfold State.startOp
  extract_lets o
  exact h.update

theorem State.memoryOk.returnOp {s : State} {o : Op} {m : Mark} (h : s.memoryOk) : (s.returnOp o m).memoryOk := by
  unfold State.returnOp
  split
  · exact h.returnWeight
  · exact h

theorem State.memoryOk.reachRecord {s : State} {o : Op} {addr : Word} (h : s.memoryOk) : (s.reachRecord o addr).memoryOk := by
  unfold State.reachRecord
  split
  · exact h.nonparkingRecord
  · exact h

theorem State.memoryOk.endOp {s : State} {o : Op} {token : Word} {m : Mark} (h : s.memoryOk) : (s.endOp o token m).memoryOk :=
  h.dropOp.writeToken.returnOp

theorem State.memoryOk.failOp {s : State} {o : Op} {code : Nat} {addr : Word} (h : s.memoryOk) : (s.failOp o code addr).memoryOk := by
  unfold State.failOp
  refine State.memoryOk.endOp ?_
  split
  · exact h.reachRecord
  · exact h

theorem State.memoryOk.pass {s : State} {o : Op} {a : Word} {n : Nat} {write : Bool} (h : s.memoryOk) : (s.pass o a n write).memoryOk :=
  h.modWork

theorem Acc.eng_memoryOk {r : Acc} {rest : State → List Byte → Eng} (h : r.after.memoryOk)
    (hrest : ∀ t bs, t.memoryOk → (rest t bs).memoryOk) :
    (Acc.eng r rest).memoryOk := by
  unfold Acc.eng
  split
  · exact hrest _ _ h
  · exact h
  · exact h
  · exact h

theorem State.memoryOk.engineReadKeys {s : State} {who : Who} {keys : List Nat} (h : s.memoryOk) : (s.engineReadKeys who keys).memoryOk :=
  Acc.eng_memoryOk h.mayAccess (fun _ _ h1 => Acc.eng_memoryOk (State.readHome_memoryOk _ _ h1) (fun _ _ h2 => h2))

theorem State.memoryOk.engineRead {s : State} {o : Op} {a : Word} {n : Nat} (h : s.memoryOk) : (s.engineRead o a n).memoryOk := by
  unfold State.engineRead
  split
  · exact h.pass.engineReadKeys
  · exact h

theorem State.memoryOk.homeWrite {s : State} {who : Who} {keys : List Nat} {bs : List Byte} (h : s.memoryOk) :
    (s.homeWrite who keys bs).memoryOk := by
  unfold State.homeWrite
  extract_lets line s1
  have hs1 : s1.memoryOk := State.writeBack_memoryOk _ _ h
  split
  · exact (State.putHome_memoryOk _ _ _ hs1.l2Access).clearPoison
  · exact Acc.eng_memoryOk hs1.openHome (fun _ _ h1 => State.putHome_memoryOk _ _ _ h1)

theorem State.memoryOk.engineWriteKeys {s : State} {who : Who} {keys : List Nat} {bs : List Byte} (h : s.memoryOk) :
    (s.engineWriteKeys who keys bs).memoryOk := by
  unfold State.engineWriteKeys
  refine Acc.eng_memoryOk h.mayAccess (fun t bs1 h1 => ?_)
  split
  · exact h1.homeWrite
  · exact Acc.eng_memoryOk h1.checkWords (fun _ _ h2 => State.putHome_memoryOk _ _ _ h2)

theorem State.memoryOk.engineWrite {s : State} {o : Op} {a : Word} {bs : List Byte} (h : s.memoryOk) : (s.engineWrite o a bs).memoryOk := by
  unfold State.engineWrite
  split
  · exact h.pass.engineWriteKeys
  · exact h

theorem Eng.burst_memoryOk {r : Eng} {a : Word} {rest : State → List Byte → Burst} (h : r.memoryOk)
    (hrest : ∀ t bs, t.memoryOk → (rest t bs).memoryOk) :
    (Eng.burst r a rest).memoryOk := by
  unfold Eng.burst
  split
  · exact hrest _ _ h
  · exact h
  · exact h

theorem State.memoryOk.copyBurst {s : State} {o : Op} {dst src : Word} {len : Nat} (h : s.memoryOk) :
    (s.copyBurst o dst src len).memoryOk := by
  unfold State.copyBurst
  split
  · exact h
  · extract_lets d a
    exact Eng.burst_memoryOk h.engineRead (fun _ _ h1 => h1)

theorem State.memoryOk.slabBurst {s : State} {o : Op} {off : Nat} {glob : Word} {dir : Bool} {nb blk x0 y0 x1 y1 : Nat} (h : s.memoryOk) :
    (s.slabBurst o off glob dir nb blk x0 y0 x1 y1).memoryOk := by
  unfold State.slabBurst
  split
  · exact h
  · extract_lets b r
    split
    · split
      · exact h
      · extract_lets t
        split
        · exact Eng.burst_memoryOk h.engineRead (fun _ _ h1 => h1)

theorem State.memoryOk.elementIndex {s : State} {o : Op} {list : Word} {n idx : Nat} {rest : State → Nat → Burst} (h : s.memoryOk)
    (hrest : ∀ t x, t.memoryOk → (rest t x).memoryOk) :
    (s.elementIndex o list n idx rest).memoryOk := by
  unfold State.elementIndex
  split
  · extract_lets a
    exact Eng.burst_memoryOk h.engineRead (fun _ _ h1 => hrest _ _ h1)
  · exact hrest _ _ h

theorem State.memoryOk.elementBurst {s : State} {o : Op} {scatter : Bool} {dst src list : Word} {z count idx : Nat} (h : s.memoryOk) :
    (s.elementBurst o scatter dst src list z count idx).memoryOk := by
  unfold State.elementBurst
  extract_lets n
  split
  · exact h
  · refine State.memoryOk.elementIndex h (fun t x h1 => ?_)
    extract_lets far d a
    exact Eng.burst_memoryOk h1.engineRead (fun _ _ h2 => h2)

theorem State.memoryOk.gatherBurst {s : State} {o : Op} {scatter : Bool} {dst src list : Word} {z : Nat} {count : Option Nat} {idx : Nat}
    (h : s.memoryOk) :
    (s.gatherBurst o scatter dst src list z count idx).memoryOk := by
  unfold State.gatherBurst
  split
  · exact h.elementBurst
  · refine Eng.burst_memoryOk h.engineRead (fun t bs h1 => ?_)
    extract_lets c
    split
    · exact h1
    · exact h1.elementBurst

theorem State.memoryOk.fillBurst {s : State} {o : Op} {dst : Word} {len : Nat} {quad : Word} (h : s.memoryOk) :
    (s.fillBurst o dst len quad).memoryOk := by
  unfold State.fillBurst
  split
  · exact h
  · extract_lets d bs
    exact h

theorem State.memoryOk.mergeKeys {s : State} {o : Op} {a b : Word} {na nb i j : Nat} {rest : State → Bool → Burst} {ty : Nat}
    (h : s.memoryOk) (hrest : ∀ t x, t.memoryOk → (rest t x).memoryOk) :
    (s.mergeKeys o a b na nb i j rest ty).memoryOk := by
  unfold State.mergeKeys
  split
  · exact hrest _ _ h
  · split
    · exact hrest _ _ h
    · extract_lets pa pb
      exact Eng.burst_memoryOk h.engineRead (fun _ _ h1 => Eng.burst_memoryOk h1.engineRead (fun _ _ h2 => hrest _ _ h2))

theorem State.memoryOk.mergeBurst {s : State} {o : Op} {dst a b : Word} {na nb ty i j : Nat} {rest : List Byte} (h : s.memoryOk) :
    (s.mergeBurst o dst a b na nb ty i j rest).memoryOk := by
  unfold State.mergeBurst
  extract_lets d
  split
  · exact h
  · split
    · exact h
    · refine State.memoryOk.mergeKeys h (fun t x h1 => ?_)
      extract_lets p
      refine Eng.burst_memoryOk h1.engineRead (fun t1 bs h2 => ?_)
      extract_lets kind
      exact h2

theorem State.memoryOk.nextBurst {s : State} {o : Op} (h : s.memoryOk) : (s.nextBurst o).memoryOk := by
  unfold State.nextBurst
  split
  · exact h.copyBurst
  · exact h.slabBurst
  · exact h.gatherBurst
  · exact h.fillBurst
  · exact h.mergeBurst
  · extract_lets x1
    exact h.copyBurst
  · exact h
  · exact h
  · exact h

theorem State.memoryOk.countCopy {s : State} {o : Op} {a : Word} (h : s.memoryOk) : (s.countCopy o a).memoryOk := by
  unfold State.countCopy
  split
  · exact h
  · extract_lets x1
    exact Acc.eng_memoryOk (State.performAtHome_memoryOk _ _ _ _ _ h) (fun _ _ h1 => h1.wakeCounter)

theorem State.memoryOk.later {s : State} {o : Op} (h : s.memoryOk) : (s.later o).memoryOk :=
  h.setOp.scheduleFree

theorem State.memoryOk.stallOp {s : State} {o : Op} {extent : Option Nat} (h : s.memoryOk) : (s.stallOp o extent).memoryOk := by
  unfold State.stallOp
  split
  · exact h.modWork
  · exact h.scheduleFree

theorem State.memoryOk.finishCopy {s : State} {o : Op} {count : Nat} (h : s.memoryOk) : (s.finishCopy o count).memoryOk := by
  unfold State.finishCopy
  split
  · exact h.setOp.scheduleFree
  · split
    · exact h.endOp
    · split
      next e2 => exact (Eq.subst (motive := Eng.memoryOk) e2 h.countCopy).endOp
      next e2 => exact (Eq.subst (motive := Eng.memoryOk) e2 h.countCopy).failOp
      next e2 => exact (Eq.subst (motive := Eng.memoryOk) e2 h.countCopy).setOp.stallOp

theorem State.memoryOk.stopCopy {s : State} {o : Op} {code : Nat} {addr : Word} (h : s.memoryOk) : (s.stopCopy o code addr).memoryOk := by
  unfold State.stopCopy
  split
  · exact h.setOp.scheduleFree
  · exact h.failOp

theorem State.memoryOk.afterBurst {s : State} {o : Op} (h : s.memoryOk) : (s.afterBurst o).memoryOk := by
  unfold State.afterBurst
  extract_lets o1 s1
  have hs1 : s1.memoryOk := h.setOp
  split
  next s2 _ e =>
    have hs2 : s2.memoryOk := Eq.subst (motive := Burst.memoryOk) e hs1.nextBurst
    exact hs1.finishCopy
  · exact hs1.later

theorem State.memoryOk.copyStep {s : State} {o : Op} (h : s.memoryOk) : (s.copyStep o).memoryOk := by
  unfold State.copyStep
  split
  · exact h
  · split
    · exact h.endOp
    · split
      next e2 => exact (Eq.subst (motive := Burst.memoryOk) e2 h.nextBurst).finishCopy
      next e2 => exact (Eq.subst (motive := Burst.memoryOk) e2 h.nextBurst).stopCopy
      next e2 => exact (Eq.subst (motive := Burst.memoryOk) e2 h.nextBurst).stallOp
      next a _ _ _ e2 =>
        have ha : a.memoryOk := Eq.subst (motive := Burst.memoryOk) e2 h.nextBurst
        split
        next e3 => exact (Eq.subst (motive := Eng.memoryOk) e3 ha.engineWrite).afterBurst
        next e3 => exact (Eq.subst (motive := Eng.memoryOk) e3 ha.engineWrite).stopCopy
        next e3 => exact (Eq.subst (motive := Eng.memoryOk) e3 ha.engineWrite).stallOp

theorem execCopyBurst_memoryOk {op : Nat} {s : State} (h : s.memoryOk) : MemoryKept (execCopyBurst op s) := by
  unfold execCopyBurst
  refine memoryKept_next ?_
  split
  · exact h.copyStep
  · exact h

theorem endNow_memoryOk {s : State} {e : Env} {u : Ctx} {v : Word} (h : s.memoryOk) : (endNow s e u v).state.memoryOk :=
  h

theorem State.memoryOk.startCopy {s : State} {e : Env} {u : Ctx} {kind : OpKind} (h : s.memoryOk) :
    (s.startCopy e u kind).state.memoryOk := by
  unfold State.startCopy
  extract_lets counter go
  split
  · split
    · exact h.askBorrow
    · unfold go
      extract_lets r1
      have hr1 : r1.1.memoryOk := h.split.startOp
      exact hr1.scheduleFree
  · unfold go
    extract_lets r1
    have hr1 : r1.1.memoryOk := h.startOp
    exact hr1.scheduleFree

theorem copyInstr_memoryOk {i : Instr} {now : Env → Ctx → Option Word} {kind : Env → Ctx → OpKind} {s : State} (h : s.memoryOk) :
    MemoryKept (copyInstr i now kind s) := by
  unfold copyInstr
  refine issueInstr_memoryOk (fun e u t h1 => ?_) h
  split
  · exact h1
  · split
    · exact endNow_memoryOk h1
    · exact h1.startCopy

theorem execCpSlab_memoryOk {f : Fields} {s : State} (h : s.memoryOk) : MemoryKept (execCpSlab f s) := by
  unfold execCpSlab
  refine issueInstr_memoryOk (fun e u t h1 => ?_) h
  extract_lets b p code
  split
  · exact h1
  · split
    · exact h1
    · split
      · exact endNow_memoryOk h1
      · exact h1.startCopy

theorem execSmerge_memoryOk {f : Fields} {s : State} (h : s.memoryOk) : MemoryKept (execSmerge f s) := by
  unfold execSmerge
  refine issueInstr_memoryOk (fun e u t h1 => ?_) h
  extract_lets n
  split
  · exact endNow_memoryOk h1
  · exact h1.startCopy

theorem execTokCancel_memoryOk {f : Fields} {s : State} (h : s.memoryOk) : MemoryKept (execTokCancel f s) := by
  unfold execTokCancel
  refine issueInstr_memoryOk (fun e u t h1 => ?_) h
  split
  · exact h1.stopWhere
  · exact h1

theorem State.memoryOk.stopFill {s : State} {tile w : Nat} (h : s.memoryOk) : (s.stopFill tile w).memoryOk :=
  h.modWork

theorem State.memoryOk.releaseWindow {s : State} {tile w : Nat} {pass : Bool} (h : s.memoryOk) :
    (s.releaseWindow tile w pass).memoryOk := by
  unfold State.releaseWindow
  extract_lets through s1
  have hs1 : s1.memoryOk := by
    unfold s1
    refine foldl_memoryOk _ (fun s2 x h1 => ?_) _ _ h
    split
    · split
      · exact h1.modUnit
      · exact h1
    · exact h1
  refine State.memoryOk.wakeArrays ?_
  refine foldl_memoryOk _ (fun s2 x h1 => ?_) _ _ hs1
  split
  · split
    · exact h1.setSlot.rejoin
    · exact h1
  · exact h1

theorem State.memoryOk.unbindWindow {s : State} {tile w : Nat} (h : s.memoryOk) : (s.unbindWindow tile w).memoryOk :=
  h.stopFill.setWindow.releaseWindow

theorem State.memoryOk.bindWindow {s : State} {tile w lbase len : Nat} {gbase : Word} (h : s.memoryOk) :
    (s.bindWindow tile w lbase len gbase).memoryOk := by
  unfold State.bindWindow
  extract_lets s1
  have hs1 : s1.memoryOk := by
    unfold s1
    refine foldl_memoryOk _ (fun s2 x h1 => ?_) _ _ h
    extract_lets v
    split
    · exact h1.unbindWindow
    · exact h1
  exact hs1.stopFill.setWindow.releaseWindow

theorem execWinBind_memoryOk {f : Fields} {s : State} (h : s.memoryOk) : MemoryKept (execWinBind f s) := by
  unfold execWinBind
  refine issueInstr_memoryOk (fun e u t h1 => ?_) h
  extract_lets b g n lbase len
  split
  · exact h1
  · split
    · exact h1
    · split
      · exact h1
      · split
        · exact h1.unbindWindow
        · exact h1.bindWindow

theorem execWinMark_memoryOk {f : Fields} {s : State} (h : s.memoryOk) : MemoryKept (execWinMark f s) := by
  unfold execWinMark
  refine issueInstr_memoryOk (fun e u t h1 => ?_) h
  extract_lets w x
  split
  · exact h1.setWindow
  · split
    · exact h1.setWindow
    · exact h1

theorem execWinQ_memoryOk {f : Fields} {s : State} (h : s.memoryOk) : MemoryKept (execWinQ f s) := by
  unfold execWinQ
  refine issueInstr_memoryOk (fun e u t h1 => ?_) h
  extract_lets x
  exact h1

theorem State.memoryOk.performWaiting {s : State} {tile w : Nat} (h : s.memoryOk) : (s.performWaiting tile w).memoryOk := by
  unfold State.performWaiting
  refine foldl_memoryOk _ (fun s1 x h1 => ?_) _ _ h
  split
  · exact h1.performNext
  · exact h1

theorem execWindowFillEnd_memoryOk {op : Nat} {s : State} (h : s.memoryOk) : MemoryKept (execWindowFillEnd op s) := by
  unfold execWindowFillEnd
  refine memoryKept_next ?_
  split
  · exact h
  · split
    · extract_lets s1 x2
      have hs1 : s1.memoryOk := h.dropOp
      split
      · exact hs1
      · split
        · exact hs1.setWindow.releaseWindow
        · exact hs1.setWindow.performWaiting.loadWaiting.setWindow.releaseWindow
    · exact h

theorem State.memoryOk.collRead {s : State} {o : Op} {a : Nat} {a1 : Word} {a2 : Nat} (h : s.memoryOk) :
    (s.collRead o a a1 a2).memoryOk := by
  unfold State.collRead
  split
  · exact h
  · split
    · exact h
    · extract_lets m
      split
      next e1 => exact Eq.subst (motive := Eng.memoryOk) e1 h.engineRead
      next e1 => exact Eq.subst (motive := Eng.memoryOk) e1 h.engineRead
      next s1 _ e1 =>
        have hs1 : s1.memoryOk := Eq.subst (motive := Eng.memoryOk) e1 h.engineRead
        split
        next s2 _ e2 =>
          have hs2 : s2.memoryOk := Eq.subst (motive := Sources.memoryOk) e2 hs1.collRead
          exact hs2
        · exact hs1.collRead

theorem State.memoryOk.collSources {s : State} {n : Nat} {a : List (Op × Word)} (h : s.memoryOk) : (s.collSources n a).memoryOk := by
  unfold State.collSources
  split
  · exact h
  · split
    next s1 _ e =>
      have hs1 : s1.memoryOk := Eq.subst (motive := Sources.memoryOk) e h.collRead
      split
      next s2 _ e1 =>
        have hs2 : s2.memoryOk := Eq.subst (motive := Sources.memoryOk) e1 hs1.collSources
        exact hs2
      · exact hs1.collSources
    · exact h.collRead

theorem State.memoryOk.collWrite {s : State} {o : Op} {dst : Word} {a : Nat} {a1 : List Byte} (h : s.memoryOk) :
    (s.collWrite o dst a a1).1.memoryOk := by
  unfold State.collWrite
  split
  · exact h
  · split
    · exact h
    · extract_lets n
      split
      next a _ e1 =>
        have ha : a.memoryOk := Eq.subst (motive := Eng.memoryOk) e1 h.engineWrite
        extract_lets r
        have hr : r.1.memoryOk := ha.collWrite
        exact hr
      next a _ e1 =>
        have ha : a.memoryOk := Eq.subst (motive := Eng.memoryOk) e1 h.engineWrite
        dsimp only
        split
        · exact ha.reachRecord
        · exact ha
      next e1 => exact Eq.subst (motive := Eng.memoryOk) e1 h.engineWrite

theorem State.memoryOk.collAwait {s : State} {o : Op} {dst : Word} {a a1 : Nat} (h : s.memoryOk) : (s.collAwait o dst a a1).1.memoryOk := by
  unfold State.collAwait
  split
  · exact h
  · split
    · exact h
    · extract_lets m
      split
      · split
        next e2 => exact Acc.memoryOk_congr e2 h.pass.mayAccess
        next e3 => exact Acc.memoryOk_congr e3 h.pass.mayAccess
        next e2 => exact (Acc.memoryOk_congr e2 h.pass.mayAccess).collAwait
        next s1 _ _ _ e2 =>
          have hs1 : s1.memoryOk := Acc.memoryOk_congr e2 h.pass.mayAccess
          exact h
      · exact h

theorem State.memoryOk.collWaits {s : State} {n : Nat} {a : List Op} (h : s.memoryOk) : (s.collWaits n a).1.memoryOk := by
  unfold State.collWaits
  split
  · exact h
  · split
    · split
      next e1 => exact (fst_memoryOk_congr e1 h.collAwait).collWaits
      · exact h.collAwait
    · exact h.collWaits

theorem State.memoryOk.collDeliver {s : State} {bs : List Byte} {flags : Flags} {ops : List Op} (h : s.memoryOk) :
    (s.collDeliver bs flags ops).memoryOk := by
  unfold State.collDeliver
  refine foldl_memoryOk _ (fun s1 x h1 => ?_) _ _ h
  split
  · extract_lets r
    have hr : r.1.memoryOk := h1.collWrite
    exact hr.modUnit.endOp
  · exact h1

theorem State.memoryOk.collFail {s : State} {ops : List Op} {code : Nat} (h : s.memoryOk) : (s.collFail ops code).memoryOk :=
  foldl_memoryOk _ (fun _ _ h1 => h1.endOp) _ _ h

theorem State.memoryOk.collective {s : State} {o : Op} {fn op ty len : Nat} {ops : List Op} (h : s.memoryOk) :
    (s.collective o fn op ty len ops).memoryOk := by
  unfold State.collective
  extract_lets n sources
  split
  next s1 _ _ _ e =>
    have hs1 : s1.memoryOk := Eq.subst (motive := Sources.memoryOk) e h.collSources
    refine State.memoryOk.collFail ?_
    split
    · exact hs1.reachRecord
    · exact hs1
  next e => exact (Eq.subst (motive := Sources.memoryOk) e h.collSources).stallOp
  next s1 _ e =>
    have hs1 : s1.memoryOk := Eq.subst (motive := Sources.memoryOk) e h.collSources
    extract_lets r
    split
    next e1 => exact (fst_memoryOk_congr e1 hs1.collWaits).stallOp
    next e1 => exact (fst_memoryOk_congr e1 hs1.collWaits).collDeliver

theorem execCollectiveComplete_memoryOk {op : Nat} {s : State} (h : s.memoryOk) : MemoryKept (execCollectiveComplete op s) := by
  unfold execCollectiveComplete
  refine memoryKept_next ?_
  split
  · exact h
  · split
    · extract_lets ops
      split
      · exact h
      · split
        · exact h.collFail
        · exact h.collective
    · exact h

theorem collInstr_memoryOk {i : Instr} {fn : Nat} {s : State} (h : s.memoryOk) : MemoryKept (collInstr i fn s) := by
  unfold collInstr
  refine issueInstr_memoryOk (fun e u t h1 => ?_) h
  split
  · exact h1
  · extract_lets scope n kind r
    have hr : r.1.memoryOk := h1.startOp
    split
    · split
      · exact hr.scheduleFree
      · exact hr
    · exact hr

theorem execMsgSend_memoryOk {f : Fields} {s : State} (h : s.memoryOk) : MemoryKept (execMsgSend f s) := by
  unfold execMsgSend
  refine issueInstr_memoryOk (fun e u t h1 => ?_) h
  extract_lets v len inTeam
  split
  · exact endNow_memoryOk h1
  · split
    · exact h1.askBorrow
    · exact h1.split.startOp.scheduleFree

theorem State.memoryOk.deliverMessage {s : State} {o : Op} {recv : Word} {bs : List Byte} (h : s.memoryOk) :
    (s.deliverMessage o recv bs).memoryOk := by
  unfold State.deliverMessage
  extract_lets cls
  split
  · exact h.failOp
  · split
    · extract_lets s1
      have hs1 : s1.memoryOk := h.setMsgs.arrive
      exact hs1.endOp
    · exact h.scheduleFree

theorem State.memoryOk.messageStep {s : State} {o : Op} {recv src : Word} {len : Nat} {payload : Option (List Byte)} (h : s.memoryOk) :
    (s.messageStep o recv src len payload).memoryOk := by
  unfold State.messageStep
  extract_lets again
  split
  · exact h.scheduleFree
  · split
    next e1 => exact (Eq.subst (motive := Drained.memoryOk) e1 h.drainUpto).scheduleFree
    next s1 e1 =>
      have hs1 : s1.memoryOk := Eq.subst (motive := Drained.memoryOk) e1 h.drainUpto
      split
      · exact hs1.scheduleFree
      · split
        · exact hs1.deliverMessage
        · split
          next e3 => exact (Eq.subst (motive := Sources.memoryOk) e3 hs1.collRead).stallOp
          next e3 => exact (Eq.subst (motive := Sources.memoryOk) e3 hs1.collRead).failOp
          next s2 _ e3 =>
            have hs2 : s2.memoryOk := Eq.subst (motive := Sources.memoryOk) e3 hs1.collRead
            extract_lets o1
            exact hs2.setOp.deliverMessage
    next s1 e1 =>
      have hs1 : s1.memoryOk := Eq.subst (motive := Drained.memoryOk) e1 h.drainUpto
      split
      · exact hs1.scheduleFree
      · split
        · exact hs1.deliverMessage
        · split
          next e3 => exact (Eq.subst (motive := Sources.memoryOk) e3 hs1.collRead).stallOp
          next e3 => exact (Eq.subst (motive := Sources.memoryOk) e3 hs1.collRead).failOp
          next s2 _ e3 =>
            have hs2 : s2.memoryOk := Eq.subst (motive := Sources.memoryOk) e3 hs1.collRead
            extract_lets o1
            exact hs2.setOp.deliverMessage

theorem execMessageQueued_memoryOk {op : Nat} {s : State} (h : s.memoryOk) : MemoryKept (execMessageQueued op s) := by
  unfold execMessageQueued
  refine memoryKept_next ?_
  split
  · exact h
  · split
    · split
      · exact h
      · exact h.messageStep
    · exact h

theorem execMsgBind_memoryOk {f : Fields} {s : State} (h : s.memoryOk) : MemoryKept (execMsgBind f s) := by
  unfold execMsgBind
  refine issueInstr_memoryOk (fun e u t h1 => ?_) h
  extract_lets c
  split
  · exact h1
  · dsimp only [Res.state]
    exact h1.modFab

theorem State.memoryOk.takeMessage {s : State} {core cls : Nat} (h : s.memoryOk) : (s.takeMessage core cls).memoryOk :=
  h.setMsgs

theorem State.memoryOk.receive {s : State} {e : Env} {u : Ctx} {core cls : Nat} {m : Msg} (h : s.memoryOk) :
    (s.receive e u core cls m).state.memoryOk := by
  unfold State.receive
  extract_lets a n leave
  split
  · unfold leave
    extract_lets s1 s2
    have hs1 : s1.memoryOk := h.takeMessage
    have hs2 : s2.memoryOk := by
      unfold s2
      split
      · exact hs1.returnWeight
      · exact hs1
    exact hs2
  · split
    · exact h
    · refine State.memoryOk.afterDrain h (fun t h1 => ?_)
      split
      next e3 => exact Acc.memoryOk_congr e3 (State.performWrite_memoryOk _ _ _ _ _ h1)
      next e3 => exact Acc.memoryOk_congr e3 (State.performWrite_memoryOk _ _ _ _ _ h1)
      next s1 _ e3 =>
        have hs1 : s1.memoryOk := Acc.memoryOk_congr e3 (State.performWrite_memoryOk _ _ _ _ _ h1)
        unfold leave
        extract_lets s2 s3
        have hs2 : s2.memoryOk := hs1.takeMessage
        have hs3 : s3.memoryOk := by
          unfold s3
          split
          · exact hs2.returnWeight
          · exact hs2
        exact hs3

theorem execMsgRecv_memoryOk {f : Fields} {s : State} (h : s.memoryOk) : MemoryKept (execMsgRecv f s) := by
  unfold execMsgRecv
  refine issueInstr_memoryOk (fun e u t h1 => ?_) h
  extract_lets c
  split
  · exact h1
  · split
    · exact h1
    · split
      · exact h1.receive
      · exact h1

end Sys2Proof.Machine

end

section
/-!
SUPPORT. The canonical form of the memory through launches and tasks.
A lemma `State.memoryOk.f` says that `State.f` keeps the form, `f_memoryOk` that another function does.
-/
namespace Sys2Proof.Machine

open Sys2Proof

/-! ## Launches -/

theorem State.memoryOk.inheritPrio {s : State} (h : s.memoryOk) : s.inheritPrio.memoryOk := by
  unfold State.inheritPrio
  refine foldl_memoryOk _ (fun s1 x h1 => ?_) _ _ h
  split
  · exact h1
  · split
    · exact h1
    · exact foldl_memoryOk _ (fun _ _ h2 => h2.modLaunch) _ _ h1

theorem State.memoryOk.addLaunch {s : State} {j : Job} {d : Desc} {args : List Word} {bounds : FMap Bound}
    {issuer : Option (Nat × PhaseId)} {order : Nat} (h : s.memoryOk) :
    (s.addLaunch j d args bounds issuer order).1.memoryOk := by
  unfold State.addLaunch
  extract_lets h1 p own s1 l s2
  have hs1 : s1.memoryOk := by
    unfold s1
    split
    · exact h.modWork
    · split
      · exact h
      · exact h.raiseRoot
  have hs2 : s2.memoryOk := hs1.modJob.modWork
  exact hs2.settleLaunch.inheritPrio.schedule

theorem State.memoryOk.launchRead {s : State} {e : Env} {u : Ctx} {a : Word} {n : Nat} {rest : State → List Byte → Res} (h : s.memoryOk)
    (hrest : ∀ t bs, t.memoryOk → (rest t bs).state.memoryOk) :
    (s.launchRead e u a n rest).state.memoryOk := by
  unfold State.launchRead
  split
  · exact h
  · split
    · exact h.coreRead (fun _ _ h1 => hrest _ _ h1)
    · exact h

theorem State.memoryOk.submit {s : State} {e : Env} {u : Ctx} {j : Job} {v : Nat} (h : s.memoryOk) : (s.submit e u j v).state.memoryOk := by
  unfold State.submit
  split
  · exact endNow_memoryOk h
  · extract_lets go
    split
    · unfold go
      split
      · exact endNow_memoryOk h
      · split
        · exact h.askBorrow
        · extract_lets w r
          have hw : w.1.memoryOk := h.split
          have hr : r.1.memoryOk := hw.addLaunch
          exact hr
    · refine State.memoryOk.launchRead h (fun t bs h1 => ?_)
      unfold go
      split
      · exact endNow_memoryOk h1
      · split
        · exact h1.askBorrow
        · extract_lets w r
          have hw : w.1.memoryOk := h1.split
          have hr : r.1.memoryOk := hw.addLaunch
          exact hr

theorem execLnch_memoryOk {f : Fields} {s : State} (h : s.memoryOk) : MemoryKept (execLnch f s) := by
  unfold execLnch
  refine issueInstr_memoryOk (fun e u t h1 => ?_) h
  extract_lets a
  refine State.memoryOk.afterDrain h1 (fun t1 h2 => ?_)
  refine State.memoryOk.launchRead h2 (fun t2 bs h3 => ?_)
  split
  · split
    · exact endNow_memoryOk h3
    · exact h3.submit
  · exact endNow_memoryOk h3

theorem State.memoryOk.endImage {s : State} {u : Ctx} {parked : Bool} {m : Mark} (h : s.memoryOk) : (s.endImage u parked m).memoryOk := by
  unfold State.endImage
  extract_lets r
  have hr : r.1.memoryOk := h.returnOwn
  exact hr.releaseBinds

theorem State.memoryOk.endPending {s : State} {l : Launch} {m : Mark} (h : s.memoryOk) : (s.endPending l m).memoryOk := by
  unfold State.endPending
  extract_lets s1
  have hs1 : s1.memoryOk := by
    unfold s1
    refine foldl_memoryOk _ (fun s2 x h1 => ?_) _ _ h
    extract_lets s3
    have hs3 : s3.memoryOk := by
      unfold s3
      split
      · exact h1.endImage
      · exact h1
    split
    · exact hs3.freeSlot
    · exact hs3
  exact hs1.modLaunch

theorem State.memoryOk.endSwapped {s : State} {id : LaunchId} {m : Mark} (h : s.memoryOk) : (s.endSwapped id m).memoryOk := by
  unfold State.endSwapped
  extract_lets mine ended s1 s2
  have hs1 : s1.memoryOk := h.modLaunch
  have hs2 : s2.memoryOk := by
    unfold s2
    refine foldl_memoryOk _ (fun s3 x h1 => ?_) _ _ hs1
    split
    · exact h1.endImage
    · exact h1
  exact hs2.modWork

theorem State.memoryOk.endLaunch {s : State} {id : LaunchId} {m : Mark} {last : Option Nat} (h : s.memoryOk) :
    (s.endLaunch id m last).memoryOk := by
  unfold State.endLaunch
  split
  · exact h
  · extract_lets s1 s2 s3 s4
    have hs1 : s1.memoryOk := h.modLaunch.returnLaunch
    have hs2 : s2.memoryOk := hs1.endPending.endSwapped
    have hs3 : s3.memoryOk := by
      unfold s3
      refine foldl_memoryOk _ (fun s5 x1 h1 => ?_) _ _ hs2
      split
      · exact h1
      · exact h1.endSlot
    have hs4 : s4.memoryOk := hs3.modWork
    exact hs4.unfuse.settlePreds.checkRuns

theorem State.memoryOk.endTargets {s : State} {ids : List LaunchId} {m : Mark} {last : Option Nat} (h : s.memoryOk) :
    (s.endTargets ids m last).memoryOk := by
  unfold State.endTargets
  extract_lets s1
  have hs1 : s1.memoryOk := foldl_memoryOk _ (fun _ _ h1 => h1.endLaunch) _ _ h
  split
  · split
    · split
      · exact hs1.endSlot
      · exact hs1
    · exact hs1
  · exact hs1

theorem State.memoryOk.askCancel {s : State} {job level hd unit : Nat} (h : s.memoryOk) : (s.askCancel job level hd unit).memoryOk :=
  h.modWork

theorem execCancel_memoryOk {f : Fields} {s : State} (h : s.memoryOk) : MemoryKept (execCancel f s) := by
  unfold execCancel
  refine issueInstr_memoryOk (fun e u t h1 => ?_) h
  extract_lets level v h2
  split
  · exact h1.askCancel
  · exact h1

theorem State.memoryOk.dropRuns {s : State} {job level hd : Nat} (h : s.memoryOk) : (s.dropRuns job level hd).memoryOk := by
  unfold State.dropRuns
  extract_lets mine
  exact h.modWork

theorem State.memoryOk.actLate {s : State} {x : Late} (h : s.memoryOk) : (s.actLate x).memoryOk := by
  unfold State.actLate
  split
  · extract_lets s1
    have hs1 : s1.memoryOk := h.endTargets.dropRuns
    exact hs1.schedule
  · exact h.tret

theorem State.memoryOk.settleLate {s : State} (h : s.memoryOk) : s.settleLate.memoryOk := by
  unfold State.settleLate
  extract_lets xs
  exact foldl_memoryOk _ (fun _ _ h1 => h1.actLate) _ _ h.modWork

/-! ## Deques, tasks and phases -/

theorem State.memoryOk.jnAdd {s : State} {e : Env} {u : Ctx} {a x : Word} {rest : State → Res} (h : s.memoryOk)
    (hrest : ∀ t, t.memoryOk → (rest t).state.memoryOk) :
    (s.jnAdd e u a x rest).state.memoryOk := by
  unfold State.jnAdd
  split
  · exact hrest _ h
  · split
    · exact h
    · extract_lets sum
      split
      next e3 => exact Acc.memoryOk_congr e3 (State.performAtHome_memoryOk _ _ _ _ _ h)
      next e3 => exact Acc.memoryOk_congr e3 (State.performAtHome_memoryOk _ _ _ _ _ h)
      next s1 _ e3 =>
        have hs1 : s1.memoryOk := Acc.memoryOk_congr e3 (State.performAtHome_memoryOk _ _ _ _ _ h)
        exact hrest _ hs1.wakeCounter

theorem State.memoryOk.jnTry {s : State} {e : Env} {u : Ctx} {a : Word} {rest : State → Res} (h : s.memoryOk)
    (hrest : ∀ t, t.memoryOk → (rest t).state.memoryOk) :
    (s.jnTry e u a rest).state.memoryOk := by
  unfold State.jnTry
  split
  · exact hrest _ h
  · split
    · exact h
    · split
      next e3 => exact Acc.memoryOk_congr e3 (State.performAtHome_memoryOk _ _ _ _ _ h)
      next e3 => exact Acc.memoryOk_congr e3 (State.performAtHome_memoryOk _ _ _ _ _ h)
      next s1 _ e3 =>
        have hs1 : s1.memoryOk := Acc.memoryOk_congr e3 (State.performAtHome_memoryOk _ _ _ _ _ h)
        exact hrest _ hs1

theorem State.memoryOk.setDeque {s : State} {core : Nat} {xs : List DequeEntry} (h : s.memoryOk) : (s.setDeque core xs).memoryOk :=
  h.modFab

theorem State.memoryOk.engineWriteLines {s : State} {who : Who} {a : Nat} {a1 : Word} {a2 : List Byte} (h : s.memoryOk) :
    (s.engineWriteLines who a a1 a2).memoryOk := by
  unfold State.engineWriteLines
  split
  · exact h
  · split
    · exact h
    · extract_lets n
      split
      next e1 => exact (Eq.subst (motive := Eng.memoryOk) e1 h.engineWriteKeys).engineWriteLines
      · exact h.engineWriteKeys

theorem State.memoryOk.spillEntry {s : State} {core : Nat} {x : DequeEntry} {a : Word} (h : s.memoryOk) :
    (s.spillEntry core x a).memoryOk := by
  unfold State.spillEntry
  extract_lets who keys
  split
  · exact trivial
  · split
    next e1 => exact Acc.memoryOk_congr e1 h.mayAccess
    next s1 _ _ _ e1 =>
      have hs1 : s1.memoryOk := Acc.memoryOk_congr e1 h.mayAccess
      exact trivial
    next s1 _ e1 =>
      have hs1 : s1.memoryOk := Acc.memoryOk_congr e1 h.mayAccess
      split
      next e2 => exact Eq.subst (motive := Eng.memoryOk) e2 hs1.engineWriteLines
      next a1 _ e2 =>
        have ha1 : a1.memoryOk := Eq.subst (motive := Eng.memoryOk) e2 hs1.engineWriteLines
        exact trivial
      next a1 _ e2 =>
        have ha1 : a1.memoryOk := Eq.subst (motive := Eng.memoryOk) e2 hs1.engineWriteLines
        exact trivial

theorem State.memoryOk.spillTo {s : State} {core : Nat} {a : List Nat} (h : s.memoryOk) : (s.spillTo core a).memoryOk := by
  unfold State.spillTo
  split
  · exact h
  · split
    · exact h
    · split
      · exact trivial
      · split
        next e2 => exact (Eq.subst (motive := Room.memoryOk) e2 h.spillEntry).setDeque.spillTo
        · exact h.spillEntry

theorem State.memoryOk.spillAll {s : State} {core : Nat} {is : List Nat} (h : s.memoryOk) : (s.spillAll core is).memoryOk := by
  unfold State.spillAll
  split
  · exact trivial
  · split
    next e1 => exact Acc.memoryOk_congr e1 h.mayAccess
    next s1 _ _ _ e1 =>
      have hs1 : s1.memoryOk := Acc.memoryOk_congr e1 h.mayAccess
      exact trivial
    next e1 => exact (Acc.memoryOk_congr e1 h.mayAccess).spillTo

theorem State.memoryOk.makeRoom {s : State} {core : Nat} (h : s.memoryOk) : (s.makeRoom core).memoryOk := by
  unfold State.makeRoom
  extract_lets held
  split
  · exact h
  · exact h.spillAll

theorem State.memoryOk.dequeShrank {s : State} {core : Nat} (h : s.memoryOk) : (s.dequeShrank core).memoryOk :=
  h.rejoinWhere

theorem State.memoryOk.loadEntry {s : State} {core : Nat} {x : DequeEntry} (h : s.memoryOk) : (s.loadEntry core x).memoryOk := by
  unfold State.loadEntry
  split
  · exact h
  · extract_lets who keys
    split
    next e1 => exact Acc.memoryOk_congr e1 h.mayAccess
    next e1 => exact Acc.memoryOk_congr e1 h.mayAccess
    next s1 _ e1 =>
      have hs1 : s1.memoryOk := Acc.memoryOk_congr e1 h.mayAccess
      split
      next e2 => exact Eq.subst (motive := Eng.memoryOk) e2 hs1.engineReadKeys
      next e2 => exact Eq.subst (motive := Eng.memoryOk) e2 hs1.engineReadKeys
      next e2 => exact Eq.subst (motive := Eng.memoryOk) e2 hs1.engineReadKeys

theorem State.memoryOk.dequeUsed {s : State} {core : Nat} (h : s.memoryOk) : (s.dequeUsed core).memoryOk :=
  h.modFab

theorem State.memoryOk.bringBack {s : State} {core : Nat} (h : s.memoryOk) :
    (s.bringBack core).memoryOk := by
  unfold State.bringBack
  extract_lets xs
  split
  · refine foldl_fst_memoryOk _ (fun acc i h1 => ?_) _ h
    split
    · exact h1
    · split
      · split
        next s1 y e =>
          have hs1 : s1.memoryOk := Eq.subst (motive := Taken.memoryOk) e h1.loadEntry
          exact hs1.setDeque
        next s1 w e =>
          have hs1 : s1.memoryOk := Eq.subst (motive := Taken.memoryOk) e h1.loadEntry
          exact hs1
        · exact h1
      · exact h1
  · exact h

theorem State.memoryOk.takeAt {s : State} {core i : Nat} (h : s.memoryOk) : (s.takeAt core i).memoryOk := by
  unfold State.takeAt
  split
  · exact trivial
  · split
    next e1 => exact (Eq.subst (motive := Taken.memoryOk) e1 h.loadEntry).setDeque.dequeShrank.dequeUsed
    · exact h.loadEntry

theorem State.memoryOk.popEntry {s : State} {core : Nat} {u : Ctx} (h : s.memoryOk) : (s.popEntry core u).memoryOk := by
  unfold State.popEntry
  split
  · exact trivial
  · split
    · exact h
    · split
      next e2 => exact (Eq.subst (motive := Taken.memoryOk) e2 h.takeAt).bringBack
      · exact h.takeAt

theorem State.memoryOk.stealEntry {s : State} {core : Nat} {p : PhaseId} (h : s.memoryOk) : (s.stealEntry core p).memoryOk := by
  unfold State.stealEntry
  extract_lets of
  split
  · exact trivial
  · split
    · exact h
    · exact h.takeAt

theorem State.memoryOk.pushEntry {s : State} {core : Nat} {u : Ctx} {pc : Word} {k : Nat} (h : s.memoryOk) :
    (s.pushEntry core u pc k).memoryOk :=
  h.update.setDeque.dequeUsed

theorem State.memoryOk.dequeSweep {s : State} (h : s.memoryOk) : s.dequeSweep.memoryOk :=
  h.rejoinWhere

theorem execSpawn_memoryOk {f : Fields} {s : State} (h : s.memoryOk) : MemoryKept (execSpawn f s) := by
  unfold execSpawn
  refine issueInstr_memoryOk (fun e u t h1 => ?_) h
  extract_lets a
  split
  · exact h1
  · refine State.memoryOk.afterDrain h1 (fun t1 h2 => ?_)
    refine State.memoryOk.jnTry h2 (fun t2 h3 => ?_)
    split
    · exact h3.askBorrow
    · split
      · exact h3
      · split
        · exact h3
        next e4 => exact Eq.subst (motive := Room.memoryOk) e4 h3.makeRoom
        next s1 e4 =>
          have hs1 : s1.memoryOk := Eq.subst (motive := Room.memoryOk) e4 h3.makeRoom
          refine State.memoryOk.jnAdd hs1 (fun t3 h4 => ?_)
          extract_lets w
          have hw : w.1.memoryOk := h4.split
          exact hw.pushEntry

theorem execSync_memoryOk {f : Fields} {s : State} (h : s.memoryOk) : MemoryKept (execSync f s) := by
  unfold execSync
  refine issueInstr_memoryOk (fun e u t h1 => ?_) h
  extract_lets a
  split
  · exact h1
  · split
    · exact h1
    · refine State.memoryOk.afterDrain h1 (fun t1 h2 => ?_)
      split
      next e3 => exact Acc.memoryOk_congr e3 (State.performAtHome_memoryOk _ _ _ _ _ h2)
      next e3 => exact Acc.memoryOk_congr e3 (State.performAtHome_memoryOk _ _ _ _ _ h2)
      next s1 _ e3 =>
        have hs1 : s1.memoryOk := Acc.memoryOk_congr e3 (State.performAtHome_memoryOk _ _ _ _ _ h2)
        split <;> exact hs1

theorem State.memoryOk.becomeIdle {s : State} {e : Env} {u : Ctx} (h : s.memoryOk) : (s.becomeIdle e u).state.memoryOk := by
  unfold State.becomeIdle
  extract_lets u1 s1
  have hs1 : s1.memoryOk := h.putUnit.settleIdle
  exact hs1.schedule

theorem State.memoryOk.popWork {s : State} {e : Env} {u : Ctx} (h : s.memoryOk) : (s.popWork e u).state.memoryOk := by
  unfold State.popWork
  split
  next e1 => exact Eq.subst (motive := Taken.memoryOk) e1 h.popEntry
  next e1 => exact Eq.subst (motive := Taken.memoryOk) e1 h.popEntry
  · exact h.becomeIdle

theorem execDone_memoryOk {f : Fields} {s : State} (h : s.memoryOk) : MemoryKept (execDone f s) := by
  unfold execDone
  refine issueInstr_memoryOk (fun e u t h1 => ?_) h
  extract_lets a
  split
  · exact h1.popWork
  · split
    · exact h1
    · refine State.memoryOk.afterDrain h1 (fun t1 h2 => ?_)
      refine State.memoryOk.jnAdd h2 (fun t2 h3 => ?_)
      extract_lets w
      have hw : w.1.memoryOk := h3.returnOwn
      exact hw.popWork

theorem State.memoryOk.setSeg {s : State} {seg : Nat} {ts : List Task} (h : s.memoryOk) : (s.setSeg seg ts).memoryOk :=
  h.modWork

theorem State.memoryOk.postTask {s : State} {e : Env} {u : Ctx} {v : Nat} (h : s.memoryOk) : (s.postTask e u v).state.memoryOk := by
  unfold State.postTask
  split
  · exact h.askBorrow
  · extract_lets w seg
    have hw : w.1.memoryOk := h.split
    exact hw.scheduleFree

theorem execPost_memoryOk {f : Fields} {s : State} (h : s.memoryOk) : MemoryKept (execPost f s) := by
  unfold execPost
  refine issueInstr_memoryOk (fun e u t h1 => ?_) h
  split
  · exact h1.postTask
  · refine State.memoryOk.launchRead h1 (fun t1 bs h2 => ?_)
    extract_lets v frame
    split
    · exact h2
    · exact h2.afterDrain (fun _ h3 => h3.jnAdd (fun _ h4 => h4.postTask))

theorem State.memoryOk.wakeIdle {s : State} {p : PhaseId} (h : s.memoryOk) : (s.wakeIdle p).memoryOk := by
  unfold State.wakeIdle
  refine foldl_memoryOk _ (fun s1 x h1 => ?_) _ _ h
  split
  · split
    · exact h1.setSlot.schedule
    · exact h1
  · exact h1

theorem State.memoryOk.takeIn {s : State} {seg : Nat} {task : Task} (h : s.memoryOk) : (s.takeIn seg task).memoryOk :=
  h.setSeg.wakeIdle

theorem State.memoryOk.takePost {s : State} {p : Posted} (h : s.memoryOk) : (s.takePost p).memoryOk :=
  h.modWork.takeIn

theorem execQueueSegmentAccept_memoryOk {seg : Nat} {s : State} (h : s.memoryOk) : MemoryKept (execQueueSegmentAccept seg s) := by
  unfold execQueueSegmentAccept
  refine memoryKept_next ?_
  split
  · exact h
  · split
    · split
      · split
        · split
          · exact h.takePost
          · exact h.complete.takeIn
        · exact h.complete.takeIn
      · exact h
    · exact h.takePost
    · exact h

theorem State.memoryOk.takeTask {s : State} {p : PhaseId} {r : State × Task} (h : s.memoryOk) (e : s.takeTask p = some r) :
    r.1.memoryOk := by
  unfold State.takeTask at e
  split at e
  · cases e
  · obtain ⟨t, ht, rfl⟩ := Option.map_eq_some_iff.mp e
    exact h.setSeg.scheduleFree

theorem State.memoryOk.findWork {s : State} {core : Nat} {u : Ctx} (h : s.memoryOk) :
    (s.findWork core u).memoryOk := by
  unfold State.findWork
  split
  next x r e =>
    obtain ⟨c, hc, e1⟩ := List.exists_of_findSome?_eq_some e
    split at e1
    next s1 y e2 =>
      have hs1 : s1.memoryOk := Eq.subst (motive := Taken.memoryOk) e2 h.stealEntry
      exact Option.some.inj e1 ▸ hs1
    next s1 y e2 =>
      have hs1 : s1.memoryOk := Eq.subst (motive := Taken.memoryOk) e2 h.stealEntry
      exact Option.some.inj e1 ▸ hs1
    · cases e1
  · split
    next r e1 => exact h.takeTask e1
    · exact h

theorem execIdleWorkerRound_memoryOk {unit : Nat} {s : State} (h : s.memoryOk) : MemoryKept (execIdleWorkerRound unit s) := by
  unfold execIdleWorkerRound
  refine memoryKept_next ?_
  split
  · exact h
  · split
    · extract_lets r
      have hr : r.1.memoryOk := h.passSafe
      split
      next s1 _ e2 =>
        have hs1 : s1.memoryOk := by
          refine fst_memoryOk_congr e2 ?_
          split
          · exact h
          · exact hr
        split
        · exact hs1
        · split
          · exact hs1.retireUnit
          · split
            next e5 => exact (Eq.subst (motive := Found.memoryOk) e5 hs1.findWork).setSlot
            next e5 => exact (Eq.subst (motive := Found.memoryOk) e5 hs1.findWork).setSlot.schedule
            next s2 e5 =>
              have hs2 : s2.memoryOk := Eq.subst (motive := Found.memoryOk) e5 hs1.findWork
              extract_lets next
              exact hs2.setSlot.schedule
    · exact h

theorem State.memoryOk.quietNow {s : State} {p : PhaseId} (h : s.memoryOk) : (s.quietNow p).memoryOk := by
  unfold State.quietNow
  extract_lets v
  refine foldl_memoryOk _ (fun s1 x h1 => ?_) _ _ h
  split
  · split
    · exact h1.complete
    · exact h1
  · split
    · exact h1.retireUnit
    · exact h1
  · exact h1

theorem State.memoryOk.quiesced {s : State} {p : PhaseId} (h : s.memoryOk) : (s.quiesced p).memoryOk := by
  unfold State.quiesced
  refine foldl_memoryOk _ (fun s1 x h1 => ?_) _ _ h
  split
  · split
    · extract_lets c
      exact h1.modFirm.scheduleFree
    · exact h1
  · exact h1

theorem execRootReturn_memoryOk {ret : WeightReturn} {s : State} (h : s.memoryOk) : MemoryKept (execRootReturn ret s) := by
  unfold execRootReturn
  refine memoryKept_next ?_
  split
  next e => exact (Eq.subst (motive := Drained.memoryOk) e h.drainList).scheduleFree
  next s1 e =>
    have hs1 : s1.memoryOk := Eq.subst (motive := Drained.memoryOk) e h.drainList
    split
    · exact hs1.scheduleFree
    · extract_lets s2
      have hs2 : s2.memoryOk := hs1.modPhase
      split
      · exact hs2.quietNow.quiesced
      · exact hs2
  next s1 e =>
    have hs1 : s1.memoryOk := Eq.subst (motive := Drained.memoryOk) e h.drainList
    split
    · exact hs1.scheduleFree
    · extract_lets s2
      have hs2 : s2.memoryOk := hs1.modPhase
      split
      · exact hs2.quietNow.quiesced
      · exact hs2

theorem execRootBorrow_memoryOk {unit : Nat} {s : State} (h : s.memoryOk) : MemoryKept (execRootBorrow unit s) := by
  unfold execRootBorrow
  refine memoryKept_next ?_
  split
  · exact h
  · split
    · extract_lets up fits
      split
      · exact h.modPhase.setSlot.rejoin
      · exact h.setSlot
    · exact h

theorem execQuietWait_memoryOk {f : Fields} {s : State} (h : s.memoryOk) : MemoryKept (execQuietWait f s) := by
  unfold execQuietWait
  refine issueInstr_memoryOk (fun e u t h1 => ?_) h
  split
  · split <;> exact h1
  · extract_lets w
    have hw : w.1.memoryOk := h1.returnOwn
    exact hw

theorem State.memoryOk.nextCoord {s : State} {id : LaunchId} (h : s.memoryOk) : (s.nextCoord id).1.memoryOk := by
  unfold State.nextCoord
  split
  · split
    · exact h.modLaunch
    · exact h
  · exact h

theorem execGrant_memoryOk {f : Fields} {s : State} (h : s.memoryOk) : MemoryKept (execGrant f s) := by
  unfold execGrant
  refine issueInstr_memoryOk (fun e u t h1 => ?_) h
  extract_lets a code
  split
  · exact h1
  · exact h1.nextCoord.startOp.scheduleFree

theorem execGrantAnswer_memoryOk {op : Nat} {s : State} (h : s.memoryOk) : MemoryKept (execGrantAnswer op s) := by
  unfold execGrantAnswer
  refine memoryKept_next ?_
  split
  · exact h
  · split
    · split
      · exact h
      · split
        · exact h.dropOp
        · split
          next e4 => exact (Eq.subst (motive := Eng.memoryOk) e4 h.engineWrite).endOp
          next e4 => exact (Eq.subst (motive := Eng.memoryOk) e4 h.engineWrite).endOp
          next e4 => exact (Eq.subst (motive := Eng.memoryOk) e4 h.engineWrite).stallOp
    · exact h

/-! ## Contexts -/

theorem State.memoryOk.grantSlot {s : State} {k core slot : Nat} (h : s.memoryOk) : (s.grantSlot k core slot).memoryOk := by
  unfold State.grantSlot
  split
  · exact h.startMigration
  · exact h

theorem State.memoryOk.exchange {s : State} {ks : List Nat} (h : s.memoryOk) : (s.exchange ks).memoryOk := by
  unfold State.exchange
  refine foldl_memoryOk _ (fun s1 x h1 => ?_) _ _ h
  split
  · exact h1.setSlot.schedule
  · exact h1

theorem State.memoryOk.serveQueue {s : State} {tile a : Nat} (h : s.memoryOk) : (s.serveQueue tile a).memoryOk := by
  unfold State.serveQueue
  split
  · exact h
  · split
    · exact h.grantSlot.serveQueue
    · split
      · exact h.exchange.serveQueue
      · exact h

theorem execMigrationQueueGrant_memoryOk {tile : Nat} {s : State} (h : s.memoryOk) : MemoryKept (execMigrationQueueGrant tile s) := by
  unfold execMigrationQueueGrant
  refine memoryKept_next ?_
  split
  · exact h
  · exact h.serveQueue

theorem State.memoryOk.arriveAt {s : State} {k : Nat} {u : Ctx} (h : s.memoryOk) : (s.arriveAt k u).memoryOk :=
  h.setSlot

theorem State.memoryOk.moveStores {s : State} {k : Nat} {u : Ctx} {target : Nat} (h : s.memoryOk) : (s.moveStores k u target).memoryOk := by
  unfold State.moveStores
  extract_lets sent mine moved s1
  have hs1 : s1.memoryOk := h.setBuffer
  exact (foldl_memoryOk _ (fun _ _ h1 => h1.scheduleFree) _ _ hs1).bufferChanged

theorem execMigrationTransferEnd_memoryOk {unit : Nat} {s : State} (h : s.memoryOk) : MemoryKept (execMigrationTransferEnd unit s) := by
  unfold execMigrationTransferEnd
  refine memoryKept_next ?_
  split
  · exact h
  · split
    · exact h
    · extract_lets chain s1 s2
      have hs1 : s1.memoryOk := foldl_memoryOk _ (fun _ _ h1 => h1.setSlot) _ _ h
      have hs2 : s2.memoryOk := foldl_memoryOk _ (fun _ _ h1 => h1.arriveAt.moveStores) _ _ hs1
      refine foldl_memoryOk _ (fun s3 x1 h1 => ?_) _ _ hs2
      split
      · exact h1.freeSlot
      · exact h1

theorem execCtxStart_memoryOk {f : Fields} {s : State} (h : s.memoryOk) : MemoryKept (execCtxStart f s) := by
  unfold execCtxStart
  refine issueInstr_memoryOk (fun e u t h1 => ?_) h
  split
  · exact h1
  · split
    · exact h1
    · extract_lets pc
      split
      · exact h1
      · exact h1.update.setSlot

theorem State.memoryOk.endRestoring {s : State} {k : Nat} {m : Mark} (h : s.memoryOk) : (s.endRestoring k m).memoryOk := by
  unfold State.endRestoring
  extract_lets mine
  split
  · extract_lets s1
    have hs1 : s1.memoryOk := h.modLaunch
    exact hs1.endImage.freeSlot.countUnit
  · exact h.freeSlot

theorem State.memoryOk.reap {s : State} {k : Nat} (h : s.memoryOk) : (s.reap k).1.memoryOk := by
  unfold State.reap
  split
  · exact h.endSlot
  · exact h.endSlot
  · exact h.endRestoring
  · exact h

theorem execCtxReap_memoryOk {f : Fields} {s : State} (h : s.memoryOk) : MemoryKept (execCtxReap f s) := by
  unfold execCtxReap
  refine issueInstr_memoryOk (fun e u t h1 => ?_) h
  split
  · exact h1
  · extract_lets r
    have hr : r.1.memoryOk := h1.reap
    exact hr

theorem State.memoryOk.setPart {s : State} {tile : Nat} {p : Part} (h : s.memoryOk) : (s.setPart tile p).memoryOk := by
  unfold State.setPart
  split
  · exact h
  · exact h.modFab

theorem State.memoryOk.repartition {s : State} {tile : Nat} {p : Part} (h : s.memoryOk) : (s.repartition tile p).memoryOk := by
  unfold State.repartition
  extract_lets cores s1 s2
  have hs1 : s1.memoryOk := h.modFab
  have hs2 : s2.memoryOk := by
    unfold s2
    refine foldl_memoryOk _ (fun s3 x h1 => ?_) _ _ hs1
    split
    · exact h1.setSlot
    · exact h1
  split
  · exact hs2.schedule
  · exact hs2

theorem execCtxPart_memoryOk {f : Fields} {s : State} (h : s.memoryOk) : MemoryKept (execCtxPart f s) := by
  unfold execCtxPart
  refine issueInstr_memoryOk (fun e u t h1 => ?_) h
  extract_lets n q
  split
  · exact h1
  · split
    · exact h1
    · split
      · exact h1
      · exact h1.repartition

end Sys2Proof.Machine

end

section
/-!
SUPPORT. The canonical form of the memory through the state-space engine, the barrel and the scheduler.
A lemma `State.memoryOk.f` says that `State.f` keeps the form, `f_memoryOk` that another function does.
-/
namespace Sys2Proof.Machine

open Sys2Proof

/-! ## The state-space engine -/

theorem State.memoryOk.blockRead {s : State} {core : Nat} {u : Ctx} {a : Word} {n size : Nat} (h : s.memoryOk) :
    (s.blockRead core u a n size).memoryOk := by
  unfold State.blockRead
  split
  · exact h
  · split
    next e1 => exact Acc.memoryOk_congr e1 (State.performRead_memoryOk _ _ _ h)
    next e1 => exact Acc.memoryOk_congr e1 (State.performRead_memoryOk _ _ _ h)
    next e1 => exact Acc.memoryOk_congr e1 (State.performRead_memoryOk _ _ _ h)

theorem State.memoryOk.blockWrite {s : State} {core : Nat} {u : Ctx} {a : Word} {bs : List Byte} {size : Nat} (h : s.memoryOk) :
    (s.blockWrite core u a bs size).memoryOk := by
  unfold State.blockWrite
  split
  · exact h
  · split
    next e1 => exact Acc.memoryOk_congr e1 (State.performWrite_memoryOk _ _ _ _ _ h)
    next e1 => exact Acc.memoryOk_congr e1 (State.performWrite_memoryOk _ _ _ _ _ h)
    next e1 => exact Acc.memoryOk_congr e1 (State.performWrite_memoryOk _ _ _ _ _ h)

theorem State.memoryOk.blockReady {s : State} {core : Nat} {u : Ctx} {a : List (Word × List Byte × Nat)} (h : s.memoryOk) :
    (s.blockReady core u a).memoryOk := by
  unfold State.blockReady
  split
  · exact h
  · split
    · exact h
    · split
      next e1 => exact (Acc.memoryOk_congr e1 h.mayAccess).blockReady
      next e1 => exact Acc.memoryOk_congr e1 h.mayAccess
      next e1 => exact Acc.memoryOk_congr e1 h.mayAccess

theorem State.memoryOk.blockCommit {s : State} {core : Nat} {u : Ctx} {outs wa quad : Word × List Byte × Nat} (h : s.memoryOk) :
    (s.blockCommit core u outs wa quad).memoryOk := by
  unfold State.blockCommit
  split
  next s1 _ e =>
    have hs1 : s1.memoryOk := Eq.subst (motive := BlockAcc.memoryOk) e h.blockReady
    split
    next s2 _ e1 =>
      have hs2 : s2.memoryOk := Eq.subst (motive := BlockAcc.memoryOk) e1 hs1.blockWrite
      split
      next s3 _ e2 =>
        have hs3 : s3.memoryOk := Eq.subst (motive := BlockAcc.memoryOk) e2 hs2.blockWrite
        split
        next e3 => exact (Eq.subst (motive := BlockAcc.memoryOk) e3 hs2.blockWrite).blockWrite
        · exact hs2.blockWrite
      · exact hs2.blockWrite
    · exact hs1.blockWrite
  · exact h.blockReady

theorem State.memoryOk.readState {s : State} {core : Nat} {u : Ctx} {b : SsmBlock} (h : s.memoryOk) : (s.readState core u b).memoryOk :=
  h.blockRead

theorem State.memoryOk.readBytes {s : State} {e : Env} {u : Ctx} {ptr : Word} {rest : State → List Byte → Res} (h : s.memoryOk)
    (hrest : ∀ t bs, t.memoryOk → (rest t bs).state.memoryOk) :
    (s.readBytes e u ptr rest).state.memoryOk := by
  unfold State.readBytes
  refine State.memoryOk.afterDrain h (fun t h1 => ?_)
  split
  next e1 => exact Eq.subst (motive := BlockAcc.memoryOk) e1 h1.blockRead
  next e1 => exact Eq.subst (motive := BlockAcc.memoryOk) e1 h1.blockRead
  next s1 _ e1 =>
    have hs1 : s1.memoryOk := Eq.subst (motive := BlockAcc.memoryOk) e1 h1.blockRead
    exact hrest _ _ hs1

theorem State.memoryOk.readBlock {s : State} {e : Env} {u : Ctx} {ptr : Word} {rest : State → SsmBlock → Res} (h : s.memoryOk)
    (hrest : ∀ t x, t.memoryOk → (rest t x).state.memoryOk) :
    (s.readBlock e u ptr rest).state.memoryOk :=
  h.readBytes (fun _ _ h1 => hrest _ _ h1)

theorem execSsmCfg_memoryOk {f : Fields} {s : State} (h : s.memoryOk) : MemoryKept (execSsmCfg f s) := by
  unfold execSsmCfg
  refine issueInstr_memoryOk (fun e u t h1 => ?_) h
  extract_lets ptr
  refine State.memoryOk.readBlock h1 (fun t1 x h2 => ?_)
  extract_lets k
  exact h2

theorem State.memoryOk.startChunk {s : State} {core : Nat} {bs h0 : List Byte} (h : s.memoryOk) : (s.startChunk core bs h0).memoryOk := by
  unfold State.startChunk
  extract_lets a matrix due s1
  have hs1 : s1.memoryOk := h.update
  exact hs1.setArray.schedule

theorem State.memoryOk.wakeEngine {s : State} {core : Nat} (h : s.memoryOk) : (s.wakeEngine core).memoryOk :=
  h.rejoinWhere

theorem State.memoryOk.freeEngine {s : State} {core : Nat} (h : s.memoryOk) : (s.freeEngine core).memoryOk :=
  h.setArray.wakeEngine

theorem State.memoryOk.leaveLine {s : State} {core key : Nat} (h : s.memoryOk) : (s.leaveLine core key).memoryOk := by
  unfold State.leaveLine
  extract_lets a
  split
  · split
    · exact h.setArray.wakeEngine
    · exact h.setArray
  · exact h

theorem Res.leaveLine_memoryOk {core key : Nat} {r : Res} (h : r.state.memoryOk) : (Res.leaveLine core key r).state.memoryOk := by
  unfold Res.leaveLine
  split
  · exact h.leaveLine
  · exact h.leaveLine
  · exact h.leaveLine
  · exact h

theorem execSsmRun_memoryOk {f : Fields} {s : State} (h : s.memoryOk) : MemoryKept (execSsmRun f s) := by
  unfold execSsmRun
  refine issueInstr_memoryOk (fun e u t h1 => ?_) h
  extract_lets dst
  split
  · exact h1
  · refine Res.leaveLine_memoryOk ?_
    refine State.memoryOk.readBytes h1 (fun t1 bs h2 => ?_)
    extract_lets b k
    split
    · exact h2
    · split
      · exact h2
      · split
        · split
          · exact h2.setArray
          · split
            next e6 => exact Eq.subst (motive := BlockAcc.memoryOk) e6 h2.readState
            next e6 => exact (Eq.subst (motive := BlockAcc.memoryOk) e6 h2.readState).setArray
            next s1 _ e6 =>
              have hs1 : s1.memoryOk := Eq.subst (motive := BlockAcc.memoryOk) e6 h2.readState
              extract_lets s2
              exact hs1.setArray.startChunk
        · exact h2.setArray

theorem State.memoryOk.endRun {s : State} {core k : Nat} {npc : Word} {dst : Nat} {v : Word} (h : s.memoryOk) :
    (s.endRun core k npc dst v).memoryOk :=
  h.complete.freeEngine

theorem State.memoryOk.chunkWaits {s : State} {core unit : Nat} {w : Wait} (h : s.memoryOk) : (s.chunkWaits core unit w).memoryOk :=
  h.setArray.modUnit

theorem State.memoryOk.failRun {s : State} {core k : Nat} {u : Ctx} {t : Trap} (h : s.memoryOk) : (s.failRun core k u t).memoryOk :=
  State.takeTrap_memoryOk _ _ _ h.freeEngine

theorem State.memoryOk.nextChunk {s : State} {core k : Nat} {u : Ctx} {ptr : Word} {dst : Nat} {npc : Word} (h : s.memoryOk) :
    (s.nextChunk core k u ptr dst npc).memoryOk := by
  unfold State.nextChunk
  extract_lets waits
  split
  next a _ e =>
    have ha : a.memoryOk := Eq.subst (motive := BlockAcc.memoryOk) e h.blockRead
    extract_lets b code
    split
    · exact ha.endRun
    · split
      · exact ha.endRun
      · split
        next e3 => exact (Eq.subst (motive := BlockAcc.memoryOk) e3 ha.readState).modUnit.startChunk
        next e3 => exact (Eq.subst (motive := BlockAcc.memoryOk) e3 ha.readState).failRun
        next e3 => exact (Eq.subst (motive := BlockAcc.memoryOk) e3 ha.readState).setArray.chunkWaits
  next e => exact (Eq.subst (motive := BlockAcc.memoryOk) e h.blockRead).failRun
  next e => exact (Eq.subst (motive := BlockAcc.memoryOk) e h.blockRead).setArray.chunkWaits

theorem State.memoryOk.afterCommit {s : State} {core k : Nat} {ptr : Word} {limit dst : Nat} {npc : Word} {c : Committed} (h : s.memoryOk) :
    (s.afterCommit core k ptr limit dst npc c).memoryOk := by
  unfold State.afterCommit
  split
  · exact h
  · extract_lets a ran s1
    have hs1 : s1.memoryOk := h.setArray
    split
    · exact hs1.endRun
    · split
      · split
        next s2 e3 =>
          have hs2 : s2.memoryOk := fst_memoryOk_congr e3 hs1.freeEngine.takeDrained
          split
          · exact hs2
          · exact hs2.rejoin
        next e3 => exact (fst_memoryOk_congr e3 hs1.freeEngine.takeDrained).rejoin
      · refine State.memoryOk.nextChunk ?_
        split
        · exact hs1.passRevocations
        · exact hs1

theorem State.memoryOk.blockReads {s : State} {core : Nat} {u : Ctx} {parts : List (Word × Nat × Nat)} (h : s.memoryOk) :
    (s.blockReads core u parts).1.memoryOk := by
  induction parts generalizing s with
  | nil => exact h
  | cons p rest ih =>
    have hr : (s.blockRead core u p.1 p.2.1 p.2.2).memoryOk := h.blockRead
    unfold State.blockReads
    split
    next s1 v e => exact ih (Eq.subst (motive := BlockAcc.memoryOk) e hr)
    · exact hr

/-- What a chunk hands over: its own state, or the access that stopped it. -/
def ChunkMade.memoryOk : Except BlockAcc Committed → Prop
  | .ok c => c.state.memoryOk
  | .error r => r.memoryOk

theorem State.memoryOk.ssmChunk {s : State} {core : Nat} {u : Ctx} {ptr : Word} {b : SsmBlock} {hs : List Byte} (h : s.memoryOk) :
    ChunkMade.memoryOk (s.ssmChunk core u ptr b hs) := by
  unfold State.ssmChunk
  extract_lets len off
  split
  next s1 _ _ _ _ _ e =>
    have hs1 : s1.memoryOk := Eq.subst (motive := fun r : BlockAcc × List (List Byte) => r.1.memoryOk) e h.blockReads
    extract_lets r fin tdone
    split
    next s2 v2 e2 => exact Eq.subst (motive := BlockAcc.memoryOk) e2 hs1.blockCommit
    next r2 e2 => exact hs1.blockCommit
  next r x e => exact Eq.subst (motive := fun r : BlockAcc × List (List Byte) => r.1.memoryOk) e h.blockReads

theorem execSsmChunkCommit_memoryOk {core : Nat} {s : State} (h : s.memoryOk) :
    MemoryKept (execSsmChunkCommit core s) := by
  unfold execSsmChunkCommit
  refine memoryKept_next ?_
  split
  next k sl u e =>
    split
    · split
      · exact h
      · split
        · exact h.nextChunk
        · split
          next c e1 => exact State.memoryOk.afterCommit (State.memoryOk.modUnit (Eq.subst (motive := ChunkMade.memoryOk) e1 h.ssmChunk))
          next r e1 =>
            have hr : r.memoryOk := Eq.subst (motive := ChunkMade.memoryOk) e1 h.ssmChunk
            cases r with
            | trap s1 t => exact State.memoryOk.failRun hr
            | wait s1 w => exact State.memoryOk.chunkWaits hr
            | ok s1 v => exact hr
    · exact h
  · exact h

theorem execSsmSt_memoryOk {f : Fields} {s : State} (h : s.memoryOk) : MemoryKept (execSsmSt f s) := by
  unfold execSsmSt
  refine issueInstr_memoryOk (fun e u t h1 => ?_) h
  split
  · exact h1
  · refine State.memoryOk.readBlock h1 (fun t1 x1 h2 => ?_)
    split
    · exact h2
    · split
      next e3 => exact Eq.subst (motive := BlockAcc.memoryOk) e3 h2.readState
      next e3 => exact Eq.subst (motive := BlockAcc.memoryOk) e3 h2.readState
      next s1 _ e3 =>
        have hs1 : s1.memoryOk := Eq.subst (motive := BlockAcc.memoryOk) e3 h2.readState
        extract_lets ty w vs
        split
        next e4 => exact Eq.subst (motive := BlockAcc.memoryOk) e4 hs1.blockWrite
        next e4 => exact Eq.subst (motive := BlockAcc.memoryOk) e4 hs1.blockWrite
        next e4 => exact Eq.subst (motive := BlockAcc.memoryOk) e4 hs1.blockWrite

theorem execSsmStat_memoryOk {f : Fields} {s : State} (h : s.memoryOk) : MemoryKept (execSsmStat f s) := by
  unfold execSsmStat
  refine issueInstr_memoryOk (fun e u t h1 => ?_) h
  split
  · exact h1
  · refine State.memoryOk.afterDrain h1 (fun t1 h2 => ?_)
    split
    next e2 => exact Eq.subst (motive := BlockAcc.memoryOk) e2 h2.blockRead
    next e2 => exact Eq.subst (motive := BlockAcc.memoryOk) e2 h2.blockRead
    next e2 => exact Eq.subst (motive := BlockAcc.memoryOk) e2 h2.blockRead

/-! ## Fetch and issue -/

theorem State.memoryOk.icacheInstall {s : State} {tile line : Nat} (h : s.memoryOk) : (s.icacheInstall tile line).memoryOk := by
  unfold State.icacheInstall
  extract_lets key held
  split
  · exact h
  · split
    · exact h.modFab
    · exact h.update.modFab

theorem State.memoryOk.requestCode {s : State} {tile line : Nat} (h : s.memoryOk) : (s.requestCode tile line).memoryOk := by
  unfold State.requestCode
  extract_lets joins join
  split
  · exact h.update
  · exact h.scheduleFree

theorem State.memoryOk.codeLine {s : State} {tile : Nat} {uid : BitVec 24} {pc : Word} {line : Nat} (h : s.memoryOk) :
    (s.codeLine tile uid pc line).memoryOk := by
  unfold State.codeLine
  extract_lets n tag
  split
  · exact h
  · split
    · exact h
    · exact h
    · exact h.requestExtent
    · exact h
    · split
      · exact trivial
      · split
        next s2 _ e3 =>
          have hs2 : s2.memoryOk := Acc.memoryOk_congr e3 h.setExtent.lookUp.waysAll
          split
          next e4 => exact Acc.memoryOk_congr e4 hs2.openHome
          · exact (Acc.state_memoryOk hs2.openHome).requestCode
        · exact Acc.state_memoryOk h.setExtent.lookUp.waysAll

theorem State.memoryOk.fetch {s : State} {r : SlotRef} {u : Ctx} (h : s.memoryOk) : (s.fetch r u).memoryOk := by
  unfold State.fetch
  extract_lets tile stop
  unfold stop
  split
  · split
    · exact trivial
    · split
      · exact trivial
      · split
        · exact trivial
        next a _ e3 =>
          have ha : a.memoryOk := Eq.subst (motive := CodeLine.memoryOk) e3 h.codeLine
          exact State.takeTrap_memoryOk _ _ _ ha
        next e3 => exact (Eq.subst (motive := CodeLine.memoryOk) e3 h.codeLine).putMode
  next a _ e =>
    have ha : a.memoryOk := Eq.subst (motive := CodeLine.memoryOk) e h.codeLine
    exact State.takeTrap_memoryOk _ _ _ ha
  next e => exact (Eq.subst (motive := CodeLine.memoryOk) e h.codeLine).putMode

theorem execIcacheFill_memoryOk {fill : CodeFill} {s : State} (h : s.memoryOk) : MemoryKept (execIcacheFill fill s) := by
  unfold execIcacheFill
  refine memoryKept_next ?_
  refine State.memoryOk.rejoinWhere ?_
  refine foldl_memoryOk _ ?_ _ _ ?_
  · intro s1 x h1
    split
    · split
      next e1 => exact (Acc.memoryOk_congr e1 h1.openHome).icacheInstall
      · exact Acc.state_memoryOk h1.openHome
    · exact h1
  · split
    · exact h.setPoison.logEvent
    · exact h.findLine

theorem State.memoryOk.setLast {s : State} {core slot : Nat} (h : s.memoryOk) : (s.setLast core slot).memoryOk :=
  h.modFab

theorem State.memoryOk.fetchWaits {s t : State} {r : SlotRef} {u : Ctx} (h : s.memoryOk) (e : s.fetchWaits r u = some t) :
    t.memoryOk := by
  unfold State.fetchWaits at e
  split at e
  next x t1 e1 =>
    have ht1 : t1.memoryOk := Eq.subst (motive := Fetched.memoryOk) e1 h.fetch
    split at e
    · exact Option.some.inj e ▸ ht1
    · cases e
  · cases e

theorem execBarrelIssue_memoryOk {core : Nat} {s : State} (h : s.memoryOk) :
    MemoryKept (execBarrelIssue core s) := by
  unfold execBarrelIssue
  refine memoryKept_next ?_
  split
  · exact h
  · extract_lets r
    split
    · exact h
    · split
      · exact h.parkFailed.update
      · exact h.takeHeld.update
      · split
        next t e4 => exact (h.fetchWaits e4).update
        · extract_lets s1
          have hs1 : s1.memoryOk := by
            unfold s1
            split
            · exact h.holdVector
            · exact h
          exact hs1.setLast.setSlot.update

theorem execMemoryReply_memoryOk {unit : Nat} {s : State} (h : s.memoryOk) : MemoryKept (execMemoryReply unit s) := by
  unfold execMemoryReply
  refine memoryKept_next ?_
  split
  · exact h
  · split
    · split
      · exact h
      · split
        · exact h.complete
        · exact State.takeTrap_memoryOk _ _ _ h
    · exact h

theorem State.memoryOk.performOne {s : State} {core : Nat} {sem : Bool} {again : Instr} (h : s.memoryOk) :
    (s.performOne core sem again).memoryOk := by
  unfold State.performOne
  extract_lets mine t
  have ht : t.memoryOk := h.performNext
  split
  · exact ht.scheduleFree
  · exact ht

theorem State.memoryOk.completeDue {s : State} {due : Wait → Option (Nat × Word)} (h : s.memoryOk) : (s.completeDue due).memoryOk := by
  unfold State.completeDue
  refine foldl_memoryOk _ (fun s1 x h1 => ?_) _ _ h
  split
  · split
    · split
      · exact h1.complete
      · exact h1
    · exact h1
  · exact h1

theorem State.memoryOk.wakeBank {s : State} {n : Nat} (h : s.memoryOk) : (s.wakeBank n).memoryOk :=
  State.memoryOk_of_eq h (congrArg Store.mem (State.wakeBank_store ..))

theorem State.memoryOk.bankSweep {s : State} (h : s.memoryOk) : s.bankSweep.memoryOk := by
  unfold State.bankSweep
  extract_lets ended
  exact h.rejoinWhere.wakeArrays

theorem State.memoryOk.scheduleExit {s : State} {wanted : Bool} (h : s.memoryOk) : (s.scheduleExit wanted).memoryOk := by
  unfold State.scheduleExit
  split
  · exact h.schedule
  · exact h

theorem execRetentionExitComplete_memoryOk {s : State} (h : s.memoryOk) : MemoryKept (execRetentionExitComplete s) := by
  unfold execRetentionExitComplete
  refine memoryKept_next ?_
  refine foldl_memoryOk _ ?_ _ _ ?_
  · intro s1 x h1
    split
    · split
      · exact h1.findWayErrors.setWay.scheduleExit
      · exact h1
    · split
      · exact h1.findWayErrors.setWay.wakeBank
      · exact h1
    · exact h1
  · refine foldl_memoryOk _ (fun s1 x h1 => ?_) _ _ h
    split
    · split
      · exact h1.findBankErrors.setBank.scheduleExit
      · exact h1
    · split
      · exact h1.findBankErrors.setBank.wakeBank
      · exact h1
    · exact h1

/-! ## Placement and pre-emption -/

theorem FMap.foldl_set_wf {α β : Type} [DecidableEq α] (d : α) (k : β → Nat) (v : β → α) (l : List β) {m : FMap α}
    (h : m.wf d) : (l.foldl (fun m e => FMap.set d m (k e) (v e)) m).wf d :=
  List.foldlRecOn (motive := fun m : FMap α => m.wf d = true) l _ h fun m hm _ _ =>
    FMap.set_wf d m _ _ hm

theorem State.memoryOk.copyTile {s old : State} {a b : Nat} (h : s.memoryOk) :
    (s.copyTile old a b).memoryOk := by
  unfold State.copyTile
  extract_lets lo hi base mem poison s1 s2
  have hs1 : s1.memoryOk := State.memoryOk_modStore (FMap.foldl_set_wf 0 _ _ _ (FMap.clear_wf 0 _ _ _ h))
  have hs2 : s2.memoryOk := foldl_memoryOk _ (fun _ _ h1 => h1.setWindow.setSem) _ _ hs1
  exact foldl_memoryOk _ (fun _ _ h1 => h1.setPlane) _ _ hs2

theorem State.memoryOk.checkTile {s : State} {tile : Nat} (h : s.memoryOk) : (s.checkTile tile).memoryOk :=
  foldl_memoryOk _ (fun _ _ h1 => h1.wakeScratch) _ _ h

theorem State.memoryOk.holdAtMost {s : State} {core : Nat} (h : s.memoryOk) : (s.holdAtMost core).memoryOk := by
  unfold State.holdAtMost
  extract_lets held
  refine foldl_memoryOk _ (fun s1 x h1 => ?_) _ _ h
  split
  next e => exact Eq.subst (motive := Room.memoryOk) e h1.spillAll
  · exact h1
  next a _ e =>
    have ha : a.memoryOk := Eq.subst (motive := Room.memoryOk) e h1.spillAll
    exact h1

theorem State.memoryOk.moveEntries {s : State} {l : Launch} {a b : Nat} (h : s.memoryOk) : (s.moveEntries l a b).memoryOk := by
  unfold State.moveEntries
  extract_lets mine xs
  split
  · exact h
  · exact h.setDeque.dequeShrank.setDeque.holdAtMost

theorem State.memoryOk.moveCore {s : State} {l : Launch} {a b : Nat} (h : s.memoryOk) : (s.moveCore l a b).memoryOk := by
  unfold State.moveCore
  extract_lets cls moved ms s1 s2 s3 redirect
  have hs1 : s1.memoryOk := h.setMsgs
  have hs2 : s2.memoryOk := hs1.setMsgs
  have hs3 : s3.memoryOk := foldl_memoryOk _ (fun _ _ h1 => h1.modFab) _ _ hs2
  exact hs3.modWork.moveEntries

theorem State.memoryOk.moveTeam {s : State} {l : Launch} {o n : Nat} (h : s.memoryOk) : (s.moveTeam l o n).memoryOk := by
  unfold State.moveTeam
  extract_lets pairs s1 t
  have hs1 : s1.memoryOk := foldl_memoryOk _ (fun _ _ h1 => h1.checkTile) _ _ h
  have ht : t.memoryOk := foldl_memoryOk _ (fun _ _ h1 => h1.copyTile) _ _ hs1
  exact foldl_memoryOk _ (fun _ _ h1 => foldl_memoryOk _ (fun _ _ h2 => h2.moveCore) _ _ h1) _ _ ht

theorem State.memoryOk.placePending {s : State} {l : Launch} {j : Job} {p : Pending} {k at_ : Nat} (h : s.memoryOk) :
    (s.placePending l j p k at_).memoryOk := by
  unfold State.placePending
  split
  · extract_lets s1
    have hs1 : s1.memoryOk := h.setSlot
    exact hs1.update.modLaunch
  · extract_lets s1 s2
    have hs1 : s1.memoryOk := h.setSlot
    have hs2 : s2.memoryOk := hs1.modLaunch
    exact hs2.schedule

theorem State.memoryOk.fillLaunch {s : State} {id : LaunchId} {j : Job} (h : s.memoryOk) : (s.fillLaunch id j).memoryOk := by
  unfold State.fillLaunch
  split
  · exact h
  · refine foldl_memoryOk _ (fun s1 x1 h1 => ?_) _ _ h
    extract_lets tile c
    split
    · exact h1
    · exact foldl_memoryOk _ (fun _ _ h2 => h2.placePending) _ _ h1

theorem State.memoryOk.fuseTeam {s : State} {l : Launch} {tiles : List Nat} (h : s.memoryOk) : (s.fuseTeam l tiles).memoryOk := by
  unfold State.fuseTeam
  split
  · extract_lets whole s1
    have hs1 : s1.memoryOk := State.writeBackWhere_memoryOk _ _ h
    exact foldl_memoryOk _ (fun _ _ h1 => h1.modFab) _ _ hs1
  · exact h

theorem State.memoryOk.bringTiles {s : State} {l : Launch} {o : Nat} (h : s.memoryOk) : (s.bringTiles l o).memoryOk := by
  unfold State.bringTiles
  refine foldl_memoryOk _ (fun s1 x h1 => ?_) _ _ h
  split
  · exact h1
  · exact h1.repartition

theorem State.memoryOk.seatLaunch {s : State} {l : Launch} {j : Job} {o : Nat} (h : s.memoryOk) : (s.seatLaunch l j o).memoryOk := by
  unfold State.seatLaunch
  extract_lets s1 s2 ends
  have hs1 : s1.memoryOk := h.unfuse.fuseTeam.modLaunch
  have hs2 : s2.memoryOk := by
    unfold s2
    split
    · split
      · exact hs1
      · exact hs1.moveTeam
    · exact hs1
  exact hs2.modLaunch.schedule

theorem State.memoryOk.beginGather {s : State} {l : Launch} {j : Job} {o : Nat} (h : s.memoryOk) : (s.beginGather l j o).memoryOk := by
  unfold State.beginGather
  extract_lets s1 s2
  have hs1 : s1.memoryOk := h.bringTiles
  have hs2 : s2.memoryOk := by
    unfold s2
    split
    · exact hs1
    · exact hs1.modJob.modLaunch
  exact hs2.modLaunch

theorem State.memoryOk.placeLaunch {s : State} {l : Launch} {j : Job} {o : Nat} (h : s.memoryOk) : (s.placeLaunch l j o).memoryOk := by
  unfold State.placeLaunch
  split
  · exact h.beginGather
  · exact h.bringTiles.seatLaunch.fillLaunch

theorem State.memoryOk.loseGather {s : State} {id : LaunchId} (h : s.memoryOk) : (s.loseGather id).memoryOk := by
  unfold State.loseGather
  extract_lets top
  exact h.modLaunch.schedule

theorem State.memoryOk.gatherTile {s : State} {l : Launch} {o rank : Nat} (h : s.memoryOk) : (s.gatherTile l o rank).memoryOk := by
  unfold State.gatherTile
  extract_lets tile c ks
  split
  · exact h.loseGather
  · split
    · exact h.loseGather
    · exact (foldl_memoryOk _ (fun _ _ h1 => h1.loseGather) _ _ h).modLaunch

theorem State.memoryOk.seatGang {s : State} {l : Launch} {j : Job} {o : Nat} (h : s.memoryOk) : (s.seatGang l j o).memoryOk := by
  unfold State.seatGang
  extract_lets es start s1
  have hs1 : s1.memoryOk := h.seatLaunch
  split
  · exact foldl_memoryOk _ (fun _ _ h1 => h1.placePending) _ _ hs1
  · exact hs1

theorem State.memoryOk.gatherStep {s : State} {j : Job} {id : LaunchId} (h : s.memoryOk) : (s.gatherStep j id).memoryOk := by
  unfold State.gatherStep
  split
  · split
    · split
      · exact h.gatherTile
      · split
        · exact h
        · split
          · exact h.seatGang
          · exact h.loseGather
    · exact h
  · exact h

theorem State.memoryOk.gatherJob {s : State} {j : Job} (h : s.memoryOk) : (s.gatherJob j).memoryOk := by
  unfold State.gatherJob
  extract_lets s1
  have hs1 : s1.memoryOk := foldl_memoryOk _ (fun _ _ h1 => h1.gatherStep) _ _ h
  split
  · exact hs1
  · exact hs1.schedule

theorem State.memoryOk.request {s : State} {k : Nat} {p : Purpose} (h : s.memoryOk) : (s.request k p).memoryOk := by
  unfold State.request
  extract_lets sl
  split
  · split
    · exact h
    · exact h.setSlot
  · exact h

theorem State.memoryOk.preemptLaunch {s : State} {id : LaunchId} (h : s.memoryOk) : (s.preemptLaunch id).memoryOk :=
  (foldl_memoryOk _ (fun _ _ h1 => h1.request) _ _ h).modLaunch

theorem State.memoryOk.withdraw {s : State} {j : Job} {kind : Nat} (h : s.memoryOk) : (s.withdraw j kind).memoryOk := by
  unfold State.withdraw
  refine foldl_memoryOk _ (fun s1 x h1 => ?_) _ _ h
  extract_lets ks s2 stays
  have hs2 : s2.memoryOk := by
    unfold s2
    refine foldl_memoryOk _ (fun s3 x1 h2 => ?_) _ _ h1
    extract_lets sl
    split
    · split
      · exact h2
      · exact h2.setSlot
    · exact h2
  exact hs2.modLaunch

theorem State.memoryOk.grantPreemption {s : State} {j : Job} (h : s.memoryOk) : (s.grantPreemption j).memoryOk := by
  unfold State.grantPreemption
  refine foldl_memoryOk _ (fun s1 x h1 => ?_) _ _ h
  split
  · exact h1.withdraw
  · exact foldl_memoryOk _ (fun _ _ h2 => h2.preemptLaunch) _ _ h1

theorem State.memoryOk.settleTaking {s : State} {id : LaunchId} (h : s.memoryOk) : (s.settleTaking id).memoryOk := by
  unfold State.settleTaking
  split
  · exact h
  · split
    · exact h.unfuse.modLaunch.schedule
    · exact h

theorem State.memoryOk.tryLaunch {s : State} {j : Job} {id : LaunchId} (h : s.memoryOk) : (s.tryLaunch j id).memoryOk := by
  unfold State.tryLaunch
  split
  · exact h
  · split
    · split
      · split
        · split
          · exact h.placeLaunch
          · exact h
        · exact h
      · exact h
    · split
      · exact h
      · exact h.fillLaunch

theorem State.memoryOk.decideJob {s : State} {j : Job} (h : s.memoryOk) : (s.decideJob j).memoryOk := by
  unfold State.decideJob
  extract_lets s1 s2
  have hs1 : s1.memoryOk := foldl_memoryOk _ (fun _ _ h1 => h1.settleTaking) _ _ h
  have hs2 : s2.memoryOk := foldl_memoryOk _ (fun _ _ h1 => h1.tryLaunch) _ _ hs1
  exact hs2.gatherJob.grantPreemption

theorem execLaunchPlacement_memoryOk {pid : Nat} {s : State} (h : s.memoryOk) : MemoryKept (execLaunchPlacement pid s) := by
  unfold execLaunchPlacement
  refine memoryKept_next ?_
  split
  · exact h
  · split
    · exact h
    · exact h.decideJob

theorem State.memoryOk.placementSweep {s : State} (h : s.memoryOk) : s.placementSweep.memoryOk := by
  unfold State.placementSweep
  refine foldl_memoryOk _ (fun s1 x h1 => ?_) _ _ h
  split
  · exact h1
  · split
    · exact h1.schedule
    · exact h1

theorem execPreemptionGrant_memoryOk {s : State} (h : s.memoryOk) : MemoryKept (execPreemptionGrant s) := by
  unfold execPreemptionGrant
  refine memoryKept_next ?_
  refine foldl_memoryOk _ (fun s1 x h1 => ?_) _ _ h
  split
  · exact h1
  · exact h1.grantPreemption

theorem State.memoryOk.expireSlice {s : State} {l : Launch} (h : s.memoryOk) : (s.expireSlice l).memoryOk := by
  unfold State.expireSlice
  split
  · exact h
  · extract_lets rival
    split
    · exact h.preemptLaunch.modLaunch
    · exact h.modLaunch.schedule

theorem execTimeSliceExpiry_memoryOk {s : State} (h : s.memoryOk) : MemoryKept (execTimeSliceExpiry s) := by
  unfold execTimeSliceExpiry
  refine memoryKept_next ?_
  refine foldl_memoryOk _ (fun s1 x h1 => ?_) _ _ h
  split
  · split
    · exact h1.expireSlice
    · exact h1
  · exact h1

theorem execSpillComplete_memoryOk {unit : Nat} {s : State} (h : s.memoryOk) : MemoryKept (execSpillComplete unit s) := by
  unfold execSpillComplete
  refine memoryKept_next ?_
  split
  · exact h
  · split
    · split
      · exact h
      · extract_lets p s1
        have hs1 : s1.memoryOk := h.modLaunch
        exact hs1.freeSlot.settleTaking.schedule
    · exact h

theorem State.memoryOk.resumeUnit {s : State} {k : Nat} {u : Ctx} {rpc : Option Word} (h : s.memoryOk) :
    (s.resumeUnit k u rpc).memoryOk := by
  unfold State.resumeUnit
  extract_lets r u1
  split
  · exact h.putMode
  · split
    · exact h.takeHeld
    · split
      · exact h.putMode.schedule
      · exact h.putMode

theorem execUnitResume_memoryOk {unit : Nat} {s : State} (h : s.memoryOk) : MemoryKept (execUnitResume unit s) := by
  unfold execUnitResume
  refine memoryKept_next ?_
  split
  · exact h
  · split
    · exact h
    · split
      · exact h.logEvent.endLaunch
      · extract_lets s1 u1 u2
        have hs1 : s1.memoryOk := h.modLaunch
        exact hs1.setSlot.resumeUnit

end Sys2Proof.Machine

end

section
/-!
SUPPORT. The canonical form of the memory through swaps and extents.
A lemma `State.memoryOk.f` says that `State.f` keeps the form, `f_memoryOk` that another function does.
-/
namespace Sys2Proof.Machine

open Sys2Proof

/-! ## Partitions and their images -/

theorem State.memoryOk.flushTiles {s : State} {tiles : List Nat} (h : s.memoryOk) : (s.flushTiles tiles).memoryOk :=
  State.writeBackWhere_memoryOk _ _ h

theorem State.memoryOk.scrubTile {s : State} {tile : Nat} (h : s.memoryOk) :
    (s.scrubTile tile).memoryOk :=
  State.memoryOk.modFab (State.memoryOk_modStore (FMap.clear_wf 0 s.store.mem _ _ h))

theorem State.memoryOk.dropCode {s : State} {tile : Nat} (h : s.memoryOk) : (s.dropCode tile).memoryOk :=
  h.modFab

theorem State.memoryOk.emptyQueues {s : State} {tile : Nat} (h : s.memoryOk) : (s.emptyQueues tile).memoryOk :=
  h.modFab

theorem State.memoryOk.setOwner {s : State} {tiles : List Nat} {owner : Option Nat} (h : s.memoryOk) :
    (s.setOwner tiles owner).memoryOk := by
  unfold State.setOwner
  extract_lets s1
  have hs1 : s1.memoryOk := h.flushTiles
  refine foldl_memoryOk _ (fun s2 x h1 => ?_) _ _ hs1
  extract_lets s3
  have hs3 : s3.memoryOk := h1.dropCode.scrubTile.setPart
  exact hs3.modFab

theorem State.memoryOk.swapOut {s : State} {t : Tenant} (h : s.memoryOk) : (s.swapOut t).memoryOk := by
  unfold State.swapOut
  extract_lets ts s1 i s2 s3 s4
  have hs1 : s1.memoryOk := foldl_memoryOk _ (fun _ _ h1 => h1.checkTile) _ _ h.flushTiles
  have hs2 : s2.memoryOk := hs1.modWork
  have hs3 : s3.memoryOk := hs2.modFab
  have hs4 : s4.memoryOk := hs3.modFab
  exact (foldl_memoryOk _ (fun _ _ h1 => h1.emptyQueues) _ _ hs4).setOwner

theorem State.memoryOk.swapIn {s : State} {t : Tenant} {i : SwapImage} (h : s.memoryOk) :
    (s.swapIn t i).memoryOk := by
  unfold State.swapIn
  extract_lets s1 s2 s3 s4 s5 s6 s7
  have hs2 : s2.memoryOk := h.setOwner.modWork
  have hs3 : s3.memoryOk := State.memoryOk_modStore (FMap.putAll_wf 0 i.mem _ hs2)
  have hs5 : s5.memoryOk := foldl_memoryOk _ (fun _ _ h1 => h1.setPart) _ _ hs3.modFab
  have hs6 : s6.memoryOk := by
    unfold s6
    refine foldl_memoryOk _ (fun s8 e h1 => ?_) _ _ hs5
    split
    · exact h1.resumeUnit
    · exact h1
  have hs7 : s7.memoryOk := foldl_memoryOk _ (fun _ _ h1 => h1.fuseTeam) _ _ hs6
  exact hs7.schedule.schedule

theorem State.memoryOk.cancelJob {s : State} {job : Nat} {m : Mark} (h : s.memoryOk) : (s.cancelJob job m).memoryOk :=
  h.endTargets

theorem State.memoryOk.endWithJob {s : State} {id : LaunchId} {m : Mark} (h : s.memoryOk) : (s.endWithJob id m).memoryOk := by
  unfold State.endWithJob
  split
  · exact h.cancelJob
  · exact h.endLaunch

theorem State.memoryOk.returnImage {s : State} {i : SwapImage} {m : Mark} (h : s.memoryOk) : (s.returnImage i m).memoryOk := by
  unfold State.returnImage
  extract_lets s1
  have hs1 : s1.memoryOk := foldl_memoryOk _ (fun _ _ h1 => h1.returnWeight) _ _ h
  refine foldl_memoryOk _ (fun s2 x h1 => ?_) _ _ hs1
  split
  · exact h1.returnWeight
  · exact h1

theorem State.memoryOk.restoreImage {s : State} {t : Tenant} {i : SwapImage} (h : s.memoryOk) : (s.restoreImage t i).memoryOk := by
  unfold State.restoreImage
  split
  · extract_lets s1 s2
    have hs1 : s1.memoryOk := foldl_memoryOk _ (fun _ _ h1 => h1.endWithJob) _ _ h.logEvent
    have hs2 : s2.memoryOk := hs1.returnImage
    exact hs2.modWork.setOwner
  · exact h.swapIn

theorem State.memoryOk.exchangeImages {s : State} {t : Tenant} (h : s.memoryOk) : (s.exchangeImages t).memoryOk := by
  unfold State.exchangeImages
  extract_lets s1
  have hs1 : s1.memoryOk := h.modWork
  split
  · exact hs1.restoreImage
  · split
    · exact hs1.swapOut.restoreImage
    · exact hs1.swapOut

theorem State.memoryOk.requestSwap {s : State} {t : Tenant} (h : s.memoryOk) : (s.requestSwap t).memoryOk :=
  foldl_memoryOk _ (fun _ _ h1 => h1.request) _ _ h

theorem State.memoryOk.beginExchange {s : State} {t : Tenant} {deadline : Nat} (h : s.memoryOk) :
    (s.beginExchange t deadline).memoryOk := by
  unfold State.beginExchange
  extract_lets ends r s1
  have hs1 : s1.memoryOk := h.modWork
  exact hs1.update.schedule

theorem State.memoryOk.startSwap {s : State} {t : Tenant} (h : s.memoryOk) : (s.startSwap t).memoryOk := by
  unfold State.startSwap
  split
  · exact h
  · split
    · split
      · exact h.beginExchange
      · exact h
    · extract_lets r s1
      have hs1 : s1.memoryOk := h.modWork
      exact hs1.requestSwap.schedule

theorem execPartitionSwap_memoryOk {pid : Nat} {s : State} (h : s.memoryOk) : MemoryKept (execPartitionSwap pid s) := by
  unfold execPartitionSwap
  refine memoryKept_next ?_
  split
  · exact h
  · split
    · exact h
    · split
      · exact h.startSwap
      · split
        · split
          · exact h.exchangeImages
          · exact h
        · exact h

theorem State.memoryOk.swapSweep {s : State} (h : s.memoryOk) : s.swapSweep.memoryOk := by
  unfold State.swapSweep
  refine foldl_memoryOk _ (fun s1 x h1 => ?_) _ _ h
  split
  · split
    · exact h1
    · extract_lets s2
      have hs2 : s2.memoryOk := h1.requestSwap
      split
      · exact hs2.beginExchange
      · exact hs2
  · exact h1

theorem State.memoryOk.endUntaken {s : State} {t : Tenant} (h : s.memoryOk) : (s.endUntaken t).memoryOk := by
  unfold State.endUntaken
  extract_lets late s1
  have hs1 : s1.memoryOk := foldl_memoryOk _ (fun _ _ h1 => h1.logEvent) _ _ h
  exact foldl_memoryOk _ (fun _ _ h1 => h1.endWithJob) _ _ hs1

theorem execSwapDeadline_memoryOk {s : State} (h : s.memoryOk) : MemoryKept (execSwapDeadline s) := by
  unfold execSwapDeadline
  refine memoryKept_next ?_
  refine foldl_memoryOk _ (fun s1 x h1 => ?_) _ _ h
  split
  · split
    · extract_lets s2
      have hs2 : s2.memoryOk := h1.endUntaken
      split
      · exact hs2.schedule
      · exact hs2
    · exact h1
  · exact h1

theorem State.memoryOk.leaveSafe {s : State} (h : s.memoryOk) : s.leaveSafe.memoryOk := by
  unfold State.leaveSafe
  refine foldl_memoryOk _ (fun s1 x h1 => ?_) _ _ h
  split
  · split
    · exact h1
    · exact h1.completeSafe
  · exact h1

theorem State.memoryOk.takeStanding {s : State} (h : s.memoryOk) : s.takeStanding.memoryOk := by
  unfold State.takeStanding
  refine State.memoryOk.leaveSafe ?_
  refine foldl_memoryOk _ (fun s1 x h1 => ?_) _ _ h
  split
  · exact h1
  · extract_lets s2
    have hs2 : s2.memoryOk := h1.takeDrained
    split
    · split
      · exact hs2
      · exact hs2.grantPreemption
    · exact hs2

theorem State.memoryOk.doomedSweep {s : State} (h : s.memoryOk) : s.doomedSweep.memoryOk := by
  unfold State.doomedSweep
  refine foldl_memoryOk _ (fun s1 x h1 => ?_) _ _ h
  extract_lets sl
  split
  · split
    · exact h1
    · exact h1.endSlot
  · exact h1

theorem State.memoryOk.hangSweep {s : State} (h : s.memoryOk) : s.hangSweep.memoryOk := by
  unfold State.hangSweep
  refine foldl_memoryOk _ (fun s1 x h1 => ?_) _ _ h
  extract_lets left s2
  have hs2 : s2.memoryOk := by
    unfold s2
    split
    · exact h1.modJob
    · exact h1
  split
  · split
    · exact hs2.modJob.schedule
    · exact hs2
  · exact hs2.modJob

theorem State.memoryOk.hangMessage {s : State} {core : Nat} (h : s.memoryOk) : (s.hangMessage core).memoryOk := by
  unfold State.hangMessage
  extract_lets zero ks uid payload m
  exact h.setMsgs.queueTrapMsg

theorem State.memoryOk.hangRecord {s : State} {core : Nat} (h : s.memoryOk) : (s.hangRecord core).memoryOk := by
  unfold State.hangRecord
  extract_lets r
  split
  · extract_lets w
    have hw : w.1.memoryOk := State.writeRecord_memoryOk _ _ _ _ _ _ h
    exact hw.putUnit
  · exact h

theorem State.memoryOk.declareHang {s : State} {j : Job} (h : s.memoryOk) : (s.declareHang j).memoryOk := by
  unfold State.declareHang
  extract_lets cores sleeper entries s1 t
  have hs1 : s1.memoryOk := h.modJob
  have ht : t.memoryOk := foldl_memoryOk _ (fun _ _ h1 => h1.hangMessage) _ _ hs1
  split
  · exact ht
  · exact ((foldl_memoryOk _ (fun _ _ h1 => h1.hangRecord) _ _ ht).haltPartition).logEvent

theorem execHangDeclared_memoryOk {s : State} (h : s.memoryOk) : MemoryKept (execHangDeclared s) := by
  unfold execHangDeclared
  refine memoryKept_next ?_
  refine foldl_memoryOk _ (fun s1 x h1 => ?_) _ _ h
  split
  · exact h1.declareHang
  · exact h1

/-! ## Extents, banks and seals -/

theorem State.memoryOk.setChan {s : State} {ch : Nat} {c : Channel} (h : s.memoryOk) : (s.setChan ch c).memoryOk :=
  h.modFirm

theorem State.memoryOk.finish {s : State} {ch status : Nat} {reply : List Word} (h : s.memoryOk) : (s.finish ch status reply).memoryOk :=
  h.setChan.scheduleFree

theorem State.memoryOk.flushExtent {s : State} {n : Nat} (h : s.memoryOk) : (s.flushExtent n).memoryOk := by
  unfold State.flushExtent
  extract_lets mine s1 s2
  have hs1 : s1.memoryOk := State.writeBackWhere_memoryOk _ _ h
  have hs2 : s2.memoryOk := foldl_memoryOk _ (fun _ _ h1 => h1.l2Evict) _ _ hs1
  exact hs2.modFab

theorem State.memoryOk.releaseOps {s : State} {n : Nat} (h : s.memoryOk) : (s.releaseOps n).memoryOk := by
  unfold State.releaseOps
  extract_lets waiting s1
  have hs1 : s1.memoryOk := h.modWork
  exact foldl_memoryOk _ (fun _ _ h1 => h1.schedule) _ _ hs1

theorem State.memoryOk.releaseStores {s : State} {n : Nat} (h : s.memoryOk) : (s.releaseStores n).memoryOk := by
  unfold State.releaseStores
  extract_lets waiting
  exact foldl_memoryOk _ (fun _ _ h1 => h1.schedule) _ _ h

theorem State.memoryOk.releaseExtent {s : State} {n : Nat} (h : s.memoryOk) : (s.releaseExtent n).memoryOk := by
  unfold State.releaseExtent
  extract_lets s1
  have hs1 : s1.memoryOk := h.modStore rfl
  exact hs1.releaseOps.releaseStores.wakeArrays.rejoinWhere

theorem State.memoryOk.trapWaitersIn {s : State} {n : Nat} (h : s.memoryOk) : (s.trapWaitersIn n).memoryOk := by
  unfold State.trapWaitersIn
  refine foldl_memoryOk _ (fun s1 x h1 => ?_) _ _ h
  split
  · split
    · split
      · exact State.takeTrap_memoryOk _ _ _ h1
      · exact h1
    · exact h1
  · exact h1

theorem State.memoryOk.fenceExtent {s : State} {n : Nat} (h : s.memoryOk) : (s.fenceExtent n).memoryOk := by
  unfold State.fenceExtent
  extract_lets s1
  have hs1 : s1.memoryOk := h.flushExtent
  exact hs1.setExtent.releaseExtent.trapWaitersIn

theorem State.memoryOk.startMove {s : State} {n : Nat} {target : Place} (h : s.memoryOk) : (s.startMove n target).memoryOk := by
  unfold State.startMove
  extract_lets s1
  have hs1 : s1.memoryOk := h.flushExtent
  exact hs1.setExtent

theorem State.memoryOk.resealLine {s : State} {t : Tenant} {line : Nat} (h : s.memoryOk) : (s.resealLine t line).memoryOk := by
  unfold State.resealLine
  extract_lets x
  split
  · exact h
  next s1 found s2 _ =>
    split
    · unfold s2
      unfold found
      refine State.memoryOk.findLine ?_
      unfold s1
      split
      · exact h.wakeWay
      · exact h
    · split
      · refine State.memoryOk.setSeal ?_
        unfold s2
        unfold found
        refine State.memoryOk.findLine ?_
        unfold s1
        split
        · exact h.wakeWay
        · exact h
      · refine State.memoryOk.logEvent ?_
        unfold s2
        unfold found
        refine State.memoryOk.findLine ?_
        unfold s1
        split
        · exact h.wakeWay
        · exact h

theorem State.memoryOk.resealExtent {s : State} {n : Nat} {t : Tenant} (h : s.memoryOk) : (s.resealExtent n t).memoryOk := by
  unfold State.resealExtent
  extract_lets mine words lines s1
  have hs1 : s1.memoryOk := foldl_memoryOk _ (fun _ _ h1 => h1.resealLine) _ _ h
  exact hs1.setExtent

theorem execResealCopyArrival_memoryOk {copy : ResealCopy} {s : State} (h : s.memoryOk) : MemoryKept (execResealCopyArrival copy s) := by
  unfold execResealCopyArrival
  refine memoryKept_next ?_
  split
  · exact h
  · extract_lets x1
    split
    · exact h.setSeal
    · exact h

theorem State.memoryOk.endSweep {s : State} {t : Tenant} (h : s.memoryOk) : (s.endSweep t).memoryOk := by
  unfold State.endSweep
  extract_lets s1
  have hs1 : s1.memoryOk := h.modWork
  exact hs1.modTenant.logEvent

theorem execRekeySweep_memoryOk {tag : Nat} {s : State} (h : s.memoryOk) : MemoryKept (execRekeySweep tag s) := by
  unfold execRekeySweep
  refine memoryKept_next ?_
  split
  · exact h
  · split
    · exact h
    · split
      · split
        · exact h.schedule
        · exact h.endSweep
      · extract_lets again go
        split
        · exact h.modTenant.scheduleFree
        · split
          · exact h.resealExtent.modTenant.scheduleFree
          · exact h.modTenant.requestExtent.scheduleFree
          · exact h.modTenant.scheduleFree
          · exact h.modTenant.scheduleFree
          · exact h.modTenant.scheduleFree

theorem State.memoryOk.checkReserve {s : State} {die : Nat} (h : s.memoryOk) : (s.checkReserve die).memoryOk := by
  unfold State.checkReserve
  split
  · exact h.scheduleFree
  · exact h

theorem State.memoryOk.bringIn {s t : State} {r : PlaceReq} (h : s.memoryOk) (e : s.bringIn r = some t) : t.memoryOk := by
  unfold State.bringIn at e
  extract_lets x place at e
  split at e
  · cases e
  · obtain ⟨p, hp, rfl⟩ := Option.map_eq_some_iff.mp e
    extract_lets y s1 s2
    have hs1 : s1.memoryOk := h.setExtent
    have hs2 : s2.memoryOk := by
      unfold s2
      split
      · split
        · exact hs1.resealExtent
        · exact hs1
      · exact hs1
    exact hs2.releaseExtent.checkReserve

theorem execPlacementRequestServed_memoryOk {s : State} (h : s.memoryOk) :
    MemoryKept (execPlacementRequestServed s) := by
  unfold execPlacementRequestServed
  refine memoryKept_next ?_
  split
  · exact h
  · split
    · split
      next t e2 => exact h.bringIn e2
      · exact h.scheduleFree
    · exact h.modStore rfl

theorem execExtentEviction_memoryOk {die : Nat} {s : State} (h : s.memoryOk) : MemoryKept (execExtentEviction die s) := by
  unfold execExtentEviction
  refine memoryKept_next ?_
  split
  · split
    · extract_lets s1
      have hs1 : s1.memoryOk := h.flushExtent
      exact hs1.setExtent.checkReserve
    · exact h.checkReserve
  · exact h

theorem execExtentMoveEnd_memoryOk {extent : Nat} {s : State} (h : s.memoryOk) : MemoryKept (execExtentMoveEnd extent s) := by
  unfold execExtentMoveEnd
  refine memoryKept_next ?_
  extract_lets e
  split
  · split
    · exact h.scheduleFree
    · split
      · exact foldl_memoryOk _ (fun _ _ h1 => h1.finish) _ _ h.setExtent.releaseExtent
      · split
        · exact (foldl_memoryOk _ (fun _ _ h1 => h1.finish) _ _ h.setExtent.releaseExtent).checkReserve
        · exact foldl_memoryOk _ (fun _ _ h1 => h1.finish) _ _ h.setExtent.releaseExtent
  · exact h

theorem execL1WriteBack_memoryOk {tile line : Nat} {s : State} (h : s.memoryOk) : MemoryKept (execL1WriteBack tile line s) := by
  unfold execL1WriteBack
  refine memoryKept_next ?_
  split
  · exact State.evictCopy_memoryOk _ _ h
  · exact h

theorem execRetentionEntry_memoryOk {bank : Nat} {s : State} (h : s.memoryOk) : MemoryKept (execRetentionEntry bank s) := by
  unfold execRetentionEntry
  refine memoryKept_next ?_
  split
  · split
    · split
      · exact h.setBank.schedule
      · exact h
    · exact h
  · extract_lets w
    split
    · split
      · exact h.setWay.schedule
      · exact h
    · exact h

theorem State.memoryOk.flipBits {s : State} {word bits : Nat} (h : s.memoryOk) : (s.flipBits word bits).memoryOk :=
  h.setErrors

theorem State.memoryOk.flipL2 {s : State} {line word bits : Nat} (h : s.memoryOk) : (s.flipL2 line word bits).memoryOk := by
  unfold State.flipL2
  extract_lets w
  split
  · exact h.modStore rfl
  · exact h

theorem State.memoryOk.copyError {s : State} {line bits : Nat} {dirty : Bool} {tag : Option Nat} {drop : State → State} (h : s.memoryOk)
    (hdrop : ∀ t, t.memoryOk → (drop t).memoryOk) :
    (s.copyError line bits dirty tag drop).memoryOk := by
  unfold State.copyError
  split
  · exact h.logEvent
  · exact ((hdrop _ h).setPoison).logEvent

theorem State.memoryOk.l1Error {s : State} {tile line bits : Nat} (h : s.memoryOk) : (s.l1Error tile line bits).memoryOk := by
  unfold State.l1Error
  split
  · exact h.copyError (fun _ h1 => h1.modStore rfl)
  · exact h

theorem State.memoryOk.codeError {s : State} {tile line bits : Nat} (h : s.memoryOk) : (s.codeError tile line bits).memoryOk := by
  unfold State.codeError
  extract_lets key
  split
  · exact h.copyError (fun _ h1 => h1.modFab)
  · exact h

theorem State.memoryOk.planeError {s : State} {core : Nat} {active : Bool} {bits : Nat} (h : s.memoryOk) :
    (s.planeError core active bits).memoryOk := by
  unfold State.planeError
  extract_lets which
  split
  · exact h.logEvent
  · exact h.setPlane.logEvent

theorem State.memoryOk.registerError {s : State} {unit reg bits : Nat} {row : Bool} (h : s.memoryOk) :
    (s.registerError unit reg bits row).memoryOk := by
  unfold State.registerError
  split
  · exact h
  · split
    · exact h.logEvent
    · exact h.modUnit.logEvent

theorem State.memoryOk.imageError {s : State} {bits : Nat} {g : Work → Work} (h : s.memoryOk) : (s.imageError bits g).memoryOk := by
  unfold State.imageError
  split
  · exact h.logEvent
  · exact h.modWork

theorem execSoftError_memoryOk {err : SoftErr} {s : State} (h : s.memoryOk) : MemoryKept (execSoftError err s) := by
  unfold execSoftError
  refine memoryKept_next ?_
  extract_lets bits
  split
  · exact h.flipBits
  · exact h.flipL2
  · exact h.flipBits
  · exact h.l1Error
  · exact h.codeError
  · exact h.planeError
  · exact h.registerError
  · exact h.registerError
  · exact h.imageError
  · exact h.imageError
  · exact h.flipBits

end Sys2Proof.Machine

end

section
/-!
SUPPORT. The canonical form of the memory through links and power.
A lemma `State.memoryOk.f` says that `State.f` keeps the form, `f_memoryOk` that another function does.
-/
namespace Sys2Proof.Machine

open Sys2Proof

/-! ## Links, devices and peers -/

theorem State.memoryOk.answer {s : State} {who status : Nat} {data : List Byte} (h : s.memoryOk) : (s.answer who status data).memoryOk :=
  h.modStore rfl

theorem State.memoryOk.refuse {s : State} {q : InboundReq} {status : Nat} (h : s.memoryOk) : (s.refuse q status).memoryOk := by
  unfold State.refuse
  split
  · exact h
  · exact h.answer

theorem State.memoryOk.failInbound {s : State} {q : InboundReq} {tag : Option Nat} {check status : Nat} (h : s.memoryOk) :
    (s.failInbound q tag check status).memoryOk :=
  h.logEvent.refuse

theorem State.memoryOk.openAll {s : State} {tag : Nat} {a : List Nat} (h : s.memoryOk) : (s.openAll tag a).after.memoryOk := by
  unfold State.openAll
  split
  · exact h
  · split
    next e => exact (Acc.memoryOk_congr e ((State.writeBack_memoryOk _ _ h).openLine)).l2Access.openAll
    · exact (State.writeBack_memoryOk _ _ h).openLine

theorem State.memoryOk.writeSealed {s : State} {tag : Nat} {keys : List Nat} {bs : List Byte} (h : s.memoryOk) :
    (s.writeSealed tag keys bs).memoryOk := by
  unfold State.writeSealed
  extract_lets lines s1 s2
  have hs1 : s1.memoryOk := foldl_memoryOk _ (fun _ _ h1 => (State.writeBack_memoryOk _ _ h1).l2Access) _ _ h
  have hs2 : s2.memoryOk := State.putHome_memoryOk _ _ _ hs1
  refine foldl_memoryOk _ (fun s3 x h1 => ?_) _ _ hs2
  split
  · exact h1.clearPoison
  · exact h1

theorem State.memoryOk.packetOf {s : State} {tag : Nat} (h : s.memoryOk) : (s.packetOf tag).memoryOk :=
  h.modWork

theorem State.memoryOk.performInbound {s : State} {tag : Nat} {q : InboundReq} (h : s.memoryOk) : (s.performInbound tag q).1.memoryOk := by
  unfold State.performInbound
  extract_lets keys
  split
  next e => exact Acc.memoryOk_congr e h.mayAccess
  next e => exact (Acc.memoryOk_congr e h.mayAccess).failInbound
  next s1 _ e =>
    have hs1 : s1.memoryOk := Acc.memoryOk_congr e h.mayAccess
    split
    next e1 => exact Acc.memoryOk_congr e1 hs1.openAll
    next e1 => exact (Acc.memoryOk_congr e1 hs1.openAll).failInbound
    next s2 _ e1 =>
      have hs2 : s2.memoryOk := Acc.memoryOk_congr e1 hs1.openAll
      split
      · exact hs2.writeSealed.packetOf
      · extract_lets s3
        have hs3 : s3.memoryOk := foldl_memoryOk _ (fun _ _ h1 => State.writeBack_memoryOk _ _ h1) _ _ hs2
        exact hs3.answer

theorem State.memoryOk.serveInbound {s : State} {still a : List (Nat × InboundReq)} (h : s.memoryOk) :
    (s.serveInbound still a).memoryOk := by
  unfold State.serveInbound
  split
  · exact h.modStore rfl
  · split
    · exact h.serveInbound
    · split
      next e2 => exact (fst_memoryOk_congr e2 h.performInbound).serveInbound
      next e2 => exact (fst_memoryOk_congr e2 h.performInbound).serveInbound

theorem State.memoryOk.inboundSweep {s : State} (h : s.memoryOk) : s.inboundSweep.memoryOk := by
  unfold State.inboundSweep
  split
  · exact h
  · exact h.serveInbound

theorem execInboundRequest_memoryOk {req : InboundReq} {s : State} (h : s.memoryOk) : MemoryKept (execInboundRequest req s) := by
  unfold execInboundRequest
  refine memoryKept_next ?_
  split
  · exact h
  · split
    · exact h.refuse
    · split
      · exact h.failInbound
      · split
        · exact h.failInbound
        · split
          · exact h.failInbound
          · split
            · exact h.modStore rfl
            · split
              next e6 => exact fst_memoryOk_congr e6 h.performInbound
              next e6 => exact (fst_memoryOk_congr e6 h.performInbound).modStore rfl

theorem State.memoryOk.failDevreg {s : State} {k : Nat} {u : Ctx} {addr : Word} {parts : List (Word × Nat)} {got load : Nat}
    {dsts : List Nat} (h : s.memoryOk) :
    (s.failDevreg k u addr parts got load dsts).memoryOk := by
  unfold State.failDevreg
  extract_lets a
  exact State.takeTrap_memoryOk _ _ _ h

theorem execDevregReadCompletion_memoryOk {unit : Nat} {data : Option (List Byte)} {s : State} (h : s.memoryOk) :
    MemoryKept (execDevregReadCompletion unit data s) := by
  unfold execDevregReadCompletion
  refine memoryKept_next ?_
  split
  · exact h
  · split
    · split
      · exact h
      · exact h.failDevreg
      · extract_lets got1
        split
        · split
          · exact h.complete
          · exact State.takeTrap_memoryOk _ _ _ h
        · exact h.setSlot.deviceRead
    · exact h

theorem State.memoryOk.failDevregs {s : State} {p : Nat → Bool} (h : s.memoryOk) : (s.failDevregs p).memoryOk := by
  unfold State.failDevregs
  refine foldl_memoryOk _ (fun s1 x h1 => ?_) _ _ h
  split
  · split
    · exact h1.failDevreg
    · exact h1
  · exact h1

theorem execHostLinkDown_memoryOk {port : Nat} {s : State} (h : s.memoryOk) : MemoryKept (execHostLinkDown port s) := by
  unfold execHostLinkDown
  refine memoryKept_next ?_
  split
  · exact h
  · extract_lets reads s1
    have hs1 : s1.memoryOk := h.modFirm.modStore rfl
    split
    · exact hs1.failDevregs
    · exact hs1

theorem execIdeKm_memoryOk {tag stream : Nat} {s : State} (h : s.memoryOk) : MemoryKept (execIdeKm tag stream s) := by
  unfold execIdeKm
  refine memoryKept_next ?_
  split
  · exact h.modFirm
  · exact h

theorem State.memoryOk.suspend {s : State} {ns : List Nat} (h : s.memoryOk) : (s.suspend ns).memoryOk :=
  foldl_memoryOk _ (fun _ _ h1 => h1.startMove) _ _ h

theorem State.memoryOk.restore {s : State} {ns : List Nat} (h : s.memoryOk) : (s.restore ns).memoryOk :=
  foldl_memoryOk _ (fun _ _ h1 => h1.setExtent.releaseExtent) _ _ h

theorem State.memoryOk.loseExtents {s : State} {ns : List Nat} {src : Nat} (h : s.memoryOk) : (s.loseExtents ns src).memoryOk := by
  unfold State.loseExtents
  refine foldl_memoryOk _ (fun s1 x h1 => ?_) _ _ h
  extract_lets t
  have ht : t.memoryOk := h1.fenceExtent.logEvent
  exact foldl_memoryOk _ (fun _ _ h2 => h2.finish) _ _ ht

theorem execCxlPortDown_memoryOk {port : Nat} {s : State} (h : s.memoryOk) : MemoryKept (execCxlPortDown port s) := by
  unfold execCxlPortDown
  refine memoryKept_next ?_
  split
  · exact h
  · extract_lets s1
    have hs1 : s1.memoryOk := h.modFirm
    exact hs1.suspend.schedule

theorem execCxlPortRetrained_memoryOk {port : Nat} {s : State} (h : s.memoryOk) : MemoryKept (execCxlPortRetrained port s) := by
  unfold execCxlPortRetrained
  refine memoryKept_next ?_
  split
  · exact h
  · extract_lets s1
    have hs1 : s1.memoryOk := h.modFirm
    exact hs1.restore

theorem execCxlRetrainTimeout_memoryOk {s : State} (h : s.memoryOk) : MemoryKept (execCxlRetrainTimeout s) := by
  unfold execCxlRetrainTimeout
  refine memoryKept_next ?_
  refine foldl_memoryOk _ (fun s1 x h1 => ?_) _ _ h
  extract_lets s2
  have hs2 : s2.memoryOk := h1.modFirm
  exact hs2.loseExtents

theorem State.memoryOk.rerouting {s : State} {peer : Nat} (h : s.memoryOk) : (s.rerouting peer).memoryOk := by
  unfold State.rerouting
  extract_lets s'
  have hs' : s'.memoryOk := h.suspend
  split
  · exact hs'.update.modFirm.schedule
  · exact hs'.modFirm.schedule

theorem State.memoryOk.retrainCarr {s : State} {link : Nat} (h : s.memoryOk) : (s.retrainCarr link).memoryOk := by
  unfold State.retrainCarr
  extract_lets t
  have ht : t.memoryOk := h.update
  split
  · exact ht
  · exact ht.modFirm.schedule

theorem execCarrLinkFailure_memoryOk {link : Nat} {s : State} (h : s.memoryOk) : MemoryKept (execCarrLinkFailure link s) := by
  unfold execCarrLinkFailure
  refine memoryKept_next ?_
  extract_lets before
  split
  · exact h
  · split
    · exact (foldl_memoryOk _ (fun _ _ h1 => h1.rerouting) _ _ h.modFirm).retrainCarr
    · exact foldl_memoryOk _ (fun _ _ h1 => h1.rerouting) _ _ h.modFirm

theorem State.memoryOk.carrUp {s : State} (h : s.memoryOk) : s.carrUp.memoryOk := by
  unfold State.carrUp
  extract_lets up
  split
  · exact h
  · refine foldl_memoryOk _ (fun s2 x h1 => ?_) _ _ h.modFirm
    extract_lets s3
    have hs3 : s3.memoryOk := h1.modFirm
    exact hs3.restore

theorem execCarrRouteMoveEnd_memoryOk {s : State} (h : s.memoryOk) : MemoryKept (execCarrRouteMoveEnd s) := by
  unfold execCarrRouteMoveEnd
  refine memoryKept_next ?_
  refine foldl_memoryOk _ (fun s1 x h1 => ?_) _ _ h.carrUp
  extract_lets s2
  have hs2 : s2.memoryOk := h1.modFirm
  exact hs2.restore

theorem execPeerUnreachableTimeout_memoryOk {s : State} (h : s.memoryOk) : MemoryKept (execPeerUnreachableTimeout s) := by
  unfold execPeerUnreachableTimeout
  refine memoryKept_next ?_
  refine foldl_memoryOk _ (fun s1 x h1 => ?_) _ _ h
  extract_lets s2
  have hs2 : s2.memoryOk := h1.modFirm
  exact hs2.loseExtents

theorem State.memoryOk.peerPoison {s : State} {a : List Nat} (h : s.memoryOk) : (s.peerPoison a).1.memoryOk := by
  unfold State.peerPoison
  split
  · exact h
  · extract_lets s1
    have hs1 : s1.memoryOk := h.findLine
    split
    · exact hs1
    · exact hs1.peerPoison

theorem State.memoryOk.peerWrite {s : State} {q : PeerReq} {keys : List Nat} {bs : List Byte} (h : s.memoryOk) :
    (s.peerWrite q keys bs).memoryOk :=
  foldl_memoryOk _ (fun _ _ h1 => h1.setSeal) _ _ h.writeSealed

theorem State.memoryOk.performPeer {s : State} {q : PeerReq} (h : s.memoryOk) : (s.performPeer q).1.memoryOk := by
  unfold State.performPeer
  extract_lets keys
  split
  next e => exact Acc.memoryOk_congr e h.mayAccess
  next e => exact (Acc.memoryOk_congr e h.mayAccess).answer
  next s1 _ e =>
    have hs1 : s1.memoryOk := Acc.memoryOk_congr e h.mayAccess
    extract_lets s2
    have hs2 : s2.memoryOk := by
      unfold s2
      refine foldl_memoryOk _ (fun _ _ h1 => (State.writeBack_memoryOk _ _ h1).l2Access) _ _ ?_
      split
      · exact hs1.packetOf
      · exact hs1
    split
    · exact hs2.peerWrite.answer
    · split
      next e2 => exact (fst_memoryOk_congr e2 hs2.peerPoison).answer
      next e2 => exact (fst_memoryOk_congr e2 hs2.peerPoison).answer
    · split
      next e2 => exact (fst_memoryOk_congr e2 hs2.peerPoison).answer
      next s3 e2 =>
        have hs3 : s3.memoryOk := fst_memoryOk_congr e2 hs2.peerPoison
        extract_lets old s4
        have hs4 : s4.memoryOk := by
          unfold s4
          split
          · exact hs3.peerWrite
          · exact hs3
        exact hs4.answer

theorem State.memoryOk.servePeers {s : State} {still a : List PeerReq} (h : s.memoryOk) : (s.servePeers still a).memoryOk := by
  unfold State.servePeers
  split
  · exact h.modStore rfl
  · split
    next e => exact (fst_memoryOk_congr e h.performPeer).servePeers
    next e => exact (fst_memoryOk_congr e h.performPeer).servePeers

theorem State.memoryOk.peerSweep {s : State} (h : s.memoryOk) : s.peerSweep.memoryOk := by
  unfold State.peerSweep
  split
  · exact h
  · exact h.servePeers

theorem execCarrLinkRequest_memoryOk {req : PeerReq} {s : State} (h : s.memoryOk) : MemoryKept (execCarrLinkRequest req s) := by
  unfold execCarrLinkRequest
  refine memoryKept_next ?_
  split
  next e => exact fst_memoryOk_congr e h.performPeer
  next e => exact (fst_memoryOk_congr e h.performPeer).modStore rfl

theorem execPeerKeyRequest_memoryOk {tag peer : Nat} {s : State} (h : s.memoryOk) : MemoryKept (execPeerKeyRequest tag peer s) := by
  unfold execPeerKeyRequest
  refine memoryKept_next ?_
  split
  · exact h.modTenant.answer
  · exact h.answer

theorem State.memoryOk.reportsOf {s : State} {peers : List Nat} (h : s.memoryOk) :
    (s.reportsOf peers).1.memoryOk := by
  unfold State.reportsOf
  refine foldl_fst_memoryOk _ (fun p _ h1 => ?_) _ h
  exact h1.update

theorem execRekeyPrepare_memoryOk {tag : Nat} {s : State} (h : s.memoryOk) : MemoryKept (execRekeyPrepare tag s) := by
  unfold execRekeyPrepare
  refine memoryKept_next ?_
  split
  · split
    · exact h
    · exact h.modTenant
  · exact h

theorem State.memoryOk.raisePeriod {s : State} {tag : Nat} (h : s.memoryOk) : (s.raisePeriod tag).memoryOk := by
  unfold State.raisePeriod
  extract_lets s1 peers r
  have hs1 : s1.memoryOk := h.modFirm
  have hr : r.1.memoryOk := hs1.reportsOf
  exact hr.modTenant.scheduleFree

theorem execRekeySwitch_memoryOk {tag : Nat} {s : State} (h : s.memoryOk) : MemoryKept (execRekeySwitch tag s) := by
  unfold execRekeySwitch
  refine memoryKept_next ?_
  split
  · split
    · extract_lets s1
      have hs1 : s1.memoryOk := h.raisePeriod
      exact foldl_memoryOk _ (fun _ _ h1 => h1.finish) _ _ hs1
    · exact h
  · exact h

theorem execThermalSample_memoryOk {readings : List Nat} {s : State} (h : s.memoryOk) : MemoryKept (execThermalSample readings s) := by
  unfold execThermalSample
  refine memoryKept_next ?_
  split
  · exact h
  · extract_lets rs before hot s1
    have hs1 : s1.memoryOk := h.modFirm
    split
    · exact hs1
    · exact (foldl_memoryOk _ (fun _ _ h1 => h1.haltPartition) _ _ hs1).logEvent

/-! ## Power and start-up -/

theorem State.cleared_memoryOk {s : State} {p : Power} {b : Boot} {l : Links} : (s.cleared p b l).memoryOk := rfl

theorem State.failStart_memoryOk {s : State} {b : Boot} {reason : Nat} : (s.failStart b reason).memoryOk :=
  State.cleared_memoryOk

theorem State.start_memoryOk {s : State} {b : Boot} {i : StartInput} : (s.start b i).memoryOk := by
  unfold State.start
  split
  · extract_lets t
    exact State.cleared_memoryOk.schedule
  · split
    · exact State.cleared_memoryOk
    · exact State.failStart_memoryOk

theorem execPowerOn_memoryOk {start : StartInput} {s : State} (h : s.memoryOk) : MemoryKept (execPowerOn start s) := by
  unfold execPowerOn
  refine memoryKept_next ?_
  split
  · exact State.start_memoryOk
  · exact h

theorem execHostReset_memoryOk {start : StartInput} {s : State} (h : s.memoryOk) : MemoryKept (execHostReset start s) := by
  unfold execHostReset
  refine memoryKept_next ?_
  split
  · exact h
  · exact State.cleared_memoryOk
  · exact State.start_memoryOk
  · exact State.start_memoryOk

theorem execStartUpWatchdog_memoryOk {s : State} (h : s.memoryOk) : MemoryKept (execStartUpWatchdog s) := by
  unfold execStartUpWatchdog
  refine memoryKept_next ?_
  split
  · split
    · exact State.failStart_memoryOk
    · exact h
  · exact h

end Sys2Proof.Machine

end

section
/-!
SUPPORT. The canonical form of the memory through the firmware commands and the end of a ck.
A lemma `State.memoryOk.f` says that `State.f` keeps the form, `f_memoryOk` that another function does.
-/
namespace Sys2Proof.Machine

open Sys2Proof

/-! ## The mailbox -/

theorem State.memoryOk.toHost {s : State} {a : Nat} {bs : List Byte} (h : s.memoryOk) : (s.toHost a bs).memoryOk :=
  h.modStore rfl

theorem State.memoryOk.emptyDescriptors {s : State} {tag lo hi : Nat} (h : s.memoryOk) :
    (s.emptyDescriptors tag lo hi).memoryOk := by
  unfold State.emptyDescriptors
  refine foldl_memoryOk _ (fun s1 i h1 => foldl_memoryOk _ (fun s2 n h2 => ?_) _ _ h1) _ _ (h.modStore rfl)
  split
  · exact State.setManyMem_memoryOk _ _ h2
  · exact h2

theorem State.memoryOk.startRevoke {s : State} {t : Tenant} {lo hi stage ch : Nat} (h : s.memoryOk) :
    (s.startRevoke t lo hi stage ch).memoryOk := by
  unfold State.startRevoke
  extract_lets s1 s2 s3 s4 us s5 r
  have hs1 : s1.memoryOk := h.modTenant
  have hs2 : s2.memoryOk := hs1.emptyDescriptors
  have hs3 : s3.memoryOk := foldl_memoryOk _ (fun _ _ h1 => h1.endWithJob) _ _ hs2
  have hs4 : s4.memoryOk := hs3.modTenant
  have hs5 : s5.memoryOk := foldl_memoryOk _ (fun _ _ h1 => h1.request) _ _ hs4
  exact hs5.modFirm.schedule

theorem execRevokeDeadline_memoryOk {s : State} (h : s.memoryOk) : MemoryKept (execRevokeDeadline s) := by
  unfold execRevokeDeadline
  refine memoryKept_next ?_
  refine foldl_memoryOk _ (fun s1 x h1 => ?_) _ _ h
  extract_lets late s2
  have hs2 : s2.memoryOk := foldl_memoryOk _ (fun _ _ h2 => h2.logEvent) _ _ h1
  exact foldl_memoryOk _ (fun _ _ h2 => h2.endWithJob) _ _ hs2

theorem State.memoryOk.zeroRange {s : State} {lo hi : Nat} (h : s.memoryOk) :
    (s.zeroRange lo hi).memoryOk :=
  State.memoryOk_modStore (FMap.clear_wf 0 s.store.mem _ _ h)

theorem State.memoryOk.scrubRange {s : State} {tag lo hi : Nat} (h : s.memoryOk) : (s.scrubRange tag lo hi).memoryOk := by
  unfold State.scrubRange
  extract_lets s1 whole
  have hs1 : s1.memoryOk := by
    unfold s1
    refine foldl_memoryOk _ (fun s2 x h1 => ?_) _ _ h
    extract_lets a
    split
    · exact h1.fenceExtent.zeroRange.setExtent
    · exact h1.zeroRange
  exact hs1.modStore rfl

theorem State.memoryOk.returnOps {s : State} {mine : Op → Bool} {m : Mark} (h : s.memoryOk) : (s.returnOps mine m).memoryOk :=
  foldl_memoryOk _ (fun _ _ h1 => h1.returnOp) _ _ h

theorem State.memoryOk.returnQueues {s : State} {mine : Nat → Bool} {m : Mark} (h : s.memoryOk) : (s.returnQueues mine m).memoryOk := by
  unfold State.returnQueues
  extract_lets s1
  have hs1 : s1.memoryOk := foldl_memoryOk _ (fun _ _ h1 => foldl_memoryOk _ (fun _ _ h2 => h2.returnWeight) _ _ h1) _ _ h
  refine foldl_memoryOk _ (fun s2 x h1 => ?_) _ _ hs1
  refine foldl_memoryOk _ (fun s3 x1 h2 => ?_) _ _ h1
  split
  · exact h2.returnWeight
  · exact h2

theorem State.memoryOk.dropTasks {s : State} {jobs : List Nat} {m : Mark} (h : s.memoryOk) : (s.dropTasks jobs m).memoryOk := by
  unfold State.dropTasks
  extract_lets mine s1 left s2
  have hs1 : s1.memoryOk := foldl_memoryOk _ (fun _ _ h1 => h1.returnWeight) _ _ h
  have hs2 : s2.memoryOk := hs1.modWork
  exact foldl_memoryOk _ (fun _ _ h1 => h1.scheduleFree) _ _ hs2

theorem State.memoryOk.eraseTenant {s : State} {t : Tenant} (h : s.memoryOk) : (s.eraseTenant t).memoryOk := by
  unfold State.eraseTenant
  extract_lets s1 mine s2 jobs s3 s4 s5 s6 s7 s8 s9
  have hs1 : s1.memoryOk := h.scrubRange
  have hs2 : s2.memoryOk := hs1.returnOps.returnQueues
  have hs3 : s3.memoryOk := hs2.dropTasks
  have hs4 : s4.memoryOk := foldl_memoryOk _ (fun _ _ h1 => h1.returnImage) _ _ hs3
  have hs5 : s5.memoryOk := foldl_memoryOk _ (fun _ _ h1 => h1.emptyQueues) _ _ hs4
  have hs6 : s6.memoryOk := hs5.setOwner
  have hs7 : s7.memoryOk := hs6.modStore rfl
  have hs8 : s8.memoryOk := hs7.setBuffer
  have hs9 : s9.memoryOk := hs8.modWork
  exact hs9.modFirm

theorem State.memoryOk.endRevoke {s : State} {r : Revocation} (h : s.memoryOk) : (s.endRevoke r).memoryOk := by
  unfold State.endRevoke
  extract_lets s1 s2
  have hs1 : s1.memoryOk := h.modFirm
  have hs2 : s2.memoryOk := by
    unfold s2
    split
    · split
      · exact hs1.eraseTenant
      · exact hs1
    · exact hs1.scrubRange
  split
  · exact hs2.finish
  · exact hs2

theorem State.memoryOk.revokeSweep {s : State} (h : s.memoryOk) : s.revokeSweep.memoryOk := by
  unfold State.revokeSweep
  refine foldl_memoryOk _ (fun s1 x h1 => ?_) _ _ h
  split
  · exact h1.endRevoke
  · exact h1

theorem State.memoryOk.allocate {s : State} {t : Tenant} {n : Nat} {code : Bool} (h : s.memoryOk) : (s.allocate t n code).memoryOk := by
  unfold State.allocate
  split
  · extract_lets dev e1
    split
    · exact h.setExtent
    · split
      · exact h.setExtent
      · exact h.update.setExtent
  · exact h

theorem State.memoryOk.grantRange {s : State} {t : Tenant} {r : Range} (h : s.memoryOk) : (s.grantRange t r).1.memoryOk := by
  unfold State.grantRange
  extract_lets old new memory
  split
  · exact h
  · split
    · exact h
    · exact (foldl_memoryOk _ (fun _ _ h1 => h1.allocate) _ _ h).modTenant

/-! ## Commands -/

theorem State.memoryOk.tenantOpen {s : State} {ch : Nat} {qs : List Word} (h : s.memoryOk) : (s.tenantOpen ch qs).memoryOk := by
  unfold State.tenantOpen
  extract_lets n masks rects
  split
  · exact h.finish
  · split
    · exact h.finish
    · split
      · exact h.finish
      · extract_lets t s1
        have hs1 : s1.memoryOk := h.update.modFirm
        exact hs1.setOwner.finish

theorem State.memoryOk.withTenant {s : State} {ch : Nat} {masks qs : List Word} {ok : Bool} {rest : Tenant → State} (h : s.memoryOk)
    (hrest : ∀ x, (rest x).memoryOk) :
    (s.withTenant ch masks qs ok rest).memoryOk := by
  unfold State.withTenant
  split
  · exact h.finish
  · split
    · exact hrest _
    · exact h.finish

theorem State.memoryOk.tenantClose {s : State} {ch : Nat} {qs : List Word} (h : s.memoryOk) : (s.tenantClose ch qs).memoryOk := by
  unfold State.tenantClose
  refine State.memoryOk.withTenant h (fun x => ?_)
  extract_lets jobs s1
  have hs1 : s1.memoryOk := foldl_memoryOk _ (fun _ _ h1 => h1.cancelJob) _ _ h
  exact hs1.startRevoke

theorem State.memoryOk.grantCmd {s : State} {ch : Nat} {qs : List Word} (h : s.memoryOk) : (s.grantCmd ch qs).memoryOk := by
  unfold State.grantCmd
  extract_lets lo hi
  refine State.memoryOk.withTenant h (fun x => ?_)
  split
  · exact h.finish
  · extract_lets r
    have hr : r.1.memoryOk := h.grantRange
    exact hr.finish

theorem State.memoryOk.revokeCmd {s : State} {ch : Nat} {qs : List Word} (h : s.memoryOk) : (s.revokeCmd ch qs).memoryOk := by
  unfold State.revokeCmd
  extract_lets lo hi
  refine State.memoryOk.withTenant h (fun x => ?_)
  split
  · exact h.finish
  · exact h.startRevoke

theorem State.memoryOk.rekeyCmd {s : State} {ch : Nat} {qs : List Word} (h : s.memoryOk) : (s.rekeyCmd ch qs).memoryOk := by
  unfold State.rekeyCmd
  refine State.memoryOk.withTenant h (fun x => ?_)
  split
  · exact h.finish
  · split
    · exact h.raisePeriod.finish
    · extract_lets r
      have hr : r.1.memoryOk := h.reportsOf
      exact hr.modTenant.schedule

theorem State.memoryOk.compactCmd {s : State} {ch : Nat} {qs : List Word} (h : s.memoryOk) : (s.compactCmd ch qs).memoryOk := by
  unfold State.compactCmd
  extract_lets n code
  split
  · exact h.finish
  next place _ =>
    split
    · exact h.finish
    · split
      · exact h.finish
      · exact h.finish
      · exact h
      · split
        · exact h.finish
        · split
          · exact h.finish
          · unfold place
            split
            · exact h.finish
            · exact h.startMove.scheduleFree
      · split
        · exact h.finish
        · split
          · exact h.finish
          · unfold place
            split
            · exact h.finish
            · exact h.startMove.scheduleFree

theorem State.memoryOk.inboundOpenCmd {s : State} {ch : Nat} {qs : List Word} (h : s.memoryOk) : (s.inboundOpenCmd ch qs).memoryOk := by
  unfold State.inboundOpenCmd
  split
  · split
    · exact h.finish
    · split
      · exact h.modFirm.finish
      · exact h.finish
  · extract_lets lo hi f dir
    refine State.memoryOk.withTenant h (fun x => ?_)
    extract_lets mine
    split
    · exact h.finish
    · split
      · exact h.finish
      · extract_lets w
        exact h.modFirm.finish

theorem State.memoryOk.placeSupervisors {s : State} {t : Tenant} {job : Nat} {d : Desc} {rbase : Nat} {args : List Word}
    {bounds : FMap Bound} (h : s.memoryOk) :
    (s.placeSupervisors t job d rbase args bounds).memoryOk := by
  unfold State.placeSupervisors
  refine foldl_memoryOk _ (fun s1 x h1 => ?_) _ _ h
  refine foldl_memoryOk _ (fun s2 x1 h2 => ?_) _ _ h1
  extract_lets c s3
  have hs3 : s3.memoryOk := h2.modFab
  split
  · exact hs3
  · exact hs3.setSlot.update

theorem State.memoryOk.openJob {s : State} {t : Tenant} {image : Word} {k : Kernel} {rbase : Nat} {args : List Word} {bounds : FMap Bound}
    (h : s.memoryOk) :
    (s.openJob t image k rbase args bounds).1.memoryOk := by
  unfold State.openJob
  extract_lets h1 d l j s1
  exact h.modWork.placeSupervisors

theorem State.memoryOk.jobOpenCmd {s : State} {ch : Nat} {qs : List Word} (h : s.memoryOk) : (s.jobOpenCmd ch qs).memoryOk := by
  unfold State.jobOpenCmd
  extract_lets argn rbase args
  split
  · exact h.finish
  · split
    · exact h.finish
    · split
      · exact h.finish
      · extract_lets room
        split
        · exact h.finish
        · split
          · exact h.finish
          · split
            · exact h.finish
            · split
              · exact h.finish
              · extract_lets r
                have hr : r.1.memoryOk := h.openJob
                exact hr.finish

theorem State.memoryOk.dropLeft {s : State} {job : Nat} (h : s.memoryOk) : (s.dropLeft job).memoryOk := by
  unfold State.dropLeft
  extract_lets carries sent s1 s2 s3 s4 deques msgs s5
  have hs1 : s1.memoryOk := h.dropTasks.returnOps
  have hs2 : s2.memoryOk := hs1.modWork
  have hs3 : s3.memoryOk := by
    unfold s3
    refine foldl_memoryOk _ (fun s6 x h1 => ?_) _ _ hs2
    split
    · exact h1.returnWeight
    · exact h1
  have hs4 : s4.memoryOk := by
    unfold s4
    refine foldl_memoryOk _ (fun s6 x h1 => ?_) _ _ hs3
    split
    · split
      · exact h1.returnWeight
      · exact h1
    · exact h1
  have hs5 : s5.memoryOk := hs4.modFab
  exact hs5.modWork

theorem State.memoryOk.endJob {s : State} {job : Nat} (h : s.memoryOk) : (s.endJob job).memoryOk :=
  h.dropLeft.modWork

theorem State.memoryOk.jobCloseCmd {s : State} {ch : Nat} {qs : List Word} (h : s.memoryOk) : (s.jobCloseCmd ch qs).memoryOk := by
  unfold State.jobCloseCmd
  split
  · exact h.finish
  · split
    · exact h.finish
    · extract_lets live
      split
      · exact h.finish
      · exact h.cancelJob.finish

theorem State.memoryOk.hostRead {s : State} {tag : Nat} {a : Word} {n : Nat} (h : s.memoryOk) : (s.hostRead tag a n).after.memoryOk := by
  unfold State.hostRead
  extract_lets keys who
  split
  · exact h
  · split
    next s1 _ e1 =>
      have hs1 : s1.memoryOk := Acc.memoryOk_congr e1 h.mayAccess
      exact State.readHome_memoryOk _ _ hs1
    · exact h.mayAccess

theorem State.memoryOk.launchDesc {s : State} {ch : Nat} {j : Job} {a : Word} (h : s.memoryOk) : (s.launchDesc ch j a).memoryOk := by
  unfold State.launchDesc
  extract_lets bad
  split
  · exact h.finish
  · split
    next e1 => exact Acc.memoryOk_congr e1 h.hostRead
    next e1 => exact (Acc.memoryOk_congr e1 h.hostRead).finish
    next s1 _ e1 =>
      have hs1 : s1.memoryOk := Acc.memoryOk_congr e1 h.hostRead
      split
      · exact hs1.finish
      · split
        · exact hs1.finish
        · split
          next s2 _ e4 =>
            have hs2 : s2.memoryOk := by
              refine Acc.memoryOk_congr e4 ?_
              split
              · exact hs1
              · exact hs1.hostRead
            exact hs2
          next s2 _ _ _ e4 =>
            have hs2 : s2.memoryOk := by
              refine Acc.memoryOk_congr e4 ?_
              split
              · exact hs1
              · exact hs1.hostRead
            exact hs2.finish
          next s2 _ e4 =>
            have hs2 : s2.memoryOk := by
              refine Acc.memoryOk_congr e4 ?_
              split
              · exact hs1
              · exact hs1.hostRead
            split
            · exact hs2.finish
            · extract_lets r
              have hr : r.1.memoryOk := hs2.addLaunch
              exact hr.finish

theorem State.memoryOk.submitActors {s : State} {job phase graph n order : Nat} {made : List (Nat × Nat)} {a : List (Nat × Kernel)}
    (h : s.memoryOk) :
    (s.submitActors job phase graph n order made a).1.memoryOk := by
  unfold State.submitActors
  split
  · exact h
  · split
    · exact h
    · extract_lets preds args r graph1 phase1
      have hr : r.1.memoryOk := h.addLaunch
      exact hr.submitActors

theorem State.memoryOk.launchRun {s : State} {ch : Nat} {j : Job} {image : Word} {nper : Nat} (h : s.memoryOk) :
    (s.launchRun ch j image nper).memoryOk := by
  unfold State.launchRun
  split
  · exact h.finish
  · split
    · exact h.finish
    · split
      · exact h.finish
      · extract_lets r hs run s1
        have hr : r.1.memoryOk := h.submitActors
        have hs1 : s1.memoryOk := hr
        exact hs1.update.modWork.finish

theorem execPeriodSubmit_memoryOk {run : Nat} {s : State} (h : s.memoryOk) : MemoryKept (execPeriodSubmit run s) := by
  unfold execPeriodSubmit
  refine memoryKept_next ?_
  split
  · exact h
  · extract_lets drop states
    split
    · exact h.modWork
    · split
      · split
        · exact h.modWork
        · extract_lets w
          have hw : w.1.memoryOk := h.submitActors
          exact hw.modWork
      · exact h

theorem State.memoryOk.launchCmd {s : State} {ch : Nat} {qs : List Word} (h : s.memoryOk) : (s.launchCmd ch qs).memoryOk := by
  unfold State.launchCmd
  extract_lets period a
  split
  · split
    · exact h.finish
    · split
      · exact h.finish
      · exact h.launchRun
  · split
    · exact h.finish
    · split
      · exact h.finish
      · exact h.launchDesc

theorem State.memoryOk.cancelMailbox {s : State} {ch : Nat} {qs : List Word} (h : s.memoryOk) : (s.cancelMailbox ch qs).memoryOk := by
  unfold State.cancelMailbox
  extract_lets level h1
  split
  · exact h.finish
  · split
    · exact h.finish
    · exact h.askCancel.finish

theorem State.memoryOk.quiesceCmd {s : State} {ch : Nat} {qs : List Word} (h : s.memoryOk) : (s.quiesceCmd ch qs).memoryOk := by
  unfold State.quiesceCmd
  split
  · exact h.finish
  · extract_lets p
    split
    · split
      · exact h.finish
      · exact h
    · exact h.finish

theorem State.memoryOk.attestCmd {s : State} {ch : Nat} {qs : List Word} (h : s.memoryOk) : (s.attestCmd ch qs).memoryOk := by
  unfold State.attestCmd
  refine State.memoryOk.withTenant h (fun x => ?_)
  split
  · exact h.finish
  · extract_lets msg
    exact h.finish

theorem State.memoryOk.report {s : State} {ch : Nat} {qs : List Word} {bs : List Byte} (h : s.memoryOk) : (s.report ch qs bs).memoryOk := by
  unfold State.report
  split
  · exact h.finish
  · exact h.toHost.finish

theorem State.memoryOk.logReadCmd {s : State} {ch : Nat} {qs : List Word} (h : s.memoryOk) : (s.logReadCmd ch qs).memoryOk := by
  unfold State.logReadCmd
  split
  · exact h.finish
  · extract_lets es s1 s2
    have hs1 : s1.memoryOk := h.toHost
    have hs2 : s2.memoryOk := hs1.modFirm
    exact hs2.finish

theorem State.memoryOk.faultLaunch {s : State} {id : LaunchId} (h : s.memoryOk) : (s.faultLaunch id).memoryOk := by
  unfold State.faultLaunch
  split
  · exact h
  · extract_lets begun s1 s2 s3
    have hs1 : s1.memoryOk := by
      unfold s1
      split
      · exact h.endPending
      · exact h
    have hs2 : s2.memoryOk := hs1.endSwapped
    have hs3 : s3.memoryOk := foldl_memoryOk _ (fun _ _ h1 => h1.endSlot) _ _ hs2
    split
    · split
      · exact hs3.retireLaunch
      · exact hs3
    · exact hs3

theorem State.memoryOk.resetTiles {s : State} {t : Tenant} (h : s.memoryOk) : (s.resetTiles t).memoryOk := by
  unfold State.resetTiles
  extract_lets mine s1 s2 s3
  have hs1 : s1.memoryOk := h.returnOps.returnQueues
  have hs2 : s2.memoryOk := hs1.modWork
  have hs3 : s3.memoryOk := hs2.modFab
  exact foldl_memoryOk _ (fun _ _ h1 => h1.emptyQueues.scrubTile) _ _ hs3

theorem State.memoryOk.resetImage {s : State} {i : SwapImage} (h : s.memoryOk) : (s.resetImage i).memoryOk :=
  h.returnImage.modWork

theorem State.memoryOk.partResetCmd {s : State} {ch : Nat} {qs : List Word} (h : s.memoryOk) : (s.partResetCmd ch qs).memoryOk := by
  unfold State.partResetCmd
  split
  · exact h.finish
  · split
    · exact h.finish
    · split
      · exact h.finish
      · extract_lets ids s1 s2 s3
        have hs1 : s1.memoryOk := foldl_memoryOk _ (fun _ _ h1 => h1.faultLaunch) _ _ h
        have hs2 : s2.memoryOk := by
          unfold s2
          split
          · exact hs1.resetImage
          · exact hs1.resetTiles
        have hs3 : s3.memoryOk := hs2.modTenant.modWork
        exact hs3.schedule.finish

theorem State.memoryOk.maintCmd {s : State} {ch : Nat} {qs : List Word} (h : s.memoryOk) : (s.maintCmd ch qs).memoryOk := by
  unfold State.maintCmd
  split
  · exact h.finish
  · split
    · exact h.finish
    · exact h.modFirm.finish

/-! ## Modules -/

theorem State.memoryOk.installImage {s : State} {t : Tenant} {i : Image} {place : Place} {bytes : List Byte} (h : s.memoryOk) :
    (s.installImage t i place bytes).memoryOk :=
  State.memoryOk_modStore (FMap.setMany_wf 0 _ _ _ (FMap.clear_wf 0 _ _ _ (foldl_memoryOk _ (fun _ _ h1 => h1.setExtent) _ _ h)))

/-- A function that seals a module keeps the canonical form. -/
def SealKeepsMemory (f : State → Nat → Tenant → List Byte → Tvas.Plan → State) : Prop :=
  ∀ s ch t src p, s.memoryOk → (f s ch t src p).memoryOk

theorem SealKeepsMemory.of_forall {f : State → Nat → Tenant → List Byte → Tvas.Plan → State}
    (h : ∀ s ch t src p, s.memoryOk → (f s ch t src p).memoryOk) : SealKeepsMemory f := h

/-- The function is unfolded before it is applied, in a step of its own (`id`): to compare it applied with its body, the kernel would
evaluate the run of free extents. -/
theorem sealKeepsMemory_sealModule : SealKeepsMemory State.sealModule := by
  delta State.sealModule
  refine id (SealKeepsMemory.of_forall ?_)
  intro s ch t src p h
  extract_lets count memory
  split
  · split
    · exact h.finish
    · extract_lets base body rec_ i s1 s2
      have hs1 : s1.memoryOk := h.update.installImage
      have hs2 : s2.memoryOk := by
        unfold s2
        split
        · exact hs1.checkReserve
        · exact hs1
      exact hs2.finish
  · exact h.finish

theorem State.memoryOk.sealModule {s : State} {ch : Nat} {t : Tenant} {src : List Byte} {p : Tvas.Plan} (h : s.memoryOk) :
    (s.sealModule ch t src p).memoryOk :=
  sealKeepsMemory_sealModule s ch t src p h

theorem State.memoryOk.moduleSubmit {s : State} {ch : Nat} {qs : List Word} (h : s.memoryOk) : (s.moduleSubmit ch qs).memoryOk := by
  unfold State.moduleSubmit
  refine State.memoryOk.withTenant h (fun x => ?_)
  extract_lets src
  split
  · exact h.finish
  · exact h.sealModule

/-! ## Firmware -/

theorem State.memoryOk.runCommand {s : State} {code ch : Nat} {qs : List Word} (h : s.memoryOk) : (s.runCommand code ch qs).memoryOk := by
  unfold State.runCommand
  split
  · exact h.report
  · exact h.report
  · split
    · exact h.finish
    · split
      · exact h.tenantOpen
      · exact h.tenantClose
      · exact h.grantCmd
      · exact h.revokeCmd
      · exact h.moduleSubmit
      · exact h.jobOpenCmd
      · exact h.jobCloseCmd
      · exact h.launchCmd
      · exact h.cancelMailbox
      · exact h.quiesceCmd
      · exact h.attestCmd
      · exact h.rekeyCmd
      · exact h.compactCmd
      · exact h.inboundOpenCmd
      · exact h.logReadCmd
      · exact h.partResetCmd
      · exact h.maintCmd
      · exact h.finish

theorem State.memoryOk.begin {s : State} {ch : Nat} (h : s.memoryOk) : (s.begin ch).memoryOk := by
  unfold State.begin
  extract_lets c
  split
  · exact h
  · extract_lets earlier
    split
    · exact h
    · split
      next a1 e2 =>
        have ha1 : a1.memoryOk := by
          refine Eq.subst (motive := Begun.memoryOk) e2 ?_
          split
          · exact h.setChan.finish
          · exact h.setChan.runCommand
        exact ha1
      next a1 e2 =>
        have ha1 : a1.memoryOk := by
          refine Eq.subst (motive := Begun.memoryOk) e2 ?_
          split
          · exact h.setChan.finish
          · exact h.setChan.runCommand
        exact ha1.setChan

theorem State.memoryOk.beginWaiting {s : State} (h : s.memoryOk) : s.beginWaiting.memoryOk :=
  foldl_memoryOk _ (fun _ _ h1 => h1.begin) _ _ h

theorem State.memoryOk.doorbell {s : State} {code : Nat} {cmd : Cmd} (h : s.memoryOk) : (s.doorbell code cmd).memoryOk := by
  unfold State.doorbell
  extract_lets c
  split
  · exact h
  · split
    · exact h.setChan
    · split
      · exact h.setChan.modFirm
      · exact h.setChan.modFirm.begin

theorem State.memoryOk.markClosed {s : State} {tag : Option Nat} (h : s.memoryOk) : (s.markClosed tag).memoryOk :=
  h.modFirm

theorem State.memoryOk.completing {s : State} {a : Accepted} {status : Nat} (h : s.memoryOk) : (s.completing a status).memoryOk := by
  unfold State.completing
  split
  · exact h
  · split
    · exact h.endJob
    · split
      · exact h.markClosed
      · exact h

theorem execCommandComplete_memoryOk {ch : Nat} {s : State} (h : s.memoryOk) : MemoryKept (execCommandComplete ch s) := by
  unfold execCommandComplete
  refine memoryKept_next ?_
  split
  · split
    · split
      · exact h.scheduleFree
      · extract_lets s1
        have hs1 : s1.memoryOk := h.completing.setChan
        exact hs1.modFirm.beginWaiting
    · exact h
  · exact h

/-! ## The end of a ck -/

theorem State.memoryOk.watchSweep {s : State} (h : s.memoryOk) : s.watchSweep.memoryOk := by
  unfold State.watchSweep
  refine foldl_memoryOk _ (fun s1 x h1 => ?_) _ _ h
  split
  · extract_lets now
    split
    · exact h1.completeSafe
    · exact h1
  · split
    · exact h1.completeSafe
    · exact h1
  · exact h1

theorem State.memoryOk.realignSweep {s : State} (h : s.memoryOk) : s.realignSweep.memoryOk := by
  unfold State.realignSweep
  refine foldl_memoryOk _ (fun s1 x h1 => ?_) _ _ h
  split
  · split
    · exact h1
    · split
      · exact h1.complete
      · exact h1.setSlot
  · exact h1

theorem State.memoryOk.retireSweep {s : State} (h : s.memoryOk) : s.retireSweep.memoryOk :=
  foldl_memoryOk _ (fun _ _ h1 => h1.settleRetired) _ _ h

theorem State.memoryOk.preemptSweep {s : State} (h : s.memoryOk) : s.preemptSweep.memoryOk := by
  unfold State.preemptSweep
  refine foldl_memoryOk _ (fun s1 x h1 => ?_) _ _ h
  split
  · exact h1.grantPreemption
  · exact h1

theorem State.memoryOk.planesSweep {s : State} (h : s.memoryOk) : s.planesSweep.memoryOk :=
  foldl_memoryOk _ (fun _ _ h1 => h1.planesChanged) _ _ h

theorem State.memoryOk.sweep {s : State} (h : s.memoryOk) : s.sweep.memoryOk :=
  h.realignSweep.watchSweep.bankSweep.planesSweep.dequeSweep.doomedSweep.retireSweep.takeStanding.preemptSweep.placementSweep
    |>.revokeSweep.swapSweep.inboundSweep.peerSweep.beginWaiting.hangSweep

theorem State.memoryOk.advance {s : State} (h : s.memoryOk) : s.advance.memoryOk := by
  unfold State.advance
  extract_lets t
  have ht : t.memoryOk := h.sweep
  exact ht.update

theorem State.memoryOk.goOn {s : State} {k : Nat} {sl : Slot} {i : Instr} (h : s.memoryOk) : (s.goOn k sl i).memoryOk := by
  unfold State.goOn
  split
  · split
    · exact h.parkFailed
    · dsimp only [Act.memoryOk]
      exact h.setSlot.update
  · exact h

theorem State.memoryOk.afterIssues {s : State} (h : s.memoryOk) : s.afterIssues.memoryOk := by
  unfold State.afterIssues
  split
  · exact h.update
  · split
    · exact h.settleLate
    · split
      · exact h.update
      · exact h.advance

theorem State.memoryOk.fetchIssuing {s t : State} (h : s.memoryOk) (e : s.fetchIssuing = .inr t) : t.memoryOk := by
  unfold State.fetchIssuing at e
  split at e
  · exact Sum.inr.inj e ▸ h
  next r e1 =>
    split at e
    · exact Sum.inr.inj e ▸ h.update
    next u e2 =>
      split at e
      next s1 e3 =>
        have hs1 : s1.memoryOk := Eq.subst (motive := Fetched.memoryOk) e3 h.fetch
        exact Sum.inr.inj e ▸ hs1.update
      · cases e
      next d _ e3 =>
        extract_lets s1 word trap at e
        have hs1 : s1.memoryOk := h.update
        have htrap : trap.memoryOk := State.takeTrap_memoryOk _ _ _ hs1
        split at e
        · split at e
          · exact Sum.inr.inj e ▸ htrap
          · exact Sum.inr.inj e ▸ hs1.migrate
        · exact Sum.inr.inj e ▸ htrap

theorem State.memoryOk.nextAct {s : State} (h : s.memoryOk) :
    s.nextAct.memoryOk := by
  unfold State.nextAct
  split
  · split
    · exact h
    next t e1 => exact h.fetchIssuing e1
  · split
    · exact h.goOn
    · split
      · exact h.update
      · split
        · exact h.update
        · exact h.afterIssues

end Sys2Proof.Machine

end

section
/-!
SUPPORT. The canonical form of the memory through the atomics, the vector accesses, and a whole step.
A lemma `State.memoryOk.f` says that `State.f` keeps the form, `f_memoryOk` that another function does.
-/
namespace Sys2Proof.Machine

open Sys2Proof

/-! ## Atomics -/

theorem State.memoryOk.atHome {s : State} {e : Env} {u : Ctx} {a : Word} {keys : List Nat} {write : Bool}
    {g : List Byte → Option (List Byte)} {rest : State → List Byte → Res} (h : s.memoryOk)
    (hrest : ∀ t bs, t.memoryOk → (rest t bs).state.memoryOk) :
    (s.atHome e u a keys write g rest).state.memoryOk := by
  unfold State.atHome
  refine State.memoryOk.afterDrain h (fun t h1 => ?_)
  split
  next e1 => exact Acc.memoryOk_congr e1 (State.performAtHome_memoryOk _ _ _ _ _ h1)
  next e1 => exact Acc.memoryOk_congr e1 (State.performAtHome_memoryOk _ _ _ _ _ h1)
  next s1 _ e1 =>
    have hs1 : s1.memoryOk := Acc.memoryOk_congr e1 (State.performAtHome_memoryOk _ _ _ _ _ h1)
    exact hrest _ _ hs1

theorem amoInstr_memoryOk {i : Instr} {fn : Nat} {s : State} (h : s.memoryOk) : MemoryKept (amoInstr i fn s) := by
  unfold amoInstr
  refine issueInstr_memoryOk (fun e u t h1 => ?_) h
  extract_lets ty n a x new discard
  split
  · exact h1
  · split
    · exact h1.postEntry
    · refine State.memoryOk.atHome h1 (fun t1 bs h2 => ?_)
      extract_lets r
      exact h2

theorem State.memoryOk.fenceRes {s : State} {e : Env} {u : Ctx} (h : s.memoryOk) : (s.fenceRes e u).state.memoryOk := by
  unfold State.fenceRes
  split
  · exact h
  · exact h.afterDrain (fun _ h1 => h1)

theorem execBarArrive_memoryOk {f : Fields} {s : State} (h : s.memoryOk) : MemoryKept (execBarArrive f s) := by
  unfold execBarArrive
  refine issueInstr_memoryOk (fun e u t h1 => ?_) h
  extract_lets a
  split
  · exact h1
  · exact h1.atHome (fun _ _ h2 => h2.wakeBarrier)

theorem execBarWait_memoryOk {f : Fields} {s : State} (h : s.memoryOk) : MemoryKept (execBarWait f s) := by
  unfold execBarWait
  refine issueInstr_memoryOk (fun e u t h1 => ?_) h
  extract_lets a
  split
  · exact h1
  · refine State.memoryOk.atHome h1 (fun t1 bs h2 => ?_)
    extract_lets g
    split <;> exact h2

theorem execBarGen_memoryOk {f : Fields} {s : State} (h : s.memoryOk) : MemoryKept (execBarGen f s) := by
  unfold execBarGen
  refine issueInstr_memoryOk (fun e u t h1 => ?_) h
  extract_lets a
  split
  · exact h1
  · exact h1.atHome (fun _ _ h2 => h2)

theorem execSemWait_memoryOk {f : Fields} {s : State} (h : s.memoryOk) : MemoryKept (execSemWait f s) := by
  unfold execSemWait
  refine issueInstr_memoryOk (fun e u t h1 => ?_) h
  extract_lets n c
  split
  · exact h1
  · exact h1.setSem

theorem execSemTry_memoryOk {f : Fields} {s : State} (h : s.memoryOk) : MemoryKept (execSemTry f s) := by
  unfold execSemTry
  refine issueInstr_memoryOk (fun e u t h1 => ?_) h
  extract_lets n c
  split
  · exact h1
  · exact h1.setSem

theorem execCntAdd_memoryOk {f : Fields} {s : State} (h : s.memoryOk) : MemoryKept (execCntAdd f s) := by
  unfold execCntAdd
  refine issueInstr_memoryOk (fun e u t h1 => ?_) h
  extract_lets a x
  split
  · exact h1
  · split
    · exact h1.postEntry
    · exact h1.atHome (fun _ _ h2 => h2.wakeCounter)

theorem execCntWait_memoryOk {f : Fields} {s : State} (h : s.memoryOk) : MemoryKept (execCntWait f s) := by
  unfold execCntWait
  refine issueInstr_memoryOk (fun e u t h1 => ?_) h
  extract_lets a limit
  split
  · exact h1
  · refine State.memoryOk.atHome h1 (fun t1 bs h2 => ?_)
    split <;> exact h2

theorem execCntRd_memoryOk {f : Fields} {s : State} (h : s.memoryOk) : MemoryKept (execCntRd f s) := by
  unfold execCntRd
  refine issueInstr_memoryOk (fun e u t h1 => ?_) h
  extract_lets a
  split
  · exact h1
  · exact h1.atHome (fun _ _ h2 => h2)

/-! ## Vector accesses -/

theorem State.memoryOk.readLane {s : State} {e : Env} {u : Ctx} {n i : Nat} {a : Word} (h : s.memoryOk) :
    (s.readLane e u n i a).memoryOk := by
  unfold State.readLane
  split
  · exact h
  · split
    · split
      next e3 => exact Acc.memoryOk_congr e3 h.mayAccess
      next e3 => exact Acc.memoryOk_congr e3 h.mayAccess
      next e3 => exact Acc.memoryOk_congr e3 h.mayAccess
    · split
      next e3 => exact Acc.memoryOk_congr e3 (State.performRead_memoryOk _ _ _ h)
      next e3 => exact Acc.memoryOk_congr e3 (State.performRead_memoryOk _ _ _ h)
      next e3 => exact Acc.memoryOk_congr e3 (State.performRead_memoryOk _ _ _ h)

theorem State.memoryOk.readLanes {s : State} {e : Env} {u : Ctx} {n : Nat} {a : List (Nat × Word)} (h : s.memoryOk) :
    (s.readLanes e u n a).memoryOk := by
  unfold State.readLanes
  split
  · exact h
  · split
    next s1 _ e1 =>
      have hs1 : s1.memoryOk := Eq.subst (motive := LaneRead.memoryOk) e1 h.readLane
      split
      next s2 _ e2 =>
        have hs2 : s2.memoryOk := Eq.subst (motive := LaneRead.memoryOk) e2 hs1.readLanes
        exact hs2
      · exact hs1.readLanes
    · exact h.readLane

theorem State.memoryOk.vecLoad {s : State} {e : Env} {u : Ctx} {needs : List TagNeed} {ls : List (Nat × Word)} (h : s.memoryOk) :
    (s.vecLoad e u needs ls).state.memoryOk := by
  unfold State.vecLoad
  extract_lets t n
  split
  · exact h
  · split
    · exact h
    · refine State.memoryOk.afterDrain h (fun t1 h1 => ?_)
      split
      next e3 => exact Eq.subst (motive := LaneRead.memoryOk) e3 h1.readLanes
      next e3 => exact Eq.subst (motive := LaneRead.memoryOk) e3 h1.readLanes
      next s1 _ e3 =>
        have hs1 : s1.memoryOk := Eq.subst (motive := LaneRead.memoryOk) e3 h1.readLanes
        extract_lets dsts devs
        unfold devs
        split
        · exact hs1
        · exact hs1.deviceRead

theorem State.memoryOk.vecStore {s : State} {e : Env} {u : Ctx} {needs : List TagNeed} {place : StoreCell → Nat} {ls : List (Nat × Word)}
    {lanes : Option (Nat × Nat)} (h : s.memoryOk) :
    (s.vecStore e u needs place ls lanes).state.memoryOk := by
  unfold State.vecStore
  extract_lets n tags
  split
  · exact h
  · split
    · exact h
    · split
      · exact h
      · split
        · exact h
        · exact h.postEntry

theorem execVst_memoryOk {f : Fields} {s : State} (h : s.memoryOk) : MemoryKept (execVst f s) := by
  unfold execVst
  refine issueInstr_memoryOk (fun e u t h1 => ?_) h
  extract_lets a n
  exact h1.vecStore

/-! ## Every instruction, event and command -/

theorem exec_memoryOk {i : Instr} {s : State} (h : s.memoryOk) : MemoryKept (exec i s) := by
  unfold exec
  split
  · exact scalarTyped_memoryOk h
  · exact scalarTyped_memoryOk h
  · exact scalarTyped_memoryOk h
  · exact scalarRR_memoryOk h
  · exact scalarRR_memoryOk h
  · exact scalarRR_memoryOk h
  · exact scalarRR_memoryOk h
  · exact scalarRR_memoryOk h
  · exact scalarRR_memoryOk h
  · exact scalarRR_memoryOk h
  · exact scalarRR_memoryOk h
  · exact scalarRR_memoryOk h
  · exact scalarRR_memoryOk h
  · exact scalarRR_memoryOk h
  · exact scalarRR_memoryOk h
  · exact scalarRR_memoryOk h
  · exact scalarRR_memoryOk h
  · exact scalarRR_memoryOk h
  · exact scalarRR_memoryOk h
  · exact scalarRR_memoryOk h
  · exact scalarRR_memoryOk h
  · exact scalarRR_memoryOk h
  · exact scalarRR_memoryOk h
  · exact scalarRR_memoryOk h
  · exact scalarRR_memoryOk h
  · exact scalarR_memoryOk h
  · exact scalarR_memoryOk h
  · exact scalarR_memoryOk h
  · exact scalarR_memoryOk h
  · exact execMov_memoryOk h
  · exact issueInstr_memoryOk (fun _ _ _ h1 => h1) h
  · exact issueInstr_memoryOk (fun _ _ _ h1 => h1) h
  · exact execBfi_memoryOk h
  · exact issueInstr_memoryOk (fun _ _ _ h1 => h1) h
  · exact guardOp_memoryOk h
  · exact guardOp_memoryOk h
  · exact guardOp_memoryOk h
  · exact guardOp_memoryOk h
  · exact guardOp_memoryOk h
  · exact scalarTyped_memoryOk h
  · exact scalarTyped_memoryOk h
  · exact scalarRI_memoryOk h
  · exact scalarRI_memoryOk h
  · exact scalarRI_memoryOk h
  · exact scalarRU_memoryOk h
  · exact scalarRU_memoryOk h
  · exact scalarRU_memoryOk h
  · exact scalarRU_memoryOk h
  · exact scalarRU_memoryOk h
  · exact issueInstr_memoryOk (fun _ _ _ h1 => h1) h
  · exact issueInstr_memoryOk (fun _ _ _ h1 => h1) h
  · exact execCvta_memoryOk h
  · exact execTsta_memoryOk h
  · exact execGeorng_memoryOk h
  · exact issueInstr_memoryOk (fun _ _ _ h1 => h1) h
  · exact issueInstr_memoryOk (fun _ _ _ h1 => h1) h
  · exact issueInstr_memoryOk (fun _ _ _ h1 => h1) h
  · exact issueInstr_memoryOk (fun _ _ _ h1 => h1) h
  · exact issueInstr_memoryOk (fun _ _ _ h1 => h1) h
  · exact issueInstr_memoryOk (fun _ _ _ h1 => h1) h
  · exact execLoop_memoryOk h
  · exact execRealign_memoryOk h
  · exact issueInstr_memoryOk (fun _ _ _ h1 => h1) h
  · exact execSafe_memoryOk h
  · exact execHalt_memoryOk h
  · exact execYield_memoryOk h
  · exact execSleep_memoryOk h
  · exact issueInstr_memoryOk (fun _ _ _ h1 => h1) h
  · exact execWrsr_memoryOk h
  · exact issueInstr_memoryOk (fun _ _ _ h1 => h1) h
  · exact execTret_memoryOk h
  · exact execTretRedirect_memoryOk h
  · exact issueInstr_memoryOk (fun _ _ _ h1 => h1) h
  · exact execChk_memoryOk h
  · exact issueInstr_memoryOk (fun _ _ _ h1 => h1.load) h
  · exact loadInstr_memoryOk h
  · exact loadInstr_memoryOk h
  · exact loadInstr_memoryOk h
  · exact loadInstr_memoryOk h
  · exact loadInstr_memoryOk h
  · exact loadInstr_memoryOk h
  · exact loadInstr_memoryOk h
  · exact storeInstr_memoryOk h
  · exact storeInstr_memoryOk h
  · exact storeInstr_memoryOk h
  · exact storeInstr_memoryOk h
  · exact issueInstr_memoryOk (fun _ _ _ h1 => h1.load) h
  · exact issueInstr_memoryOk (fun _ _ _ h1 => h1.storeBytes) h
  · exact execPf_memoryOk h
  · exact issueInstr_memoryOk (fun _ _ _ h1 => h1.cleanLine) h
  · exact issueInstr_memoryOk (fun _ _ _ h1 => h1.cleanLine) h
  · exact amoInstr_memoryOk h
  · exact amoInstr_memoryOk h
  · exact amoInstr_memoryOk h
  · exact amoInstr_memoryOk h
  · exact amoInstr_memoryOk h
  · exact amoInstr_memoryOk h
  · exact amoInstr_memoryOk h
  · exact amoInstr_memoryOk h
  · exact amoInstr_memoryOk h
  · exact amoInstr_memoryOk h
  · exact amoInstr_memoryOk h
  · exact amoInstr_memoryOk h
  · exact amoInstr_memoryOk h
  · exact amoInstr_memoryOk h
  · exact amoInstr_memoryOk h
  · exact issueInstr_memoryOk (fun _ _ _ h1 => h1.fenceRes) h
  · exact issueInstr_memoryOk (fun _ _ _ h1 => h1.fenceRes) h
  · exact execBarArrive_memoryOk h
  · exact execBarWait_memoryOk h
  · exact execBarGen_memoryOk h
  · exact issueInstr_memoryOk (fun _ _ _ h1 => h1.postEntry) h
  · exact execSemWait_memoryOk h
  · exact execSemTry_memoryOk h
  · exact execCntAdd_memoryOk h
  · exact execCntWait_memoryOk h
  · exact execCntRd_memoryOk h
  · exact execSpawn_memoryOk h
  · exact execSync_memoryOk h
  · exact execDone_memoryOk h
  · exact execPost_memoryOk h
  · exact execGrant_memoryOk h
  · exact execQuietWait_memoryOk h
  · exact execLnch_memoryOk h
  · exact execCancel_memoryOk h
  · exact execCtxStart_memoryOk h
  · exact execCtxReap_memoryOk h
  · exact execCtxPart_memoryOk h
  · exact execMsgBind_memoryOk h
  · exact execMsgRecv_memoryOk h
  · exact issueInstr_memoryOk (fun _ _ _ h1 => h1) h
  · exact execTokCancel_memoryOk h
  · exact issueInstr_memoryOk (fun _ _ _ h1 => h1.vecLoad) h
  · exact execVst_memoryOk h
  · exact issueInstr_memoryOk (fun _ _ _ h1 => h1.vecLoad) h
  · exact issueInstr_memoryOk (fun _ _ _ h1 => h1.vecStore) h
  · exact issueInstr_memoryOk (fun _ _ _ h1 => h1.vecLoad) h
  · exact issueInstr_memoryOk (fun _ _ _ h1 => h1.vecStore) h
  · exact vecInstr_memoryOk h
  · exact vecInstr_memoryOk h
  · exact execVins_memoryOk h
  · exact execVext_memoryOk h
  · exact vecArith_memoryOk h
  · exact vecArith_memoryOk h
  · exact vecArith_memoryOk h
  · exact vecArith_memoryOk h
  · exact vecArith_memoryOk h
  · exact vecArith_memoryOk h
  · exact vecArith_memoryOk h
  · exact vecArith_memoryOk h
  · exact vecArith_memoryOk h
  · exact vecArith_memoryOk h
  · exact vecArith_memoryOk h
  · exact vecArith_memoryOk h
  · exact vecArith_memoryOk h
  · exact laneWise_memoryOk h
  · exact laneWise_memoryOk h
  · exact laneWise_memoryOk h
  · exact laneWise_memoryOk h
  · exact vecInstr_memoryOk h
  · exact vecInstr_memoryOk h
  · exact vecLogic_memoryOk h
  · exact vecLogic_memoryOk h
  · exact vecLogic_memoryOk h
  · exact vecLogic_memoryOk h
  · exact vecShift_memoryOk h
  · exact vecShift_memoryOk h
  · exact vecShift_memoryOk h
  · exact vecInstr_memoryOk h
  · exact laneWise_memoryOk h
  · exact laneWise_memoryOk h
  · exact vecPermute_memoryOk h
  · exact vecPermute_memoryOk h
  · exact vecPermute_memoryOk h
  · exact vecInstr_memoryOk h
  · exact vecScan_memoryOk h
  · exact vecScan_memoryOk h
  · exact vecInstr_memoryOk h
  · exact vecInstr_memoryOk h
  · exact vecInstr_memoryOk h
  · exact vecInstr_memoryOk h
  · exact vecInstr_memoryOk h
  · exact vecInstr_memoryOk h
  · exact vecInstr_memoryOk h
  · exact vecInstr_memoryOk h
  · exact vecInstr_memoryOk h
  · exact execMwld_memoryOk h
  · exact execMwsc_memoryOk h
  · exact issueInstr_memoryOk (fun _ _ _ h1 => h1.postPort) h
  · exact macInstr_memoryOk h
  · exact macInstr_memoryOk h
  · exact execMclr_memoryOk h
  · exact execMcsum_memoryOk h
  · exact execSsmCfg_memoryOk h
  · exact execSsmRun_memoryOk h
  · exact execSsmSt_memoryOk h
  · exact execSsmStat_memoryOk h
  · exact copyInstr_memoryOk h
  · exact execCpSlab_memoryOk h
  · exact copyInstr_memoryOk h
  · exact copyInstr_memoryOk h
  · exact copyInstr_memoryOk h
  · exact execSmerge_memoryOk h
  · exact execWinBind_memoryOk h
  · exact execWinMark_memoryOk h
  · exact issueInstr_memoryOk (fun _ _ _ h1 => h1.unbindWindow) h
  · exact execWinQ_memoryOk h
  · exact collInstr_memoryOk h
  · exact collInstr_memoryOk h
  · exact collInstr_memoryOk h
  · exact execMsgSend_memoryOk h
  · exact execBarrelIssue_memoryOk h
  · exact execMigrationTransferEnd_memoryOk h
  · exact execMigrationQueueGrant_memoryOk h
  · exact execMemoryReply_memoryOk h
  · exact memoryKept_next h.performOne
  · exact memoryKept_next h.performOne
  · exact execCopyBurst_memoryOk h
  · exact execWindowFillEnd_memoryOk h
  · exact execCollectiveComplete_memoryOk h
  · exact execMessageQueued_memoryOk h
  · exact execIcacheFill_memoryOk h
  · exact execMmacWrite_memoryOk h
  · exact memoryKept_next h.loadPlane
  · exact execMwswTakesEffect_memoryOk h
  · exact execSsmChunkCommit_memoryOk h
  · exact execGrantAnswer_memoryOk h
  · exact execRootReturn_memoryOk h
  · exact execRootBorrow_memoryOk h
  · exact execIdleWorkerRound_memoryOk h
  · exact execQueueSegmentAccept_memoryOk h
  · exact execLaunchPlacement_memoryOk h
  · exact execSpillComplete_memoryOk h
  · exact execUnitResume_memoryOk h
  · exact execPartitionSwap_memoryOk h
  · exact execExtentEviction_memoryOk h
  · exact execExtentMoveEnd_memoryOk h
  · exact execResealCopyArrival_memoryOk h
  · exact execRekeySweep_memoryOk h
  · exact execPeriodSubmit_memoryOk h
  · exact execCommandComplete_memoryOk h
  · exact execRekeyPrepare_memoryOk h
  · exact execRekeySwitch_memoryOk h
  · exact memoryKept_next h.completeDue
  · exact memoryKept_next h.completeDue
  · exact execRevokeDeadline_memoryOk h
  · exact execSwapDeadline_memoryOk h
  · exact execCxlRetrainTimeout_memoryOk h
  · exact memoryKept_next h.failDevregs
  · exact execTimeSliceExpiry_memoryOk h
  · exact execRetentionExitComplete_memoryOk h
  · exact execCarrRouteMoveEnd_memoryOk h
  · exact execPeerUnreachableTimeout_memoryOk h
  · exact execStartUpWatchdog_memoryOk h
  · exact execHangDeclared_memoryOk h
  · exact execPreemptionGrant_memoryOk h
  · exact execPlacementRequestServed_memoryOk h
  · exact execL1WriteBack_memoryOk h
  · exact execRetentionEntry_memoryOk h
  · exact execSoftError_memoryOk h
  · exact execInboundRequest_memoryOk h
  · exact execDevregReadCompletion_memoryOk h
  · exact execCxlPortDown_memoryOk h
  · exact execCarrLinkFailure_memoryOk h
  · exact execHostLinkDown_memoryOk h
  · exact execThermalSample_memoryOk h
  · exact execPowerOn_memoryOk h
  · exact execHostReset_memoryOk h
  · exact memoryKept_next State.cleared_memoryOk
  · exact memoryKept_next h.doorbell
  · exact memoryKept_next h.doorbell
  · exact memoryKept_next h.doorbell
  · exact memoryKept_next h.doorbell
  · exact memoryKept_next h.doorbell
  · exact memoryKept_next h.doorbell
  · exact memoryKept_next h.doorbell
  · exact memoryKept_next h.doorbell
  · exact memoryKept_next h.doorbell
  · exact memoryKept_next h.doorbell
  · exact memoryKept_next h.doorbell
  · exact memoryKept_next h.doorbell
  · exact memoryKept_next h.doorbell
  · exact memoryKept_next h.doorbell
  · exact memoryKept_next h.doorbell
  · exact memoryKept_next h.doorbell
  · exact memoryKept_next h.doorbell
  · exact memoryKept_next h.doorbell
  · exact memoryKept_next h.doorbell
  · exact memoryKept_next h.doorbell
  · exact execCxlPortRetrained_memoryOk h
  · exact execCarrLinkRequest_memoryOk h
  · exact execPeerKeyRequest_memoryOk h
  · exact execIdeKm_memoryOk h

/-! ## A step -/

theorem step_memoryOk {s : State} (h : s.memoryOk) : MemoryKept (step s) := by
  unfold step
  split
  next a1 e =>
    have ha1 : a1.memoryOk := Eq.subst (motive := Act.memoryOk) e h.nextAct
    exact exec_memoryOk ha1
  next a e =>
    have ha : a.memoryOk := Eq.subst (motive := Act.memoryOk) e h.nextAct
    exact memoryKept_next ha

end Sys2Proof.Machine

open Sys2Proof Sys2Proof.Machine

/-- Settles O60: every function of a step keeps the canonical form, each shown from those it calls. -/
theorem stepKeepsMemoryCanonical : Obligations.StepKeepsMemoryCanonical := by
  unfold Obligations.StepKeepsMemoryCanonical
  exact fun s t h e => step_memoryOk h t e

end
